-- ==== Sys2Proof/Word.lean ====
section
/-! DEFINITION. The word types of the model and the sparse table that holds every addressed thing of the module
(spec/00_scope.md R11: bit 0 is the least significant bit, multi-byte values are little-endian). -/

namespace Sys2Proof

/-- A byte of memory. -/
abbrev Byte := BitVec 8

/-- A value of 16, 32, 64, 128 or 256 bits, as the register tables give them. -/
abbrev W16 := BitVec 16
abbrev W32 := BitVec 32
abbrev W64 := BitVec 64
abbrev W128 := BitVec 128
abbrev W256 := BitVec 256
abbrev W384 := BitVec 384

/-- A sparse table: keys with their values, keys strictly rising, and no entry equal to the value an unlisted key
has. Equal tables are equal data. -/
abbrev Tab (α : Type) := List (Nat × α)

/-- Field `[hi:lo]` of a word as a number, the notation of spec/00_scope.md R11. -/
def fld {n : Nat} (w : BitVec n) (hi lo : Nat) : Nat := (w.toNat / 2 ^ lo) % 2 ^ (hi + 1 - lo)

end Sys2Proof
end

