-- ==== Sys2Proof/Syntax.lean ====
section
/-! DEFINITION. The commands of the module, one constructor of `Instr` for each row of spec/opcode_table.json, and the
operands they carry. An issue row carries the stream that issues and the 128-bit word the instruction port delivered
(06 R167); an event row carries what the spec says the event brings with it. -/

namespace Sys2Proof

/-- The three streams of a core (05 R136). -/
inductive Pass where
  | fwd | bwd | upd
  deriving DecidableEq, Repr

/-- The engines of Table 5-2, in the order of their index. -/
inductive Engine where
  | str | mx | vec | pack | xch | upd | syn
  deriving DecidableEq, Repr

/-- A core by die and logical number (01 R32). -/
structure CoreId where
  die : Nat
  core : Nat
  deriving DecidableEq, Repr

/-- A stream of a core (05 R136). -/
structure StreamId where
  die : Nat
  core : Nat
  pass : Pass
  deriving DecidableEq, Repr

/-- A physical upset that meets an engine command (log 10, DESIGN CHOICE). -/
inductive PhysFault where
  /-- symbol `sym` of the codeword at plain address `cw` is changed by `x` (07 R216). -/
  | flip (cw sym : Nat) (x : Byte)
  /-- what this command writes to the codeword at `cw` arrives with bad parity (07 R221). -/
  | parityWrite (cw : Nat)
  /-- the byte read at `addr` reaches the engine's input with bad parity (07 R221). -/
  | parityInput (addr : Nat)
  /-- byte `byte` of row `row`, counted from the first row that a chained MMA takes, reaches Unpack with bad parity; the scale bytes
  of a row follow its elements (04 R133, 07 R221). -/
  | chainInput (row byte : Nat)
  /-- symbol `sym` of codeword `k` of a bank of a core's LAM is changed by `x`: codeword 32 i + j holds long word (i, j), codeword
  4096 + m the side bits of long words 8 m to 8 m + 7 (07 R201). `core` is die x 128 + core. -/
  | lam (core bank k sym : Nat) (x : Byte)
  deriving DecidableEq, Repr

/-- A fault of the matrix and pack engines that meets a drain (04 R127, 07 R220; log 10, DESIGN CHOICE). -/
inductive Upset where
  /-- bits of the resolved long word (row, col), its guard bits included, are changed: 280 bits in normal mode, 536 in wide mode. -/
  | word (row col : Nat) (mask : BitVec 536)
  /-- the Check stage's residue unit is off by `e` in the sum of row `k`, or of column `k`. -/
  | residue (byRow : Bool) (k e : Nat)
  /-- what the drain writes to the codeword at `cw` arrives with bad parity (07 R221). -/
  | parity (cw : Nat)
  deriving DecidableEq, Repr

/-- A chained row as it travels on the mesh (04 R133). -/
structure ChainRow where
  epoch : W16
  bytes : List Byte
  scales : List Byte
  deriving DecidableEq, Repr

/-- An exchange packet: the header of Table 9-4 and the body that follows it (09 R273). -/
structure XPkt where
  kind : Nat
  retry : Byte
  srank : Nat
  step : W32
  sig : W32
  coll : Nat
  anchor : W16
  pos : W64
  csum : W64
  body : List Byte
  deriving DecidableEq, Repr

/-- The 32-byte step report and Retract message of Table 9-3. -/
structure StepMsg where
  job : W64
  step : W64
  rank : Nat
  part : Nat
  retry : Byte
  status : Byte
  scaleEv : W16
  lastEv : W64
  deriving DecidableEq, Repr

/-- The loss-scale state of a job: the fields of Table 10-9 (10 R305). -/
structure LsState where
  clean : W16
  sexp : Byte
  disc : W16
  floor : W16
  deriving DecidableEq, Repr

/-- A SCALE record's values (10 R306); exponents are two's complement bytes. -/
structure ScaleRec where
  s0 : Byte
  smin : Byte
  smax : Byte
  up : Byte
  window : W16
  deriving DecidableEq, Repr

/-- A digest record of a drained tile (04 R132, 09 R291). -/
structure DigestRec where
  part : Nat
  tid : W16
  row : W32
  col : W32
  ticket : W32
  rung : BitVec 4
  wide : Bool
  attempt : Byte
  opid : Byte
  step : W64
  retry : Byte
  digest : W64
  failed : Bool
  unit : W32
  rows : Byte := 0
  cols : Byte := 0
  deriving DecidableEq, Repr

/-- A Capsule record: type, partition, step and body (12 R361). -/
structure CapRec where
  type : Byte
  part : Byte
  step : W64
  body : List Byte
  deriving DecidableEq, Repr

/-- The fields of a session message's header that every message has alike: MAGIC, the reserved bytes and LEN (13 Table 13-4). -/
structure MsgHead where
  magic : W32 := 0x4D475431
  resv : W16 := 0
  len : W32 := 0
  deriving DecidableEq, Repr

/-- The header of a session COMMAND: session, message number, whether its TAG verifies under the session key, the rest of the header, and a
command code that Table 13-5 does not list, where the message has one in place of its row's (13 R385, R387; log 13, DESIGN CHOICE). -/
structure CmdHdr where
  sid : W32
  seq : W64
  authentic : Bool
  head : MsgHead := {}
  code : Option Byte := none
  deriving DecidableEq, Repr

/-- What a HELLO and a RESPONSE carry: 32 bytes, under their header (13 R384). -/
structure Body32 where
  bytes : W256
  head : MsgHead := {}
  deriving DecidableEq, Repr

/-- A chunk of a structure image, and whether it is the last (13 Table 13-5; log 154, DESIGN CHOICE). -/
structure LoadChunk where
  bytes : List Byte
  last : Bool := true
  deriving DecidableEq, Repr

/-- The three session transports (13 R383). -/
inductive Transport where
  | tcp (conn : Nat)
  | pcie (half : Nat)
  | uart
  deriving DecidableEq, Repr

/-- An entry of the hive map (11 R329): a position is rack x 32 + slot, a peer a position and a port. -/
structure HiveEntry where
  rank : Nat
  pos : Nat
  serial : W64
  keyDig : W384
  peers : List (Option (Nat × Nat))
  deriving DecidableEq, Repr

/-- The hive map (11 R329). -/
structure HiveMap where
  hive : W64
  entries : List HiveEntry
  deriving DecidableEq, Repr

/-- A module's neighbour report: its serial, its strap position and role, and the peer serial and port of each port (11 R329). -/
structure NbrReport where
  serial : W64
  strapPos : Nat
  elect : Bool
  peers : List (Option (W64 × Nat))
  /-- LPORT and bundle tag of each port, and the ports in service under an ACCEPT record (11 R322, R330, R333; log 24, DESIGN CHOICE) -/
  lports : List Byte := []
  tags : List Byte := []
  accs : List Nat := []
  deriving DecidableEq, Repr

/-- A discovery beacon (Table 11-6) with its stored CRC (11 R325). -/
structure Beacon where
  serial : W64
  hive : W64
  port : Nat
  vmaj : Byte
  vmin : Byte
  vlow : Byte
  rank : W16
  role : Byte
  posr : Byte
  poss : Byte
  btag : Byte
  best : W64
  mgr : W64
  crc : W32
  deriving DecidableEq, Repr

/-- An end-to-end frame (Table 11-2). `hcrc` is the stored hop CRC. -/
structure Frame where
  lseq : BitVec 48
  ttl : Byte
  hflags : Byte
  cls : Byte
  gen : Byte
  srank : W16
  drank : W16
  jslot : Byte
  ctr : W64
  payload : List Byte
  tag : W128
  hcrc : W32
  deriving DecidableEq, Repr

/-- What the acting manager holds of a job, as an elect module receives it (11 R339; log 29, DESIGN CHOICE): the loss-scale state, the step,
retry and verdict, the modules with their partitions, and the SCALE record in force. -/
structure JobState where
  job : W64
  ls : LsState
  step : W64
  retry : Byte
  verdict : BitVec 2
  members : List (Nat × Nat)
  rec_ : ScaleRec
  deriving DecidableEq, Repr

/-- A verdict of placement for a port: whether it is consistent, and the peer the map expects, as position and port (11 R329). -/
structure PortVerdict where
  port : Nat
  ok : Bool
  want : Option (Nat × Nat)
  deriving DecidableEq, Repr

/-- How placement has located a module (11 R329). -/
inductive Locate where
  | serial | discovery | straps
  deriving DecidableEq, Repr

/-- The place of a module: its rank, its position, and how it was located (11 R329; log 85, DEDUCED). -/
structure Place where
  rank : Nat
  pos : Nat
  how : Locate
  deriving DecidableEq, Repr

/-- A management message between modules (11 R330, R335, R339; 09 R265, R267). -/
inductive MgmtMsg where
  | step (m : StepMsg)
  | gate (job : W64) (value : W32) (ls : LsState)
  | heartbeat
  | leadQuery (rank half : Nat)
  | leadRuling (half : Nat)
  | scaleRec (job : W64) (rank part : Nat) (r : ScaleRec)
  | neighbour (r : NbrReport)
  | placement (place : Place) (verdicts : List PortVerdict)
  | route (table : List (Nat × Nat))
  | offer (hive mgrSerial : W64) (qm cert : List Byte) (sig : BitVec 768)
  | accept (qc cert : List Byte) (wrapped : BitVec 320) (sig : BitVec 768)
  | jobKey (job : W64) (jslot : Nat) (wrapped : BitVec 320)
  | hiveKey (hive : W64) (wrapped : BitVec 320)
  | state (jobs : List JobState) (wrapped : BitVec 320) (members : List (Nat × W64 × BitVec 320))
  | bringJobStop (job : W64) (cause : Byte)
  /-- a module asks the manager for the twin mapping of a partition, and the manager orders it (12 Table 12-4) -/
  | twin (part half : Nat)
  | twinSwitch (part half : Nat)
  | admitted (rank : Nat) (serial : W64)
  /-- a module asks for the key of a job whose image names these ranks, and a job's slot becomes free (11 R335, 13 R382) -/
  | keyAsk (job : W64) (ranks : List Nat)
  | slotFree (job : W64)
  /-- an event of the module that the manager hears of before the module's optics go off (14 R406) -/
  | report (cls : Byte) (detail : W64)
  /-- message `id` has arrived; of the module with this serial where the serial is not 0 (11 R330) -/
  | ack (serial : W64) (id : Nat)
  deriving DecidableEq, Repr

/-- What start-up finds on each half (14 R402, R403, 15 R422): rails, self-check, and the straps it latches. -/
structure StartHalf where
  railOk : Bool
  selfOk : Bool
  failUnit : Byte
  role : BitVec 2
  rack : BitVec 6
  slot : BitVec 5
  /-- the heartbeat paths that reach the half at step 6: sideband and pin loop (14 R405) -/
  sbOk : Bool := true
  pinOk : Bool := true
  deriving DecidableEq, Repr

/-- A start-up step that is late, with what the steps before it find (14 R403). -/
structure LateStep where
  step : Nat
  w : StartHalf
  e : StartHalf
  deriving DecidableEq, Repr

/-- The samples of a compute die: its nine row sensors and the sensors of its two stacks, each signed in 0.125 °C (14 R401). -/
structure DieTemps where
  rows : List W16
  hbm : List W16
  deriving DecidableEq, Repr

/-- The input power of each half in W, averaged over 10 ms (14 R400, R410; log 83, DEDUCED). -/
structure InputPower where
  west : W16
  east : W16
  deriving DecidableEq, Repr

/-- A firmware image as FWWRITE brings it (13 R390). -/
structure FwImage where
  version : W16
  svn : Byte
  image : List Byte
  cert : List Byte
  sig : BitVec 768
  deriving DecidableEq, Repr

/-- A packet as it reaches an exchange engine, with the upsets that meet what it writes (09 R272; log 10, DESIGN CHOICE). -/
structure Arrival where
  pkt : XPkt
  faults : List PhysFault := []
  deriving DecidableEq, Repr

/-- The bytes of a staging write, with the upsets that meet a staging access (07 R227; log 10, DESIGN CHOICE). -/
structure HostData where
  bytes : List Byte
  faults : List PhysFault := []
  deriving DecidableEq, Repr

/-- Which of the operations on their way to a control die arrives, and the upsets that meet what it returns to its core (09 R260, 06 R191; log
10, DESIGN CHOICE). -/
structure NetPick where
  index : Nat
  faults : List PhysFault := []
  deriving DecidableEq, Repr

/-- What the FEC of a port makes of a frame: a codeword it could not correct, and how many it corrected (11 R319, R341). -/
structure Fec where
  bad : Bool
  fixed : Nat := 0
  deriving DecidableEq, Repr

/-- THE COMMANDS: one constructor for each row of spec/opcode_table.json. -/
inductive Instr where
  -- CTL, executed by the sequencer in the issue cycle (06 R176)
  | ctlNop (at_ : StreamId) (w : W128)
  | ctlIdle (at_ : StreamId) (w : W128)
  | ctlSeta (at_ : StreamId) (w : W128)
  | ctlAdda (at_ : StreamId) (w : W128)
  | ctlSets (at_ : StreamId) (w : W128)
  | ctlSetc (at_ : StreamId) (w : W128)
  | ctlAddc (at_ : StreamId) (w : W128)
  | ctlLoop (at_ : StreamId) (w : W128)
  | ctlBr (at_ : StreamId) (w : W128)
  | ctlBrc (at_ : StreamId) (w : W128)
  | ctlBrq (at_ : StreamId) (w : W128)
  | ctlLdshape (at_ : StreamId) (w : W128)
  | ctlStep (at_ : StreamId) (w : W128)
  | ctlOpbegin (at_ : StreamId) (w : W128)
  | ctlOpend (at_ : StreamId) (w : W128)
  | ctlHalt (at_ : StreamId) (w : W128)
  -- engine instructions, issued into a queue (05 R140)
  | strmCopy (at_ : StreamId) (w : W128)
  | strmFill (at_ : StreamId) (w : W128)
  | mma (at_ : StreamId) (w : W128)
  | pack (at_ : StreamId) (w : W128)
  | vecFma (at_ : StreamId) (w : W128)
  | vecAdd (at_ : StreamId) (w : W128)
  | vecMul (at_ : StreamId) (w : W128)
  | vecMax (at_ : StreamId) (w : W128)
  | vecMin (at_ : StreamId) (w : W128)
  | vecCvt (at_ : StreamId) (w : W128)
  | vecNeg (at_ : StreamId) (w : W128)
  | vecAbs (at_ : StreamId) (w : W128)
  | vecAcc (at_ : StreamId) (w : W128)
  | vecSumsq (at_ : StreamId) (w : W128)
  | vecMoments (at_ : StreamId) (w : W128)
  | vecLwadd (at_ : StreamId) (w : W128)
  | vecLwld (at_ : StreamId) (w : W128)
  | vecLwst (at_ : StreamId) (w : W128)
  | vecLzero (at_ : StreamId) (w : W128)
  | vecLneg (at_ : StreamId) (w : W128)
  | vecLred (at_ : StreamId) (w : W128)
  | vecReanchor (at_ : StreamId) (w : W128)
  | vecFinish (at_ : StreamId) (w : W128)
  | xchPut (at_ : StreamId) (w : W128)
  | xchMcast (at_ : StreamId) (w : W128)
  | xchReduce (at_ : StreamId) (w : W128)
  | xchGather (at_ : StreamId) (w : W128)
  | xchAllred (at_ : StreamId) (w : W128)
  | upd (at_ : StreamId) (w : W128)
  | synWait (at_ : StreamId) (w : W128)
  | synSet (at_ : StreamId) (w : W128)
  | synAdd (at_ : StreamId) (w : W128)
  | synFadd (at_ : StreamId) (w : W128)
  | synOpld (at_ : StreamId) (w : W128)
  | synGwait (at_ : StreamId) (w : W128)
  -- engines of a core
  | instructionStart (c : CoreId) (e : Engine) (faults : List PhysFault)
  | instructionComplete (at_ : StreamId) (e : Engine)
  | drainStart (c : CoreId) (bank : Nat) (upsets : List Upset)
  | tileVerdict (c : CoreId) (bank : Nat)
  | chainRow (c : CoreId) (row : ChainRow)
  | chainVerdict (at_ : StreamId) (epoch : W16) (again : Option (BitVec 4 × Bool))
  | operationEvaluation (at_ : StreamId)
  | operationDecision (at_ : StreamId)
  | syncOperation (half : Nat) (pick : NetPick)
  | coreGate (c : CoreId)
  | updStart (c : CoreId) (faults : List PhysFault)
  -- memory
  | mergeWindowExpiry (c : CoreId)
  | descriptorFetch (die ch : Nat)
  | descriptorComplete (die ch : Nat) (faults : List PhysFault)
  | patrolScrub (die : Nat) (faults : List PhysFault)
  | stagingAccess (half : Nat) (write : Bool) (addr : W64) (len : Nat) (data : HostData)
  -- packets of the exchange engines; `part` is the partition the link session names (09 R275)
  | putPacket (die part : Nat) (p : Arrival)
  | contrib (die part : Nat) (p : Arrival)
  | result (die part : Nat) (p : Arrival)
  | mcastPacket (die part : Nat) (p : Arrival)
  | mirror (die part : Nat) (p : XPkt)
  | credit (die part : Nat) (p : XPkt)
  | swarmAck (die part : Nat) (p : XPkt)
  | drop (die part : Nat) (p : XPkt)
  | repairreq (die part : Nat) (p : XPkt)
  | repairnak (die part : Nat) (p : XPkt)
  | laggardTimeout (die part coll rank : Nat)
  | collectiveTimeout (die part coll chunk : Nat)
  | repairTimeout (die part coll chunk : Nat)
  -- steps
  | duplicateTile (r : DigestRec)
  | stepReport (part : Nat)
  | stepReportArrival (m : StepMsg)
  | retractArrival (m : StepMsg)
  | gateWrite (job : W64) (value : W32) (ls : LsState)
  | retractHandling (m : StepMsg) (markParity : List StreamId)
  | retractRelease (part : Nat)
  -- events, recorder, watchdog
  | eventRecordAccept (temp volt : W16)
  | recordHandling (half : Nat)
  | capsuleRecord (half : Nat) (drained : Bool)
  | deathwatch (part : Nat)
  -- residency, load
  | quantumExpiry (group : Nat)
  | switchCommand (part : Nat) (time : W64)
  | twinSwitch (part half : Nat)
  | load (m : CmdHdr) (chunk : LoadChunk)
  | loadApply
  -- session commands (Table 13-5)
  | ident (m : CmdHdr)
  | attest (m : CmdHdr) (nonce : W256)
  | rdreg (m : CmdHdr) (addr : W64)
  | wrreg (m : CmdHdr) (addr : W64) (value : W64)
  | lnkCfgWrite (port : Nat) (value : W32)
  | scanctlGo (m : CmdHdr) (value : W32)
  | svclatClear (m : CmdHdr) (half : Nat) (bits : W32)
  | release (m : CmdHdr) (part : Nat)
  | subscribe (m : CmdHdr) (from_ : W64)
  | evread (m : CmdHdr) (from_ upto : W64)
  | capread (m : CmdHdr) (part : Nat) (from_ upto : W64)
  | capunpin (m : CmdHdr) (part : Nat) (step : W64)
  | hivemap (m : CmdHdr) (map : HiveMap)
  | hivejoin (m : CmdHdr) (hive : W64) (keys : List W384)
  | health (m : CmdHdr)
  | slotset (m : CmdHdr) (slot : Nat) (wrappedKey : BitVec 320) (role : Nat)
  | slotclear (m : CmdHdr) (slot : Nat)
  | slotinit (m : CmdHdr) (qc : List Byte) (wrappedKey : BitVec 320)
  | fwwrite (m : CmdHdr) (img : FwImage)
  | fwactivate (m : CmdHdr) (image : Nat)
  | svnFloorRaise
  | lifecycle (m : CmdHdr) (target : Nat) (auth : BitVec 768)
  | provision (idKey : W384) (wrapKey : W256) (serial : W64) (cert : List Byte)
  | reset (m : CmdHdr)
  | power (m : CmdHdr) (target : Byte) (cap : W16) (opp : Byte)
  | scan (m : CmdHdr) (die pos : Nat)
  | spareScanTimer (die pos : Nat)
  | scanComplete (die pos : Nat) (pass : Bool) (pattern : W16)
  | replay (m : CmdHdr) (job : W64) (s0 s1 : W64) (records : List CapRec)
  | unfreeze (m : CmdHdr) (part : Nat)
  -- sessions
  | hello (t : Transport) (slot : Nat) (nc : Body32)
  | response (sid : W32) (mac : Body32)
  | close (m : CmdHdr)
  | nop (m : CmdHdr) (upto : W64)
  | sessionTimeout (sid : W32)
  | slotLockoutExpiry (slot : Nat)
  -- supply, clocks, service pins
  | supplyRise (fwVer : W32)
  | startUp (west east : StartHalf)
  | startTimeout (late : LateStep)
  | undervoltageReset
  | supplyFault (mv : W16)
  | thermTrip (sensor : Byte) (reading : W16)
  | resetLAssert (half : Nat)
  | resetLRelease (half : Nat)
  | pwrEnAssert (half : Nat)
  | pwrEnDeassert (half : Nat)
  | coolantOkAssert (half : Nat)
  | coolantOkDeassert (half : Nat)
  | coolantShutdown
  | fireflyWatchdog (half : Nat)
  | aoRefclkLoss (half : Nat) (freq : W32)
  | strapChange (half : Nat)
  | perstL (half : Nat)
  | capThrottle (avg : InputPower) (hottest : Nat) (under100ms : Bool)
  | thermalThrottle (die : Nat) (temps : DieTemps) (cool1s : Bool)
  | pllLock (die : Nat)
  | pllFail (die : Nat)
  | twinHeartbeat (half path : Nat) (selfOk claimsLead : Bool)
  | heartbeatPathLoss (half path : Nat)
  | leadQuery (rank half : Nat)
  | leadRuling (rank : Nat)
  | leadRulingReceipt (half lead : Nat)
  | splitDefault (half : Nat)
  -- Kamux ports
  | signalDetect (port : Nat)
  | trainingComplete (port : Nat) (lanes : Byte)
  | trainingTimeout (port : Nat)
  | signalLoss (port : Nat)
  | laneFailure (port lane : Nat)
  | fecErrorBurst (port : Nat)
  | linkSilence (port : Nat)
  | failedRetryTimer (port : Nat)
  | beaconSend (port : Nat)
  | beaconReceive (port : Nat) (b : Beacon)
  | frameReceive (port : Nat) (f : Frame) (fec : Fec)
  | linkAck (lport : Nat) (lseq : BitVec 48)
  | linkNak (lport : Nat) (lseq : BitVec 48)
  | linkCredit (lport credits : Nat)
  | ackTimer (lport : Nat)
  | gapTimeout (lport : Nat)
  | resendTimeout (lport : Nat)
  | refuse (lport : Nat) (lseq : BitVec 48)
  | resume (lport jslot drank : Nat)
  | managementResend (id : Nat)
  | neighbourReport (r : NbrReport)
  | placementVerdict (place : Place) (verdicts : List PortVerdict) (routes : List (Nat × Nat))
  | electStand
  | actingManager
  | offer (hive mgrSerial : W64) (qm cert : List Byte) (sig : BitVec 768)
  | admissionAccept (serial : W64) (qc cert : List Byte) (wrapped : BitVec 320) (sig : BitVec 768)
  | keyDelivery (job : W64) (jslot : Nat) (hiveKey : Bool) (wrapped : BitVec 320)
  | managerHeartbeat
  | managerState (jobs : List JobState) (wrapped : BitVec 320)
      (members : List (Nat × W64 × BitVec 320))
  | managerLoss
  -- rows added at the end of the table
  | bridgeSegmentFailure (segment : Nat)
  | aoRefclkReturn (half : Nat)
  | transportLoss (t : Transport)
  | switchTime (part : Nat)
  | scaleRecordArrival (job : W64) (rank part : Nat) (r : ScaleRec)
  | signedUnlock (challenge : W256) (sig : BitVec 768)
  deriving DecidableEq, Repr

end Sys2Proof
end

