-- ==== Sys2Proof/WellFormed.lean ====
section
/-! DEFINITION. Which commands name parts that a TLN-9624 has: dies 0 to 11, cores 0 to 63, halves 0 and 1, Kamux ports
0 to 23, partitions 0 to 15, ranks 0 to 1,023 and the like (spec/00_scope.md R4, spec/01_organisation.md R21 to R36,
spec/11_links_hives.md R329). -/

namespace Sys2Proof

def CoreId.wf (c : CoreId) : Bool := decide (c.die < 12) && decide (c.core < 64)
def StreamId.wf (i : StreamId) : Bool := decide (i.die < 12) && decide (i.core < 64)

def dieOk (d : Nat) : Bool := decide (d < 12)
def halfOk (h : Nat) : Bool := decide (h < 2)
def portOk (p : Nat) : Bool := decide (p < 24)
def partOk (p : Nat) : Bool := decide (p < 16)
def rankOk (r : Nat) : Bool := decide (r < 1024)
def posOk (p : Nat) : Bool := decide (p < 72)
def slotOk (k : Nat) : Bool := decide (k < 8)

/-- An upset of a codeword names one of its symbols (07 R216). -/
def PhysFault.wf (f : PhysFault) : Bool :=
  match f with
  | .flip cw sym _ => decide (sym < if cw < 24 * 2 ^ 37 then 72 else 38)
  | .parityWrite _ => true
  | .parityInput _ => true
  | .chainInput _ _ => true
  | .lam core bank k sym _ =>
    decide (core < 12 * 128) && decide (core % 128 < 64) && decide (bank < 2) && (decide (k < 2048) || (decide (4096 ≤ k) && decide (k < 4352)))
      && decide (sym < 38)

/-- An upset names one of the long words of a bank, 32 columns of 32 rows or of 64 in Flow class, or one of its rows or columns
(04 R114, R115). -/
def Upset.wf (u : Upset) : Bool :=
  match u with
  | .word r c _ => decide (r < 64) && decide (c < 32)
  | .residue byRow k _ => decide (k < if byRow then 64 else 32)
  | .parity _ => true

/-- The fields of Table 9-4: KIND 0 to 9, a 10-bit source rank, a 12-bit collective. -/
def XPkt.wf (p : XPkt) : Bool := decide (p.kind < 10) && decide (p.srank < 1024) && decide (p.coll < 4096)

def StepMsg.wf (m : StepMsg) : Bool := rankOk m.rank && partOk m.part

def DigestRec.wf (r : DigestRec) : Bool := partOk r.part

def Transport.wf (t : Transport) : Bool :=
  match t with
  | .tcp _ => true
  | .pcie h => halfOk h
  | .uart => true

/-- Which commands are well formed: every operand names a part that exists. -/
def Instr.wf (c : Instr) : Bool :=
  match c with
  | .ctlNop i _ | .ctlIdle i _ | .ctlSeta i _ | .ctlAdda i _ | .ctlSets i _ | .ctlSetc i _ | .ctlAddc i _
  | .ctlLoop i _ | .ctlBr i _ | .ctlBrc i _ | .ctlBrq i _ | .ctlLdshape i _ | .ctlStep i _ | .ctlOpbegin i _
  | .ctlOpend i _ | .ctlHalt i _ | .strmCopy i _ | .strmFill i _ | .mma i _ | .pack i _ | .vecFma i _ | .vecAdd i _
  | .vecMul i _ | .vecMax i _ | .vecMin i _ | .vecCvt i _ | .vecNeg i _ | .vecAbs i _ | .vecAcc i _ | .vecSumsq i _
  | .vecMoments i _ | .vecLwadd i _ | .vecLwld i _ | .vecLwst i _ | .vecLzero i _ | .vecLneg i _ | .vecLred i _
  | .vecReanchor i _ | .vecFinish i _ | .xchPut i _ | .xchMcast i _ | .xchReduce i _ | .xchGather i _
  | .xchAllred i _ | .upd i _ | .synWait i _ | .synSet i _ | .synAdd i _ | .synFadd i _ | .synOpld i _
  | .synGwait i _ => i.wf
  | .instructionStart k _ fs => k.wf && fs.all PhysFault.wf
  | .instructionComplete i _ => i.wf
  | .drainStart k b us => k.wf && decide (b < 2) && us.all Upset.wf
  | .tileVerdict k b => k.wf && decide (b < 2)
  | .chainRow k _ => k.wf
  | .chainVerdict i _ _ => i.wf
  | .operationEvaluation i => i.wf
  | .operationDecision i => i.wf
  | .syncOperation h x => halfOk h && x.faults.all PhysFault.wf
  | .coreGate k => k.wf
  | .updStart k fs => k.wf && fs.all PhysFault.wf
  | .mergeWindowExpiry k => k.wf
  | .descriptorFetch d ch => dieOk d && decide (ch < 32)
  | .descriptorComplete d ch fs => dieOk d && decide (ch < 32) && fs.all PhysFault.wf
  | .patrolScrub d fs => dieOk d && fs.all PhysFault.wf
  | .stagingAccess h wr _ len x => halfOk h && (!wr || decide (x.bytes.length = len)) && x.faults.all PhysFault.wf
  | .putPacket d p x | .contrib d p x | .result d p x | .mcastPacket d p x =>
    dieOk d && partOk p && x.pkt.wf && x.faults.all PhysFault.wf
  | .mirror d p x | .credit d p x
  | .swarmAck d p x | .drop d p x | .repairreq d p x | .repairnak d p x => dieOk d && partOk p && x.wf
  | .laggardTimeout d p coll r => dieOk d && partOk p && decide (coll < 4096) && rankOk r
  | .collectiveTimeout d p coll _ => dieOk d && partOk p && decide (coll < 4096)
  | .repairTimeout d p coll _ => dieOk d && partOk p && decide (coll < 4096)
  | .duplicateTile r => r.wf
  | .stepReport p => partOk p
  | .stepReportArrival m => m.wf
  | .retractArrival m => m.wf
  | .gateWrite _ _ _ => true
  | .retractHandling m ps => m.wf && ps.all StreamId.wf
  | .retractRelease p => partOk p
  | .eventRecordAccept _ _ => true
  | .recordHandling h => halfOk h
  | .capsuleRecord h _ => halfOk h
  | .deathwatch p => partOk p
  | .quantumExpiry g => decide (1 ≤ g) && decide (g ≤ 4)
  | .switchCommand p _ => partOk p
  | .twinSwitch p h => partOk p && halfOk h
  | .load _ _ => true
  | .loadApply => true
  | .ident _ => true
  | .attest _ _ => true
  | .rdreg _ _ => true
  | .wrreg _ _ _ => true
  | .lnkCfgWrite p _ => portOk p
  | .scanctlGo _ _ => true
  | .svclatClear _ h _ => halfOk h
  | .release _ p => partOk p
  | .subscribe _ _ => true
  | .evread _ _ _ => true
  | .capread _ p _ _ => partOk p
  | .capunpin _ p _ => partOk p
  | .hivemap _ _ => true
  | .hivejoin _ _ _ => true
  | .health _ => true
  | .slotset _ k _ _ => slotOk k
  | .slotclear _ k => slotOk k
  | .slotinit _ _ _ => true
  | .fwwrite _ _ => true
  | .fwactivate _ k => decide (k < 2)
  | .svnFloorRaise => true
  | .lifecycle _ k _ => decide (k < 8)
  | .provision _ _ _ _ => true
  | .reset _ => true
  | .power _ _ _ _ => true
  | .scan _ d p => dieOk d && posOk p
  | .spareScanTimer d p => dieOk d && posOk p
  | .scanComplete d p _ _ => dieOk d && posOk p
  | .replay _ _ _ _ _ => true
  | .unfreeze _ p => partOk p
  | .hello t k _ => t.wf && (slotOk k || k == 255)
  | .response _ _ => true
  | .close _ => true
  | .nop _ _ => true
  | .sessionTimeout _ => true
  | .slotLockoutExpiry k => slotOk k
  | .supplyRise _ => true
  | .startUp _ _ => true
  | .startTimeout l => decide (1 ≤ l.step) && decide (l.step ≤ 9)
  | .undervoltageReset => true
  | .supplyFault _ => true
  | .thermTrip _ _ => true
  | .resetLAssert h | .resetLRelease h | .pwrEnAssert h | .pwrEnDeassert h | .coolantOkAssert h
  | .coolantOkDeassert h | .fireflyWatchdog h | .strapChange h | .perstL h | .splitDefault h
  | .aoRefclkReturn h => halfOk h
  | .coolantShutdown => true
  | .aoRefclkLoss h _ => halfOk h
  | .capThrottle _ _ _ => true
  | .thermalThrottle d t _ => dieOk d && decide (t.rows.length = 9) && decide (t.hbm.length = 2)
  | .pllLock d => dieOk d
  | .pllFail d => dieOk d
  | .twinHeartbeat h p _ _ => halfOk h && decide (p < 2)
  | .heartbeatPathLoss h p => halfOk h && decide (p < 2)
  | .leadQuery r h => rankOk r && halfOk h
  | .leadRuling r => rankOk r
  | .leadRulingReceipt h l => halfOk h && halfOk l
  | .signalDetect p => portOk p
  | .trainingComplete p _ => portOk p
  | .trainingTimeout p => portOk p
  | .signalLoss p => portOk p
  | .laneFailure p l => portOk p && decide (l < 8)
  | .fecErrorBurst p => portOk p
  | .linkSilence p => portOk p
  | .failedRetryTimer p => portOk p
  | .beaconSend p => portOk p
  | .beaconReceive p _ => portOk p
  | .frameReceive p _ _ => portOk p
  | .linkAck p _ | .linkNak p _ | .refuse p _ => portOk p
  | .linkCredit p _ => portOk p
  | .ackTimer p | .gapTimeout p | .resendTimeout p => portOk p
  | .resume p j r => portOk p && decide (j < 16) && rankOk r
  | .managementResend _ => true
  | .neighbourReport _ => true
  | .placementVerdict x vs _ => rankOk x.rank && vs.all fun v => portOk v.port
  | .electStand => true
  | .actingManager => true
  | .offer _ _ _ _ _ => true
  | .admissionAccept _ _ _ _ _ => true
  | .keyDelivery _ j _ _ => decide (j < 16)
  | .managerHeartbeat => true
  | .managerState _ _ _ => true
  | .managerLoss => true
  | .bridgeSegmentFailure k => decide (k < 2)
  | .transportLoss t => t.wf
  | .switchTime p => partOk p
  | .scaleRecordArrival _ r p _ => rankOk r && partOk p
  | .signedUnlock _ _ => true

end Sys2Proof
end

