-- ==== Sys2Proof/Decode.lean ====
section
/-! DEFINITION. The decoders. The rows of spec/opcode_table.json give no bits, so no word of that table is a command
(notes/assumptions 1). The 128-bit word that the instruction port delivers to a stream does pick the row that issues, by its
family and opcode (06 R167, R168). -/

namespace Sys2Proof

/-- The command a word spells by the table's bits: none for every word. -/
def decodeTableWord (_nbits _w : Nat) : Option Instr := none

/-- The row by which a stream issues a word: family [127:125] and opcode [124:120] of Table 6-2; none for a reserved opcode, which
is an Encoding fault under whichever row carries the word (06 R168, R172). -/
def issueRow (i : StreamId) (w : W128) : Option Instr :=
  match fld w 127 125, fld w 124 120 with
  | 0, 0 => some (.strmCopy i w)
  | 0, 1 => some (.strmFill i w)
  | 1, 0 => some (.mma i w)
  | 2, 0 => some (.vecFma i w)
  | 2, 1 => some (.vecAdd i w)
  | 2, 2 => some (.vecMul i w)
  | 2, 3 => some (.vecMax i w)
  | 2, 4 => some (.vecMin i w)
  | 2, 5 => some (.vecCvt i w)
  | 2, 6 => some (.vecNeg i w)
  | 2, 7 => some (.vecAbs i w)
  | 2, 8 => some (.vecAcc i w)
  | 2, 9 => some (.vecSumsq i w)
  | 2, 10 => some (.vecMoments i w)
  | 2, 11 => some (.vecLwadd i w)
  | 2, 12 => some (.vecLwld i w)
  | 2, 13 => some (.vecLwst i w)
  | 2, 16 => some (.vecLzero i w)
  | 2, 17 => some (.vecLneg i w)
  | 2, 18 => some (.vecLred i w)
  | 2, 19 => some (.vecReanchor i w)
  | 2, 24 => some (.vecFinish i w)
  | 3, 0 => some (.pack i w)
  | 4, 0 => some (.xchPut i w)
  | 4, 1 => some (.xchMcast i w)
  | 4, 2 => some (.xchReduce i w)
  | 4, 3 => some (.xchGather i w)
  | 4, 4 => some (.xchAllred i w)
  | 5, 0 => some (.upd i w)
  | 6, 0 => some (.synWait i w)
  | 6, 1 => some (.synSet i w)
  | 6, 2 => some (.synAdd i w)
  | 6, 3 => some (.synFadd i w)
  | 6, 4 => some (.synOpld i w)
  | 6, 5 => some (.synGwait i w)
  | 7, 0 => some (.ctlNop i w)
  | 7, 1 => some (.ctlIdle i w)
  | 7, 2 => some (.ctlSeta i w)
  | 7, 3 => some (.ctlAdda i w)
  | 7, 4 => some (.ctlSets i w)
  | 7, 5 => some (.ctlSetc i w)
  | 7, 6 => some (.ctlAddc i w)
  | 7, 7 => some (.ctlLoop i w)
  | 7, 8 => some (.ctlBr i w)
  | 7, 9 => some (.ctlBrc i w)
  | 7, 10 => some (.ctlBrq i w)
  | 7, 11 => some (.ctlLdshape i w)
  | 7, 12 => some (.ctlStep i w)
  | 7, 13 => some (.ctlOpbegin i w)
  | 7, 14 => some (.ctlOpend i w)
  | 7, 15 => some (.ctlHalt i w)
  | _, _ => none

end Sys2Proof
end

