-- ==== Sys2Proof/Config.lean ====
section
/-! DEFINITION. What the spec leaves to an implementation or to a standard outside it: constants with no body. Nothing
in Lean can evaluate them, so a statement about one holds for every value (notes/assumptions 6 and 7). -/

namespace Sys2Proof

/-- A free value: the `n`-th value that the spec leaves open, one for each count of `State.free` (log 7, DESIGN CHOICE). -/
opaque Config.freeValue : Nat → BitVec 512

/-- Kamux hops from this module to a rank under the routes in force of a plane, given by their entries; they depend on the planes of the
modules between too (11 R332; log 23, DESIGN CHOICE). -/
opaque Config.hops : Tab W16 → Nat → Nat

/-- The bytes of a management message with its number, which the spec does not lay out, and the message that bytes are; none for other bytes
(11 R330; log 24, DESIGN CHOICE). -/
opaque Config.mgmtBytes : Nat → MgmtMsg → List Byte
opaque Config.mgmtOf : List Byte → Option (Nat × MgmtMsg)

/-- The 16-byte body of a link-control frame, which the spec does not lay out: its kind, and the numbers it carries (11 R317; log 114,
DESIGN CHOICE). -/
opaque Config.linkBody : Nat → Nat → Nat → BitVec 128

/-- SHA-384 (FIPS 180-4), named by 08 R230, 09 R277, 13 R376-R380 (log 6, DESIGN CHOICE). -/
opaque Config.sha384 : List Byte → W384

/-- HMAC-SHA-256 under a 256-bit key, named by 11 R336 and 13 R384 (log 6, DESIGN CHOICE). -/
opaque Config.hmac256 : W256 → List Byte → W256

/-- HMAC-SHA-256 under a P-384 shared secret, the key of the derivations of 13 R380 and R387 (log 6, DESIGN CHOICE). -/
opaque Config.hmacZ : W384 → List Byte → W256

/-- AES Key Wrap (NIST SP 800-38F) of a 256-bit key under a key: 40 bytes (11 R335; log 6, DESIGN CHOICE). -/
opaque Config.keyWrap : W256 → W256 → BitVec 320

/-- The inverse of key wrap; none when the integrity check fails (11 R335; log 6, DESIGN CHOICE). -/
opaque Config.keyUnwrap : W256 → BitVec 320 → Option W256

/-- AES-256-GCM encryption: key, 96-bit nonce, additional data, plaintext, to ciphertext and 128-bit tag (11 R337; log 6, DESIGN CHOICE). -/
opaque Config.gcmSeal : W256 → BitVec 96 → List Byte → List Byte → List Byte × W128

/-- AES-256-GCM decryption; none when the tag fails (11 R337; log 6, DESIGN CHOICE). -/
opaque Config.gcmOpen : W256 → BitVec 96 → List Byte → List Byte → W128 → Option (List Byte)

/-- The ECDSA P-384 signature made with an identity key over bytes (13 R378; log 6, DESIGN CHOICE). The number is the signer's draw. -/
opaque Config.ecdsaSign : W384 → Nat → List Byte → BitVec 768

/-- Whether an ECDSA P-384 signature verifies under the public key over bytes (13 R380, R390; log 6, DESIGN CHOICE). -/
opaque Config.ecdsaVerify : List Byte → List Byte → BitVec 768 → Bool

/-- The public key of a private P-384 key, and the shared secret of a private and a public key (13 R380, R387; log 6, DESIGN CHOICE). -/
opaque Config.ecPublic : W384 → List Byte
opaque Config.ecdh : W384 → List Byte → W384

/-- Whether a certificate chain ends at the Zelgus root, and the serial and public key it certifies (13 R376, R380; log 6, DESIGN CHOICE). -/
opaque Config.certSubject : List Byte → Option (W64 × List Byte)

/-- The public key of a firmware signing key that a certificate chain certifies under the Zelgus root; none for any other chain (13 R390; log
6, DESIGN CHOICE). -/
opaque Config.signerKey : List Byte → Option (List Byte)

/-- AES Key Wrap (NIST SP 800-38F) of key material of any length (13 R377; log 6, DESIGN CHOICE). -/
opaque Config.keyWrapBytes : W256 → List Byte → List Byte

/-- AES-256 in XTS mode (IEEE 1619): key, block number, bytes (13 R372; log 6, DESIGN CHOICE). -/
opaque Config.xtsEncrypt : BitVec 512 → Nat → List Byte → List Byte

/-- The Zelgus key that signs return authorisations and unlocks, as a public key (13 R368, R367; log 6, DESIGN CHOICE). -/
opaque Config.zelgusKey : List Byte

end Sys2Proof
end

