-- ==== Sys2Proof/Machine/State.lean ====
section
/-! DEFINITION. The state of one TLN-9624 module as plain data: every register, buffer, queue, counter, mode and pin the
spec gives it, the queue of waiting commands, and the outboxes in which the model keeps what the module has sent. -/

namespace Sys2Proof.Machine

/-- Why a command stops the model. No command of this module does: an instruction fault halts its stream (05 R162) and a
failed check is answered with a status or an event. The type stands for the interface; raising one would be safe (log 12, DEDUCED). -/
inductive Fault where
  /-- Raised by no command: the spec stops the machine nowhere. Safe. -/
  | none
  deriving DecidableEq, Repr

/-- Why a command has no meaning. -/
inductive Refusal where
  /-- Raised by an arm of `exec` whose command has no meaning yet. Safe. -/
  | notModelled (mnemonic : String)
  deriving DecidableEq, Repr

/-! ### Long words, flags and the instructions in the queues -/

/-- A long word with its guard bits resolved into `n`, its NaN tag and its Over bit (03 R76, R78). -/
structure LW where
  n : Int := 0
  nan : Bool := false
  ovf : Bool := false
  deriving DecidableEq, Repr

/-- The sticky flags of one unit of output (02 R67): Range by cause (Table 12-3), Special and Wide. -/
structure Flags where
  sat : Bool := false
  empty : Bool := false
  lwRange : Bool := false
  wideTop : Bool := false
  special : Bool := false
  wide : Bool := false
  deriving DecidableEq, Repr

/-- An instruction in a stream queue, with every register operand captured at issue (05 R140), its due points (05 R143)
and the operation state it was issued under. -/
structure QEntry where
  id : Nat
  /-- the core cycle of its issue (05 R141; log 17) -/
  cyc : Nat
  eng : Engine
  op : Nat
  w : W128
  pc : W64
  n : Nat
  skip : Bool
  a : Vector W64 16
  s : Vector W64 16
  c : Vector W32 8
  shape : Vector W32 4
  step : W64
  inop : Bool
  opid : Byte
  attempt : Byte
  rung : BitVec 4
  wide : Bool
  fmtA : Nat
  fmtB : Nat
  desc : List Byte
  due : Nat
  dueDone : Nat
  occ : Nat
  preload : Nat
  gap : Nat
  deriving DecidableEq, Repr

/-- An instruction its engine has started and not completed, with the flags its outputs have raised; `ready` once every
effect it waits for has come about. Of a STRM and of a chained MMA: how many repetitions have moved or run (07 R208, 04 R133). Of a
STRM: its suppressed bytes with the first one's
address and sub-cause (07 R225), and earlier values of bytes that it both reads and writes (07 R203). -/
structure Running where
  q : QEntry
  flags : Flags := {}
  ready : Bool
  reps : Nat := 0
  badN : Nat := 0
  badAt : Nat := 0
  badCause : Nat := 0
  old : List (Nat × Byte) := []
  deriving DecidableEq, Repr

/-- What a sync-object operation does (09 R260). -/
inductive SyncKind where
  | set | add
  /-- fetch-and-add; the old value goes to this core-store address (06 R191). -/
  | fadd (ret : Nat)
  deriving DecidableEq, Repr

/-- A sync-object operation on its way to the object's control die: the object, the operation, the step and epoch it
carries and its source (09 R269, 12 R351). `link` marks a mirrored write from a link (09 R271). -/
structure SyncReq where
  obj : Nat
  kind : SyncKind
  value : W32
  step : W64
  epoch : W16
  part : Nat
  unit : W32
  src : Option StreamId
  srcId : Nat
  link : Bool
  deriving DecidableEq, Repr

/-- A loop stack entry (05 R150, R166). -/
structure LoopEnt where
  start : W64
  len : Nat
  count : W32
  deriving DecidableEq, Repr

/-- A participant's memory of one verdict group (05 R158). -/
structure Group where
  finished : W32 := 0
  base : W32 := 0
  lastW0 : W32 := 0
  lastW1 : W32 := 0
  lastR0 : W32 := 0
  lastR1 : W32 := 0
  deriving DecidableEq, Repr

/-- The snapshot CTL.OPBEGIN saves (05 R154). -/
structure Snap where
  a : Vector W64 16
  s : Vector W64 16
  c : Vector W32 8
  loops : List LoopEnt
  pc : W64
  deriving DecidableEq, Repr

/-- The mark a stream saves at CTL.STEP (12 R350). -/
structure Mark where
  a : Vector W64 16
  s : Vector W64 16
  c : Vector W32 8
  loops : List LoopEnt
  pc : W64
  step : W64
  groups : Tab Group
  deriving DecidableEq, Repr

/-- The error pattern of one codeword: symbol numbers, rising, with the XOR each carries (07 R216). -/
abbrev ErrPat := List (Nat × Byte)

/-- The states of Table 5-1. -/
inductive SState where
  | stopped | running | held | halted | frozen
  deriving DecidableEq, Repr

/-- Where a stream at CTL.OPEND stands (05 R156 to R158). -/
inductive OpPhase where
  | none
  /-- OPEND has issued; the attempt has not been evaluated -/
  | ended
  /-- the outcome has been added to the verdict group; the decision is open -/
  | evaluated (wide range : Bool)
  deriving DecidableEq, Repr

/-- A stream of a sequencer (05 R136). -/
structure Stream where
  state : SState := .stopped
  pc : W64 := 0
  imgBase : W64 := 0
  imgLen : W64 := 0
  smax : Vector W32 4 := Vector.replicate 4 0
  ctx : List Nat := []
  buf : List W64 := []
  idleLeft : Nat := 0
  /-- cycles for which a read at the instruction port still holds the stream, with cause FETCH and with cause LATE_DONE (05 R150,
  R151), and whether the read of the next instruction's own operand has been asked for -/
  portLeft : Nat := 0
  portLate : Nat := 0
  asked : Bool := false
  /-- the core cycle of the stream's latest turn (05 R141; log 17) -/
  cyc : Nat := 0
  stall : Nat := 0
  stime : W64 := 0
  stalls : W64 := 0
  shape : Vector W32 4 := Vector.replicate 4 0
  step : W64 := 0
  a : Vector W64 16 := Vector.replicate 16 0
  s : Vector W64 16 := Vector.replicate 16 0
  c : Vector W32 8 := Vector.replicate 8 0
  loops : List LoopEnt := []
  inop : Bool := false
  opid : Byte := 0
  attempt : Byte := 0
  rung : BitVec 4 := 0
  wide : Bool := false
  chained : Bool := false
  chout : Bool := false
  ckhold : Bool := false
  opG : Nat := 0
  opN : Nat := 0
  phase : OpPhase := .none
  opFlags : Flags := {}
  opPol : Nat := 0
  opCeil : BitVec 4 := 0
  opConv : Bool := false
  /-- ladder steps the open operation has taken (02 R70) -/
  opLadder : Nat := 0
  /-- Range events with the SCALE cause of the open attempt, which count once the operation completes (02 R72, 03 R101) -/
  opScale : Nat := 0
  mismatch : Bool := false
  /-- chain verdicts that have arrived and that no operation has used, oldest first; none is complete (05 R159) -/
  chainV : List (Option (BitVec 4 × Bool)) := []
  snap : Option Snap := none
  wbuf : List SyncReq := []
  optab : Tab W32 := []
  groups : Tab Group := []
  fault : Nat := 0
  faultQ : Nat := 0
  fpc : W64 := 0
  marks : List Mark := []
  queues : Vector (List QEntry) 7 := Vector.replicate 7 []
  run : List Running := []
  last : Vector (Nat × Nat) 7 := Vector.replicate 7 (0, 0)
  lastFlow : Option Bool := none
  lastPre : Bool := false
  lastClose : Vector (Nat × Nat × Nat × Bool) 2 := Vector.replicate 2 (0, 0, 0, false)
  tileOrd : Nat := 0
  /-- the wait at the head of the sync queue that an evaluation has satisfied, with the value it saw (09 R261) -/
  sat : Option (Nat × W32) := none
  deriving DecidableEq, Repr

/-! ### Core -/

/-- Bank states of Table 4-5. -/
inductive BankState where
  | empty | opened | closed | draining
  deriving DecidableEq, Repr

/-- An output bank: its state and owner (04 R116), what its opening MMA fixed (04 R117), its long words, and the
checksum accumulators (04 R125). Long word `(i, j)` has key `32 i + j`. -/
structure Bank where
  state : BankState := .empty
  owner : Option Pass := none
  flow : Bool := false
  fmtA : Nat := 0
  fmtB : Nat := 0
  blk : Nat := 0
  anchor : Int := 0
  wide : Bool := false
  checked : Bool := false
  ord : Nat := 0
  ran : Bool := false
  lw : Tab LW := []
  expc : Tab Nat := []
  expr : Tab Nat := []
  resc : Tab Nat := []
  resr : Tab Nat := []
  deriving DecidableEq, Repr

/-- A drained tile whose verdict has not been delivered (04 R130, R132). -/
structure Drain where
  bank : Nat
  pass : Pass
  id : Nat
  checked : Bool
  skip : Bool
  /-- lowest mismatching row and column -/
  badRow : Option Nat
  badCol : Option Nat
  ord : Nat
  flags : Flags
  pol : Nat
  rung : BitVec 4
  ceil : BitVec 4
  inop : Bool
  iaddr : W64
  dig : DigestRec
  deriving DecidableEq, Repr

/-- Power of a core (14 R396). -/
inductive CPow where
  | off | gated | on
  deriving DecidableEq, Repr

/-- A memory window (07 R223): first and last granule, and permissions. -/
structure Win where
  base : W64 := 0
  last : W64 := 0
  v : Bool := false
  wr : Bool := false
  rd : Bool := false
  deriving DecidableEq, Repr

/-- An open merge group (07 R210): granule, direction, partition, and the accesses (context, address, length). -/
structure Merge where
  granule : Nat
  write : Bool
  part : Nat
  accesses : List (Nat × Nat × Nat)
  deriving DecidableEq, Repr

/-- Error counters of a memory (Table 7-10); `seen` counts corrected errors since management read the register. -/
structure EccCnt where
  ce : W32 := 0
  ue : W16 := 0
  par : W16 := 0
  seen : Nat := 0
  deriving DecidableEq, Repr

/-- A core by logical index (01 R32, R35). -/
structure Core where
  pow : CPow := .off
  pos : Option Nat := none
  part : Option Nat := none
  epoch : W16 := 0
  fwd : Stream := {}
  bwd : Stream := {}
  upd : Stream := {}
  /-- the core cycle up to which the instruction port serves the reads asked for so far (05 R137, R150) -/
  portEnd : Nat := 0
  age : Nat := 0
  b0 : Bank := {}
  b1 : Bank := {}
  drains : List Drain := []
  ckRate : BitVec 3 := 0
  ckPhase : BitVec 6 := 0
  ckf : Bool := false
  bankf : Bool := false
  mxWide : Bool := false
  ckDone : W32 := 0
  ckSkip : W16 := 0
  ckFail : W16 := 0
  lastDig : W64 := 0
  ckLoc : W32 := 0
  /-- error patterns of LAM codewords: bank x 8192 + codeword (07 R201), and their counts, which no register shows -/
  lam : Tab ErrPat := []
  lamEcc : EccCnt := {}
  chainBuf : List ChainRow := []
  /-- rows that the Feed of the chained MMA that runs has read from the buffer (04 R133) -/
  chainFed : List ChainRow := []
  chainOut : List ChainRow := []
  chainVs : List (W16 × Option (BitVec 4 × Bool)) := []
  vec : Tab LW := []
  ctxs : List (Nat × Nat) := []
  merge : Option Merge := none
  wins : Tab Win := []
  strUe : Bool := false
  strPar : Bool := false
  strBnd : Bool := false
  mergeWin : Byte := 16
  baddr : W64 := 0
  bcount : W16 := 0
  bstream : BitVec 2 := 0
  bcause : BitVec 2 := 0
  bctx : BitVec 9 := 0
  ecc : EccCnt := {}
  deriving DecidableEq, Repr

/-! ### Die -/

/-- What a unit does with a descriptor it has formed: the exchange engine sends a packet, `own` when an XCH asks for it, `data` when its
source bytes go with it, `swarm` when it goes out under credits; an update unit reads its hyperparameter record, the squared norm, or updates the elements of a granule
(log 22, DESIGN CHOICE; log 23, DESIGN CHOICE). -/
inductive DescAct where
  | send (own data swarm : Bool)
  | record | norm
  | granule (last : Bool)
  /-- discarded before it was fetched: its slot of the ring moves nothing -/
  | void
  deriving DecidableEq, Repr

/-- A privileged descriptor (Table 7-6). Beside its fields the model keeps what its unit forms it for: the instruction, the action, the
packet header it sends, and the module it sends to (log 22, DESIGN CHOICE). -/
structure PDesc where
  src : W64
  dst : W64
  len0 : W32
  cnt1 : W32
  sstr1 : W32
  dstr1 : W32
  dl : W32
  rate : W16
  part : Nat
  signal : Bool
  sobj : Nat
  at_ : StreamId
  id : Nat
  act : DescAct
  drank : Nat
  hdr : XPkt
  deriving DecidableEq, Repr

/-- A privileged channel (07 R211 to R213): its unfetched descriptors, whose bytes lie in its ring in the die store, its cache, and the
descriptors that wait for a free slot. -/
structure Chan where
  ring : List PDesc := []
  wait : List PDesc := []
  cache : List PDesc := []
  head : BitVec 9 := 0
  tail : BitVec 9 := 0
  deriving DecidableEq, Repr

/-- A contribution in a slot of a staging area (09 R283): its rank, slot, packet header and the length of the ETWs in the slot. -/
structure Staged where
  rank : Nat
  slot : Nat
  hdr : XPkt
  len : Nat
  deriving DecidableEq, Repr

/-- A chunk an owner is adding (09 R283): the sums above their 256 bits in the accumulation area, the tags, the expected checksum, how
many member ranks have been added, every contribution accepted, and those that wait for their turn in staging. -/
structure OwnChunk where
  part : Nat
  coll : Nat
  chunk : Nat
  step : W32
  high : List Int
  tag : List Bool
  expect : W64 := 0
  next : Nat := 0
  seen : List (Nat × XPkt) := []
  staged : List Staged := []
  finished : Bool := false
  deriving DecidableEq, Repr

/-- A transfer as its sender holds it (09 R283, R286, R289): KIND of its packets, its receivers, unsent and sent chunks,
chunks outstanding per receiver, and who has acknowledged or been dropped. `tid` tells transfers of one entry apart (log 22, DESIGN CHOICE). -/
structure Swarm where
  part : Nat
  coll : Nat
  kind : Nat
  step : W64
  tid : Nat
  total : Nat
  receivers : List Nat
  unsent : List XPkt := []
  sent : List XPkt := []
  outstanding : Tab Nat := []
  acked : List Nat := []
  dropped : List Nat := []
  rsig : Option Nat
  at_ : StreamId
  id : Nat
  /-- source address of each chunk of an MCAST, by its index, from which its sender repairs (09 R288) -/
  src : Tab Nat := []
  deriving DecidableEq, Repr

/-- An XCH that waits for ranges of result elements, to write RSIG (09 R285). -/
structure Gather where
  at_ : StreamId
  id : Nat
  part : Nat
  coll : Nat
  ranges : List (Nat × Nat)
  step : W64
  rsig : Nat
  deriving DecidableEq, Repr

/-- What a receiver holds of one transfer (09 R286 to R288): its sender, the chunks it holds complete, how many the transfer has, element
offset and index of the first chunk it has heard of, whether the sender dropped it, and the chunks it repairs with the holders asked. -/
structure RxXfer where
  part : Nat
  coll : Nat
  kind : Nat
  step : W32
  tid : Nat
  src : Nat
  total : Nat
  first : Nat × Nat := (0, 0)
  have_ : List XPkt := []
  dropped : Bool := false
  asked : List (Nat × Nat) := []
  acked : Bool := false
  deriving DecidableEq, Repr

/-- A compute die: memory error counters, patrol control, channels, the exchange engine, the clock (07 R229, 09 R295, 14 R410). -/
structure Die where
  decc : EccCnt := {}
  hecc0 : EccCnt := {}
  hecc1 : EccCnt := {}
  scrubPeriod : W16 := 1440
  scrubEn : Bool := true
  chans : Tab Chan := []
  cf : Bool := false
  csumF : Bool := false
  lag : Bool := false
  stale : Bool := false
  lagUs : BitVec 20 := 200
  ctoMs : W16 := 20
  cntLag : W16 := 0
  cntCsum : W16 := 0
  cntStale : W32 := 0
  cfault : W64 := 0
  staleSeen : List (Nat × W32 × Byte) := []
  chunks : List OwnChunk := []
  swarms : List Swarm := []
  gathers : List Gather := []
  rx : List RxXfer := []
  /-- flags that the outputs of collectives owned here have raised: partition, entry, step (02 R67) -/
  collFlags : List ((Nat × Nat × W32) × Flags) := []
  /-- the exchange engine's epoch copy for each partition (09 R269) -/
  epochs : Tab W16 := []
  /-- repairs that this module owes as an owner, until the chunk is finished: partition and request (09 R288) -/
  owed : List (Nat × XPkt) := []
  pll : Bool := false
  oppMax : BitVec 2 := 2
  oppCur : BitVec 2 := 2
  oppCause : BitVec 2 := 0
  /-- the highest points that the cap and the temperature allow, and what has lowered the die in the present 10 ms: 0 none, 1 the cap, 2 the
  temperature (14 R400, R409) -/
  capLim : BitVec 2 := 2
  thLim : BitVec 2 := 2
  lowered : Nat := 0
  deriving DecidableEq, Repr

/-- The UPD an update unit runs: its instruction, partition, elements as (repetition, index, parameter address) in order, hyperparameter
record, exponent, clip factor as FP32 (none before it is formed), and the flags and suppressed bytes so far (10 R299 to R307, R312). -/
structure UpdRun where
  at_ : StreamId
  q : QEntry
  part : Nat
  elems : List (Nat × Nat × Nat)
  rec_ : List Byte := []
  sexp : Int
  clip : Option W32 := none
  range : Bool := false
  spec : Bool := false
  badN : Nat := 0
  badAt : Nat := 0
  badCause : Nat := 0
  /-- descriptors of an UPD that a residency switch brought back while another runs: they wait for its turn (10 R300) -/
  waiting : List PDesc := []
  deriving DecidableEq, Repr

/-- An update unit (10 R313). Exponent entries are (step [23:0], exponent; log 89, DESIGN CHOICE). -/
structure UpdUnit where
  smiss : Bool := false
  spec : Bool := false
  range : Bool := false
  done : W32 := 0
  nowrite : W16 := 0
  rangec : W16 := 0
  clip : W32 := 0
  sexp : Byte := 0
  tabA : Tab (BitVec 24 × Byte) := []
  tabB : Tab (BitVec 24 × Byte) := []
  /-- the UPD that runs; a restore may bring back another one beside it (08 R257) -/
  run : List UpdRun := []
  /-- its epoch copy for each partition (09 R269) -/
  epochs : Tab W16 := []
  deriving DecidableEq, Repr

/-! ### Sync objects -/

/-- The types of Table 9-1. -/
inductive ObjType where
  | flag | count | work | gate
  deriving DecidableEq, Repr

/-- A sync object (09 R259) with its three layers (12 R351); a layer is none while no write lies in it. -/
structure SyncObj where
  type : ObjType := .flag
  part : Nat := 0
  alloc : Bool := false
  mirr : Bool := false
  fence : W16 := 0
  l0 : Option W32 := none
  l1 : Option W32 := none
  l2 : Option W32 := none
  limit : W32 := 0
  npart : W32 := 0
  deriving DecidableEq, Repr

/-- The SYN registers of a control die and the operations on their way to it (09 R295). -/
structure SynHalf where
  sde : Bool := false
  zmb : Bool := false
  zEpoch : W32 := 0
  zMask : W32 := 0
  zLast : W64 := 0
  dupSde : W16 := 0
  dupUn : W16 := 0
  dupBen : W32 := 0
  zSeen : List (W32 × W64) := []
  net : List SyncReq := []
  fence : List W32 := []
  /-- frames with mirrored writes of its objects that could not go out at once -/
  mirr : List Frame := []
  deriving DecidableEq, Repr

/-! ### Partitions -/

/-- What a Chrysalis holds of the exchange engine of a die (08 Table 8-9). -/
structure DieExch where
  chunks : List OwnChunk := []
  swarms : List Swarm := []
  gathers : List Gather := []
  rx : List RxXfer := []
  collFlags : List ((Nat × Nat × W32) × Flags) := []
  owed : List (Nat × XPkt) := []
  deriving DecidableEq, Repr

/-- The Chrysalis of a partition (08 R255): the image digest, its cores, the bytes and error patterns of core stores and die-store windows,
the descriptors of channel `die x 32 + c`, and the state of exchange engines and update units. -/
structure Chrysalis where
  digest : W384
  cores : List (Nat × Core)
  bytes : List (Nat × Byte)
  errs : List (Nat × ErrPat)
  chans : List (Nat × List PDesc)
  exch : List (Nat × DieExch) := []
  upds : List (Nat × UpdRun) := []
  deriving DecidableEq, Repr

/-- An E-class record's unit with the step and retry it was raised in (12 R348). -/
structure EHist where
  unit : W32
  step : W64
  retry : Byte
  deriving DecidableEq, Repr

/-- What Retract handling has still to do for a partition (12 R353). -/
structure Retracting where
  step : W64
  retry : Byte
  gateSeen : Bool
  rewound : Bool
  escalation : List W32
  /-- an event that retracts the step has occurred since (12 R355), and the streams whose mark has bad parity (12 R350) -/
  interrupted : Bool := false
  /-- its Abort event has been raised (12 R355) -/
  aborted : Bool := false
  parity : List StreamId := []
  deriving DecidableEq, Repr

/-- A partition of the module (08 R232). Records of the image are kept as their bytes. -/
structure Part where
  loaded : Bool := false
  resident : Bool := false
  tenant : W32 := 0
  job : W64 := 0
  sgrp : Nat := 0
  digest : W384 := 0
  cores : List Nat := []
  wins : Tab Win := []
  swins : Tab Win := []
  tens : Tab (List Byte) := []
  ops : List (List Byte) := []
  colls : Tab (List Byte) := []
  keys : Tab W128 := []
  scale : ScaleRec := { s0 := 0, smin := 0xE0, smax := 48, up := 1, window := 1000 }
  /-- chains: producer and consumer core -/
  chains : List (Nat × Nat) := []
  chry : List (List Byte) := []
  twins : List (Nat × List Byte) := []
  plane : Nat := 0
  jslot : Option Nat := none
  openStep : W64 := 0
  retry : Byte := 0
  epoch : W16 := 0
  line0 : Bool := false
  line1 : Bool := false
  stepEvent : Bool := false
  retractSent : Bool := false
  ls : LsState := { clean := 0, sexp := 0, disc := 0, floor := 0 }
  gate : Option Nat := none
  scaleEv : W16 := 0
  reported : Bool := false
  retracting : Option Retracting := none
  /-- streams whose image holds a GWAIT or an UPD that names the GATE (09 R264) -/
  waiters : List StreamId := []
  /-- Bounds events: unit, stream, IADDR, step and retry (12 R354) -/
  bounds : List (W32 × Byte × W64 × W64 × Byte) := []
  ehist : List EHist := []
  handling : List W32 := []
  /-- units whose escalation the next Retract handling makes (12 R348) -/
  escal : List W32 := []
  /-- the latest Deathwatch firing: step, retry and the heads that stalled (12 R354) -/
  dwLast : Option (W64 × Byte × List (StreamId × W64)) := none
  /-- a Retract message that waits for the next turn of a saved-out partition (08 R258) -/
  owedRetract : Option StepMsg := none
  /-- the pending GATE value that follows it has been written (09 R268) -/
  owedGate : Bool := false
  saved : Option Chrysalis := none
  mode1 : Bool := false
  quantum : Nat := 0
  switchAt : Option W64 := none
  jobStop : Bool := false
  deriving DecidableEq, Repr

/-! ### Events and the recorder -/

/-- An event record (Table 12-1). -/
structure EvRec where
  seq : W64 := 0
  time : W64 := 0
  cls : Byte
  cause : Byte
  count : W16 := 1
  unit : W32
  job : W64 := 0
  step : W64 := 0
  iaddr : W64 := 0
  stream : Byte := 0
  part : Byte := 0xFF
  retry : Byte := 0
  attempt : Byte := 0
  temp : W16 := 0
  volt : W16 := 0
  detail : W64 := 0
  deriving DecidableEq, Repr

/-- The two holding slots of a unit, with their overflow counters and lost-class masks (12 R346). -/
structure Slots where
  ret : Option EvRec := none
  ord : Option EvRec := none
  retOver : Nat := 0
  ordOver : Nat := 0
  retMask : Byte := 0
  ordMask : Byte := 0
  deriving DecidableEq, Repr

/-- The recorder's setting for a partition (FF_CAPCFG). -/
structure CapCfg where
  opid : Byte := 0
  data : Bool := false
  tile : Bool := false
  en : Bool := true
  deriving DecidableEq, Repr

/-- A replay in progress (12 R363): job, steps, recorded records, the first divergence found, and the records of the steps that run that
are compared. -/
structure Replay where
  job : W64
  s0 : W64
  s1 : W64
  records : List CapRec
  divergence : Option CapRec
  sid : W32
  ended : Bool
  seen : List CapRec := []
  deriving DecidableEq, Repr

/-- The event mailboxes, queues, log, Deathwatch, scan and recorder (12 R345, R366). Scan positions are die x 72 + pos. -/
structure Events where
  slots : Tab Slots := []
  q0 : List EvRec := []
  q1 : List EvRec := []
  log : List EvRec := []
  seq : W64 := 0
  folded : W32 := 0
  lost : W32 := 0
  drain : Bool := false
  degr : Bool := false
  /-- LOST of each half's FF_EVSTAT (12 R366) -/
  lostF : Bool := false
  lostF1 : Bool := false
  /-- E-class records without a partition that are being handled, and the records that arrived while an earlier one of their unit was
  (12 R348) -/
  handling : List (W32 × W64) := []
  nested : List (W32 × W64) := []
  dwMs : W16 := 50
  dwFires : W16 := 0
  dwStops : W16 := 0
  dwPart : BitVec 4 := 0
  scanDie : BitVec 4 := 0
  scanPos : BitVec 7 := 0
  scanPeriod : Byte := 24
  scanning : List Nat := []
  scanLast : Nat := 0
  scanResult : BitVec 2 := 0
  scanPattern : W16 := 0
  failed : List Nat := []
  badGran : List Nat := []
  cap0 : List CapRec := []
  cap1 : List CapRec := []
  ring : List (CapRec × Bool) := []
  overrun : W32 := 0
  incomplete : List (Nat × W64) := []
  pinnedMiB : W16 := 0
  capCfg : Tab CapCfg := []
  replay : Option Replay := none
  tracker : List DigestRec := []
  /-- benign duplicates, as the lead domain logs them (09 R291) -/
  dupLog : List DigestRec := []
  bands : List ((Nat × Nat × Nat) × (W64 × Nat)) := []
  extDig : List ((Nat × Nat) × W64) := []
  digRecs : List DigestRec := []
  /-- bytes staged into EXT tensors: partition, address, bytes (12 Table 12-6) -/
  extData : List (Nat × Nat × List Byte) := []
  /-- steps whose records are pinned, by partition (12 R362) -/
  pins : List (Nat × W64) := []
  /-- bytes of ring blocks that a wipe made unreadable and that are not erased yet (13 R372) -/
  unerased : Nat := 0
  deriving DecidableEq, Repr

/-! ### Links -/

/-- The port states of Table 11-3. -/
inductive PState where
  | disabled | down | train | discover | active | miswired | quarantine | failed
  deriving DecidableEq, Repr

/-- A Kamux port (11 R341). -/
structure Port where
  state : PState := .down
  lport : Byte := 0xFF
  lanes : Byte := 0
  fails : Byte := 0
  msw : Bool := false
  qrn : Bool := false
  peer : W64 := 0
  peerVlow : Byte := 0
  peerVmin : Byte := 0
  peerVmaj : Byte := 0
  peerRank : W16 := 0
  peerPort : BitVec 5 := 0
  peerRole : Byte := 0
  peerBest : W64 := 0
  rto : W16 := 20
  btag : Byte := 0
  en : Bool := true
  fecce : W32 := 0
  hcrc : W16 := 0
  auth : W16 := 0
  resent : W32 := 0
  downs : W16 := 0
  ttld : W16 := 0
  /-- the peer that an ACCEPT record has admitted (11 R333) -/
  accepted : Option (W64 × Nat) := none
  deriving DecidableEq, Repr

/-- A logical port (11 R319 to R322): LSEQ of each direction, the retry buffer with resend counts, frames received out of
order, credits in units of 64 bytes, an open gap, and the hold queues by job slot and destination. -/
structure LPort where
  nextSeq : BitVec 48 := 0
  expect : BitVec 48 := 0
  retry : List (Frame × Nat) := []
  early : List Frame := []
  credits : Nat := 4096
  gap : Bool := false
  hold : List ((Nat × Nat) × List Frame) := []
  waiting : List Frame := []
  deriving DecidableEq, Repr

/-- What a port transmits: frames, beacons and link-control frames (11 R317, R319 to R321). -/
inductive LinkOut where
  | frame (lport : Nat) (f : Frame)
  /-- a pre-admission management frame on a port that is not in service (11 R318, R330) -/
  | raw (port : Nat) (f : Frame)
  | beacon (port : Nat) (b : Beacon)
  | ack (lport : Nat) (lseq : BitVec 48)
  | nak (lport : Nat) (lseq : BitVec 48)
  | credit (lport credits : Nat)
  | refuse (lport : Nat) (lseq : BitVec 48)
  | resume (lport jslot drank : Nat)
  deriving DecidableEq, Repr

/-- A key of the key store (11 R335). -/
structure JobKey where
  job : W64
  key : W256
  deriving DecidableEq, Repr

/-- The link layer of the module (11 R330 to R338). Planes are keyed plane x 1024 + rank. Frame counters are keyed by
class, job slot and destination; accepted generations by class, job slot and origin. -/
structure Link where
  ports : Tab Port := []
  lports : Tab LPort := []
  planes : Tab W16 := []
  mgmtTab : Tab Nat := []
  /-- unkeyed frames forwarded: origin serial, counter and time (11 R330) -/
  flooded : List (W64 × W64 × W64) := []
  unacked : List (Nat × Nat × MgmtMsg × Nat) := []
  nextMsg : Nat := 0
  txCtr : Tab (W64 × W32) := []
  rxGen : Tab W32 := []
  floodCtr : W64 := 0
  rank : Option Nat := none
  /-- the place last received, and the neighbour report last sent (11 R329) -/
  placed : Option Place := none
  reported : Option NbrReport := none
  vmaj : Byte := 0
  vmin : Byte := 0
  vlow : Byte := 0
  bridgeN : Bool := true
  bridgeS : Bool := true
  staleKey : List (Nat × W64) := []
  out : List LinkOut := []
  xin : List (Nat × XPkt) := []
  fabric : List (Nat × Nat × XPkt) := []
  min_ : List (Nat × List Byte) := []
  /-- completions of host staging reads, by half (07 R227) -/
  host : List (Nat × List Byte) := []
  deriving DecidableEq, Repr

/-! ### Manager logic -/

/-- A job the manager rules (09 R267, 10 R305): the modules' ranks and partitions, the step and retry under collection,
the reports, the verdict written, the loss-scale state and record, and the rank whose record is used. -/
structure Job where
  job : W64
  members : List (Nat × Nat) := []
  step : W64 := 0
  retry : Byte := 0
  reports : List StepMsg := []
  verdict : BitVec 2 := 0
  ls : LsState := { clean := 0, sexp := 0, disc := 0, floor := 0 }
  rec_ : ScaleRec := { s0 := 0, smin := 0xE0, smax := 48, up := 1, window := 1000 }
  recRank : Nat := 1024
  started : Bool := false
  stopped : Bool := false
  /-- ranks drained for a retracting event in the last retry (12 R355) -/
  drained : List Nat := []
  deriving DecidableEq, Repr

/-- What a split without a ruling keeps waiting (14 R405). -/
inductive Deferred where
  | gate (job : W64) (value : W32) (ls : LsState)
  | retract (m : StepMsg) (parity : List StreamId)
  | report (m : StepMsg)
  deriving DecidableEq, Repr

/-- The hive manager logic and what an elect module keeps (11 R327 to R339, 13 R379 to R381, 14 R405). -/
structure Mgr where
  acting : Bool := false
  standing : Bool := false
  dual : Bool := false
  map : Option HiveMap := none
  admission : Option (W64 × List W384) := none
  mgrSerial : W64 := 0
  best : W64 := 0
  heartbeat : Bool := false
  reports : List NbrReport := []
  loc : List (W64 × Nat) := []
  members : List (Nat × W64 × W256) := []
  jobs : List Job := []
  /-- the ephemeral keys of open admissions, by candidate serial (13 R380) -/
  ephs : List (W64 × W384) := []
  queries : List (Nat × Nat) := []
  rulings : List (Nat × Nat) := []
  lastState : List JobState := []
  /-- ranks that have acknowledged their management table (11 R330), and the job slots this manager has given out, with the ranks that hold
  the key (11 R335) -/
  routed : List Nat := []
  jobSlots : List (W64 × Nat × List Nat) := []
  /-- keys asked for while no slot was free: job, the ranks its image names, and the rank that asked (11 R335) -/
  asks : List (W64 × List Nat × Nat) := []
  /-- what the manager has sent while a split had no ruling: GATE values, Retract messages and step reports (14 R405) -/
  deferred : List Deferred := []
  out : List (Nat × MgmtMsg) := []
  deriving DecidableEq, Repr

/-! ### Security and sessions -/

/-- An operator key slot (13 R386). -/
structure OpSlot where
  set : Bool := false
  key : W256 := 0
  role : Nat := 0
  fails : Byte := 0
  locked : Bool := false
  lockSecs : BitVec 12 := 0
  /-- Firefly time at which the lockout began -/
  lockAt : W64 := 0
  deriving DecidableEq, Repr

/-- A management session, open or opening (13 R384, R385); `sub` is the next SEQ due and the SEQs sent
that are not acknowledged. -/
structure Session where
  sid : W32
  via : Transport
  slot : Nat
  role : Nat
  accepted : Bool
  nc : W256
  nm : W256
  ks : W256
  lastIn : W64
  lastOut : W64
  sub : Option (W64 × List W64)
  eph : Option W384
  /-- the chunks of an image that have arrived (13 Table 13-5) -/
  image : List Byte := []
  deriving DecidableEq, Repr

/-- What the module sends to a session: message type and number (Table 13-4), the command's SEQ and status, bytes, event
records and Capsule records. -/
structure SessOut where
  sid : W32
  type : Nat
  num : W64 := 0
  seq : W64 := 0
  status : Byte := 0
  data : List Byte := []
  events : List EvRec := []
  caps : List CapRec := []
  hive : Option HiveMap := none
  tag : W256 := 0
  deriving DecidableEq, Repr

/-- A stored firmware image: version, SVN, whether it verifies, and its bytes (13 R390). -/
structure Fw where
  version : W16 := 0
  svn : Byte := 0
  valid : Bool := false
  image : List Byte := []
  deriving DecidableEq, Repr

/-- Security, sessions and firmware (13 R382 to R392). -/
structure Sec where
  slots : Tab OpSlot := []
  sessions : List Session := []
  nextSid : W32 := 1
  authf : W16 := 0
  alert : W16 := 0
  alertMask : W16 := 0xFFFF
  unreadSeq : W64 := 0
  jtagUnlocked : Bool := false
  fw0 : Fw := {}
  fw1 : Fw := {}
  active : Nat := 0
  running : Nat := 0
  fallbk : Bool := false
  ownerActivated : Bool := false
  addr4 : W32 := 0
  netPfx : Byte := 0
  dhcp : Bool := true
  port : W16 := 7439
  portInForce : W16 := 7439
  jobKeys : Tab JobKey := []
  hiveKey : Option (W64 × W256) := none
  ringKey : BitVec 512 := 0
  out : List SessOut := []
  deriving DecidableEq, Repr

/-- The images that have been accepted, in order, the wipe register, and the ownership tags (13 R373, R392); a tag is tenant + 1, and 0
is CLEAN. Core tags are keyed die x 128 + core, granule tags by address / 4096. -/
structure Loader where
  queue : List (W32 × W64 × List Byte) := []
  /-- loads whose job has no key yet (11 R335) -/
  held : List (W32 × W64 × List Byte) := []
  wipeMs : W16 := 0
  wipeCause : BitVec 4 := 0
  wipeRing : Bool := false
  wipeHbm : Bool := false
  wipeSram : Bool := false
  coreTag : Tab Nat := []
  granTag : Tab Nat := []
  deriving DecidableEq, Repr

/-! ### Power, clocks and the service pins -/

/-- The states of Table 14-2. -/
inductive PowState where
  | standby | dark | idle | run
  deriving DecidableEq, Repr

/-- PWR_TWIN.LEAD. -/
inductive Lead where
  | west | east | undecided
  deriving DecidableEq, Repr

/-- The Carapace loader of a control die (01 R26, 08 R252): loads applied, the last report's code, a scrub, and the last report. -/
structure LdrHalf where
  count : W16 := 0
  code : Byte := 0
  scrub : Bool := false
  report : List Byte := []
  deriving DecidableEq, Repr

/-- What each control die keeps of itself: its Firefly domain, its service inputs, straps and twin state (14 R410, 15 R429). -/
structure FfHalf where
  up : Bool := false
  hbLoss : W16 := 0
  split : Bool := false
  splitAt : W64 := 0
  /-- the split has been ruled, or West leads by default (14 R405) -/
  ruled : Bool := false
  fenced : Bool := false
  pinOk : Bool := false
  sbOk : Bool := false
  claim : Bool := false
  selfOk : Bool := false
  clkInt : Bool := false
  coolOk : Bool := false
  pwrEn : Bool := false
  resetIn : Bool := false
  pinReset : Bool := false
  pinPwr : Bool := false
  pinCool : Bool := false
  /-- the times of the filtered changes of each input in the last second (15 R419) -/
  chgC : List W64 := []
  chgP : List W64 := []
  chgS : List W64 := []
  coolF : Bool := false
  pwrF : Bool := false
  rstF : Bool := false
  strapValid : Bool := false
  strapChg : Bool := false
  badRole : Bool := false
  mism : Bool := false
  rack : BitVec 6 := 0
  slot : BitVec 5 := 0
  role : BitVec 2 := 0
  pcieUp : Bool := false
  ldr : LdrHalf := {}
  /-- the half's own view of the lead, and what PWR_IN and PWR_THERM show of the half (14 R405, R410) -/
  lead : Lead := .undecided
  pwrW : W16 := 0
  vin : W16 := 0
  throttles : W16 := 0
  deriving DecidableEq, Repr

/-- Power and start-up of the module (14 R394, R402 to R410; log 80, DESIGN CHOICE). -/
structure Pwr where
  supply : Bool := false
  rails : Bool := false
  inReset : Bool := false
  state : PowState := .standby
  step : BitVec 4 := 0
  start : Bool := true
  stopped : Bool := false
  supLat : Bool := false
  tripLat : Bool := false
  coolLat : Bool := false
  cap : W16 := 6400
  /-- the last sample of each sensor: rows die x 9 + row, stacks 108 + die x 2 + stack, control dies 132 + half x 2 + sensor; and of each
  rail monitor: dies, stacks 12 + die x 2 + stack, control dies 36 + half (14 R401; log 157, DESIGN CHOICE) -/
  temps : Tab W16 := []
  volts : Tab W16 := []
  /-- an input fault with PWR_EN deasserted that acts on its next assertion (15 R428) -/
  supDue : Option W16 := none
  wFail : Bool := false
  eFail : Bool := false
  lead : Lead := .undecided
  coolTimer : Bool := false
  coolTime : W64 := 0
  thermPin : Bool := false
  ffTime : W64 := 0
  deriving DecidableEq, Repr

/-- The kinds of a physical position (01 R31). -/
inductive PosKind where
  | exposed | spare | fusedOff
  deriving DecidableEq, Repr

/-- The fuses (01 R31, 13 R367, R376). Position keys are die x 72 + position; `kinds` lists the positions that are not
exposed. -/
structure Fuses where
  gradeB : Bool := false
  serial : W64 := 0
  kinds : Tab PosKind := []
  absent : List W32 := []
  lcsW : BitVec 3 := 0
  lcsE : BitVec 3 := 0
  idKey : W384 := 0
  wrapKey : W256 := 0
  cert : List Byte := []
  svnFloor : Byte := 0
  keysBlown : Bool := false
  deriving DecidableEq, Repr

/-- THE STATE OF THE MODULE. -/
structure State where
  /-- the commands that wait, first in, first out -/
  pending : List Instr := []
  /-- how many free values the run has taken (the model's own field, log 7) -/
  free : Nat := 0
  fuse : Fuses := {}
  /-- device memory by plain device address (07 R195); an unlisted byte reads as zero (13 R370; log 3, DEDUCED) -/
  mem : List Host.Cell := []
  /-- error patterns by codeword address -/
  errs : Tab ErrPat := []
  /-- cores by die x 128 + logical number -/
  cores : Tab Core := []
  dies : Tab Die := []
  upds : Tab UpdUnit := []
  objs : Tab SyncObj := []
  syn0 : SynHalf := {}
  syn1 : SynHalf := {}
  parts : Tab Part := []
  ev : Events := {}
  link : Link := {}
  mgr : Mgr := {}
  sec : Sec := {}
  ldr : Loader := {}
  pwr : Pwr := {}
  ff0 : FfHalf := {}
  ff1 : FfHalf := {}
  deriving DecidableEq, Repr

/-- The spares of every die in the fuse map of reset: positions 64 to 71 (01 R31; log 4, DESIGN CHOICE). -/
def resetKinds : Tab PosKind :=
  (List.range 12).flatMap fun d => (List.range 8).map fun k => (d * 72 + 64 + k, PosKind.spare)

/-- THE MODULE AT RESET, before its input supply has risen: every register at the reset value of its table, memory
wiped, every queue empty, and the fuses as log 4 names them. -/
def State.reset : State :=
  { fuse := { kinds := resetKinds }
    sec := { fw0 := { valid := true } } }

end Sys2Proof.Machine
end

