-- ==== Sys2Proof/Machine/Num.lean ====
section
/-! DEFINITION. Number formats, conversion, long words and Finish: the exact arithmetic of spec/02_number_formats.md and
spec/03_exact_sums.md, and the Cicada generator and tile digest (10 R310, 04 R131). -/

namespace Sys2Proof.Machine

/-- An exact value `(-1)^neg * mag * 2^exp` (02 R63). -/
structure Exact where
  neg : Bool
  mag : Nat
  exp : Int
  deriving DecidableEq, Repr

/-- A decoded element (02 R52, R53). -/
inductive Elem where
  | nan
  | inf (neg : Bool)
  | fin (v : Exact)
  deriving DecidableEq, Repr

/-- What a converting unit writes into one output element: a value, an infinity of a pure conversion (02 R61), a NaN, or a
Wide-top sum (03 R94). -/
inductive OutVal where
  | nan
  | inf (neg : Bool)
  | fin (v : Exact)
  | wideTop (neg : Bool)
  deriving DecidableEq, Repr

/-- A row of Table 2-2, with the canonical NaN of Table 2-3. -/
structure FmtP where
  bits : Nat
  p : Nat
  emin : Int
  emax : Int
  bias : Int
  hasInf : Bool
  maxsig : Nat
  qnan : Nat
  deriving DecidableEq, Repr

def fE4M3 : FmtP := ⟨8, 4, -6, 8, 7, false, 14, 0x7F⟩
def fE5M2 : FmtP := ⟨8, 3, -14, 15, 15, true, 7, 0x7E⟩
def fBF16 : FmtP := ⟨16, 8, -126, 127, 127, true, 255, 0x7FC0⟩
def fFP16 : FmtP := ⟨16, 11, -14, 15, 15, true, 2047, 0x7E00⟩
def fFP32 : FmtP := ⟨32, 24, -126, 127, 127, true, 16777215, 0x7FC00000⟩

/-- The element format of a format code of Table 2-1. Codes that name no floating-point format give FP32; no caller
reaches them (06 R172). -/
def fmtP (code : Nat) : FmtP :=
  match code with
  | 0 | 2 | 4 => fE4M3
  | 1 | 3 | 5 => fE5M2
  | 6 => fBF16
  | 7 => fFP16
  | _ => fFP32

/-- The block size of a scaled-block code, 0 for every other (Table 2-1). -/
def sbBlock (code : Nat) : Nat :=
  match code with
  | 2 | 3 => 16
  | 4 | 5 => 32
  | _ => 0

/-- Bytes per element of a format code (Table 2-1). -/
def fmtBytes (code : Nat) : Nat :=
  match code with
  | 6 | 7 => 2
  | 8 => 4
  | 9 => 32
  | _ => 1

/-- Next rung of the replay ladder (Table 2-5). -/
def nextRung (code : Nat) : Option Nat :=
  match code with
  | 0 => some 1
  | 2 => some 3
  | 4 => some 5
  | 1 | 3 | 5 => some 6
  | 6 | 7 => some 8
  | _ => none

/-- Whether `ceil` is `fmt` or is reached from it by Table 2-5 (02 R69). The ladder has at most three rungs above a format. -/
def ladderReaches (fmt ceil : Nat) : Bool :=
  let r1 := nextRung fmt
  let r2 := r1.bind nextRung
  let r3 := r2.bind nextRung
  fmt == ceil || r1 == some ceil || r2 == some ceil || r3 == some ceil

/-! ### Conversion control word (Table 2-6) -/

def ccwFmt (c : W16) : Nat := fld c 15 12
def ccwCeil (c : W16) : Nat := fld c 11 8
def ccwRnd (c : W16) : Nat := fld c 7 6
def ccwPol (c : W16) : Nat := fld c 5 4
def ccwAxis (c : W16) : Nat := fld c 3 3
def ccwKslot (c : W16) : Nat := fld c 2 0

/-- Table 2-6 and R69: whether a conversion control word breaks no rule (02 R73). -/
def ccwOk (c : W16) : Bool :=
  if ccwFmt c == 9 then ccwCeil c == 9 && fld c 7 0 == 0
  else
    decide (ccwFmt c ≤ 8) && decide (ccwCeil c ≤ 8) && ladderReaches (ccwFmt c) (ccwCeil c)
      && decide (ccwRnd c ≤ 1) && decide (ccwPol c ≤ 1)
      && (ccwAxis c == 0 || sbBlock (ccwFmt c) != 0)
      && (ccwKslot c == 0 || ccwRnd c == 1)

/-! ### Decoding elements -/

/-- The value of a finite encoding and the special encodings (02 R52, R53). -/
def decodeElem (f : FmtP) (b : Nat) : Elem :=
  let fw := f.p - 1
  let ew := f.bits - f.p
  let neg := b / 2 ^ (f.bits - 1) % 2 == 1
  let e := b / 2 ^ fw % 2 ^ ew
  let fr := b % 2 ^ fw
  let top := 2 ^ ew - 1
  if e == 0 then .fin ⟨neg, fr, f.emin - fw⟩
  else if e == top && f.hasInf then (if fr == 0 then .inf neg else .nan)
  else if e == top && fr == 2 ^ fw - 1 then .nan
  else .fin ⟨neg, fr + 2 ^ fw, (e : Int) - f.bias - fw⟩

/-- An element of a block with scale byte `s` (02 R54); a plain element has scale 0x7F (02 R57). -/
def scaleElem (s : Nat) (e : Elem) : Elem :=
  if s == 0xFF then .nan
  else match e with
    | .fin v => .fin { v with exp := v.exp + ((s : Int) - 127) }
    | e => e

/-! ### Conversion (02 R64) -/

/-- Index of the most significant bit. -/
def msb (n : Nat) : Int := Nat.log2 n

/-- `encode` of 02 R64: value `keep * 2^q`. -/
def encodeFmt (f : FmtP) (neg : Bool) (keep : Nat) (q : Int) : Nat :=
  let s := if neg then 2 ^ (f.bits - 1) else 0
  if keep < 2 ^ (f.p - 1) then s + keep
  else
    let e := (q + ((f.p : Int) - 1) + f.bias).toNat
    s + e * 2 ^ (f.p - 1) + (keep - 2 ^ (f.p - 1))

/-- `cvt` of 02 R64: the encoding and whether the conversion overflowed. -/
def cvt (f : FmtP) (v : Exact) (sr : Bool) (u : Nat) : Nat × Bool :=
  if v.mag == 0 then (encodeFmt f v.neg 0 0, false)
  else
    let lead := msb v.mag + v.exp
    let q := max lead f.emin - ((f.p : Int) - 1)
    let qmax := f.emax - ((f.p : Int) - 1)
    let nd := q - v.exp
    let keep0 := if nd ≤ 0 then v.mag * 2 ^ (-nd).toNat else v.mag / 2 ^ nd.toNat
    let dropped := if nd ≤ 0 then 0 else v.mag % 2 ^ nd.toNat
    let satur := (encodeFmt f v.neg f.maxsig qmax, true)
    if sr && (decide (q > qmax) || (q == qmax && (decide (keep0 > f.maxsig) || (keep0 == f.maxsig && dropped != 0)))) then
      satur
    else
      let n := nd.toNat
      let up :=
        if nd ≤ 0 then false
        else if sr then
          let f32 := if n ≥ 32 then dropped / 2 ^ (n - 32) else dropped * 2 ^ (32 - n)
          decide (f32 > u)
        else
          let half := 2 ^ (n - 1)
          decide (dropped > half) || (dropped == half && keep0 % 2 == 1)
      let keep1 := if up then keep0 + 1 else keep0
      let carry := keep1 == 2 ^ f.p
      let keep := if carry then keep1 / 2 else keep1
      let q' := if carry then q + 1 else q
      if q' > qmax || (q' == qmax && keep > f.maxsig) then satur
      else (encodeFmt f v.neg keep q', false)

/-- The encoding of an infinity (02 R53), or the canonical NaN in E4M3 (02 R61). -/
def encodeInf (f : FmtP) (neg : Bool) : Nat :=
  if f.hasInf then
    (if neg then 2 ^ (f.bits - 1) else 0) + (2 ^ (f.bits - f.p) - 1) * 2 ^ (f.p - 1)
  else f.qnan

/-- Flags that two outputs raise together (02 R67: the flags are sticky). -/
def Flags.or (a b : Flags) : Flags :=
  { sat := a.sat || b.sat, empty := a.empty || b.empty, lwRange := a.lwRange || b.lwRange
    wideTop := a.wideTop || b.wideTop, special := a.special || b.special, wide := a.wide || b.wide }

/-- `convert` of 02 R64 over an output value, with the Wide-top write of 03 R94. -/
def convertOut (f : FmtP) (x : OutVal) (sr : Bool) (u : Nat) : Nat × Flags :=
  match x with
  | .nan => (f.qnan, { special := true })
  | .inf neg => (encodeInf f neg, { special := true })
  | .wideTop neg => (encodeFmt f neg f.maxsig (f.emax - ((f.p : Int) - 1)), { wideTop := true })
  | .fin v => let r := cvt f v sr u; (r.1, { sat := r.2 })

/-! ### Scaled blocks (02 R74) -/

/-- `a.mag * 2^a.exp > b * 2^e`, exactly. -/
def magGt (m : Nat) (me : Int) (b : Nat) (be : Int) : Bool :=
  let lo := min me be
  decide (m * 2 ^ (me - lo).toNat > b * 2 ^ (be - lo).toNat)

/-- The value of largest magnitude among the finite values of a block. -/
def largest : List OutVal → Exact
  | [] => ⟨false, 0, 0⟩
  | .fin v :: rest =>
    let r := largest rest
    if magGt v.mag v.exp r.mag r.exp then v else r
  | _ :: rest => largest rest

/-- `pick_scale` of 02 R74, as the exponent of the scale; none when every finite value is zero. -/
def pickScale (f : FmtP) (vals : List OutVal) : Option Int :=
  let m := largest vals
  if m.mag == 0 then none
  else
    let x := msb m.mag + m.exp - f.emax
    let x := if magGt m.mag m.exp f.maxsig (f.emax - ((f.p : Int) - 1) + x) then x + 1 else x
    some (max (-127) (min 127 x))

/-- A block of output values to its scale byte and element bytes (02 R74, steps 1 to 6). `us` gives each element its u. -/
def convertBlock (f : FmtP) (vals : List OutVal) (sr : Bool) (us : List Nat) : Nat × List Nat × Flags :=
  if vals.any (· == .nan) then (0xFF, vals.map fun _ => f.qnan, { special := true })
  else
    let top := vals.any fun v => match v with | .wideTop _ => true | _ => false
    let x := if top then some 127 else pickScale f vals
    let sh := x.getD 0
    let outs := (vals.zip us).map fun (v, u) =>
      match v with
      | .fin e => convertOut f (.fin { e with exp := e.exp - sh }) sr u
      | v => convertOut f v sr u
    let scale := match x with | none => 0 | some x => (x + 127).toNat
    (scale, outs.map (·.1), outs.foldl (fun acc o => acc.or o.2) {})

/-! ### Alignment and long words -/

/-- `align` of 03 R88: the floor of the addend on the anchor grid. -/
def align (v : Exact) (a : Int) : Int :=
  let sh := v.exp - a
  let m : Int := if v.neg then -(v.mag : Int) else v.mag
  if sh ≥ 0 then m * 2 ^ sh.toNat else m.fdiv (2 ^ (-sh).toNat)

/-- Largest magnitude a long word represents in a mode (03 R76, R93). -/
def lwMax (wide : Bool) : Int := if wide then 2 ^ 511 - 1 else 2 ^ 255 - 1

/-- The adder's modulus: 24 guard bits above the word (03 R78). -/
def lwMod (wide : Bool) : Nat := if wide then 2 ^ 536 else 2 ^ 280

/-- `accumulate` of 03 R88: one aligned addend into a long word. -/
def LW.add (w : LW) (x : Int) (wide : Bool) : LW :=
  { n := (w.n + x).bmod (lwMod wide), nan := w.nan, ovf := w.ovf || decide (x.natAbs > (lwMax wide).toNat) }

/-- A NaN addend sets the tag (02 R60). -/
def LW.poison (w : LW) : LW := { w with nan := true }

/-- The Wide condition of a long word (03 R91), which the tag excludes (03 R101). No word of wide mode meets it: its sums wrap modulo
2^536 and its Over bit says nothing (log 122, DESIGN CHOICE). -/
def LW.isWide (w : LW) (wide : Bool) : Bool :=
  !w.nan && !wide && (w.ovf || decide (w.n.natAbs > (lwMax false).toNat))

/-- The value that a converting unit takes of a long word. In normal mode it is the word's 256 bits, since its guard bits are
visible to no instruction (03 R78, R99; log 99, DEDUCED); in wide mode a word beyond its range shows through them (03 R94, R98). -/
def LW.seen (w : LW) (wide : Bool) : Int := if wide then w.n else (BitVec.ofInt 256 w.n).toInt

/-- What a converting unit makes of a long word at an anchor: 02 R60, R63, 03 R94. -/
def LW.out (w : LW) (anchor : Int) (wide : Bool) : OutVal :=
  if w.nan then .nan
  else if wide && decide (w.n.natAbs > (lwMax true).toNat) then .wideTop (decide (w.n < 0))
  else .fin ⟨decide (w.seen wide < 0), (w.seen wide).natAbs, anchor⟩

/-- The 256-bit NaN pattern (03 R77). -/
def lwNan : W256 := BitVec.ofNat 256 (2 ^ 255)

/-- A long word written with FMT = LW (03 R77, R95): its 256 bits and the flags. In normal mode a word that meets the Wide
condition has no stated stored form; `open_` stands for it (log 14, DESIGN CHOICE). -/
def LW.store (w : LW) (wide : Bool) (open_ : W256) : W256 × Flags :=
  if w.nan then (lwNan, { special := true })
  else if w.isWide wide then (open_, { wide := true })
  else if w.n.natAbs > (lwMax false).toNat then (lwNan, { lwRange := true })
  else (BitVec.ofInt 256 w.n, {})

/-- A stored 256-bit pattern read as a long word (03 R77). -/
def LW.load (b : W256) : LW :=
  if b = lwNan then { nan := true } else { n := b.toInt }

/-! ### Matrix addends -/

/-- The product of two exact values. -/
def Exact.mul (a b : Exact) : Exact := ⟨a.neg != b.neg, a.mag * b.mag, a.exp + b.exp⟩

/-- The sum of two exact values; a zero sum is negative only when both terms are negative zeros (02 R62). -/
def Exact.add (a b : Exact) : Exact :=
  let lo := min a.exp b.exp
  let x : Int := (a.mag * 2 ^ (a.exp - lo).toNat : Nat)
  let y : Int := (b.mag * 2 ^ (b.exp - lo).toNat : Nat)
  let s := (if a.neg then -x else x) + (if b.neg then -y else y)
  if s = 0 then ⟨a.neg && b.neg && a.mag == 0 && b.mag == 0, 0, lo⟩
  else ⟨decide (s < 0), s.natAbs, lo⟩

/-- An exact value from a signed integer and an exponent. -/
def Exact.ofInt (n : Int) (e : Int) : Exact := ⟨decide (n < 0), n.natAbs, e⟩

/-- The signed integer of an exact value at its own exponent. -/
def Exact.toInt (v : Exact) : Int := if v.neg then -(v.mag : Int) else v.mag

def Exact.negate (v : Exact) : Exact := { v with neg := !v.neg }

/-- Truncation of an FP32 fine-mode product toward zero to its 32 leading bits (03 R86). -/
def fineTrunc (v : Exact) : Exact :=
  let t := (msb v.mag - 31).toNat
  { v with mag := v.mag / 2 ^ t * 2 ^ t }

/-- A product of two elements: none when either is NaN or infinite (02 R59). -/
def elemMul (a b : Elem) : Option Exact :=
  match a, b with
  | .fin x, .fin y => some (x.mul y)
  | _, _ => none

/-- The exact sum of the products of one block (03 R85): none when any element is NaN or infinite. -/
def blockSum : List (Elem × Elem) → Option Exact
  | [] => some ⟨false, 0, 0⟩
  | (a, b) :: rest =>
    match elemMul a b, blockSum rest with
    | some p, some r => some (p.add r)
    | _, _ => none

/-! ### Finish (03 R99) -/

/-- Greatest `r` with `r * r ≤ n`, found bit by bit from bit `k - 1` down. -/
def isqrtFrom (n : Nat) : Nat → Nat → Nat
  | 0, r => r
  | k + 1, r => if (r + 2 ^ k) * (r + 2 ^ k) ≤ n then isqrtFrom n k (r + 2 ^ k) else isqrtFrom n k r

/-- floor of the square root. -/
def isqrt (n : Nat) : Nat := isqrtFrom n (Nat.log2 n / 2 + 1) 0

/-- `ratio` of 03 R99. -/
def ratio (num : Int) (den : Nat) (e : Int) : Exact :=
  if num = 0 then ⟨false, 0, 0⟩
  else
    let m := num.natAbs
    let k := 64 + msb den - msb m
    let nn := if k ≥ 0 then m * 2 ^ k.toNat else m
    let dd := if k ≥ 0 then den else den * 2 ^ (-k).toNat
    let st := if nn % dd = 0 then 0 else 1
    ⟨decide (num < 0), nn / dd * 2 + st, e - k - 1⟩

/-- `root` of 03 R99. -/
def root (num den : Nat) (e : Int) : Exact :=
  if num = 0 then ⟨false, 0, 0⟩
  else
    let k0 := 130 + msb den - msb num
    let k := if (e - k0) % 2 = 0 then k0 else k0 + 1
    let nn := if k ≥ 0 then num * 2 ^ k.toNat else num
    let dd := if k ≥ 0 then den else den * 2 ^ (-k).toNat
    let x := nn / dd
    let r := isqrt x
    let st := if nn % dd = 0 ∧ r * r = x then 0 else 1
    ⟨false, r * 2 + st, (e - k) / 2 - 1⟩

/-- What Finish yields (03 R99, R100): a value, the canonical NaN with Special or with cause EMPTY, or an unbounded value. -/
inductive FinRes where
  | val (v : Exact)
  | nanSpecial
  | nanEmpty
  | unbounded
  deriving DecidableEq, Repr

/-- `finish` of 03 R99 with the limit cases of R100. Modes are numbered as in Table 6-10; `a2` is the anchor of S2. S2 is an
operand in every mode and S1 in every mode but NORM, so a tag of either gives NaN there (03 R100, 06 R186; log 100, DEDUCED). -/
def finish (mode : Nat) (s1 s2 : LW) (a a2 : Int) (n : Nat) (eps : Exact) : FinRes :=
  if (mode != 1 && s1.nan) || s2.nan then .nanSpecial
  else
    let d : Int := n * s2.n - s1.n * s1.n
    let empty := (decide (mode ≥ 2) && n == 0) || ((mode == 4 || mode == 6) && n == 1)
    if empty then .nanEmpty
    else match mode with
      | 0 => .val (Exact.ofInt s1.n a)
      | 1 => if s2.n < 0 then .nanSpecial else .val (root s2.n.natAbs 1 a2)
      | 2 => .val (ratio s1.n n a)
      | 3 => .val (ratio d (n * n) (2 * a))
      | 4 => .val (ratio d (n * (n - 1)) (2 * a))
      | 5 => if d < 0 then .nanSpecial else .val (root d.natAbs (n * n) (2 * a))
      | 6 => if d < 0 then .nanSpecial else .val (root d.natAbs (n * (n - 1)) (2 * a))
      | _ =>
        let c := min (2 * a) eps.exp
        let w : Int := d * 2 ^ (2 * a - c).toNat + (eps.mag * (n * n) * 2 ^ (eps.exp - c).toNat : Nat)
        if w < 0 then .nanSpecial
        else if w = 0 then .unbounded
        else .val (root (n * n) w.natAbs (-c))

/-! ### The Cicada generator (10 R310) -/

def cicadaMul (i : Nat) : W32 :=
  match i with | 0 => 0x00010021 | 1 => 0x01000201 | 2 => 0x00102001 | _ => 0x10020001
def cicadaRot (i : Nat) : Nat := match i with | 0 => 8 | 1 => 12 | 2 => 20 | _ => 24
def cicadaRc (r : Nat) : W32 :=
  match r with | 0 => 0x7A1C53E9 | 1 => 0xC4D28B16 | 2 => 0x2E9F6A4D | _ => 0x91B70C58

/-- Word `i` of a 128-bit value. -/
def word32 (x : W128) (i : Nat) : W32 := x.extractLsb' (32 * i) 32

/-- One round on the four words. -/
def cicadaRound (k : Nat → W32) (r : Nat) (x : Nat → W32) : Nat → W32 :=
  let m := fun i => (x i ^^^ (k ((i + r) % 4) ^^^ cicadaRc r)) * cicadaMul i
  let y0 := m 0 ^^^ (m 1).rotateLeft (cicadaRot 0)
  let y1 := m 1 ^^^ (m 2).rotateLeft (cicadaRot 1)
  let y2 := m 2 ^^^ (m 3).rotateLeft (cicadaRot 2)
  let y3 := m 3 ^^^ (m 0).rotateLeft (cicadaRot 3)
  fun i => match i with | 0 => y0 | 1 => y1 | 2 => y2 | _ => y3

/-- `cicada` of 10 R310 (log 79, DEDUCED). -/
def cicada (key ctr : W128) : W128 :=
  let k := word32 key
  let x := cicadaRound k 3 (cicadaRound k 2 (cicadaRound k 1 (cicadaRound k 0 (word32 ctr))))
  ((x 3 ^^^ k 3) ++ (x 2 ^^^ k 2) ++ (x 1 ^^^ k 1) ++ (x 0 ^^^ k 0)).setWidth 128

/-- The word u of a draw: bits [31:0] of the output for a purpose, step and index (10 R309, R311). -/
def cicadaU (key : W128) (purpose : Nat) (step : W64) (index : Nat) : Nat :=
  let ctr : W128 := BitVec.ofNat 128 (purpose * 2 ^ 112 + step.toNat % 2 ^ 48 * 2 ^ 64 + index % 2 ^ 64)
  (cicada key ctr).toNat % 2 ^ 32

/-! ### Tile digest (04 R131) -/

/-- `dmix`. -/
def dmix (x : W64) : W64 :=
  let x := x ^^^ (x >>> 32)
  let x := x * 0xA3C59E172B6D4F85
  let x := x ^^^ (x >>> 29)
  let x := x * 0x6C8E9CF570132B3B
  x ^^^ (x >>> 32)

/-- `ehash` of one written word. -/
def ehash (tid r c : Nat) (sc : Bool) (fmt t w : Nat) : W64 :=
  let pos := dmix (BitVec.ofNat 64 (r % 2 ^ 32 * 2 ^ 32 + c % 2 ^ 32))
  let tag : W64 := BitVec.ofNat 64
    (tid % 2 ^ 16 * 2 ^ 48 + (if sc then 2 ^ 47 else 0) + fmt % 16 * 2 ^ 40 + t % 8 * 2 ^ 32 + w % 2 ^ 32)
  dmix (pos ^^^ tag)

/-! ### The checksum field (04 R124) -/

/-- The prime modulus 2^256 - 189. -/
def ckMod : Nat := 2 ^ 256 - 189

/-- `b^e mod M` by repeated squaring over the bits of `e`; `k` bounds the bits. -/
def powMod (b : Nat) : Nat → Nat → Nat
  | 0, _ => 1
  | k + 1, e =>
    let h := powMod (b * b % ckMod) k (e / 2)
    if e % 2 = 1 then b * h % ckMod else h

/-- The map φ of 04 R124: an exact value modulo M, with 2^255 - 94 the inverse of 2. -/
def phi (v : Exact) : Nat :=
  let m := v.mag % ckMod
  let x :=
    if v.exp ≥ 0 then m * powMod 2 16 v.exp.toNat % ckMod
    else m * powMod (2 ^ 255 - 94) 16 (-v.exp).toNat % ckMod
  if v.neg then (ckMod - x) % ckMod else x

/-- The residue that an aligned addend leaves below the anchor (04 R110). -/
def residue (v : Exact) (a : Int) : Exact := v.add (Exact.ofInt (-(align v a)) a)

end Sys2Proof.Machine
end

