-- ==== Sys2Proof/Machine/Access.lean ====
section
/-! DEFINITION. Access to the state: sparse tables, the parts of the state a command names, and small helpers. -/

namespace Sys2Proof.Machine

/-! ### Sparse tables -/

/-- Value at a key; `d` is what an unlisted key has. -/
def tget {α : Type} (d : α) : Tab α → Nat → α
  | [], _ => d
  | (j, v) :: t, k => if j = k then v else tget d t k

/-- Put a value at a key, keeping the keys rising. -/
def tput {α : Type} : Tab α → Nat → α → Tab α
  | [], k, v => [(k, v)]
  | (j, x) :: t, k, v => if k < j then (k, v) :: (j, x) :: t else if k = j then (k, v) :: t else (j, x) :: tput t k v

/-- Set a key's value, listing no default. -/
def tset {α : Type} [DecidableEq α] (d : α) (t : Tab α) (k : Nat) (v : α) : Tab α :=
  if v = d then t.filter fun e => e.1 != k else tput t k v

/-- Keys strictly rising above `lo`, and no default listed. -/
def twfFrom {α : Type} [DecidableEq α] (d : α) : Option Nat → Tab α → Bool
  | _, [] => true
  | lo, (j, v) :: t => (match lo with | none => true | some l => decide (l < j)) && decide (v ≠ d) && twfFrom d (some j) t

/-- The canonical form of a sparse table. -/
def twf {α : Type} [DecidableEq α] (d : α) (t : Tab α) : Bool := twfFrom d none t

/-- The canonical form of device memory: an unlisted byte reads as zero (log 3, DEDUCED). -/
abbrev Memory.wf (m : List Host.Cell) : Bool := twf (0 : Byte) m

/-! ### Sorting -/

/-- Put an item before the first one that is not below it. -/
def insertBy {α : Type} (le : α → α → Bool) (x : α) : List α → List α
  | [] => [x]
  | y :: ys => if le x y then x :: y :: ys else y :: insertBy le x ys

/-- A list in rising order; equal items keep their order. -/
def sortBy {α : Type} (l : List α) (le : α → α → Bool) : List α := l.foldr (insertBy le) []

/-! ### Parts of the state -/

/-- Key of a core: die x 128 + logical number, as in Table 7-1. -/
def coreKey (die core : Nat) : Nat := die * 128 + core

def ckey (c : CoreId) : Nat := coreKey c.die c.core
def skey (i : StreamId) : Nat := coreKey i.die i.core

def Core.stream (c : Core) (p : Pass) : Stream :=
  match p with | .fwd => c.fwd | .bwd => c.bwd | .upd => c.upd

def Core.setStream (c : Core) (p : Pass) (st : Stream) : Core :=
  match p with
  | .fwd => { c with fwd := st }
  | .bwd => { c with bwd := st }
  | .upd => { c with upd := st }

def State.core (s : State) (k : Nat) : Core := tget {} s.cores k
def State.setCore (s : State) (k : Nat) (c : Core) : State := { s with cores := tset {} s.cores k c }
def State.modCore (s : State) (k : Nat) (f : Core → Core) : State := s.setCore k (f (s.core k))

def State.stream (s : State) (i : StreamId) : Stream := (s.core (skey i)).stream i.pass
def State.setStream (s : State) (i : StreamId) (st : Stream) : State :=
  s.setCore (skey i) ((s.core (skey i)).setStream i.pass st)
def State.modStream (s : State) (i : StreamId) (f : Stream → Stream) : State := s.setStream i (f (s.stream i))

def State.die (s : State) (d : Nat) : Die := tget {} s.dies d
def State.modDie (s : State) (d : Nat) (f : Die → Die) : State := { s with dies := tset {} s.dies d (f (s.die d)) }

def State.unit (s : State) (u : Nat) : UpdUnit := tget {} s.upds u
def State.modUnit (s : State) (u : Nat) (f : UpdUnit → UpdUnit) : State := { s with upds := tset {} s.upds u (f (s.unit u)) }

def State.part (s : State) (p : Nat) : Part := tget {} s.parts p
def State.modPart (s : State) (p : Nat) (f : Part → Part) : State := { s with parts := tset {} s.parts p (f (s.part p)) }

def State.obj (s : State) (o : Nat) : SyncObj := tget {} s.objs o
def State.modObj (s : State) (o : Nat) (f : SyncObj → SyncObj) : State := { s with objs := tset {} s.objs o (f (s.obj o)) }

def State.syn (s : State) (half : Nat) : SynHalf := if half = 0 then s.syn0 else s.syn1
def State.modSyn (s : State) (half : Nat) (f : SynHalf → SynHalf) : State :=
  if half = 0 then { s with syn0 := f s.syn0 } else { s with syn1 := f s.syn1 }

def State.ff (s : State) (half : Nat) : FfHalf := if half = 0 then s.ff0 else s.ff1
def State.modFf (s : State) (half : Nat) (f : FfHalf → FfHalf) : State :=
  if half = 0 then { s with ff0 := f s.ff0 } else { s with ff1 := f s.ff1 }

def State.port (s : State) (p : Nat) : Port := tget {} s.link.ports p
def State.modPort (s : State) (p : Nat) (f : Port → Port) : State :=
  { s with link := { s.link with ports := tset {} s.link.ports p (f (s.port p)) } }

def State.lport (s : State) (p : Nat) : LPort := tget {} s.link.lports p
def State.modLport (s : State) (p : Nat) (f : LPort → LPort) : State :=
  { s with link := { s.link with lports := tset {} s.link.lports p (f (s.lport p)) } }

def State.modEv (s : State) (f : Events → Events) : State := { s with ev := f s.ev }
def State.modSec (s : State) (f : Sec → Sec) : State := { s with sec := f s.sec }
def State.modMgr (s : State) (f : Mgr → Mgr) : State := { s with mgr := f s.mgr }
def State.modLink (s : State) (f : Link → Link) : State := { s with link := f s.link }
def State.modPwr (s : State) (f : Pwr → Pwr) : State := { s with pwr := f s.pwr }
def State.modLdr (s : State) (f : Loader → Loader) : State := { s with ldr := f s.ldr }
def State.modFuse (s : State) (f : Fuses → Fuses) : State := { s with fuse := f s.fuse }

/-- A free value (log 7, DESIGN CHOICE): the `n`-th since reset, and the state that has taken it. -/
def State.takeFree (s : State) : BitVec 512 × State := (Config.freeValue s.free, { s with free := s.free + 1 })

/-- `n` free values have been taken (log 7, DESIGN CHOICE). -/
def State.skipFree (s : State) (n : Nat) : State := { s with free := s.free + n }

/-- The half that holds a die, and the control die that holds an object (01 R21, R26). -/
def halfOfDie (die : Nat) : Nat := if die < 6 then 0 else 1
def halfOfObj (obj : Nat) : Nat := if obj < 65536 then 0 else 1

/-- Whether data crosses from one half to another: within a half always, across the midline while a bridge segment lives (01
R25). -/
def State.crosses (s : State) (h1 h2 : Nat) : Bool := h1 == h2 || s.link.bridgeN || s.link.bridgeS

def passIx (p : Pass) : Nat := match p with | .fwd => 0 | .bwd => 1 | .upd => 2
def engIx (e : Engine) : Nat :=
  match e with | .str => 0 | .mx => 1 | .vec => 2 | .pack => 3 | .xch => 4 | .upd => 5 | .syn => 6

/-- A counter that saturates at its maximum (07 R229, 09 R295). -/
def satAdd {n : Nat} (x : BitVec n) (k : Nat) : BitVec n := BitVec.ofNat n (min (2 ^ n - 1) (x.toNat + k))

/-- Replace the element at an index of a list. -/
def lset {α : Type} : List α → Nat → α → List α
  | [], _, _ => []
  | _ :: t, 0, v => v :: t
  | x :: t, k + 1, v => x :: lset t k v

/-- Little-endian number of a list of bytes (00 R11). -/
def leNat : List Byte → Nat
  | [] => 0
  | b :: t => b.toNat + 256 * leNat t

/-- `n` little-endian bytes of a number. -/
def leBytes : Nat → Nat → List Byte
  | 0, _ => []
  | n + 1, v => BitVec.ofNat 8 v :: leBytes n (v / 256)

/-- Bytes `off .. off + n - 1` of a record, as a number. -/
def recNat (r : List Byte) (off n : Nat) : Nat := leNat ((r.drop off).take n)

/-- This module's own rank; 0 before placement (11 R329). -/
def State.rank (s : State) : Nat := s.link.rank.getD 0

end Sys2Proof.Machine
end

