-- ==== Sys2Proof/Machine/Frames.lean ====
section
/-! DEFINITION. Kamux frames on their way out: bytes, keys, flow control on logical ports, and the management channel (11 R317 to R322, R330,
R336, R337). -/

namespace Sys2Proof.Machine

/-! ### Frames as bytes (Table 11-2) -/

/-- Zero bytes up to a multiple of 8: LEN of a frame is one (Table 11-2; log 22, DESIGN CHOICE). -/
def pad8 (bs : List Byte) : List Byte := bs ++ List.replicate ((8 - bs.length % 8) % 8) 0

/-- CRC-32 of IEEE 802.3, bit by bit, least significant bit first. -/
def crcBits : Nat → Nat → Nat
  | 0, c => c
  | k + 1, c => crcBits k (if c % 2 = 1 then c / 2 ^^^ 0xEDB88320 else c / 2)

def crc32 (bs : List Byte) : W32 :=
  BitVec.ofNat 32 (bs.foldl (fun c b => crcBits 8 (c ^^^ b.toNat)) 0xFFFFFFFF ^^^ 0xFFFFFFFF)

/-- Bytes 0x08 to 0x1F: the end-to-end header, the additional data of the seal (11 R337). -/
def frameAad (f : Frame) : List Byte :=
  [f.cls, f.gen] ++ leBytes 2 f.srank.toNat ++ leBytes 2 f.drank.toNat ++ [f.jslot, 0]
    ++ leBytes 2 f.payload.length ++ [0, 0] ++ leBytes 8 f.ctr.toNat ++ [0, 0, 0, 0]

/-- Every byte before HCRC. -/
def frameBytes (f : Frame) : List Byte :=
  leBytes 6 f.lseq.toNat ++ [f.ttl, f.hflags] ++ frameAad f ++ f.payload ++ leBytes 16 f.tag.toNat

/-- A frame with its hop CRC written. -/
def withCrc (f : Frame) : Frame := { f with hcrc := crc32 (frameBytes f) }

/-- Bytes of the frame, and the 64-byte credits it takes (11 R320). -/
def frameSize (f : Frame) : Nat := 0x34 + f.payload.length
def frameUnits (f : Frame) : Nat := (frameSize f + 63) / 64

/-! ### Frame keys (11 R336, R337) -/

/-- Big-endian 32 bits, as SP 800-108 writes its counter and length. -/
def be32 (n : Nat) : List Byte := (leBytes 4 n).reverse

/-- ASCII "KAMUX-" and the class letter. -/
def keyLabel (cls : Nat) : List Byte :=
  [0x4B, 0x41, 0x4D, 0x55, 0x58, 0x2D, if cls = 0 then 0x4A else 0x4D]

/-- The AES-256 key and the nonce prefix of a direction of a pair of ranks. -/
def frameKey (kin : W256) (cls : Nat) (ctx : W64) (srank drank : Nat) (gen : W32) : W256 × W32 :=
  let fixed := keyLabel cls ++ [0] ++ leBytes 8 ctx.toNat ++ leBytes 2 srank ++ leBytes 2 drank ++ leBytes 4 gen.toNat
    ++ be32 288
  (Config.hmac256 kin (be32 1 ++ fixed), (Config.hmac256 kin (be32 2 ++ fixed)).setWidth 32)

/-- The nonce: salt, then CTR. -/
def frameNonce (salt : W32) (ctr : W64) : BitVec 96 := ctr ++ salt

/-- Key of a frame counter: class, job slot and the other rank. -/
def pairKey (cls jslot rank : Nat) : Nat := cls * 2 ^ 14 + jslot * 2 ^ 10 + rank

/-- The counter after a frame: generation GEN + 1 begins when CTR reaches 2^40 (11 R337). -/
def nextCtr (c : W64 × W32) : W64 × W32 :=
  if c.1 + 1 = BitVec.ofNat 64 (2 ^ 40) then (0, c.2 + 1) else (c.1 + 1, c.2)

/-- Encrypt a payload into a new frame, and advance the counter of its key. -/
def State.seal (s : State) (cls jslot drank : Nat) (kin : W256) (ctx : W64) (payload : List Byte) : Frame × State :=
  let k := pairKey cls jslot drank
  let (ctr, gen) := tget (0, 0) s.link.txCtr k
  let (fk, salt) := frameKey kin cls ctx s.rank drank gen
  let f0 : Frame :=
    { lseq := 0, ttl := 32, hflags := 0, cls := BitVec.ofNat 8 cls, gen := gen.setWidth 8
      srank := BitVec.ofNat 16 s.rank, drank := BitVec.ofNat 16 drank, jslot := BitVec.ofNat 8 jslot
      ctr := ctr, payload := payload, tag := 0, hcrc := 0 }
  let (ct, tag) := Config.gcmSeal fk (frameNonce salt ctr) (frameAad f0) payload
  ({ f0 with payload := ct, tag := tag },
    s.modLink fun l => { l with txCtr := tset (0, 0) l.txCtr k (nextCtr (ctr, gen)) })

/-! ### Logical ports (11 R319 to R322) -/

/-- The ports of a logical port that are in service. -/
def State.members (s : State) (lp : Nat) : List Nat :=
  (List.range 24).filter fun p => decide ((s.port p).state = .active) && (s.port p).lport.toNat == lp

def State.emit (s : State) (o : LinkOut) : State := s.modLink fun l => { l with out := l.out ++ [o] }

/-- Whether a logical port can take one more frame: credits, and 1 MiB of retry buffer for each member. -/
def State.hasRoom (s : State) (lp : Nat) (f : Frame) : Bool :=
  let l := s.lport lp
  decide (frameUnits f ≤ l.credits)
    && decide ((l.retry.map fun e => frameSize e.1).foldl (· + ·) 0 + frameSize f ≤ 2 ^ 20 * (s.members lp).length)

/-- Send a frame under the next LSEQ; it stays in the retry buffer until acknowledged. -/
def State.pushFrame (s : State) (lp : Nat) (f : Frame) : State :=
  let l := s.lport lp
  let f1 := withCrc { f with lseq := l.nextSeq }
  (s.modLport lp fun l =>
    { l with nextSeq := l.nextSeq + 1, retry := l.retry ++ [(f1, 0)], credits := l.credits - frameUnits f1 }).emit (.frame lp f1)

/-- Key of a hold queue: job slot and destination; none for management frames (11 R321). -/
def holdKey (f : Frame) : Option (Nat × Nat) :=
  if f.cls = 0 then some (f.jslot.toNat % 16, f.drank.toNat % 1024) else none

/-- A frame for a logical port: held while its destination refuses its job slot, kept while there is no room or an earlier
frame waits, else sent. -/
def State.linkSend (s : State) (lp : Nat) (f : Frame) : State :=
  let l := s.lport lp
  match l.hold.find? fun h => some h.1 == holdKey f with
  | some h => s.modLport lp fun l =>
      { l with hold := l.hold.map fun e => if e.1 = h.1 then (e.1, e.2 ++ [f]) else e }
  | none =>
    if l.waiting.isEmpty && s.hasRoom lp f then s.pushFrame lp f
    else s.modLport lp fun l => { l with waiting := l.waiting ++ [f] }

/-- Frames of every logical port that wait for room or for their destination. -/
def State.awaiting (s : State) : List Frame := s.link.lports.flatMap fun l => l.2.waiting ++ l.2.hold.flatMap (·.2)

/-- Whether two frames are one, whatever sequence number a link has given it. -/
def sameFrame (f g : Frame) : Bool := { f with lseq := 0, hcrc := 0 } == { g with lseq := 0, hcrc := 0 }

/-- Whether a frame still awaits sending. -/
def State.awaits (s : State) (f : Frame) : Bool := s.awaiting.any (sameFrame f)

/-- Send waiting frames, in order, while there is room. -/
def State.pumpFrames (s : State) (lp : Nat) : List Frame → State
  | [] => s
  | f :: t =>
    if s.hasRoom lp f then
      (((s.modLport lp fun l => { l with waiting := t }).pushFrame lp f)).pumpFrames lp t
    else s

def State.pump (s : State) (lp : Nat) : State := s.pumpFrames lp (s.lport lp).waiting

/-! ### The management channel (11 R318, R330) -/

/-- Whether a message passes before its receiver holds the hive key (11 R318, 13 R380). -/
def preAdmission (m : MgmtMsg) : Bool :=
  match m with
  | .offer .. | .accept .. | .hiveKey .. => true
  | _ => false

/-- The logical port of a rank in the management table, while it has a member in service. -/
def State.mgmtPort (s : State) (rank : Nat) : Option Nat :=
  let e := tget 0 s.link.mgmtTab rank
  if e = 0 ∨ (s.members (e - 1)).isEmpty then none else some (e - 1)

/-- Whether a message to a rank goes under the hive key: both ends are admitted and hold their tables (11 R318, R330). -/
def State.keyed (s : State) (rank : Nat) (m : MgmtMsg) : Bool :=
  s.sec.hiveKey.isSome && s.link.rank.isSome && tget 0 s.link.mgmtTab rank != 0 && !preAdmission m
    && (!s.mgr.acting || s.mgr.routed.contains rank)

/-- The pairs of origin and counter that this module has forwarded within the last 10 s (11 R330). -/
def State.recentFloods (s : State) : List (W64 × W64 × W64) :=
  s.link.flooded.filter fun e => decide (s.pwr.ffTime.toNat < e.2.2.toNat + 10 ^ 10)

/-- Whether a rank is this module's own: the acting manager stands for itself before it is placed. -/
def State.isSelf (s : State) (rank : Nat) : Bool := rank == s.rank && (s.link.rank.isSome || s.mgr.acting)

/-- A message as a payload: LEN is at least 32 (Table 11-2). -/
def mgmtPayload (bs : List Byte) : List Byte := pad8 bs ++ List.replicate (32 - (pad8 bs).length) 0

/-- A flood frame goes out on every port in DISCOVER or ACTIVE but one. -/
def State.floodPorts (s : State) (except_ : Nat) (f : Frame) : State :=
  (List.range 24).foldl (fun s q =>
    if q = except_ then s
    else match (s.port q).state with
      | .active => s.linkSend (s.port q).lport.toNat f
      | .discover => s.emit (.raw q f)
      | _ => s) s

/-- A signature of this module; the signer draws from the DRBG, a free value. -/
def State.sign (s : State) (bytes : List Byte) : BitVec 768 × State :=
  (Config.ecdsaSign s.fuse.idKey s.free bytes, s.skipFree 1)

/-- A fresh key of the DRBG (13 R376; log 7, DESIGN CHOICE). -/
def State.draw (s : State) (n : Nat) : BitVec n × State :=
  let r1 := s.takeFree
  let v := r1.1; let s1 := r1.2
  (v.setWidth n, s1)

/-- Whether a message carries its sender's signature in itself (13 R380). -/
def selfSigned (m : MgmtMsg) : Bool := match m with | .offer .. | .accept .. => true | _ => false

/-- Any other message that travels unkeyed: the message, the sender's certificate chain, and the signature over serial and message (11 R318,
13 R380; log 151, DESIGN CHOICE). -/
def signedBody (msg cert : List Byte) (sig : BitVec 768) : List Byte :=
  leBytes 4 msg.length ++ msg ++ leBytes 4 cert.length ++ cert ++ leBytes 96 sig.toNat

/-- The message in such a body, when its signature verifies under the key that is certified for the serial. -/
def signedMsg (serial : W64) (b : List Byte) : Option (List Byte) :=
  let n := recNat b 0 4
  let msg := (b.drop 4).take n
  let k := recNat b (4 + n) 4
  match Config.certSubject ((b.drop (8 + n)).take k) with
  | some (ser, pub) =>
    if ser == serial && Config.ecdsaVerify pub (leBytes 8 serial.toNat ++ msg) (BitVec.ofNat 768 (recNat b (8 + n + k) 96)) then some msg
    else none
  | none => none

/-- An unkeyed frame of this module: its serial leads the payload, its tag is zero, and its counter is this module's own (11 R318, R330). -/
def State.floodNew (s : State) (rank : Nat) (body : List Byte) : State :=
  let f : Frame := withCrc
    { lseq := 0, ttl := 32, hflags := 0, cls := 1, gen := 0
      srank := match s.link.rank with | some r => BitVec.ofNat 16 (r % 1024) | none => BitVec.ofNat 16 (2 ^ 15)
      drank := BitVec.ofNat 16 (rank % 1024 + 2 ^ 15), jslot := 0, ctr := s.link.floodCtr
      payload := mgmtPayload (leBytes 8 s.fuse.serial.toNat ++ body), tag := 0, hcrc := 0 }
  let s1 := s.modLink fun l =>
    { l with floodCtr := l.floodCtr + 1, flooded := s.recentFloods ++ [(s.fuse.serial, l.floodCtr, s.pwr.ffTime)] }
  s1.floodPorts 24 f

/-- A management message goes to another module: sealed under the hive key along the management table, or flooded with a
signature (11 R318, R330). -/
def State.sendMgmt (s : State) (rank id : Nat) (m : MgmtMsg) : State :=
  if s.isSelf rank then s
  else if s.keyed rank m then
    match s.sec.hiveKey, s.mgmtPort rank with
    | some (hive, k), some lp =>
      let r1 := s.seal 1 0 rank k hive (mgmtPayload (Config.mgmtBytes id m))
      r1.2.linkSend lp r1.1
    | _, _ => s
  else if selfSigned m then s.floodNew rank (Config.mgmtBytes id m)
  else
    let b := Config.mgmtBytes id m
    let r1 := s.sign (leBytes 8 s.fuse.serial.toNat ++ b)
    r1.2.floodNew rank (signedBody b s.fuse.cert r1.1)

/-- Send a management message to a rank; it is kept until acknowledged or resent 8 times (11 R330; log 24, DESIGN CHOICE). -/
def State.mgmt (s : State) (rank : Nat) (m : MgmtMsg) : State :=
  ((s.modMgr fun g => { g with out := g.out ++ [(rank, m)] }).modLink fun l =>
    { l with unacked := if s.isSelf rank then l.unacked else l.unacked ++ [(l.nextMsg, rank, m, 0)], nextMsg := l.nextMsg + 1 }).sendMgmt rank s.link.nextMsg m

end Sys2Proof.Machine
end

