-- ==== Sys2Proof/Machine/Ops.lean ====
section
/-! DEFINITION. The named operations over the state: device memory with its windows and codes (07), events (12 R342 to R349), fence
epochs at the check points (09 R269) and stream faults (05 R162). -/

namespace Sys2Proof.Machine

/-! ### Device addresses (07 R195 to R198) -/

/-- The memories behind a plain address. -/
inductive MemUnit where
  | hbm (stack : Nat)
  | dieStore (die : Nat)
  | coreStore (key : Nat)
  deriving DecidableEq, Repr

def viewBase : Nat := 0x100000000000
def dieBase : Nat := 0x400000000000
def coreBase : Nat := 0x500000000000
def regBase : Nat := 0x7F0000000000

/-- Address of a core store (Table 7-1). -/
def coreStore (key : Nat) : Nat := coreBase + key * 0x1000000

/-- `plain_of_view` of 07 R196. -/
def plainOfView (addr : Nat) : Nat :=
  let off := addr - viewBase
  let h := off / 2 ^ 41
  let x := off % 2 ^ 41
  let g := x / 4096
  (12 * h + g % 12) * 2 ^ 37 + g / 12 * 4096 + x % 4096

/-- The view name of a plain HBM address, the inverse of `plainOfView`. -/
def viewOfPlain (a : Nat) : Nat :=
  let stack := a / 2 ^ 37
  let off := a % 2 ^ 37
  viewBase + stack / 12 * 2 ^ 41 + (off / 4096 * 12 + stack % 12) * 4096 + off % 4096

/-- The memory that holds a plain address; none where none is populated (07 R195, R197). -/
def memUnit (gradeB : Bool) (a : Nat) : Option MemUnit :=
  if a < 24 * 2 ^ 37 then
    (if a % 2 ^ 37 < 96 * 2 ^ 30 then some (.hbm (a / 2 ^ 37)) else none)
  else if dieBase ≤ a ∧ a < dieBase + 12 * 2 ^ 32 then
    (if (a - dieBase) % 2 ^ 32 < 2 ^ 26 then some (.dieStore ((a - dieBase) / 2 ^ 32)) else none)
  else if coreBase ≤ a ∧ a < coreBase + 12 * 128 * 2 ^ 24 then
    let k := (a - coreBase) / 2 ^ 24
    if (a - coreBase) % 2 ^ 24 < 2 ^ 21 ∧ k % 128 < (if gradeB then 56 else 64) then some (.coreStore k) else none
  else none

/-- The plain address of a device address; none where no memory answers (07 R195 to R197). -/
def plainAddr (gradeB : Bool) (a : Nat) : Option Nat :=
  let p :=
    if viewBase ≤ a ∧ a < viewBase + 2 * 2 ^ 41 ∧ (a - viewBase) % 2 ^ 41 < 1152 * 2 ^ 30 then plainOfView a else a
  if viewBase ≤ a ∧ a < viewBase + 2 * 2 ^ 41 ∧ ¬ (a - viewBase) % 2 ^ 41 < 1152 * 2 ^ 30 then none
  else if (memUnit gradeB p).isSome then some p else none

/-- One byte of device memory. -/
def State.rd8 (s : State) (a : Nat) : Byte := tget 0 s.mem a
def State.wr8 (s : State) (a : Nat) (b : Byte) : State := { s with mem := tset 0 s.mem a b }

/-- The error pattern of a codeword; none listed is an intact codeword (07 R216). -/
def State.setErr (s : State) (cw : Nat) (e : ErrPat) : State := { s with errs := tset [] s.errs cw e }

/-- Memory loses what lies at the addresses that are not kept: bytes read as zero, and codewords are intact. -/
def State.keepMem (s : State) (bytes cws : Nat → Bool) : State :=
  { s with mem := s.mem.filter fun c => bytes c.1, errs := s.errs.filter fun e => cws e.1 }


/-- Consecutive bytes at plain addresses. -/
def State.rdBytes (s : State) (a n : Nat) : List Byte := (List.range n).map fun i => s.rd8 (a + i)
def State.wrBytes (s : State) : Nat → List Byte → State
  | _, [] => s
  | a, b :: t => (s.wr8 a b).wrBytes (a + 1) t

/-- A byte offset in a core's own store: bits [20:0] of an address register (07 R198). -/
def ownAddr (key : Nat) (a : W64) : Nat := coreStore key + a.toNat % 2 ^ 21

/-! ### Events (12 R342 to R349) -/

/-- The UNIT field of Table 12-2. -/
def unitWord (kind sub die pos lcore index : Nat) : W32 :=
  BitVec.ofNat 32 (kind * 2 ^ 28 + sub * 2 ^ 24 + die * 2 ^ 20 + pos * 2 ^ 13 + lcore * 2 ^ 7 + index)

def unitDie (kind die : Nat) : W32 := unitWord kind 15 die 127 63 127
def unitIndex (kind index : Nat) : W32 := unitWord kind 15 15 127 63 index
/-- An HBM stack or update unit, two to a compute die (01 R21). -/
def unitPair (kind index : Nat) : W32 := unitWord kind 15 (index / 2) 127 63 index

/-- Default position of a logical core: the exposed positions in ascending order (01 R33). -/
def defaultPos (kinds : Tab PosKind) (die core : Nat) : Option Nat :=
  ((List.range 72).filter fun p => decide (tget PosKind.exposed kinds (die * 72 + p) = .exposed))[core]?

/-- The physical position that carries a logical core (01 R33). -/
def State.corePos (s : State) (key : Nat) : Option Nat :=
  match (s.core key).pos with
  | some p => some p
  | none => if key % 128 < (if s.fuse.gradeB then 56 else 64) then defaultPos s.fuse.kinds (key / 128) (key % 128) else none

/-- UNIT of a sub-unit of a core (12 R343). -/
def State.unitCore (s : State) (key sub : Nat) : W32 :=
  unitWord 0 sub (key / 128) ((s.corePos key).getD 127) (key % 128) 127

/-- The half whose mailbox takes a unit's records: its die's half, or the half of a port, stack, update unit or control die
(01 R21, R44). -/
def unitHalf (u : W32) : Nat :=
  let kind := fld u 31 28
  let die := fld u 23 20
  let ix := fld u 6 0
  if kind = 2 ∨ kind = 4 ∨ kind = 7 then (if ix < 12 then 0 else 1)
  else if die < 12 then halfOfDie die
  else if ix = 1 then 1 else 0

/-- Classes marked R, Freeze, Job-stop or Degraded in Tables 12-3 and 14-7. -/
def clsRetracting (cls cause : Nat) : Bool :=
  match cls with
  | 0x01 | 0x03 | 0x04 | 0x05 | 0x06 | 0x07 | 0x08 | 0x0A | 0x14 | 0x2A => true
  | 0x09 => cause == 0
  | _ => false

/-- Set bits of MGT_ALERT (13 R392). -/
def State.alert (s : State) (bit : Nat) : State :=
  s.modSec fun x => { x with alert := x.alert ||| BitVec.ofNat 16 (2 ^ bit) }

/-- The 64 bytes of a record (Table 12-1). -/
def evBytes (e : EvRec) : List Byte :=
  leBytes 8 e.seq.toNat ++ leBytes 8 e.time.toNat ++ [e.cls, e.cause] ++ leBytes 2 e.count.toNat ++ leBytes 4 e.unit.toNat
    ++ leBytes 8 e.job.toNat ++ leBytes 8 e.step.toNat ++ leBytes 8 e.iaddr.toNat ++ [e.stream, e.part, e.retry, e.attempt]
    ++ leBytes 2 e.temp.toNat ++ leBytes 2 e.volt.toNat ++ leBytes 8 e.detail.toNat

/-- The bytes of a Capsule record: its header, and its body up to a multiple of 16 (12 R361). -/
def capBytes (r : CapRec) : List Byte :=
  let n := (r.body.length + 15) / 16
  [r.type, r.part] ++ leBytes 4 (n + 1) ++ [0, 0] ++ leBytes 8 r.step.toNat ++ r.body ++ List.replicate (16 * n - r.body.length) 0

/-- The payload of a message: a REPLY begins with the command's SEQ and the status (13 R385; log 48, DESIGN CHOICE). -/
def SessOut.payload (o : SessOut) : List Byte :=
  (if o.type = 5 then leBytes 8 o.seq.toNat ++ [o.status] else []) ++ o.data ++ o.events.flatMap evBytes ++ o.caps.flatMap capBytes

/-- The 56-byte header of a message of a slot's session, with a TAG (13 Table 13-4). -/
def SessOut.header (o : SessOut) (slot : Nat) (tag : W256) : List Byte :=
  leBytes 4 0x4D475431 ++ leBytes 1 o.type ++ leBytes 1 slot ++ [0, 0] ++ leBytes 4 o.sid.toNat ++ leBytes 4 o.payload.length
    ++ leBytes 8 o.num.toNat ++ leBytes 32 tag.toNat

/-- The TAG of a message to an accepted session; zero in a CHALLENGE and where there is no session key (13 Table 13-4). -/
def SessOut.tagFor (o : SessOut) (k : Session) : W256 :=
  if k.accepted ∧ o.type ≠ 1 then Config.hmac256 k.ks (o.header k.slot 0 ++ o.payload) else 0

/-- Send a message to a session, under the next message number of its direction and its TAG (Table 13-4; log 48, DESIGN CHOICE). -/
def State.say (s : State) (o : SessOut) : State :=
  s.modSec fun x =>
    let k := x.sessions.find? fun k => k.sid == o.sid
    let n := (k.map (·.lastOut)).getD 0 + 1
    let o1 := { o with num := n }
    { x with
      sessions := x.sessions.map fun k => if k.sid = o.sid then { k with lastOut := n } else k
      out := x.out ++ [{ o1 with tag := (k.map o1.tagFor).getD 0 }] }

/-! ### The exception-like entries of a partition: sending Retract (09 R266) -/

/-- Whether the leading Firefly domain issues management work: not while a split has no ruling (14 R405). -/
def State.managing (s : State) : Bool :=
  let h := match s.pwr.lead with | .east => s.ff1 | _ => s.ff0
  !h.split || h.ruled

/-- The rank a message for the acting manager is marked with: this module's own when it acts, else that of the member whose
serial is the manager's, else 0, which then stands for the acting manager wherever it is (log 15, DESIGN CHOICE). -/
def State.mgrRank (s : State) : Nat :=
  if s.mgr.acting then s.rank
  else match s.mgr.members.find? (fun m => m.2.1 == s.mgr.mgrSerial) with
    | some m => m.1
    | none => 0

/-- The Retract message of a partition's open step (09 R266, Table 9-3). -/
def State.stepMsg (s : State) (p status : Nat) : StepMsg :=
  let x := s.part p
  { job := x.job, step := x.openStep, rank := s.rank, part := p, retry := x.retry
    status := BitVec.ofNat 8 status, scaleEv := x.scaleEv, lastEv := s.ev.seq - 1 }

/-- Send Retract for a partition's open step, once for a step and retry (09 R266, R267; log 16, DEDUCED). -/
def State.sendRetract (s : State) (p : Nat) : State :=
  if (s.part p).retractSent then s
  else ((s.mgmt s.mgrRank (.step (s.stepMsg p 3))).modPart p fun x => { x with retractSent := true }).alert 2

/-- Add a record to a slot: folded when class and cause agree, else counted as lost (12 R346). -/
def slotPut (slot : Option EvRec) (ovr : Nat) (mask : Byte) (e : EvRec) : Option EvRec × Nat × Byte × Nat × Nat :=
  match slot with
  | none => (some e, ovr, mask, 0, 0)
  | some h =>
    if h.cls = e.cls ∧ h.cause = e.cause then (some { h with count := satAdd h.count e.count.toNat }, ovr, mask, 1, 0)
    else (some h, ovr + 1, mask ||| BitVec.ofNat 8 (2 ^ (e.cls.toNat / 8 % 8)), 0, 1)

/-- A unit's slots with a record put into the one of its class, and how many records it folded and lost (12 R346). -/
def Slots.put (sl : Slots) (e : EvRec) : Slots × Nat × Nat :=
  if clsRetracting e.cls.toNat e.cause.toNat then
    let x := slotPut sl.ret sl.retOver sl.retMask e
    ({ sl with ret := x.1, retOver := x.2.1, retMask := x.2.2.1 }, x.2.2.2)
  else
    let x := slotPut sl.ord sl.ordOver sl.ordMask e
    ({ sl with ord := x.1, ordOver := x.2.1, ordMask := x.2.2.1 }, x.2.2.2)

/-- The record as its unit forms it: RETRY is that of the open step (Table 12-1). -/
def State.formRec (s : State) (e : EvRec) : EvRec :=
  { e with retry := if e.part.toNat < 16 then (s.part e.part.toNat).retry else 0 }

/-- The holding slots of a unit take a record (12 R346). -/
def State.holdRec (s : State) (e : EvRec) : State :=
  let x := (tget {} s.ev.slots e.unit.toNat).put e
  s.modEv fun v =>
    { v with slots := tset {} v.slots e.unit.toNat x.1, folded := satAdd v.folded x.2.1, lost := satAdd v.lost x.2.2 }

/-- The step-fault line of a half rises for a partition (12 R349). An event of class R, Freeze or Job-stop interrupts Retract handling; a
Lost record, which is Degraded, does not (12 R355). -/
def State.raiseLine (s : State) (p half : Nat) (stops : Bool) : State :=
  s.modPart p fun x =>
    { x with line0 := x.line0 || half == 0, line1 := x.line1 || half != 0, stepEvent := true
             retracting := x.retracting.map fun r => { r with interrupted := r.interrupted || stops } }

/-- A unit posts an event (12 R344, R346, R349): the holding slot of its class takes it, and for a class that retracts the
step-fault line of its partition rises, on which the lead Firefly domain sends Retract at once (09 R266). The mailbox fills
SEQ, TIME, JOB, TEMP and VOLT (12 R342). -/
def State.post (s : State) (e : EvRec) : State :=
  let s1 := s.holdRec (s.formRec e)
  if clsRetracting e.cls.toNat e.cause.toNat ∧ e.part.toNat < 16 then
    (s1.raiseLine e.part.toNat (unitHalf e.unit) (e.cls != 0x14)).sendRetract e.part.toNat
  else s1

/-- A record of a core's unit about an instruction of a stream: step, address, stream and attempt as captured (Table 12-1). -/
def State.coreEv (s : State) (i : StreamId) (sub cls cause : Nat) (step iaddr : W64) (attempt : Byte) (detail : W64) : EvRec :=
  let p := ((s.core (skey i)).part.getD 0xFF)
  { cls := BitVec.ofNat 8 cls, cause := BitVec.ofNat 8 cause, unit := s.unitCore (skey i) sub, step := step, iaddr := iaddr
    stream := BitVec.ofNat 8 (4 + passIx i.pass), part := BitVec.ofNat 8 p, attempt := attempt, detail := detail }

/-- A record of a unit that concerns a partition (0xFF for none) and no instruction: STEP is the open step (Table 12-1). -/
def State.unitEv (s : State) (unit : W32) (cls cause part : Nat) (detail : W64) : EvRec :=
  { cls := BitVec.ofNat 8 cls, cause := BitVec.ofNat 8 cause, unit := unit
    step := if part < 16 then (s.part part).openStep else 0, part := BitVec.ofNat 8 part, detail := detail }

/-- Who makes a memory access: its partition, for an instruction its stream, captured step, address and attempt (07 R219, 12 R342), and
for a unit that acts for the partition the unit and the epoch it carries (09 R269). -/
structure Who where
  part : Nat
  at_ : Option (StreamId × W64 × W64 × Byte) := none
  src : Option (W32 × W16) := none
  deriving DecidableEq, Repr

/-- An instruction of a queue, and the one a stream issues now, as the makers of accesses. -/
def State.whoOf (s : State) (i : StreamId) (q : QEntry) : Who :=
  { part := (s.core (skey i)).part.getD 0xFF, at_ := some (i, q.step, q.pc, q.attempt)
    src := some (s.unitCore (skey i) 0, (s.core (skey i)).epoch) }
def State.whoNow (s : State) (i : StreamId) : Who :=
  let st := s.stream i
  { part := (s.core (skey i)).part.getD 0xFF, at_ := some (i, st.step, st.pc, if st.inop then st.attempt else 0)
    src := some (s.unitCore (skey i) 0, (s.core (skey i)).epoch) }

/-- A record of a memory or another unit about an access: the operation fields are those of the instruction that made it (Table
12-1). -/
def State.accessEv (s : State) (unit : W32) (cls cause : Nat) (who : Who) (detail : W64) : EvRec :=
  let e := s.unitEv unit cls cause who.part detail
  match who.at_ with
  | some (i, step, pc, attempt) =>
    { e with step := step, iaddr := pc, stream := BitVec.ofNat 8 (4 + passIx i.pass), attempt := attempt }
  | none => e

/-- The Firefly domain's unit word: kind 8 with the half that leads (Table 12-2). -/
def State.leadHalf (s : State) : Nat := match s.pwr.lead with | .east => 1 | _ => 0
def State.ffUnit (s : State) : W32 := unitIndex 8 s.leadHalf

/-! ### Replay (12 R363, R364) -/

/-- The replay of a job in progress. -/
def State.replayOf (s : State) (job : W64) : Option Replay := s.ev.replay.filter fun r => !r.ended && r.job == job

/-- The retry whose verdict ended a recorded step: the one that its VERDICT record names. -/
def Replay.retryOf (rp : Replay) (part : Nat) (step : W64) : Option Nat :=
  ((rp.records.filter fun x => x.type == 4 && x.part.toNat == part && x.step == step && recNat x.body 0 1 != 3).getLast?).map
    fun x => recNat x.body 2 1

/-- What follows the last element that satisfies a test. -/
def afterLast {α : Type} (f : α → Bool) (l : List α) : List α := (l.reverse.takeWhile fun x => !f x).reverse

/-- The records of a type of a step's committed or discarded retry: a BAND and a TILE name their retry; of the others those after the last
STEPOPEN of the step (log 146, DEDUCED). -/
def Replay.recorded (rp : Replay) (type part : Nat) (step : W64) : List CapRec :=
  let rs := rp.records.filter fun x => x.part.toNat == part && x.step == step
  let ok := fun (r : Nat) => match rp.retryOf part step with | some k => r == k | none => true
  match type with
  | 9 => rs.filter fun x => x.type == 9 && ok (recNat x.body 2 1)
  | 10 => rs.filter fun x => x.type == 10 && ok (recNat x.body 21 1)
  | _ => (afterLast (fun x => x.type == 3) rs).filter fun x => x.type.toNat == type

/-- What tells a record of its type from others of its step: core and stream of a SHAPE; TID; attempt and band; origin and attempt. -/
def capKey (type : Nat) (b : List Byte) : List Byte :=
  match type with
  | 6 => b.take 3
  | 7 => b.take 2
  | 9 => b.take 2 ++ (b.drop 3).take 5
  | _ => b.take 10 ++ (b.drop 20).take 1

/-- What a replay compares of it: not the retry, nor the ticket and core that took a tile. -/
def capVal (type : Nat) (b : List Byte) : List Byte :=
  match type with
  | 6 => b
  | 7 => b.drop 2
  | 9 => b.drop 8
  | _ => (b.drop 10).take 4 ++ (b.drop 18).take 2 ++ b.drop 26

/-- The stream and operation that write a tensor: the first of the partition's operation records. -/
def Part.opOf (x : Part) (tid : Nat) : Nat × Nat :=
  (x.ops.filter fun r => recNat r 8 2 == tid).foldl (fun (a : Nat × Nat) r =>
    let b := (recNat r 2 1 % 4, recNat r 1 1)
    if b.1 < a.1 ∨ (b.1 = a.1 ∧ b.2 < a.2) then b else a) (3, 255)

/-- The place of a divergence in the order of 12 R364: stream, OPID, TID, band, and tile origin. -/
def divOrder (x : Part) (type : Nat) (b : List Byte) : Nat :=
  let at_ := fun (o : Nat × Nat) (tid band row col : Nat) => ((((o.1 * 256 + o.2) * 65536 + tid) * 2 ^ 32 + band) * 2 ^ 32 + row) * 2 ^ 32 + col
  let tid := recNat b 0 2
  match type with
  | 6 => at_ (recNat b 2 1, 0) 0 0 0 0
  | 7 => at_ (0, 0) tid 0 0 0
  | 9 => at_ (x.opOf tid) tid (recNat b 4 4) 0 0
  | _ => at_ (x.opOf tid) tid (recNat b 2 4 / 1024) (recNat b 2 4) (recNat b 6 4)

/-- A divergence: the recorded record, and the replayed one when there is one. -/
abbrev Divergence := CapRec × Option CapRec

/-- The report of a replay: kind (0 none, 1 input, 2 band, 3 tile), step, OPID, TID, band or origin row, origin column, attempt, recorded and
replayed digests, UNIT of a recorded tile (12 R364; log 147, DESIGN CHOICE). -/
def Part.replayReport (x : Part) (d : Option Divergence) : List Byte :=
  match d with
  | none => [0]
  | some (r, now) =>
    let b := r.body
    let head := fun (kind : Nat) (op tid row col att : Nat) =>
      leBytes 1 kind ++ leBytes 8 r.step.toNat ++ leBytes 1 op ++ leBytes 2 tid ++ leBytes 4 row ++ leBytes 4 col ++ leBytes 1 att
    let dig := fun (o : Nat) => leBytes 8 (recNat b o 8) ++ leBytes 8 (match now with | some y => recNat y.body o 8 | none => 0)
    match r.type.toNat with
    | 9 => head 2 (x.opOf (recNat b 0 2)).2 (recNat b 0 2) (recNat b 4 4) 0 (recNat b 3 1) ++ dig 8 ++ leBytes 4 (2 ^ 32 - 1)
    | 10 =>
      head 3 (x.opOf (recNat b 0 2)).2 (recNat b 0 2) (recNat b 2 4) (recNat b 6 4) (recNat b 20 1) ++ dig 26 ++ leBytes 4 (recNat b 22 4)
    | 7 => head 1 0 (recNat b 0 2) 0 0 0 ++ dig 2 ++ leBytes 4 (2 ^ 32 - 1)
    | _ => head 1 0 0xFFFF 0 0 0 ++ List.replicate 16 0 ++ leBytes 4 (2 ^ 32 - 1)

/-- The end of a replay: a report to its session with the divergence found, if any, and its records (12 R363, R364). -/
def State.replayEnd (s : State) (x : Part) (d : Option Divergence) : State :=
  match s.ev.replay with
  | some r =>
    (s.modEv fun v => { v with replay := some { r with divergence := d.map (·.1), ended := true } }).say
      { sid := r.sid, type := 5, data := x.replayReport d, caps := match d with | some (a, b) => a :: b.toList | none => [] }
  | none => s

/-- What is recorded of a CTL.LDSHAPE against which a replayed one is held: that of the same place in the order of its stream. -/
def Replay.shapeOf (rp : Replay) (r : CapRec) : Option CapRec :=
  let mine := fun (x : CapRec) => capKey 6 x.body == capKey 6 r.body
  let n := (rp.seen.filter fun x => x.type == 6 && x.part == r.part && x.step == r.step && mine x).length
  ((rp.recorded 6 r.part.toNat r.step).filter mine)[n]?

/-- A record of a replayed step is kept for the comparison at its gate; a CTL.LDSHAPE that differs from what was recorded ends the replay at
once (12 R363). -/
def State.replayCheck (s : State) (r : CapRec) : State :=
  let x := s.part r.part.toNat
  match s.replayOf x.job with
  | some rp =>
    (match if r.type = 6 then rp.shapeOf r else none with
      | some o =>
        if o.body != r.body then s.replayEnd x (some (o, some r))
        else s.modEv fun v => { v with replay := some { rp with seen := rp.seen ++ [r] } }
      | none =>
        if r.type = 6 ∨ r.type = 7 ∨ r.type = 9 ∨ r.type = 10 then
          s.modEv fun v => { v with replay := some { rp with seen := rp.seen ++ [r] } }
        else s)
  | none => s

/-- The divergences of a step of a partition: what was recorded and differs or has not come again. Inputs and bands are held to what was
recorded; tiles where the replay records the tensor's tiles; a CTL.LDSHAPE that has not come again is one that is missing (12 R362 to
R364). -/
def Replay.divergences (rp : Replay) (part : Nat) (step : W64) : List Divergence :=
  let seen := fun (t : Nat) => rp.seen.filter fun x => x.type.toNat == t && x.part.toNat == part && x.step == step
  let of := fun (t : Nat) => (rp.recorded t part step).filterMap fun (x : CapRec) =>
    let now := (seen t).filter fun y => capKey t y.body == capKey t x.body
    if t = 10 ∧ !((seen 10).any fun y => y.body.take 2 == x.body.take 2) then none
    else if now.isEmpty then some (x, none)
    else (now.find? fun y => capVal t y.body != capVal t x.body).map fun y => (x, some y)
  let shapes := rp.recorded 6 part step
  let missing := shapes.zipIdx.filterMap fun ((x, k) : CapRec × Nat) =>
    let mine := fun (y : CapRec) => capKey 6 y.body == capKey 6 x.body
    if ((seen 6).filter mine).length ≤ ((shapes.take k).filter mine).length then some (x, none) else none
  missing ++ of 7 ++ of 9 ++ of 10

/-- The first of a list of divergences in the order of 12 R364. -/
def firstDivergence (x : Part) (l : List Divergence) : Option Divergence :=
  (sortBy l fun a b => decide (divOrder x a.1.type.toNat a.1.body ≤ divOrder x b.1.type.toNat b.1.body)).head?

/-! ### The recorder's buffers (12 R361, R362) -/

/-- Length of a Capsule record in bytes, header included, in units of 16 (12 R361). -/
def capSize (r : CapRec) : Nat := 16 + (r.body.length + 15) / 16 * 16

/-- A Capsule event of the recorder: 0 overrun, 1 pin space full. -/
def State.capsuleEv (s : State) (cause p : Nat) : State := s.post (s.unitEv s.ffUnit 0x17 cause p 0)

/-- The recorder drops a step's remaining records: one overrun record, and the step is marked incomplete (12 R362). -/
def State.dropStep (s : State) (part : Nat) (step : W64) : State :=
  let keep := fun (x : CapRec) => (x.part.toNat, x.step) != (part, step)
  (s.modEv fun v =>
    { v with
      cap0 := v.cap0.filter keep, cap1 := v.cap1.filter keep
      incomplete := v.incomplete ++ [(part, step)], overrun := satAdd v.overrun 1 }).capsuleEv 0 part

/-- Bytes of a recorder buffer: 32 MiB on each control die. -/
def bufMax : Nat := 32 * 2 ^ 20

/-- A Capsule record into the recorder buffer of a half, when the partition records and its step's records have not been
dropped; a full buffer drops them (12 R361, R362; log 148, DEDUCED). -/
def State.record (s : State) (half type part : Nat) (step : W64) (body : List Byte) : State :=
  let r : CapRec := { type := BitVec.ofNat 8 type, part := BitVec.ofNat 8 part, step := step, body := body }
  let buf := if half = 0 then s.ev.cap0 else s.ev.cap1
  if (tget {} s.ev.capCfg part).en && !s.ev.incomplete.contains (part, step) then
    if bufMax ≤ (buf.map capSize).sum then s.dropStep part step
    else (s.modEv fun v => if half = 0 then { v with cap0 := v.cap0 ++ [r] } else { v with cap1 := v.cap1 ++ [r] }).replayCheck r
  else s

/-! ### Zombie traffic (09 R269, R270) -/

/-- Whether a unit stands in the fence mask of a control die; the die hubs and sync ports of both halves drop what it sends (09 R270;
log 65, DEDUCED). -/
def State.masked (s : State) (u : W32) : Bool := s.syn0.fence.contains u || s.syn1.fence.contains u

/-- SYN_ZLAST of a dropped transaction (Table 9-11). -/
def zLastWord (obj : Nat) (unit : W32) (epoch : W16) : W64 :=
  let kind := match fld unit 31 28 with | 3 => 1 | 4 => 2 | _ => 0
  let die := if kind = 2 then fld unit 6 0 / 2 else fld unit 23 20
  BitVec.ofNat 64 (obj % 2 ^ 17 * 2 ^ 47 + kind * 2 ^ 40 + die % 16 * 2 ^ 36 + (if kind = 0 then fld unit 19 13 else 0) * 2 ^ 29
    + epoch.toNat)

/-- A check point of a half drops a transaction: counted, logged, and one Zombie event for each source unit and step. -/
def State.zombie (s : State) (half obj : Nat) (unit : W32) (epoch : W16) (part : Nat) (masked : Bool) : State :=
  let v := zLastWord obj unit epoch
  let step := (s.part part).openStep
  let seen := (s.syn half).zSeen.contains (unit, step)
  let s1 := s.modSyn half fun h =>
    { h with
      zmb := true, zLast := v
      zEpoch := if masked then h.zEpoch else satAdd h.zEpoch 1
      zMask := if masked then satAdd h.zMask 1 else h.zMask
      zSeen := if seen then h.zSeen else h.zSeen ++ [(unit, step)] }
  if seen then s1 else s1.post (s1.unitEv (unitIndex 6 half) 0x0B 0 part v)

/-- The half that holds the memory behind a plain address. -/
def State.memHalf (s : State) (a : Nat) : Option Nat :=
  match memUnit s.fuse.gradeB a with
  | some (.hbm st) => some (halfOfDie (st / 2))
  | some (.dieStore d) => some (halfOfDie d)
  | some (.coreStore k) => some (halfOfDie (k / 128))
  | none => none

/-- Whether data reaches every one of a list of plain addresses from a half: across the midline only while a bridge segment lives
(01 R25; log 43, DEDUCED). -/
def State.reaches (s : State) (half : Nat) (as : List Nat) : Bool :=
  as.all fun a => match s.memHalf a with | some h => s.crosses half h | none => true

/-- Whether an access of a unit passes a die hub on its way to a memory: all but those of a core to a core store of its own die (01 R29;
log 140, DEDUCED). -/
def throughHub (unit : W32) (m : MemUnit) : Bool :=
  match m with
  | .coreStore k => fld unit 31 28 != 0 || fld unit 23 20 != k / 128
  | _ => true

/-- Whether a check point on the way to a memory drops an access, and whether the mask does it: a core-store port compares epochs, a die
hub looks in the mask too (09 R269, R270, R294). -/
def State.memDrop (s : State) (who : Who) (a : Nat) : Option Bool :=
  match who.src, memUnit s.fuse.gradeB a with
  | some (u, e), some m =>
    if throughHub u m && s.masked u then some true else if e ≠ (s.part who.part).epoch then some false else none
  | _, _ => none

/-- The dropped transactions of an access, one for each half and reason, are logged as Zombie traffic (09 R269; log 65, DEDUCED). -/
def State.dropLog (s : State) (who : Who) (as : List Nat) : State :=
  match who.src with
  | none => s
  | some (u, e) =>
    ((as.filterMap fun a => (s.memDrop who a).map fun m => ((s.memHalf a).getD 0, m)).eraseDups).foldl
      (fun s x => s.zombie x.1 0 u e who.part x.2) s

/-- The addresses of an access that no check point drops. -/
def State.passing (s : State) (who : Who) (as : List Nat) : List Nat := as.filter fun a => (s.memDrop who a).isNone

/-! ### Codes (07 R216 to R221) -/

/-- Product in GF(2^8) with x^8 + x^4 + x^3 + x^2 + 1; `k` counts the bits of `b` still to use. -/
def gfMulFrom : Nat → Nat → Nat → Nat
  | 0, _, _ => 0
  | k + 1, a, b =>
    let a2 := if a ≥ 128 then (a * 2) % 256 ^^^ 0x1D else a * 2
    (if b % 2 = 1 then a else 0) ^^^ gfMulFrom k a2 (b / 2)

def gfMul (a b : Nat) : Nat := gfMulFrom 8 a b

/-- α^n in GF(2^8), α = 0x02. -/
def gfPow : Nat → Nat
  | 0 => 1
  | n + 1 => gfMul 2 (gfPow n)

/-- Symbols and data symbols of the code of a plain address (Table 7-7): 72 and 64 in HBM, 38 and 32 in SRAM. -/
def cwData (a : Nat) : Nat := if a < 24 * 2 ^ 37 then 64 else 32
def cwSyms (a : Nat) : Nat := if a < 24 * 2 ^ 37 then 72 else 38

/-- First address of the codeword of a plain address. -/
def cwBase (a : Nat) : Nat := a / cwData a * cwData a

/-- Syndrome `j` of an error pattern over `n` symbols: symbol i is the coefficient of x^(n - 1 - i) (07 R217). -/
def syndrome (n j : Nat) (e : ErrPat) : Nat :=
  e.foldl (fun acc (i, x) => acc ^^^ gfMul x.toNat (gfPow (j * (n - 1 - i) % 255))) 0

/-- The poison pattern of a code (07 R221). -/
def poison (a : Nat) : ErrPat :=
  let xs : List Byte := [0x5A, 0xC3, 0x96, 0x3C, 0xA5, 0x69] ++ (if cwData a = 64 then [0x0F, 0xE1] else [])
  (List.range xs.length).zipWith (fun i x => (cwData a + i, x)) xs

/-- XOR of two error patterns. -/
def patXor (a b : ErrPat) : ErrPat := b.foldl (fun acc (i, x) => tset 0 acc i (tget 0 acc i ^^^ x)) a

/-- What the decoder makes of an error pattern (07 R217, R221). -/
inductive CwState where
  | clean | corrected | poisoned
  /-- more symbol errors than the code corrects: reported or miscorrected, the code guarantees neither -/
  | beyond
  deriving DecidableEq, Repr

def cwState (a : Nat) (e : ErrPat) : CwState :=
  let n := cwSyms a
  if e = [] then .clean
  else if (List.range (n - cwData a)).all fun j => syndrome n j (patXor e (poison a)) == 0 then .poisoned
  else if e.length ≤ (n - cwData a) / 2 then .corrected
  else .beyond

/-- The counters of the memory behind a plain address (Tables 7-10, 7-13). -/
def State.modEcc (s : State) (a : Nat) (f : EccCnt → EccCnt) : State :=
  match memUnit s.fuse.gradeB a with
  | some (.hbm st) => s.modDie (st / 2) fun d => if st % 2 = 0 then { d with hecc0 := f d.hecc0 } else { d with hecc1 := f d.hecc1 }
  | some (.dieStore d) => s.modDie d fun x => { x with decc := f x.decc }
  | some (.coreStore k) => s.modCore k fun c => { c with ecc := f c.ecc }
  | none => s

def State.eccOf (s : State) (a : Nat) : EccCnt :=
  match memUnit s.fuse.gradeB a with
  | some (.hbm st) => if st % 2 = 0 then (s.die (st / 2)).hecc0 else (s.die (st / 2)).hecc1
  | some (.dieStore d) => (s.die d).decc
  | some (.coreStore k) => (s.core k).ecc
  | none => {}

/-- UNIT of the memory behind a plain address (Table 12-2). -/
def State.memUnitWord (s : State) (a : Nat) : W32 :=
  match memUnit s.fuse.gradeB a with
  | some (.hbm st) => unitPair 2 st
  | some (.dieStore d) => unitDie 1 d
  | some (.coreStore k) => s.unitCore k 5
  | none => unitDie 5 15

/-- Whether a corrected error is posted, when `seen` came before it since the counter was read: the first, and every 256th (07 R218). -/
def cePosts (seen : Nat) : Bool := seen == 0 || (seen + 1) % 256 == 0

/-- A corrected error: the codeword is written back, counted, and posted on the first after a read of the counter and on
every 256th (07 R218). -/
def State.corrected (s : State) (cw : Nat) (who : Who) : State :=
  let seen := (s.eccOf cw).seen
  let s1 := (s.setErr cw []).modEcc cw fun c => { c with ce := satAdd c.ce 1, seen := c.seen + 1 }
  if cePosts seen then s1.post (s1.accessEv (s1.memUnitWord cw) 0x02 0 who (BitVec.ofNat 64 cw)) else s1

/-- An uncorrectable read: counted and posted with its sub-cause (07 R219, Table 12-3); `chry` marks a Chrysalis area. -/
def State.uncorrectable (s : State) (cw : Nat) (who : Who) (poisoned partialW chry : Bool) : State :=
  let cause := (if chry then 1 else 0) + (if poisoned then 2 else 0) + (if partialW then 4 else 0)
  let s1 := s.modEcc cw fun c => { c with ue := satAdd c.ue 1 }
  let s2 := match memUnit s.fuse.gradeB cw with
    | some (.coreStore k) => s1.modCore k fun c => { c with strUe := true }
    | _ => s1
  s2.post (s2.accessEv (s2.memUnitWord cw) 0x03 cause who (BitVec.ofNat 64 cw))

/-- A codeword with more symbol errors than its code corrects: none where the decoder reports it, else the data it takes it for.
Both are free values (07 R217; log 7, DESIGN CHOICE; log 93, DESIGN CHOICE). -/
def State.cwFree (s : State) (cw : Nat) : Option (List Byte) :=
  if (Config.freeValue (s.free + 1)).getLsbD 0 then none
  else some ((List.range (cwData cw)).map fun i => (Config.freeValue s.free).extractLsb' (8 * i) 8)

/-- The data bytes of a codeword become these. -/
def State.wrCw (s : State) (cw : Nat) (bs : List Byte) : State :=
  ((List.range (cwData cw)).zip bs).foldl (fun (s : State) x => s.wr8 (cw + x.1) x.2) s

/-- What the bytes of a codeword read as; none: as stored in `mem` (07 R218, R219). -/
def State.cwBytes (s : State) (cw : Nat) : Option (List Byte) :=
  let zeros := List.replicate (cwData cw) (0 : Byte)
  match cwState cw (tget [] s.errs cw) with
  | .clean | .corrected => none
  | .poisoned => some zeros
  | .beyond => some ((s.cwFree cw).getD zeros)

/-- The state after a codeword is decoded for a read (07 R218, R219). A miscorrected one is a corrected error to its memory. -/
def State.cwRead (s : State) (cw : Nat) (who : Who) : State :=
  match cwState cw (tget [] s.errs cw) with
  | .clean => s
  | .corrected => s.corrected cw who
  | .poisoned => s.uncorrectable cw who true false false
  | .beyond =>
    match s.cwFree cw with
    | none => (s.skipFree 2).uncorrectable cw who false false false
    | some bs => ((s.skipFree 2).wrCw cw bs).corrected cw who

/-- Decode one codeword for a read: its bytes, and the state after it. -/
def State.readCw (s : State) (cw : Nat) (who : Who) : Option (List Byte) × State := (s.cwBytes cw, s.cwRead cw who)

/-- The codewords that a list of plain addresses touches, each once. -/
def codewords (as : List Nat) : List Nat := (as.map cwBase).eraseDups

/-- Read bytes at plain addresses through the code: each codeword is decoded once, and a dropped access reads zero (07 R218, R219, 09
R269). -/
def State.readMem (s : State) (who : Who) (as : List Nat) : List Byte × State :=
  let r := (codewords (s.passing who as)).foldl
    (fun (acc : List (Nat × List Byte) × State) cw =>
      let x := acc.2.readCw cw who
      (match x.1 with | none => acc.1 | some bs => acc.1 ++ [(cw, bs)], x.2)) ([], s)
  (as.map fun a => if (s.memDrop who a).isSome then 0 else match r.1.find? (·.1 == cwBase a) with
      | some (cw, bs) => bs.getD (a - cw) 0
      | none => s.rd8 a, r.2.dropLog who as)

/-- A partial write finds a codeword uncorrectable: its data bytes stay as they were stored, under poisoned check bytes (07 R219). -/
def State.cwPoisoned (s : State) (who : Who) (cw : Nat) (e : ErrPat) (poisoned : Bool) : State :=
  let s' := e.foldl (fun (s : State) x => if x.1 < cwData cw then s.wr8 (cw + x.1) (s.rd8 (cw + x.1) ^^^ x.2) else s) s
  (s'.setErr cw (poison cw)).uncorrectable cw who poisoned true false

/-- What a write does to the code of a codeword it touches: one covered whole becomes valid; a partial write corrects a correctable
codeword, and poisons one that it cannot decode (07 R219). -/
def State.cwWrite (s : State) (who : Who) (ws : List (Nat × Byte)) (cw : Nat) : State :=
  let e := tget [] s.errs cw
  if e = [] then s
  else if (List.range (cwData cw)).all fun i => ws.any (·.1 == cw + i) then s.setErr cw []
  else match cwState cw e with
    | .corrected => s.corrected cw who
    | .clean => s
    | .poisoned => s.cwPoisoned who cw e true
    | .beyond =>
      match s.cwFree cw with
      | none => (s.skipFree 2).cwPoisoned who cw e false
      | some bs => ((s.skipFree 2).wrCw cw bs).corrected cw who

/-- The writes of an access that no check point drops. -/
def State.landing (s : State) (who : Who) (ws : List (Nat × Byte)) : List (Nat × Byte) :=
  ws.filter fun x => (s.memDrop who x.1).isNone

/-- Write bytes at plain addresses through the code; a dropped write is discarded (07 R219, 09 R269). -/
def State.writeMem (s : State) (who : Who) (ws : List (Nat × Byte)) : State :=
  let ls := s.landing who ws
  (ls.foldl (fun (s : State) x => s.wr8 x.1 x.2) ((codewords (ls.map (·.1))).foldl (fun s cw => s.cwWrite who ls cw) s)).dropLog who
    (ws.map (·.1))

/-- The physical upsets of a command on memory: symbol errors join a codeword's pattern (log 10, DESIGN CHOICE). -/
def State.upset (s : State) (fs : List PhysFault) : State :=
  fs.foldl (fun s f => match f with
    | .flip cw sym x => s.setErr (cwBase cw) (patXor (tget [] s.errs (cwBase cw)) [(sym, x)])
    | .lam k b cw sym x => s.modCore k fun c =>
      { c with lam := tset [] c.lam (b * 8192 + cw) (patXor (tget [] c.lam (b * 8192 + cw)) [(sym, x)]) }
    | _ => s) s

/-- What this command wrote arrived with bad parity: the codeword holds the data under poisoned check bytes, counted and
posted (07 R221). It is here alone that STR_STATUS.PAR rises (log 127, DEDUCED). -/
def State.parityWrites (s : State) (who : Who) (written : List Nat) (fs : List PhysFault) : State :=
  fs.foldl (fun s f => match f with
    | .parityWrite cw =>
      if (s.passing who written).any (fun a => cwBase a == cwBase cw) then
        let b := cwBase cw
        let s1 := (s.setErr b (poison b)).modEcc b fun c => { c with par := satAdd c.par 1 }
        let s2 := match memUnit s.fuse.gradeB b with
          | some (.coreStore k) => s1.modCore k fun c => { c with strPar := true }
          | _ => s1
        s2.post (s2.accessEv (s2.memUnitWord b) 0x04 0 who (BitVec.ofNat 64 b))
      else s
    | _ => s) s

/-- Whether an element at an address reaches the engine with bad parity (07 R221). -/
def parityBad (fs : List PhysFault) (a : Nat) : Bool :=
  fs.any fun f => match f with | .parityInput b => a == b | _ => false

/-! ### Windows (07 R223 to R226) -/

/-- Whether a window covers a plain address under either of its names (07 R224). -/
def Win.covers (w : Win) (a : Nat) : Bool :=
  let inn := fun (x : Nat) => decide (fld w.base 63 12 ≤ x / 4096) && decide (x / 4096 ≤ fld w.last 63 12)
  w.v && (inn a || (decide (a < 24 * 2 ^ 37) && inn (viewOfPlain a)))

/-- Result of a window check: in window, or out with sub-cause 0 WINDOW or 1 PERM (07 R224). -/
def winCheck (wins : Tab Win) (write : Bool) (a : Nat) : Option Nat :=
  let ws := wins.map (·.2)
  if ws.any fun w => w.covers a && (if write then w.wr else w.rd) then none
  else if ws.any fun w => w.covers a then some 1 else some 0

/-! ### Stream faults (05 R162) -/

/-- A fault at an instruction of a stream, `after` when it was found at the instruction's start: HALTED, the cause and queue in SEQ_FAULT, its address in SEQ_FPC, the withheld
writes discarded, instructions issued after it that have not started removed, and a Stream-fault record. -/
def State.streamFault (s : State) (i : StreamId) (cause q : Nat) (pc : W64) (after : Option QEntry) : State :=
  let st := s.stream i
  let st' : Stream :=
    { st with
      state := .halted, stall := 0, fault := cause, faultQ := q, fpc := pc, wbuf := []
      queues := match after with
        | none => st.queues
        | some x => st.queues.map fun es => es.filter fun e => decide (e.id < x.id) }
  let s1 := s.setStream i st'
  let at_ := match after with
    | some x => (x.step, x.attempt)
    | none => (st.step, if st.inop then st.attempt else 0)
  s1.post (s1.coreEv i 0 0x06 cause at_.1 pc at_.2 0)

/-! ### An empty queue (log 2, DESIGN CHOICE) -/

/-- One cycle of the Firefly domain, when one is up: FF_TIME advances by 20 ns (14 R393, R410; log 2, DESIGN CHOICE). -/
def State.idle (s : State) : State :=
  if s.ff0.up || s.ff1.up then s.modPwr fun p => { p with ffTime := p.ffTime + 20 } else s

end Sys2Proof.Machine
end

