-- ==== Sys2Proof/Machine/Operands.lean ====
section
/-! DEFINITION. The 128-bit instruction word: its header and body fields, the Encoding checks of 06 R172, register
operands, formats in force and stream descriptors. -/

namespace Sys2Proof.Machine

/-! ### Header (Table 6-1) -/

def hFam (w : W128) : Nat := fld w 127 125
def hOp (w : W128) : Nat := fld w 124 120
def hRc (w : W128) : Nat := fld w 119 119
def hRep (w : W128) : Nat := fld w 118 107
def hSig (w : W128) : Bool := fld w 106 106 == 1
def hSobj (w : W128) : Nat := fld w 105 89
def hSke (w : W128) : Bool := fld w 88 88 == 1
def hSkd (w : W128) : Nat := fld w 87 86
def hSkc (w : W128) : Nat := fld w 85 83

/-- A one-bit field. -/
def bit (w : W128) (k : Nat) : Bool := fld w k k == 1

/-- Bits [hi:lo] are zero. -/
def zero (w : W128) (hi lo : Nat) : Bool := fld w hi lo == 0

/-- Field [hi:lo] as a signed number. -/
def sfld (w : W128) (hi lo : Nat) : Int := ((BitVec.ofNat (hi + 1 - lo) (fld w hi lo)).toInt)

def Stream.areg (st : Stream) (r : Nat) : W64 := st.a.getD r 0
def Stream.sreg (st : Stream) (r : Nat) : W64 := st.s.getD r 0
def Stream.creg (st : Stream) (r : Nat) : W32 := st.c.getD r 0
def Stream.dim (st : Stream) (d : Nat) : W32 := st.shape.getD d 0
def QEntry.areg (q : QEntry) (r : Nat) : W64 := q.a.getD r 0
def QEntry.sreg (q : QEntry) (r : Nat) : W64 := q.s.getD r 0
def QEntry.creg (q : QEntry) (r : Nat) : W32 := q.c.getD r 0

/-- Repeat count (06 R169). -/
def Stream.reps (st : Stream) (w : W128) : Nat :=
  if hRc w = 0 then hRep w + 1 else (st.creg (hRep w % 8)).toNat

/-- Whether the skip test holds (06 R171); an empty instruction is empty and not skipped (06 R194). -/
def Stream.skips (st : Stream) (w : W128) : Bool :=
  hSke w && decide (st.dim (hSkd w) ≤ st.creg (hSkc w)) && st.reps w != 0

/-- Address operand of a repetition: An + j x Sn where its increment flag is set (05 R149). -/
def QEntry.addr (q : QEntry) (r : Nat) (inc : Bool) (j : Nat) : W64 :=
  if inc then q.areg r + BitVec.ofNat 64 j * q.sreg r else q.areg r

/-! ### Conversion control words and formats -/

def vCcw (w : W128) : W16 := BitVec.ofNat 16 (fld w 75 60)
def pCcw (w : W128) : W16 := BitVec.ofNat 16 (fld w 77 62)

/-- A code of Table 2-1 that names an element format, plain or scaled-block. -/
def fltCode (f : Nat) : Bool := decide (f ≤ 8)

/-- Element class of a format for pairing: 0 FP8, 1 BF16, 2 FP16, 3 FP32 (03 R83). -/
def pairClass (f : Nat) : Nat := if f ≤ 5 then 0 else f - 5

/-- Whether two operand formats pair (03 R83). -/
def pairOk (a b : Nat) : Bool :=
  fltCode a && fltCode b && pairClass a == pairClass b
    && (sbBlock a == 0 || sbBlock b == 0 || sbBlock a == sbBlock b)

/-- Block length B of a pair (03 R84); 1 outside FP8. -/
def blockLen (a b : Nat) : Nat :=
  if pairClass a ≠ 0 then 1
  else if sbBlock a ≠ 0 then sbBlock a
  else if sbBlock b ≠ 0 then sbBlock b
  else 32

/-- The eps of FINISH: an FP32 value whose upper half is EPS; -0 acts as +0 (06 R186). -/
def epsElem (w : W128) : Elem := decodeElem fFP32 (fld w 21 6 * 65536)

/-- An EPS field that encodes a negative nonzero value, an infinity or a NaN is an Encoding fault (03 R100). -/
def epsOk (w : W128) : Bool :=
  match epsElem w with
  | .fin v => !v.neg || v.mag == 0
  | _ => false

/-! ### Encoding checks (06 R167 to R191; log 18 names the readings) -/

/-- Which opcodes a family has (Table 6-2). -/
def opcodeOk (fam op : Nat) : Bool :=
  match fam with
  | 0 => decide (op ≤ 1)
  | 1 | 3 | 5 => op == 0
  | 2 => decide (op ≤ 0x0D) || (decide (0x10 ≤ op) && decide (op ≤ 0x13)) || op == 0x18
  | 4 => decide (op ≤ 4)
  | 6 => decide (op ≤ 5)
  | _ => decide (op ≤ 0x0F)

/-- Instructions whose repeat count must be 1 (06 R169). -/
def single (fam op : Nat) : Bool := fam == 3 || fam == 6 || fam == 7 || (fam == 2 && decide (0x0C ≤ op))

def headerOk (w : W128) : Bool :=
  zero w 82 80
    && (hRc w == 0 || zero w 118 110)
    && (!single (hFam w) (hOp w) || zero w 119 107)
    && (hFam w != 7 || zero w 119 80)
    && (!(hFam w == 1 || hFam w == 6) || !hSig w)

def ctlOk (w : W128) : Bool :=
  let src := fld w 79 78
  match hOp w with
  | 0 | 12 | 14 | 15 => zero w 79 0
  | 1 => zero w 79 16
  | 2 | 3 => (src == 0 || src == 2) && zero w 73 70 && zero w 66 64
  | 4 => src == 0 && zero w 73 64
  | 5 | 6 => src != 3 && decide (fld w 77 74 ≤ 7) && zero w 66 32
  | 7 => zero w 63 32
  | 8 => zero w 79 24
  | 9 => decide (fld w 75 73 ≤ 3) && zero w 72 56 && zero w 79 79
  | 10 => decide (fld w 78 76 ≤ 6) && decide (fld w 75 71 ≤ 16) && zero w 79 79 && zero w 70 24
  | 11 => zero w 79 74 && zero w 69 32
  | _ => zero w 34 0

def strmOk (w : W128) : Bool :=
  decide (fld w 79 71 < 384) && zero w 47 32
    && (if hOp w = 1 then zero w 70 67 else zero w 31 0)

def mmaOk (w : W128) : Bool :=
  let fa := fld w 72 69
  let fb := fld w 68 65
  let k := fld w 48 31
  zero w 2 0 && pairOk fa fb
    && (!bit w 75 || (sbBlock fa != 0 && sbBlock fb != 0))
    && k != 0 && (if bit w 75 then k % 128 == 0 else k % blockLen fa fb == 0)
    && (!bit w 76 || bit w 78)
    && (!bit w 74 || (zero w 30 27 && !bit w 22))
    && (!bit w 73 || bit w 75)

/-- Bytes of one row of 32 columns at a format. -/
def rowBytes (f : Nat) : Nat := 32 * fmtBytes f

def packOk (w : W128) : Bool :=
  zero w 10 0 && ccwOk (pCcw w)
    && fld w 52 37 % 16 == 0 && decide (rowBytes (ccwCeil (pCcw w)) ≤ fld w 52 37)
    && (!bit w 78 || zero w 61 53)

/-- FMTI names an element format that a VEC instruction other than CVT accepts. -/
def vecInOk (w : W128) : Bool := fltCode (fld w 79 76) && sbBlock (fld w 79 76) == 0

/-- CCW names an element output, and the element-index fields are zero under RNE (06 R186). -/
def vecCcwOk (w : W128) : Bool :=
  ccwOk (vCcw w) && ccwFmt (vCcw w) != 9 && (ccwRnd (vCcw w) == 1 || zero w 5 0)

def vecOutOk (w : W128) : Bool := vecCcwOk w && sbBlock (ccwFmt (vCcw w)) == 0

def vecOk (w : W128) : Bool :=
  let op := hOp w
  let lay := zero w 12 6 && zero w 4 3
  if op = 0 then lay && vecInOk w && vecOutOk w && zero w 40 22
  else if op ≤ 4 then lay && vecInOk w && vecOutOk w && zero w 51 48 && !bit w 41 && zero w 40 22
  else if op = 5 then lay && fltCode (fld w 79 76) && vecCcwOk w && zero w 42 22
  else if op ≤ 7 then lay && vecInOk w && vecOutOk w && zero w 55 48 && zero w 42 22
  else if op ≤ 10 then
    lay && vecInOk w && zero w 75 60 && zero w 55 44 && zero w 42 41 && zero w 5 0
      && (op != 10 || decide (fld w 40 38 ≤ 6))
  else if op ≤ 12 then lay && fld w 79 76 == 9 && zero w 75 60 && zero w 55 44 && zero w 42 41 && zero w 21 0
  else if op = 13 then
    lay && zero w 79 76 && ccwOk (vCcw w) && ccwFmt (vCcw w) == 9 && zero w 59 48 && zero w 42 41 && zero w 21 0
  else if op ≤ 18 then zero w 79 41 && zero w 37 0
  else if op = 19 then zero w 79 60 && zero w 43 41 && zero w 21 13 && zero w 9 0
  else
    decide (fld w 79 76 ≤ 7) && vecOutOk w && zero w 51 48 && zero w 42 41 && zero w 4 3
      && (fld w 79 76 == 1 || decide (fld w 40 38 ≤ 6)) && epsOk w

def xchOk (w : W128) : Bool :=
  zero w 13 0 && !zero w 39 24 && (if hOp w = 0 then zero w 79 68 else zero w 23 14)

/-- A parameter, gradient or moment format: BF16 or FP32. -/
def updFmt (f : Nat) : Bool := f == 6 || f == 8

def updOk (w : W128) : Bool :=
  let rec_ := fld w 79 77
  decide (rec_ ≤ 4) && updFmt (fld w 51 48) && updFmt (fld w 47 44)
    && (if rec_ = 0 then zero w 43 40 && zero w 68 65 else updFmt (fld w 43 40))
    && (rec_ == 2 || rec_ == 3 || zero w 64 61)
    && (fld w 51 48 != 8 || zero w 60 57)
    && decide (fld w 22 21 ≤ 1) && (fld w 22 21 == 1 || zero w 20 18)
    && (fld w 22 21 == 0 || zero w 60 57)
    && !zero w 17 0

def synOk (w : W128) : Bool := zero w 11 0 && (hOp w != 0 || decide (fld w 62 60 ≤ 3))

/-- Whether an instruction word raises no Encoding fault (06 R172). -/
def encOk (w : W128) : Bool :=
  opcodeOk (hFam w) (hOp w) && headerOk w
    && match hFam w with
      | 0 => strmOk w
      | 1 => mmaOk w
      | 2 => vecOk w
      | 3 => packOk w
      | 4 => xchOk w
      | 5 => updOk w
      | 6 => synOk w
      | _ => ctlOk w

/-! ### Core-store operands -/

/-- Plain address of byte `off` of the own core store; offsets wrap at 2 MiB (07 R198). -/
def ownByte (key : Nat) (a : W64) (off : Int) : Nat := coreStore key + ((a.toNat : Int) + off).toNat % 2 ^ 21

/-- Plain addresses of `n` bytes from an own-store address. -/
def ownBytes (key : Nat) (a : W64) (off n : Nat) : List Nat :=
  (List.range n).map fun i => coreStore key + (a.toNat + off + i) % 2 ^ 21

/-! ### Formats in force (05 R160, 06 R173) -/

/-- The operation-table entry of an operation: rung and wide state; none while its valid bit is clear. -/
def Stream.opEntry (st : Stream) (id : Nat) : Option (Nat × Bool) :=
  let v := tget 0 st.optab id
  if v.getLsbD 31 then some (fld v 3 0, v.getLsbD 4) else none

/-- Formats in force that the pairing, the class or the reduction length of an MMA does not allow: an Encoding fault (03 R83, R84,
06 R172, R173, R180; log 18). -/
def mmaForceBad (w : W128) (a b : Nat) : Bool :=
  !pairOk a b
    || (if bit w 75 then sbBlock a == 0 || sbBlock b == 0 else fld w 48 31 % blockLen a b != 0)

/-- Formats in force that a VEC opcode does not accept: an SB input or output outside CVT, and LW or a reserved code where an
element format is required (06 R172, R186). `fi` is the input's format, `fo` the output's. -/
def vecForceBad (op fi fo : Nat) : Bool :=
  (decide (op ≤ 10) && (!fltCode fi || (op != 5 && sbBlock fi != 0)))
    || ((decide (op ≤ 7) || op == 24) && (!fltCode fo || (op != 5 && sbBlock fo != 0)))

/-- The format of an operand: encoded, or from its producing operation. None is a Sequence fault (05 R160). The entry's wide
state has no effect on an operand: an element format is the same in both modes, and a stored long word is always 256 bits (03 R95). -/
def Stream.operandFmt (st : Stream) (pop : Bool) (id enc : Nat) : Option Nat :=
  if pop then (st.opEntry id).map (·.1) else some enc

/-! ### Stream descriptors (Tables 7-4, 7-5) -/

def dNdim (d : List Byte) : Nat := recNat d 0 8 % 8
def dEw (d : List Byte) : Nat := recNat d 0 8 / 16 % 4
def dSlots (d : List Byte) : Nat := recNat d 0 8 / 256 % 8
def dSide (d : List Byte) : Nat := recNat d 0 8 / 2048 % 2
def dRsize (d : List Byte) : Nat := recNat d 0 8 / 65536 % 2 ^ 32
def dCount (d : List Byte) (k : Nat) : Nat := recNat d (0x20 + 16 * k) 4

/-- A signed field of a descriptor. -/
def recInt (d : List Byte) (off n : Nat) : Int := (BitVec.ofNat (8 * n) (recNat d off n)).toInt

def dSstr (d : List Byte) (k : Nat) : Int := recInt d (0x24 + 16 * k) 4
def dDstr (d : List Byte) (k : Nat) : Int := recInt d (0x28 + 16 * k) 4

/-- Bytes of an element width code. -/
def ewBytes (code : Nat) : Nat := if code = 3 then 32 else 2 ^ code

/-- Elements of one repetition. -/
def dElems (d : List Byte) : Nat := ((List.range (dNdim d)).map (dCount d)).foldl (· * ·) 1

/-- Whether a descriptor raises no Encoding fault, with element width `ew` in force (07 R203, R204, R206). -/
def descOk (d : List Byte) (ew : Nat) (fill : Bool) : Bool :=
  let ctrl := recNat d 0 8
  let nd := dNdim d
  decide (1 ≤ nd) && decide (nd ≤ 6)
    && ctrl / 2 ^ 48 == 0 && ctrl / 2 ^ 12 % 16 == 0 && ctrl / 64 % 4 == 0 && ctrl / 8 % 2 == 0
    && (if dSlots d = 0 then dRsize d == 0 else dRsize d != 0 && dRsize d % 32 == 0)
    && recNat d 0x18 8 == 0
    && ((List.range 6).all fun k =>
        recNat d (0x2C + 16 * k) 4 == 0
          && (if k < nd then decide (1 ≤ dCount d k) && decide (dCount d k ≤ 2 ^ 24) else dCount d k == 0)
          && (!fill || recNat d (0x24 + 16 * k) 4 == 0))
    && (!fill || recNat d 8 8 == 0)
    && decide (dElems d * ew ≤ 2 ^ 24)

/-- The index vectors of a shape in lexicographic order, dimension 0 innermost (07 R203). -/
def dIndices (d : List Byte) : Nat → List (List Nat)
  | 0 => [[]]
  | k + 1 => (List.range (dCount d k)).flatMap fun i => (dIndices d k).map fun r => r ++ [i]

/-- Byte offset of an element on one side: signed offset and strides, in elements of `ew` bytes, and the ring slot. -/
def dOffset (d : List Byte) (ew : Nat) (dst : Bool) (j : Nat) (ix : List Nat) : Int :=
  let off := if dst then recInt d 0x10 8 else recInt d 8 8
  let steps := (ix.zipIdx.map fun (i, k) => (i : Int) * (if dst then dDstr d k else dSstr d k)).foldl (· + ·) 0
  let ring := if dSlots d ≠ 0 ∧ dst = (dSide d = 0) then j % (dSlots d + 1) * dRsize d else 0
  (ew : Int) * (off + steps) + ring

/-- Device address of an element: arithmetic modulo 2^64. -/
def dAddr (base : W64) (d : List Byte) (ew : Nat) (dst : Bool) (j : Nat) (ix : List Nat) : W64 :=
  base + BitVec.ofInt 64 (dOffset d ew dst j ix)

/-! ### OPS records (Table 8-6) -/

/-- Operation number, stream and conversion control word. -/
def opsId (r : List Byte) : Nat := recNat r 1 1
def opsStream (r : List Byte) : Nat := recNat r 2 1 % 4
def opsCcw (r : List Byte) : W16 := BitVec.ofNat 16 (recNat r 4 2)

end Sys2Proof.Machine
end

