-- ==== Sys2Proof/Machine/Flags.lean ====
section
/-! DEFINITION. The mailboxes accepting records (12 R345, R346), and what the flags of an output do: the Range, Special and
Wide records a converting unit posts (02 R67, 12 R430, Table 12-3) and what an operation collects of them (05 R156). -/

namespace Sys2Proof.Machine

/-! ### Acceptance (12 R345, R346) -/

/-- The records that are ready, in order of acceptance: retracting slots first, West before East, ascending UNIT. -/
def State.ready (s : State) : List (Nat × Bool) :=
  let of := fun (half : Nat) (ret : Bool) =>
    (s.ev.slots.filter fun x => unitHalf (BitVec.ofNat 32 x.1) == half && (if ret then x.2.ret.isSome else x.2.ord.isSome)).map fun x =>
      (x.1, ret)
  of 0 true ++ of 1 true ++ of 0 false ++ of 1 false

/-- The queue of a half, and whether it takes a record: 64 entries, eight of them reserved for retracting classes. -/
def Events.queueOf (v : Events) (half : Nat) : List EvRec := if half = 0 then v.q0 else v.q1
def queueTakes (q : List EvRec) (ret : Bool) : Bool :=
  decide (q.length < 64)
    && (ret || decide ((q.filter fun e => !clsRetracting e.cls.toNat e.cause.toNat).length < 56))

/-- The Lost record of a slot: its overflow counter in COUNT, the classes lost in DETAIL [7:0] under FF_EVLOST. It concerns the
partition of the record that held the slot, whose step-fault line it raises (12 R346, R349; log 56, DEDUCED). -/
def State.postLost (s : State) (unit : W32) (part : Byte) (n : Nat) (mask : Byte) : State :=
  if n = 0 then s
  else
    let d : W64 := BitVec.ofNat 64 ((s.ev.folded.toNat * 2 ^ 32 + s.ev.lost.toNat) / 256 * 256 + mask.toNat)
    ((s.modEv fun v =>
      { v with
        lostF := v.lostF || unitHalf unit == 0, lostF1 := v.lostF1 || unitHalf unit != 0, degr := true }).alert 4).post
      { s.unitEv unit 0x14 0 part.toNat d with count := BitVec.ofNat 16 (min 65535 n) }

/-- Whether the queue of a ready record has room for it. -/
def State.roomFor (s : State) (x : Nat × Bool) : Bool := queueTakes (s.ev.queueOf (unitHalf (BitVec.ofNat 32 x.1))) x.2

/-- The unit that escalates: a core without its sub-unit (12 R348). -/
def escUnit (u : W32) : W32 := if fld u 31 28 = 0 then u &&& 0xF0FFFFFF else u

/-- Whether a record counts toward escalation (the E columns of Tables 12-3 and 14-7). -/
def State.isE (s : State) (e : EvRec) : Bool :=
  match e.cls.toNat with
  | 0x01 | 0x03 | 0x04 | 0x08 | 0x2A => true
  | 0x06 => e.cause == 7
  | 0x07 => fld e.detail 39 30 == s.rank
  | _ => false

/-- The units a record names: for Silent-data the other writer of the tile too. -/
def State.unitsOf (s : State) (e : EvRec) : List W32 :=
  let other := if e.cls = 8 then
      (s.ev.tracker.find? fun r => r.part == e.part.toNat && r.ticket.toNat == fld e.detail 63 32 && r.tid.toNat == fld e.detail 31 16).toList.map
        fun r => escUnit r.unit
    else []
  ([escUnit e.unit] ++ other).eraseDups

/-- A record that counts toward escalation begins the handling of its units, or arrives during it (12 R348). -/
def State.startHandling (s : State) (e : EvRec) : State :=
  if !s.isE e then s
  else (s.unitsOf e).foldl (fun s u =>
    let p := e.part.toNat
    let busy := if p < 16 then (s.part p).handling.contains u else s.ev.handling.any fun h => h.1 == u
    if busy then s.modEv fun v => { v with nested := v.nested ++ [(u, e.seq)] }
    else if p < 16 then s.modPart p fun x => { x with handling := x.handling ++ [u] }
    else s.modEv fun v => { v with handling := v.handling ++ [(u, e.seq)] }) s

/-- The temperature sensor nearest a unit, and its rail monitor: a core's mesh row, a stack's own, else a die's middle row or the first of a
control die (12 R342, 14 R401; log 157, DESIGN CHOICE). -/
def sensorOf (u : W32) : Nat :=
  let die := fld u 23 20
  let ix := fld u 6 0
  match fld u 31 28 with
  | 0 => 9 * die + fld u 19 13 / 8
  | 1 | 3 | 5 => 9 * die + 4
  | 2 => 108 + ix
  | 4 => 9 * (ix / 2) + 4
  | _ => 132 + 2 * unitHalf u
def railOf (u : W32) : Nat :=
  match fld u 31 28 with
  | 0 | 1 | 3 | 5 => fld u 23 20
  | 2 => 12 + fld u 6 0
  | 4 => fld u 6 0 / 2
  | _ => 36 + unitHalf u

/-- The mailbox accepts the record of a slot: it takes the next SEQ, the time, the job and the samples of its unit, and the unit
posts a Lost record for the slot's overflow counter. -/
def State.acceptRec (s : State) (x : Nat × Bool) (temp volt : W16) : State :=
  let sl := tget {} s.ev.slots x.1
  match if x.2 then sl.ret else sl.ord with
  | none => s
  | some h =>
    let job := if h.part.toNat < 16 then (s.part h.part.toNat).job else 0
    let unit : W32 := BitVec.ofNat 32 x.1
    let e : EvRec := { h with seq := s.ev.seq, time := s.pwr.ffTime, job := job, temp := temp, volt := volt }
    let half := unitHalf unit
    let sl' : Slots :=
      if x.2 then { sl with ret := none, retOver := 0, retMask := 0 } else { sl with ord := none, ordOver := 0, ordMask := 0 }
    let s1 := s.modEv fun v =>
      { v with
        slots := tset {} v.slots x.1 sl', seq := v.seq + 1
        q0 := if half = 0 then v.q0 ++ [e] else v.q0, q1 := if half = 0 then v.q1 else v.q1 ++ [e] }
    let s1' := s1.modPwr fun p =>
      { p with temps := tset 0 p.temps (sensorOf unit) temp, volts := tset 0 p.volts (railOf unit) volt }
    let s2 := if clsRetracting e.cls.toNat e.cause.toNat then
        (s1'.alert 0).modSec fun k => { k with unreadSeq := e.seq }
      else s1'
    (s2.startHandling e).postLost h.unit h.part (if x.2 then sl.retOver else sl.ordOver) (if x.2 then sl.retMask else sl.ordMask)

/-- A later cycle at the mailboxes: every ready record whose queue has room is accepted, its samples free values (log 44, DESIGN CHOICE). -/
def State.mailTurn (s : State) : State :=
  s.ready.foldl (fun s x =>
    if s.roomFor x then
      let r1 := s.takeFree
      let v := r1.1; let s1 := r1.2
      s1.acceptRec x (v.extractLsb' 0 16) (v.extractLsb' 16 16)
    else s) s

/-! ### The flags of an output (02 R67) -/

/-- Range set by saturation, with cause saturation or WIDE-TOP: the only Range a policy acts on (02 R68). -/
def Flags.saturated (f : Flags) : Bool := f.sat || f.wideTop

/-- The records of one output's flags, as (class, cause); policy SCALE marks a Range set by saturation (Table 12-3). -/
def flagEvents (f : Flags) (scale : Bool) : List (Nat × Nat) :=
  let pol := if scale then 8 else 0
  (if f.sat then [(0x0C, pol)] else [])
    ++ (if f.empty then [(0x0C, 1)] else [])
    ++ (if f.lwRange then [(0x0C, 2)] else [])
    ++ (if f.wideTop then [(0x0C, 3 + pol)] else [])
    ++ (if f.special then [(0x0D, 0)] else [])
    ++ (if f.wide then [(0x0E, 0)] else [])

/-- Range events with the SCALE cause count toward the step report of their partition (09 R265, Table 9-3). -/
def State.countScale (s : State) (part k : Nat) : State :=
  if k = 0 ∨ 16 ≤ part then s else s.modPart part fun x => { x with scaleEv := satAdd x.scaleEv k }

/-- How many Range events with the SCALE cause an output's flags make. -/
def scaleEvents (f : Flags) (scale : Bool) : Nat := if scale then (if f.sat then 1 else 0) + (if f.wideTop then 1 else 0) else 0

/-- Post the records of an output; `rec_` is the record without class and cause. The flags of one output are raised in
successive cycles, so the mailbox can take each record before the next one comes (12 R346; log 44, DESIGN CHOICE). -/
def State.postFlags (s : State) (rec_ : EvRec) (f : Flags) (scale : Bool) : State :=
  (flagEvents f scale).zipIdx.foldl (fun s (x, k) =>
    (if k = 0 then s else s.mailTurn).post { rec_ with cls := BitVec.ofNat 8 x.1, cause := BitVec.ofNat 8 x.2 }) s

/-- The LADDER record of a stream (Table 12-6; log 20, DESIGN CHOICE). -/
def ladderBody (i : StreamId) (st : Stream) : List Byte :=
  [BitVec.ofNat 8 i.die, BitVec.ofNat 8 i.core, BitVec.ofNat 8 (passIx i.pass), st.opid, st.attempt, st.rung.setWidth 8,
   if st.wide then 1 else 0, 0]
def State.ladderRecord (s : State) (i : StreamId) (st : Stream) : State :=
  match (s.core (skey i)).part with
  | some p => s.record (halfOfDie i.die) 5 p st.step (ladderBody i st)
  | none => s

/-- The sequencer learns an output's flags; a Wide event has a LADDER record, with the attempt, rung and wide state it comes from (12 R361).
Inside an operation they join the attempt's outcome (05 R156), and its Range events with
the SCALE cause count once the operation completes, since the outputs of a repeated attempt do not stand (02 R68, R72, 03 R101; log
133, DEDUCED). Outside one they count at once (09 R265), and no policy repeats anything: a saturated output under REPLAY stands, with no
Ladder-top event (02 R68; log 112, DESIGN CHOICE). -/
def State.collectFlags (s : State) (i : StreamId) (inop : Bool) (f : Flags) (scale : Bool) : State :=
  let s := if f.wide then s.ladderRecord i (s.stream i) else s
  if inop then
    s.modStream i fun st => { st with opFlags := st.opFlags.or f, opScale := st.opScale + scaleEvents f scale }
  else s.countScale ((s.core (skey i)).part.getD 0xFF) (scaleEvents f scale)

end Sys2Proof.Machine
end

