-- ==== Sys2Proof/Machine/Issue.lean ====
section
/-! DEFINITION. One core cycle of a stream with a given instruction next: stalls, faults and the issue into a queue
(05 R139 to R164, 06 R167 to R173, R193). -/

namespace Sys2Proof.Machine

/-! ### Sync-object values that waits see (09 R261, R263, 12 R351) -/

/-- The value that waits and FADD observe: GATE has one value, FLAG the highest layer that holds a SET, COUNT and WORK the
sum of the layers. -/
def SyncObj.value (o : SyncObj) : W32 :=
  match o.type with
  | .gate => o.l0.getD 0
  | .flag => (o.l2.orElse fun _ => o.l1.orElse fun _ => o.l0).getD 0
  | _ => o.l0.getD 0 + o.l1.getD 0 + o.l2.getD 0

/-- The conditions of SYN.WAIT (Table 6-16). -/
def waitCond (cond : Nat) (v u : W32) : Bool :=
  match cond with
  | 0 => v == u
  | 1 => v != u
  | 2 => decide ((v - u).toNat < 2 ^ 31)
  | _ => v &&& u == u

/-- Whether a GATE value rules on a step (09 R263). -/
def gateRules (v : W32) (step : W64) : Bool := fld v 31 12 == step.toNat % 2 ^ 20 && fld v 11 10 != 0

/-- The value operand of a SYN instruction (06 R191). -/
def synValue (q : QEntry) : W32 :=
  BitVec.ofNat 32 (fld q.w 55 24) + (if bit q.w 59 then q.creg (fld q.w 58 56) else 0)

def synObj (w : W128) : Nat := fld w 79 63

/-- Whether a core's sync operations on an object are dropped: a wrong epoch or a fenced unit (09 R269, R270). -/
def State.synDenied (s : State) (key obj : Nat) : Bool :=
  (s.obj obj).fence != (s.core key).epoch || s.masked (s.unitCore key 0)

def isWait (q : QEntry) : Bool := q.eng == .syn && (q.op == 0 || q.op == 5) && !q.skip

/-- Whether a stream's accesses reach an object: across the midline only while a bridge segment lives (01 R25, R27; log 43, DEDUCED). -/
def State.objReached (s : State) (i : StreamId) (obj : Nat) : Bool := s.crosses (halfOfDie i.die) (halfOfObj obj)

/-- Whether an evaluation of a wait now satisfies it. -/
def State.waitNow (s : State) (i : StreamId) (q : QEntry) : Bool :=
  let o := s.obj (synObj q.w)
  s.objReached i (synObj q.w) && !s.synDenied (skey i) (synObj q.w)
    && (if q.op = 5 then gateRules o.value q.step else waitCond (fld q.w 62 60) o.value (synValue q))

/-- Whether a wait is satisfied: by an earlier evaluation, which stands, or now (09 R261). -/
def State.waitMet (s : State) (i : StreamId) (q : QEntry) : Bool :=
  ((s.stream i).sat.map (·.1) == some q.id) || s.waitNow i q

/-! ### Queues and stalls (Table 5-3) -/

def Stream.queue (st : Stream) (e : Engine) : List QEntry := st.queues.getD (engIx e) []
def Stream.setQueue (st : Stream) (e : Engine) (q : List QEntry) : Stream :=
  { st with queues := st.queues.setIfInBounds (engIx e) q }

/-- The instructions of a stream that wait in its queues, and those that have not retired. -/
def Stream.queued (st : Stream) : List QEntry := st.queues.toList.flatten
def Stream.unretired (st : Stream) : List QEntry := st.queued ++ st.run.map (·.q)

/-- Floor and visibility point of repetition `j` of a STRM, from the due points of its entry: occ is n x c and L is base + occ (07
R208). -/
def QEntry.floorAt (q : QEntry) (j : Nat) : Nat := q.due + j * (q.occ / q.n)
def QEntry.seenAt (q : QEntry) (j : Nat) : Nat := q.dueDone - q.occ + (j + 1) * (q.occ / q.n)

/-- Whether a STRM, `reps` of whose repetitions have moved, still owes one that is due at stream time `t` (07 R208). -/
def QEntry.strmLate (q : QEntry) (reps t : Nat) : Bool :=
  q.eng == .str && !q.skip && decide (reps < q.n) && decide (q.seenAt reps ≤ t)

/-- Whether an instruction may start: it sees every effect of an instruction issued before it whose due completion is not
after its due start, and every repetition of a STRM issued before it whose visibility point is not (05 R143, R145, 07 R208). -/
def Stream.mayStart (st : Stream) (q : QEntry) : Bool :=
  (st.unretired.all fun j => !(decide (j.id < q.id) && j.eng != .xch && decide (j.dueDone ≤ q.due)))
    && (st.queued.all fun j => !(decide (j.id < q.id) && j.strmLate 0 q.due))
    && st.run.all fun r => !(decide (r.q.id < q.id) && r.q.strmLate r.reps q.due)

/-- The wait at the head of the sync queue that is not satisfied. -/
def State.openWait (s : State) (i : StreamId) : Option QEntry :=
  match (s.stream i).queue .syn with
  | q :: _ => if isWait q && !s.waitMet i q then some q else none
  | [] => none

/-- Whether the stream waits for a read through the instruction port: one that holds it, or one of `need` bytes that the next
instruction makes before it issues and has not asked for (05 R150). -/
def Stream.fetching (st : Stream) (need : Nat) : Bool := st.portLeft != 0 || (need != 0 && !st.asked)

/-- The lowest stall cause that holds before an instruction for an engine's queue issues (05 R142); 0 for none. `need` is what the
instruction reads through the instruction port before it issues. A wait that has reached the head of the sync queue is being
evaluated and is no LATE_START (log 74, DEDUCED). -/
def State.stallCause (s : State) (i : StreamId) (eng : Option Engine) (need : Nat) : Nat :=
  let st := s.stream i
  let t := st.stime.toNat
  let w := s.openWait i
  if st.queued.any fun q => decide (q.due ≤ t) && some q.id != w.map (·.id) then 1
  else if st.portLate != 0
      || st.run.any fun r => (r.q.eng != .xch && decide (r.q.dueDone ≤ t)) || r.q.strmLate r.reps t then 2
  else if (match eng with | some e => decide (16 ≤ (st.queue e).length) | none => false) then 3
  else if st.fetching need then 4
  else if w.isSome then 5
  else 0

/-- The cause shown at CTL.OPEND from the evaluation to the decision: OPEND, or a cause of a lower code that holds too (Table 5-3, 05
R165). -/
def State.opendCause (s : State) (i : StreamId) : Nat :=
  let c := s.stallCause i none 0
  if c = 0 then 6 else c

/-- Whether the stream takes core cycles: its core is ON and it is RUNNING (05 R140, 14 R396). -/
def State.runs (s : State) (i : StreamId) : Bool :=
  (s.core (skey i)).pow == .on && (s.stream i).state == .running

/-- Stall cycles of a read through the instruction port (05 R150; log 75, DEDUCED). -/
def fetchCost (bytes : Nat) : Nat := if bytes ≤ 64 then 6 else 7

/-- A stall cycle (05 R142, R165): the reads at the instruction port go on in it, and the next instruction's own read of `need`
bytes is asked for. -/
def Stream.stallCycle (st : Stream) (cause need : Nat) : Stream :=
  let left := st.portLeft + (if need = 0 ∨ st.asked then 0 else fetchCost need)
  { st with
    stall := cause, stalls := st.stalls + 1, cyc := st.cyc + 1, asked := st.asked || need != 0
    portLate := st.portLate - 1, portLeft := if st.portLate = 0 then left - 1 else left }

/-- The instruction port takes a read of `n` cycles, one for each 64 bytes, that the stream asks for in its latest cycle: after those
asked for before it, and the stream stalls one further cycle for each cycle in which the port serves another stream meanwhile (05 R137,
R150; log 134, DESIGN CHOICE). -/
def State.portTake (s : State) (i : StreamId) (n : Nat) : State :=
  let st := s.stream i
  let at_ := max (s.core (skey i)).portEnd st.cyc
  (s.setStream i (if st.portLate = 0 then { st with portLeft := st.portLeft + (at_ - st.cyc) }
    else { st with portLate := st.portLate + (at_ - st.cyc) })).modCore (skey i) fun c => { c with portEnd := at_ + n }

/-- The reads that an instruction has left at the port as it issued: of CTL.LDSHAPE, and of the target of a jump (05 R150, R151). -/
def State.portJump (s : State) (i : StreamId) : State :=
  let st := s.stream i
  let n := (if st.portLate = 0 then 0 else 1) + (if st.portLeft = 0 then 0 else 1)
  if n = 0 then s else s.portTake i n

/-- The next due point, floor or visibility point of the stream after now, if any (05 R143, 07 R208). -/
def Stream.nextDue (st : Stream) : Option Nat :=
  let ds := st.queued.map (·.due) ++ ((st.unretired.filter fun q => q.eng != .xch).map (·.dueDone))
    ++ (st.run.filter fun r => r.q.eng == .str).flatMap fun r => [r.q.floorAt r.reps, r.q.seenAt r.reps]
  (ds.filter fun d => decide (st.stime.toNat < d)).min?

/-- The instructions of the open operation's attempt that have not retired (05 R156). -/
def Stream.attemptLeft (st : Stream) : List QEntry := st.unretired.filter (·.inop)

/-- Whether a due start or due completion of an instruction of the attempt lies beyond stream time (05 R156). -/
def Stream.attemptDue (st : Stream) : Bool :=
  (st.queued.any fun q => q.inop && decide (st.stime.toNat < q.due)) || st.attemptLeft.any fun q => decide (st.stime.toNat < q.dueDone)

/-- Whether the row's word is one of its opcode; a word of another opcode, listed or reserved, is an Encoding fault (log 1, DESIGN CHOICE). -/
def ofRow (w : W128) (fam op : Nat) : Bool := hFam w == fam && hOp w == op && encOk w

/-- A fault at issue: cause, with the queue of the family, at the program counter (05 R162). -/
def State.issueFault (s : State) (i : StreamId) (w : W128) (cause : Nat) : State :=
  s.streamFault i cause (if hFam w = 7 then 0xF else hFam w) (s.stream i).pc none

/-- One cycle of a stream in which an instruction for `eng` is next that reads `need` bytes through the instruction port before
it issues: nothing while the stream takes no cycles or is idling or at CTL.OPEND, a stall while a cause holds, else `go`. -/
def State.onTurn (s : State) (i : StreamId) (eng : Option Engine) (need : Nat) (go : State → State) : State :=
  let st := s.stream i
  if !s.runs i || st.idleLeft != 0 || st.phase != .none then s
  else
    let c := s.stallCause i eng need
    if c ≠ 0 then
      let s1 := s.setStream i (st.stallCycle c need)
      if need = 0 ∨ st.asked then s1 else s1.portTake i ((need + 63) / 64)
    else (go s).portJump i

/-! ### The program counter and the loop stack (05 R150) -/

/-- Whether an address lies in the stream image (05 R162, cause 0x02). -/
def Stream.inImage (st : Stream) (a : W64) : Bool :=
  decide (st.imgBase.toNat ≤ a.toNat) && decide (a.toNat + 16 ≤ st.imgBase.toNat + st.imgLen.toNat) && a.toNat % 16 == 0

/-- After the instruction at `last`: the next address and the loop stack, top first. -/
def loopNext (last : W64) : List LoopEnt → W64 × List LoopEnt
  | [] => (last + 16, [])
  | e :: rest =>
    if last = e.start + BitVec.ofNat 64 (16 * (e.len - 1)) then
      (if e.count ≤ 1 then loopNext last rest else (e.start, { e with count := e.count - 1 } :: rest))
    else (last + 16, e :: rest)

/-- Whether a back-edge or taken branch would reach or pass the open operation's CTL.OPBEGIN (05 R153). -/
def Stream.crossesBegin (st : Stream) (target : W64) : Bool :=
  st.inop && (match st.snap with | some p => decide (target.toNat + 16 ≤ p.pc.toNat) | none => false)

/-- The instruction issues: `target` is where a taken branch goes, `late` the LATE_DONE cycles that follow it. A taken branch that
is the last body instruction of a loop goes to its target and leaves the count (log 101, DESIGN CHOICE). The instruction buffer
holds the 64 addresses last issued (log 102, DESIGN CHOICE); a jump to another is followed by FETCH cycles (05 R150). -/
def Stream.issued (st : Stream) (target : Option W64) (last : W64) (late : Nat) : Stream :=
  let (pc, loops) := match target with
    | some t => (t, st.loops)
    | none => loopNext last st.loops
  let buf := (st.pc :: st.buf.filter (· != st.pc)).take 64
  { st with
    pc := pc, loops := loops, buf := buf, stall := 0, stime := st.stime + 1, cyc := st.cyc + 1, asked := false
    portLate := late, portLeft := if pc = st.pc + 16 ∨ buf.contains pc then 0 else fetchCost 64 }

/-- Whether issuing at `last` would take a loop back-edge that crosses CTL.OPBEGIN. -/
def Stream.edgeBad (st : Stream) (last : W64) : Bool :=
  let pc := (loopNext last st.loops).1
  pc != last + 16 && st.crossesBegin pc

/-! ### Completion writes an attempt still owes (05 R155) -/

/-- Whether an instruction makes a completion write: SIG when it is not empty, SYN.SET and SYN.ADD when not skipped. -/
def QEntry.owesWrite (q : QEntry) : Bool :=
  (hSig q.w && q.n != 0) || (q.eng == .syn && (q.op == 1 || q.op == 2) && !q.skip)

/-- Whether a further completion write would be the 17th of the attempt: the withheld ones, and those that instructions of the
attempt still owe. A SYN that has started has made its write. -/
def Stream.writesFull (st : Stream) : Bool :=
  decide (16 ≤ st.wbuf.length + (st.queued.filter fun q => q.inop && q.owesWrite).length
    + (st.run.filter fun r => r.q.inop && r.q.eng != .syn && r.q.owesWrite).length)

/-- The Sequence causes common to every instruction: a program counter outside the image and a back-edge past OPBEGIN. -/
def Stream.seqBad (st : Stream) : Bool := !st.inImage st.pc || st.edgeBad st.pc

/-- Shape fault of a skip test (08 R250). -/
def Stream.shapeBad (st : Stream) (w : W128) : Bool :=
  hSke w && decide (st.smax.getD (hSkd w) 0 ≤ st.creg (hSkc w))

/-- The first fault in the order Encoding, Sequence, Absent Unit, Shape (06 R193). -/
def firstFault (enc seq absent shape : Bool) : Option Nat :=
  if enc then some 1 else if seq then some 2 else if absent then some 4 else if shape then some 5 else none

/-! ### Engine instructions -/

/-- What the family decides about an engine instruction at issue: occupancy, latency, formats, descriptor and the registers
its operands advance. -/
structure Plan where
  occ : Nat
  lat : Nat
  fmtA : Nat := 0
  fmtB : Nat := 0
  rung : BitVec 4 := 0
  desc : List Byte := []
  preload : Nat := 0
  gap : Nat := 0
  incs : List Nat := []

/-- Due start of the next instruction of a queue (05 R143). -/
def Stream.dueStart (st : Stream) (eng : Engine) : Nat :=
  let (d, occ) := st.last.getD (engIx eng) (0, 0)
  max (st.stime.toNat + 1) (d + occ)

/-- Registers after the advance: each incremented register once, by n x S (05 R149). -/
def Stream.advanced (st : Stream) (incs : List Nat) (n : Nat) : Vector W64 16 :=
  incs.eraseDups.foldl (fun a r => a.setIfInBounds r (st.areg r + BitVec.ofNat 64 n * st.sreg r)) st.a

/-- The core cycle of a stream's turn: after its own latest, and not before the latest of the core's streams (05 R140; log 17,
DESIGN CHOICE). -/
def Core.cycleFor (c : Core) (p : Pass) : Nat := max ((c.stream p).cyc + 1) (max c.fwd.cyc (max c.bwd.cyc c.upd.cyc))

/-- The queue entry of an instruction, with everything captured. -/
def Stream.entry (st : Stream) (id cyc : Nat) (w : W128) (eng : Engine) (p : Plan) : QEntry :=
  let n := st.reps w
  let skip := st.skips w
  let idle := n = 0 || skip
  let d := st.dueStart eng
  { id := id, cyc := cyc, eng := eng, op := hOp w, w := w, pc := st.pc, n := n, skip := skip
    a := st.a, s := st.s, c := st.c, shape := st.shape, step := st.step
    inop := st.inop, opid := st.opid, attempt := if st.inop then st.attempt else 0
    rung := p.rung, wide := st.inop && st.wide, fmtA := p.fmtA, fmtB := p.fmtB, desc := p.desc
    due := d, occ := if idle then 0 else p.occ, dueDone := d + (if idle then 0 else p.lat)
    preload := p.preload, gap := p.gap }

/-- Issue into a queue: the entry at the tail, the operand registers advanced, one cycle of stream time (05 R140, R149). -/
def State.enqueue (s : State) (i : StreamId) (w : W128) (eng : Engine) (p : Plan) (f : Stream → Stream) : State :=
  let c := s.core (skey i)
  let st := s.stream i
  let cyc := c.cycleFor i.pass
  let e := st.entry c.age cyc w eng p
  let st1 := st.setQueue eng (st.queue eng ++ [e])
  let st2 : Stream :=
    { st1 with a := st.advanced p.incs e.n, cyc := cyc - 1, last := st1.last.setIfInBounds (engIx eng) (e.due, e.occ) }
  (s.setStream i ((f st2).issued none st.pc 0)).modCore (skey i) fun c => { c with age := c.age + 1 }

/-- Issue of an engine instruction once its turn has come: the family's faults and its plan. -/
def State.issueEng (s : State) (i : StreamId) (w : W128) (fam op : Nat) (eng : Engine)
    (enc seq absent : Bool) (p : Plan) (f : Stream → Stream) : State :=
  let st := s.stream i
  let owes := hSig w && st.reps w != 0 || (fam == 6 && (op == 1 || op == 2) && !st.skips w)
  let full := st.inop && owes && st.writesFull
  match firstFault (!ofRow w fam op || enc) (st.seqBad || full || seq) absent (st.shapeBad w) with
  | some c => s.issueFault i w c
  | none => s.enqueue i w eng p f

/-- A format after `k` steps of the replay ladder (Table 2-5). -/
def climb : Nat → Nat → Nat
  | 0, f => f
  | k + 1, f => climb k ((nextRung f).getD f)

/-- The output format in force of a converting instruction: the operation's rung, and FMT outside an operation. Before the first
converting instruction of an operation it is FMT, as many steps up the ladder as the operation has taken (02 R70, 05 R154). -/
def Stream.outRung (st : Stream) (ccw : W16) : BitVec 4 :=
  if st.inop && st.opConv then st.rung
  else BitVec.ofNat 4 (if st.inop then climb st.opLadder (ccwFmt ccw) else ccwFmt ccw)

/-- A converting instruction of an operation fixes its rung, policy and ceiling (02 R68 to R70). -/
def Stream.noteConv (ccw : W16) (st : Stream) : Stream :=
  if st.inop && !st.opConv then
    { st with rung := st.outRung ccw, opConv := true, opPol := ccwPol ccw, opCeil := BitVec.ofNat 4 (ccwCeil ccw) }
  else st

end Sys2Proof.Machine
end

