-- ==== Sys2Proof/Machine/Ctl.lean ====
section
/-! DEFINITION. The CTL instructions, which the sequencer executes in their issue cycle (05 R148 to R154, 06 R176, R177). -/

namespace Sys2Proof.Machine

/-! ### Shared by the CTL instructions -/

/-- A CTL instruction in its issue cycle, after it has read `need` bytes through the instruction port: its faults in order (Loop
after Sequence), then its effect. -/
def State.issueCtl (s : State) (i : StreamId) (w : W128) (op need : Nat) (seq loop : Stream → Bool) (eff : State → State) : State :=
  s.onTurn i none (if ofRow w 7 op then need else 0) fun s =>
    let st := s.stream i
    match firstFault (!ofRow w 7 op) (!st.inImage st.pc || seq st) false false with
    | some c => s.issueFault i w c
    | none => if loop st then s.issueFault i w 3 else eff s

/-- The common Sequence cause of a CTL instruction that falls through: a loop back-edge past CTL.OPBEGIN. -/
def Stream.fallsBad (st : Stream) : Bool := st.edgeBad st.pc

/-- A CTL instruction that changes the stream and goes on to the next instruction. -/
def State.ctlStep (s : State) (i : StreamId) (late : Nat) (f : Stream → Stream) : State :=
  s.modStream i fun st => (f st).issued none st.pc late

/-- IMM of SETA, ADDA and SETS, and of SETC and ADDC. -/
def imm64 (w : W128) : W64 := BitVec.ofNat 64 (fld w 63 0)
def imm32 (w : W128) : W32 := BitVec.ofNat 32 (fld w 31 0)

/-- The operand of SETA and ADDA: IMM, or C[CM] x IMM modulo 2^64 (06 R177). -/
def Stream.opndA (st : Stream) (w : W128) : W64 :=
  if fld w 79 78 = 0 then imm64 w else (st.creg (fld w 69 67)).setWidth 64 * imm64 w

/-- The operand of SETC and ADDC and the state after reading it: IMM, the word at A[AN] + IMM, or C[CM] x IMM. -/
def State.opndC (s : State) (i : StreamId) (w : W128) : W32 × State :=
  let st := s.stream i
  match fld w 79 78 with
  | 0 => (imm32 w, s)
  | 1 =>
    let a := (st.areg (fld w 73 70) + (imm32 w).signExtend 64) &&& ~~~(3 : W64)
    let r := s.readMem (s.whoNow i) (ownBytes (skey i) a 0 4)
    (BitVec.ofNat 32 (leNat r.1), r.2)
  | _ => (st.creg (fld w 69 67) * imm32 w, s)

/-- What SETC and ADDC read through the instruction port before they issue: the word of SRC = 0b01 (05 R150). -/
def opndNeed (w : W128) : Nat := if fld w 79 78 = 1 then 4 else 0

def Stream.setA (st : Stream) (r : Nat) (v : W64) : Stream := { st with a := st.a.setIfInBounds r v }
def Stream.setC (st : Stream) (r : Nat) (v : W32) : Stream := { st with c := st.c.setIfInBounds r v }

/-- Target of a branch: its own address + 16 x OFF (06 R177). -/
def Stream.branchTo (st : Stream) (w : W128) : W64 := st.pc + BitVec.ofInt 64 (16 * sfld w 23 0)

/-- Whether a taken branch breaks a rule: outside the image, out of the innermost loop body, or to CTL.OPBEGIN or before it
(05 R150, R153, 06 R177). -/
def Stream.branchBad (st : Stream) (t : W64) : Bool :=
  !st.inImage t || st.crossesBegin t
    || (match st.loops with
        | e :: _ => decide (t.toNat < e.start.toNat) || decide (e.start.toNat + 16 * e.len ≤ t.toNat)
        | [] => false)

/-- BR, BRC and BRQ: `taken` decides. -/
def State.branch (s : State) (i : StreamId) (w : W128) (op : Nat) (taken : Stream → Bool) : State :=
  s.issueCtl i w op 0 (fun st => if taken st then st.branchBad (st.branchTo w) else st.fallsBad) (fun _ => false) fun s =>
    s.modStream i fun st =>
      if taken st then st.issued (some (st.branchTo w)) st.pc 0 else st.issued none st.pc 0

/-- The test of BRC (06 R177). -/
def brcTaken (w : W128) (st : Stream) : Bool :=
  let c := st.creg (fld w 78 76)
  let u : W32 := BitVec.ofNat 32 (fld w 55 24)
  match fld w 75 73 with
  | 0 => c == u
  | 1 => c != u
  | 2 => decide (c < u)
  | _ => decide (u ≤ c)

/-- Depth of a queue by engine index. -/
def Stream.depth (st : Stream) (e : Nat) : Nat := (st.queues.getD e []).length

/-- The step mark a stream saves at CTL.STEP (12 R350). -/
def Stream.mark (st : Stream) : Mark :=
  { a := st.a, s := st.s, c := st.c, loops := st.loops, pc := st.pc, step := st.step, groups := st.groups }

/-- Idle for as many cycles as the instruction still has, up to the next due point (05 R140, R142). -/
def Stream.idleFor (st : Stream) (n : Nat) : Stream :=
  let k := match st.nextDue with
    | some d => min n (d - st.stime.toNat)
    | none => n
  if k = n then
    { st with stime := st.stime + BitVec.ofNat 64 (n - 1), cyc := st.cyc + (n - 1), idleLeft := 0 }.issued none st.pc 0
  else { st with stime := st.stime + BitVec.ofNat 64 k, cyc := st.cyc + k, idleLeft := n - k, stall := 0 }

/-! ### The meanings -/

/-- NOP: one cycle. -/
def execCtlNop (i : StreamId) (w : W128) (s : State) : Host.Outcome State Fault Refusal :=
  .next (s.issueCtl i w 0 0 Stream.fallsBad (fun _ => false) fun s => s.ctlStep i 0 id)

/-- IDLE n: n cycles. The command idles up to the stream's next due point; a later CTL_IDLE goes on (log 19, DESIGN CHOICE). -/
def execCtlIdle (i : StreamId) (w : W128) (s : State) : Host.Outcome State Fault Refusal :=
  let st := s.stream i
  .next (if st.idleLeft = 0 then
      s.issueCtl i w 1 0 Stream.fallsBad (fun _ => false) fun s => s.modStream i fun st => st.idleFor (fld w 15 0 + 1)
    else if !s.runs i then s
    else
      let c := s.stallCause i none 0
      if c ≠ 0 then s.setStream i (st.stallCycle c 0) else (s.setStream i (st.idleFor st.idleLeft)).portJump i)

/-- SETA: An = operand. -/
def execCtlSeta (i : StreamId) (w : W128) (s : State) : Host.Outcome State Fault Refusal :=
  .next (s.issueCtl i w 2 0 Stream.fallsBad (fun _ => false) fun s =>
    s.ctlStep i 0 fun st => st.setA (fld w 77 74) (st.opndA w))

/-- ADDA: An += operand, modulo 2^64. -/
def execCtlAdda (i : StreamId) (w : W128) (s : State) : Host.Outcome State Fault Refusal :=
  .next (s.issueCtl i w 3 0 Stream.fallsBad (fun _ => false) fun s =>
    s.ctlStep i 0 fun st => st.setA (fld w 77 74) (st.areg (fld w 77 74) + st.opndA w))

/-- SETS: Sn = IMM. -/
def execCtlSets (i : StreamId) (w : W128) (s : State) : Host.Outcome State Fault Refusal :=
  .next (s.issueCtl i w 4 0 Stream.fallsBad (fun _ => false) fun s =>
    s.ctlStep i 0 fun st => { st with s := st.s.setIfInBounds (fld w 77 74) (imm64 w) })

/-- SETC: Cn = operand. -/
def execCtlSetc (i : StreamId) (w : W128) (s : State) : Host.Outcome State Fault Refusal :=
  .next (s.issueCtl i w 5 (opndNeed w) Stream.fallsBad (fun _ => false) fun s =>
    let r1 := s.opndC i w
    let v := r1.1; let s1 := r1.2
    s1.ctlStep i 0 fun st => st.setC (fld w 77 74) v)

/-- ADDC: Cn += operand, modulo 2^32. -/
def execCtlAddc (i : StreamId) (w : W128) (s : State) : Host.Outcome State Fault Refusal :=
  .next (s.issueCtl i w 6 (opndNeed w) Stream.fallsBad (fun _ => false) fun s =>
    let r1 := s.opndC i w
    let v := r1.1; let s1 := r1.2
    s1.ctlStep i 0 fun st => st.setC (fld w 77 74) (st.creg (fld w 77 74) + v))

/-- Count and length of a LOOP. -/
def loopCount (w : W128) (st : Stream) : W32 :=
  if bit w 79 then st.creg (fld w 78 76) else BitVec.ofNat 32 (fld w 31 0)
def loopLen (w : W128) : Nat := fld w 75 64 + 1

/-- LOOP: push an entry, or skip the body at count 0; a fifth entry is a Loop fault (05 R150). -/
def execCtlLoop (i : StreamId) (w : W128) (s : State) : Host.Outcome State Fault Refusal :=
  let endAt := fun (st : Stream) => st.pc + BitVec.ofNat 64 (16 * loopLen w)
  .next (s.issueCtl i w 7 0 (fun st => loopCount w st == 0 && st.edgeBad (endAt st))
    (fun st => loopCount w st != 0 && decide (4 ≤ st.loops.length)) fun s =>
    s.modStream i fun st =>
      if loopCount w st = 0 then st.issued none (endAt st) 0
      else ({ st with loops := ⟨st.pc + 16, loopLen w, loopCount w st⟩ :: st.loops } : Stream).issued (some (st.pc + 16)) st.pc 0)

/-- BR: always. -/
def execCtlBr (i : StreamId) (w : W128) (s : State) : Host.Outcome State Fault Refusal :=
  .next (s.branch i w 8 fun _ => true)

/-- BRC: on a count register. -/
def execCtlBrc (i : StreamId) (w : W128) (s : State) : Host.Outcome State Fault Refusal :=
  .next (s.branch i w 9 (brcTaken w))

/-- BRQ: on a queue's depth. -/
def execCtlBrq (i : StreamId) (w : W128) (s : State) : Host.Outcome State Fault Refusal :=
  .next (s.branch i w 10 fun st => decide (fld w 75 71 ≤ st.depth (fld w 78 76)))

/-- The four lengths CTL.LDSHAPE reads, and the state after the read (05 R151). -/
def State.readShape (s : State) (i : StreamId) (w : W128) : Vector W32 4 × State :=
  let st := s.stream i
  let a := (st.areg (fld w 73 70) + (imm32 w).signExtend 64) &&& ~~~(15 : W64)
  let r := s.readMem (s.whoNow i) (ownBytes (skey i) a 0 16)
  (Vector.ofFn fun k => BitVec.ofNat 32 (recNat r.1 (4 * k) 4), r.2)

/-- A length beyond its planned maximum (08 R250). -/
def Stream.shapeOver (st : Stream) (d : Vector W32 4) : Bool :=
  (List.range 4).any fun k => decide (st.smax.getD k 0 < d.getD k 0)

/-- The SHAPE record of a CTL.LDSHAPE (12 Table 12-6; log 20, DESIGN CHOICE). -/
def shapeBody (i : StreamId) (pc : W64) (d : Vector W32 4) : List Byte :=
  [BitVec.ofNat 8 i.die, BitVec.ofNat 8 i.core, BitVec.ofNat 8 (passIx i.pass), 0]
    ++ leBytes 8 pc.toNat ++ d.toList.flatMap fun x => leBytes 4 x.toNat

/-- LDSHAPE: SEQ_SHAPE = the 16 bytes; a length above its maximum is a Shape fault that leaves SEQ_SHAPE as it was. -/
def execCtlLdshape (i : StreamId) (w : W128) (s : State) : Host.Outcome State Fault Refusal :=
  .next (s.issueCtl i w 11 0 (fun st => st.inop || st.fallsBad) (fun _ => false) fun s =>
    let r1 := s.readShape i w
    let d := r1.1; let s1 := r1.2
    let st := s1.stream i
    if st.shapeOver d then s1.issueFault i w 5
    else
      let s2 := s1.ctlStep i (fetchCost 16) fun st => { st with shape := d }
      match (s.core (skey i)).part with
      | some p => s2.record (halfOfDie i.die) 6 p st.step (shapeBody i st.pc d)
      | none => s2)

/-- STEP: SEQ_STEP += 1, the operation table cleared, a mark saved; two marks are kept (05 R152, 12 R350). -/
def execCtlStep (i : StreamId) (w : W128) (s : State) : Host.Outcome State Fault Refusal :=
  .next (s.issueCtl i w 12 0 (fun st => st.inop || st.fallsBad) (fun _ => false) fun s =>
    s.modStream i fun st =>
      let st1 := { st with step := st.step + 1, optab := [] }.issued none st.pc 0
      { st1 with marks := (st1.mark :: st1.marks).take 2 })

/-- The conversion control word of an operation of a stream: that of its OPS record (08 R241). -/
def State.opCcw (s : State) (i : StreamId) (id : Nat) : Option W16 :=
  ((s.core (skey i)).part.bind fun p =>
    (s.part p).ops.find? fun r => opsId r == id && opsStream r == passIx i.pass).map opsCcw

/-- OPBEGIN: open an operation and save the snapshot (05 R153, R154). The rung in force is the FMT of the operation's OPS record,
which every converting instruction of it carries (08 R241), so that a participant that issues none knows it (log 108, DEDUCED). -/
def execCtlOpbegin (i : StreamId) (w : W128) (s : State) : Host.Outcome State Fault Refusal :=
  .next (s.issueCtl i w 13 0 (fun st => st.inop || st.fallsBad) (fun _ => false) fun s =>
    let ccw := s.opCcw i (fld w 79 72)
    s.modStream i fun st =>
      let st1 := st.issued none st.pc 0
      { st1 with
        inop := true, opid := BitVec.ofNat 8 (fld w 79 72), opG := fld w 71 55, opN := fld w 54 35
        attempt := 0, rung := BitVec.ofNat 4 ((ccw.map ccwFmt).getD 0), wide := false, chained := false, chout := false, phase := .none, opFlags := {}
        opPol := 0, opCeil := 0, opConv := false, opLadder := 0, opScale := 0, mismatch := false, wbuf := [], tileOrd := 0
        snap := some ⟨st1.a, st1.s, st1.c, st1.loops, st1.pc⟩ })

/-- OPEND: the first cycle closes the attempt. Each later one idles to the stream's next due point while one of the attempt lies
ahead, then stalls until every instruction of the attempt has retired, and with cause OPEND, or a lower one, from there to the decision (05
R142, R156). -/
def execCtlOpend (i : StreamId) (w : W128) (s : State) : Host.Outcome State Fault Refusal :=
  let st := s.stream i
  .next (if st.phase = .none then
      s.issueCtl i w 14 0 (fun st => !st.inop) (fun _ => false) fun s =>
        s.modStream i fun st => { st with phase := .ended, stime := st.stime + 1, cyc := st.cyc + 1, stall := 0 }
    else if !s.runs i then s
    else if st.phase = .ended && st.attemptDue then
      let c := s.stallCause i none 0
      let d := st.nextDue.getD st.stime.toNat
      if c ≠ 0 then s.setStream i (st.stallCycle c 0)
      else s.setStream i { st with stime := BitVec.ofNat 64 d, cyc := st.cyc + (d - st.stime.toNat), stall := 0 }
    else if st.phase = .ended && !st.attemptLeft.isEmpty then
      let c := s.stallCause i none 0
      s.setStream i (st.stallCycle (if c ≠ 0 then c else 2) 0)
    else s.setStream i (st.stallCycle (s.opendCause i) 0))

/-- HALT: the stream ends in HALTED with cause none (05 Table 5-4; log 88, DEDUCED). -/
def execCtlHalt (i : StreamId) (w : W128) (s : State) : Host.Outcome State Fault Refusal :=
  .next (s.issueCtl i w 15 0 (fun _ => false) (fun _ => false) fun s =>
    s.modStream i fun st => { st.issued none st.pc 0 with state := .halted, fault := 0 })

end Sys2Proof.Machine
end

