-- ==== Sys2Proof/Machine/Matrix.lean ====
section
/-! DEFINITION. The matrix engine: operand layouts, blocks and addends, banks and their faults, the exact checksum, and MMA
(03 R83 to R88, 04 R105 to R135, 06 R180 to R182). -/

namespace Sys2Proof.Machine

/-! ### Fields of MMA and PACK (Tables 6-7, 6-11) -/

def bankOf (w : W128) : Nat := fld w 79 79
def mOpn (w : W128) : Bool := bit w 78
def mCls (w : W128) : Bool := bit w 77
def mFchk (w : W128) : Bool := bit w 76
def mFlow (w : W128) : Bool := bit w 75
def mChin (w : W128) : Bool := bit w 74
def mPre (w : W128) : Bool := bit w 73
def mAnchor (w : W128) : Int := sfld w 64 49
def mK (w : W128) : Nat := fld w 48 31

/-! ### Operand layouts (Table 6-8) -/

/-- Offset of an element of operand A or B; `r` is the tile row or column, `k` the reduction coordinate. -/
def elemOff (flow isA : Bool) (fmt r k : Nat) : Nat :=
  if flow then
    (if isA then 128 * (64 * (k / 128) + r) + k % 128 else 4096 * (k / 128) + 128 * (k % 128 / 4) + 4 * r + k % 4)
  else match pairClass fmt with
    | 0 => 128 * (k / 4) + 4 * r + k % 4
    | 1 | 2 => 64 * k + 2 * r
    | _ => 128 * k + 4 * r

/-- Bytes of the elements of an operand, before its scale bytes. -/
def elemBytes (flow isA : Bool) (fmt kk : Nat) : Nat :=
  if flow then (if isA then 64 * kk else 32 * kk)
  else match pairClass fmt with
    | 0 => 32 * kk
    | 1 | 2 => 64 * kk
    | _ => 128 * kk

/-- Offset of the scale byte of an SB element of block size `b`. -/
def scaleOff (flow isA : Bool) (b kk r k : Nat) : Nat :=
  if flow then
    (if isA then 64 * kk + (64 * (k / 128) + r) * (128 / b) + k % 128 / b
     else 32 * kk + 32 * (k / 128 * (128 / b) + k % 128 / b) + r)
  else 32 * kk + 32 * (k / b) + r

/-- Bytes of the whole operand of a repetition. -/
def operandBytes (flow isA : Bool) (fmt kk : Nat) : Nat :=
  elemBytes flow isA fmt kk
    + (if sbBlock fmt = 0 then 0 else (if flow && isA then 64 else 32) * kk / sbBlock fmt)

/-- An element of an operand held as bytes; `bad` says that a byte reached the engine with bad parity (07 R221). -/
def operandElem (flow isA : Bool) (fmt kk : Nat) (bs : Array Byte) (bad : Nat → Bool) (r k : Nat) : Elem :=
  let off := elemOff flow isA fmt r k
  let nb := fmtBytes fmt
  let b := leNat ((List.range nb).map fun i => bs.getD (off + i) 0)
  let so := scaleOff flow isA (sbBlock fmt) kk r k
  let sc := if sbBlock fmt = 0 then 127 else (bs.getD so 0).toNat
  if (List.range nb).any (fun i => bad (off + i)) || (sbBlock fmt != 0 && bad so) then .nan
  else scaleElem sc (decodeElem (fmtP fmt) b)

/-! ### Addends -/

/-- Runs of `n` elements; `f` bounds their number. -/
def splitEvery {α : Type} (n : Nat) : Nat → List α → List (List α)
  | 0, _ => []
  | f + 1, l => if l.isEmpty then [] else l.take n :: splitEvery n f (l.drop n)

/-- An addend of a matrix operation: the exact value for the checksum, and the value that is aligned (03 R85, R86). None is
a NaN addend. -/
def addendOf (fp32 : Bool) (ps : List (Elem × Elem)) : Option (Exact × Exact) :=
  (blockSum ps).map fun v => (v, if fp32 then fineTrunc v else v)

/-- What the addends of one long word do: the word, and the sum of its residues in the checksum field (04 R110, R125). -/
def accumulate (anchor : Int) (wide checked fp32 : Bool) (w : LW) (blocks : List (List (Elem × Elem))) : LW × Nat :=
  blocks.foldl (fun (w, r) ps =>
    match addendOf fp32 ps with
    | none => (w.poison, r)
    | some (v, t) =>
      let q := align t anchor
      (w.add q wide, if checked then (r + phi (v.add (Exact.ofInt (-q) anchor))) % ckMod else r)) (w, 0)

/-- A finite element in the checksum field; NaN and infinity leave the comparison to the tag (04 R130). -/
def phiElem (e : Elem) : Nat := match e with | .fin v => phi v | _ => 0

/-- Add to an entry of a checksum table. -/
def ckAdd (t : Tab Nat) (k v : Nat) : Tab Nat := tset 0 t k ((tget 0 t k + v) % ckMod)

/-- One repetition of operands `a` (rows) and `b` (columns) into a bank (04 R111, R113, R125). -/
def Bank.beat (bk : Bank) (fp32 : Bool) (a b : List (List Elem)) : Bank :=
  let kk := (a.headD []).length
  let res := a.zipIdx.flatMap fun (ra, i) => b.zipIdx.map fun (cb, j) =>
    (i, j, accumulate bk.anchor bk.wide bk.checked fp32 (tget {} bk.lw (32 * i + j)) (splitEvery bk.blk kk (ra.zip cb)))
  let lw := res.filterMap fun (i, j, w, _) => if w = ({} : LW) then none else some (32 * i + j, w)
  if !bk.checked then { bk with lw := lw }
  else
    let ks := List.range kk
    let ca := ks.map fun k => (a.map fun r => phiElem (r.getD k .nan)).foldl (fun x y => (x + y) % ckMod) 0
    let rb := ks.map fun k => (b.map fun r => phiElem (r.getD k .nan)).foldl (fun x y => (x + y) % ckMod) 0
    let dot := fun (xs : List Nat) (es : List Elem) =>
      (xs.zip es).foldl (fun acc (x, e) => (acc + x * phiElem e) % ckMod) 0
    { bk with
      lw := lw
      expc := b.zipIdx.foldl (fun t (cb, j) => ckAdd t j (dot ca cb)) bk.expc
      expr := a.zipIdx.foldl (fun t (ra, i) => ckAdd t i (dot rb ra)) bk.expr
      resc := res.foldl (fun t (_, j, _, r) => ckAdd t j r) bk.resc
      resr := res.foldl (fun t (i, _, _, r) => ckAdd t i r) bk.resr }

/-! ### Banks (Tables 4-5, 4-6) -/

def Core.bank (c : Core) (b : Nat) : Bank := if b = 0 then c.b0 else c.b1
def Core.setBank (c : Core) (b : Nat) (k : Bank) : Core := if b = 0 then { c with b0 := k } else { c with b1 := k }

/-- The banks an instruction acts on: both in wide mode, whose long words the model keeps in bank 0 (04 R123). -/
def banksOf (w : W128) (wide : Bool) : List Nat := if wide then [0, 1] else [bankOf w]

/-- Result of Table 4-6 at a queue head. -/
inductive BankTurn where
  | start | wait | fault
  deriving DecidableEq, Repr

/-- Two banks: a fault of either prevails, then a wait. -/
def BankTurn.both (a b : BankTurn) : BankTurn :=
  if a = .fault ∨ b = .fault then .fault else if a = .wait ∨ b = .wait then .wait else .start

/-- Whether a pack queue holds a PACK for a bank. -/
def Stream.packFor (st : Stream) (b : Nat) : Bool :=
  (st.queue .pack).any fun q => (banksOf q.w q.wide).contains b

/-- Whether a matrix queue holds a closing MMA for a bank. -/
def Stream.closerFor (st : Stream) (b : Nat) : Bool :=
  (st.queue .mx).any fun q => mCls q.w && (banksOf q.w q.wide).contains b

/-- Whether an MMA runs with Feed waiting for rows of the chain: the repetitions that have run are fewer than it has (04 R133). -/
def Running.feeding (r : Running) : Bool := r.q.eng == .mx && !r.ready

/-- What an MMA's formats, class, anchor and wide state are against an open bank's (04 R117). -/
def Bank.matches (bk : Bank) (q : QEntry) : Bool :=
  bk.flow == mFlow q.w && bk.fmtA == q.fmtA && bk.fmtB == q.fmtB && bk.anchor == mAnchor q.w && bk.wide == q.wide

def Core.mmaTurn (c : Core) (p : Pass) (q : QEntry) (b : Nat) : BankTurn :=
  let bk := c.bank b
  if mOpn q.w then
    match bk.state with
    | .empty | .draining => .start
    | .closed =>
      match bk.owner with
      | some o => if (c.stream o).packFor b then .wait else .fault
      | none => .fault
    | .opened => .fault
  else if bk.state = .opened ∧ bk.owner = some p ∧ bk.matches q then .start
  else .fault

def Core.packTurn (c : Core) (p : Pass) (b : Nat) : BankTurn :=
  let bk := c.bank b
  if bk.state = .empty ∨ bk.owner ≠ some p then .fault
  else match bk.state with
    | .closed => if (c.stream p).run.any fun r => r.feeding && (banksOf r.q.w r.q.wide).contains b then .wait else .start
    | .opened => if (c.stream p).closerFor b then .wait else .fault
    | _ => .fault

/-- Table 4-6 over every bank an instruction acts on. -/
def Core.bankTurn (c : Core) (p : Pass) (q : QEntry) : BankTurn :=
  ((banksOf q.w q.wide).map fun b => if q.eng = .pack then c.packTurn p b else c.mmaTurn p q b).foldl BankTurn.both .start

/-- A Bank fault at start (05 R162, 04 R117): the faulting instruction and those issued after it leave their queues. -/
def State.bankFault (s : State) (i : StreamId) (q : QEntry) : State :=
  (s.streamFault i 6 (engIx q.eng) q.pc (some q)).modCore (skey i) fun c => { c with bankf := true }

/-- The bank an opening MMA leaves: OPEN, its long words and accumulators cleared, its setup fixed (04 R116, R117). -/
def openedBank (p : Pass) (q : QEntry) : Bank :=
  { state := .opened, owner := some p, flow := mFlow q.w, fmtA := q.fmtA, fmtB := q.fmtB
    blk := blockLen q.fmtA q.fmtB, anchor := mAnchor q.w, wide := q.wide, checked := mFchk q.w }

/-- Whether a tile's ordinal selects it for a check (04 R128, Table 4-8). -/
def Core.rateChecks (c : Core) (ord : Nat) : Bool :=
  let d := match c.ckRate.toNat with | 1 => 64 | 2 => 16 | 3 => 4 | 4 => 1 | _ => 0
  d != 0 && (ord + c.ckPhase.toNat) % d == 0

/-- The first beat of a tile gives it its ordinal and decides its check (04 R128, R134). Outside any operation the count of the
stream's latest operation goes on (log 103, DESIGN CHOICE). -/
def Core.firstBeat (c : Core) (p : Pass) (b : Nat) : Core :=
  let bk := c.bank b
  if bk.ran then c
  else
    let st := c.stream p
    (c.setStream p { st with tileOrd := st.tileOrd + 1 }).setBank b
      { bk with ran := true, ord := st.tileOrd, checked := bk.checked || c.rateChecks st.tileOrd }

/-! ### LAM codewords (07 R201, R216) -/

/-- Bits `lo` and up of a resolved long word become the 256 bits given. -/
def LW.setBits (w : LW) (wide : Bool) (lo len : Nat) (v : Nat) : LW :=
  let bits := if wide then 536 else 280
  let x := (BitVec.ofInt bits w.n).toNat
  let y := x % 2 ^ lo + v % 2 ^ len * 2 ^ lo + x / 2 ^ (lo + len) * 2 ^ (lo + len)
  { w with n := (BitVec.ofNat bits y).toInt }

/-- A data codeword of a long word of bank `b` is read as `v`: its 256 bits, and in wide mode the low half of the word from bank 0
and the high half from bank 1 (04 R123). -/
def Bank.lamData (bk : Bank) (b k : Nat) (v : BitVec 512) : Bank :=
  { bk with lw := tset {} bk.lw k ((tget {} bk.lw k).setBits bk.wide (if bk.wide ∧ b = 1 then 256 else 0) 256 v.toNat) }

/-- A side codeword is read as `v`: guard bits, NaN tag and Over bit of eight long words, 26 bits each in that order; in wide mode
bank 1 has them (log 110, DESIGN CHOICE). -/
def Bank.lamSide (bk : Bank) (b m : Nat) (v : BitVec 512) : Bank :=
  if bk.wide ∧ b = 0 then bk
  else
    (List.range 8).foldl (fun (bk : Bank) t =>
      let f := v.toNat / 2 ^ (26 * t) % 2 ^ 26
      let w := (tget {} bk.lw (8 * m + t)).setBits bk.wide (if bk.wide then 512 else 256) 24 f
      { bk with lw := tset {} bk.lw (8 * m + t) { w with nan := f / 2 ^ 24 % 2 == 1, ovf := f / 2 ^ 25 == 1 } }) bk

/-- What a codeword of a bank's LAM reads as, put into the long words it holds; a wide tile's are kept in bank 0. -/
def Core.lamPut (c : Core) (b k : Nat) (v : BitVec 512) : Core :=
  let h := if (c.bank 0).wide then 0 else b
  c.setBank h (if k < 4096 then (c.bank h).lamData b k v else (c.bank h).lamSide b (k - 4096) v)

/-- A LAM codeword read with an error: its count, and the record of the matrix engine, which no plain address names (07 R218, R219;
log 110, DESIGN CHOICE). -/
def State.lamError (s : State) (i : StreamId) (q : QEntry) (ue poisoned : Bool) : State :=
  let key := skey i
  let seen := (s.core key).lamEcc.seen
  let s1 := s.modCore key fun c =>
    { c with lamEcc := if ue then { c.lamEcc with ue := satAdd c.lamEcc.ue 1 }
                       else { c.lamEcc with ce := satAdd c.lamEcc.ce 1, seen := seen + 1 } }
  if ue then s1.post (s1.accessEv (s1.unitCore key 1) 0x03 (if poisoned then 2 else 0) (s1.whoOf i q) 0)
  else if cePosts seen then s1.post (s1.accessEv (s1.unitCore key 1) 0x02 0 (s1.whoOf i q) 0) else s1

/-- One codeword of a bank's LAM is decoded: corrected, or read as zero, or miscorrected into free bits (07 R217 to R219; log 7,
DESIGN CHOICE). `write` says that the access writes the word back, which makes the codeword valid. -/
def State.lamRead (s : State) (i : StreamId) (q : QEntry) (b k : Nat) (write : Bool) : State :=
  let key := skey i
  let x := b * 8192 + k
  let s1 := match cwState dieBase (tget [] (s.core key).lam x) with
    | .clean => s
    | .corrected => (s.modCore key fun c => { c with lam := tset [] c.lam x [] }).lamError i q false false
    | .poisoned => (s.modCore key fun c => c.lamPut b k 0).lamError i q true true
    | .beyond =>
      let s0 := s.skipFree 2
      if (Config.freeValue (s.free + 1)).getLsbD 0 then (s0.modCore key fun c => c.lamPut b k 0).lamError i q true false
      else (s0.modCore key fun c =>
        { c.lamPut b k (Config.freeValue s.free) with lam := tset [] c.lam x [] }).lamError i q false false
  if write then s1.modCore key fun c => { c with lam := tset [] c.lam x [] } else s1

/-- Every codeword of the LAM of a Flow tile's banks is read, as by each beat and by the drain; a Hold tile is in cell long
registers, which carry no code (07 R201). -/
def State.lamScan (s : State) (i : StreamId) (q : QEntry) (write : Bool) : State :=
  let c := s.core (skey i)
  let banks := banksOf q.w q.wide
  if !(c.bank (banks.headD 0)).flow then s
  else
    (c.lam.filter fun e => banks.contains (e.1 / 8192)).foldl (fun s e => s.lamRead i q (e.1 / 8192) (e.1 % 8192) write) s

/-- A bank that opens is cleared: its codewords are valid. -/
def Core.lamClear (c : Core) (banks : List Nat) : Core := { c with lam := c.lam.filter fun e => !banks.contains (e.1 / 8192) }

/-! ### The chain buffer (04 R133; log 21, DESIGN CHOICE) -/

/-- Rows of a chain that one repetition of K coordinates takes. -/
def chainNeed (flow : Bool) (kk : Nat) : Nat := (if flow then 64 else 32) * ((kk + 31) / 32)

/-- Whether a byte of a chained row reaches Unpack with bad parity (07 R220, R221). -/
def chainBad (fs : List PhysFault) (row byte : Nat) : Bool :=
  fs.any fun f => match f with | .chainInput r b => r == row && b == byte | _ => false

/-- Element (r, k) of operand A from chain rows: row r of the producer tile that covers coordinates 32t to 32t + 31. `bad` says that a
byte of a row, numbered in `rows`, reached the engine with bad parity (07 R221). -/
def chainElem (flow : Bool) (fmt : Nat) (rows : List ChainRow) (bad : Nat → Nat → Bool) (r k : Nat) : Elem :=
  let x := (if flow then 64 else 32) * (k / 32) + r
  let row := rows.getD x ⟨0, [], []⟩
  let nb := fmtBytes fmt
  let at_ := nb * (k % 32)
  let b := leNat ((row.bytes.drop at_).take nb)
  let g := k % 32 / sbBlock fmt
  let sc := if sbBlock fmt = 0 then 127 else (row.scales.getD g 0).toNat
  if (List.range nb).any (fun o => bad x (at_ + o)) || (sbBlock fmt != 0 && bad x (row.bytes.length + g)) then .nan
  else scaleElem sc (decodeElem (fmtP fmt) b)

/-! ### MMA at issue -/

/-- Streaming time of one repetition (Table 4-2). -/
def sRep (flow : Bool) (fmtA kk : Nat) : Nat :=
  if flow then kk / 2
  else match pairClass fmtA with | 0 => kk / 4 | 1 | 2 => kk | _ => 4 * kk

/-- MMA: issue n repetitions into one bank (06 R180 to R182). Formats in force that break a rule are an Encoding fault (log 18), FP32
in force on grade B an Absent Unit (06 R193). Its preload and class-switch gap follow the MMA before it in the queue, whether that
one ran, was skipped or was empty (06 R182). -/
def execMma (i : StreamId) (w : W128) (s : State) : Host.Outcome State Fault Refusal :=
  .next (s.onTurn i (some .mx) 0 fun s =>
    let st := s.stream i
    let fa := st.operandFmt (bit w 20) (fld w 19 12) (fld w 72 69)
    let fb := st.operandFmt (bit w 11) (fld w 10 3) (fld w 68 65)
    let a := fa.getD 0
    let b := fb.getD 0
    let fp32 := a == 8 || b == 8 || fld w 72 69 == 8 || fld w 68 65 == 8
    let pre := if mFlow w && !st.lastPre then 33 else 0
    let gap := if st.lastFlow == some (!mFlow w) then 32 else 0
    let idle := st.reps w == 0 || st.skips w
    let str := st.reps w * sRep (mFlow w) a (mK w)
    let occ := str + pre + gap
    let d := st.dueStart .mx
    s.issueEng i w 1 0 .mx (fa.isSome && fb.isSome && mmaForceBad w a b) (fa.isNone || fb.isNone) (s.fuse.gradeB && fp32)
      { occ := occ, lat := occ, fmtA := a, fmtB := b, rung := st.rung, preload := pre, gap := gap
        incs := (if bit w 22 then [fld w 30 27] else []) ++ (if bit w 21 then [fld w 26 23] else []) }
      fun st =>
        let st1 : Stream := { st with lastFlow := some (mFlow w), lastPre := mPre w }
        let st2 := if mChin w && st1.inop then { st1 with chained := true } else st1
        let close := if idle then (d, 0, 0, mFlow w) else (d + gap, str, pre, mFlow w)
        let lc := (banksOf w (st.inop && st.wide)).foldl (fun v b => v.setIfInBounds b close) st2.lastClose
        if mCls w then { st2 with lastClose := lc } else st2)

/-! ### MMA at start -/

/-- An operand of a repetition: its elements by row or column, and the state after the reads. -/
def State.mmaOperand (s : State) (i : StreamId) (q : QEntry) (fs : List PhysFault) (isA : Bool) (addr : W64) :
    List (List Elem) × State :=
  let key := skey i
  let flow := mFlow q.w
  let fmt := if isA then q.fmtA else q.fmtB
  let kk := mK q.w
  let as := ownBytes key addr 0 (operandBytes flow isA fmt kk)
  let r1 := s.readMem (s.whoOf i q) as
  let bs := r1.1; let s1 := r1.2
  let arr := bs.toArray
  let adr := as.toArray
  let rows := if flow && isA then 64 else 32
  ((List.range rows).map fun r => (List.range kk).map fun k =>
      operandElem flow isA fmt kk arr (fun o => parityBad fs (adr.getD o 0)) r k, s1)

/-- A Parity event of an engine's input (07 R221, Table 12-3). -/
def State.parityEvent (s : State) (i : StreamId) (sub : Nat) (q : QEntry) (fs : List PhysFault) (as : List Nat) : State :=
  fs.foldl (fun s f => match f with
    | .parityInput a =>
      if as.contains a then s.post (s.coreEv i sub 0x04 1 q.step q.pc q.attempt (BitVec.ofNat 64 a)) else s
    | _ => s) s

/-- Parity events of the chained rows `lo` to `hi - 1` of an MMA; DETAIL names the path: bit 63, the row and the byte (07 R221; log
136, DESIGN CHOICE). -/
def State.parityChain (s : State) (i : StreamId) (q : QEntry) (fs : List PhysFault) (lo hi : Nat) : State :=
  fs.foldl (fun s f => match f with
    | .chainInput r b =>
      if lo ≤ r ∧ r < hi then
        s.post (s.coreEv i 1 0x04 1 q.step q.pc q.attempt (BitVec.ofNat 64 (2 ^ 63 + r % 2 ^ 16 * 2 ^ 16 + b % 2 ^ 16)))
      else s
    | _ => s) s

/-- One repetition: operands read, beats run. -/
def State.mmaRep (s : State) (i : StreamId) (q : QEntry) (fs : List PhysFault) (b j : Nat) : State :=
  let key := skey i
  let flow := mFlow q.w
  let kk := mK q.w
  let aAddr := q.addr (fld q.w 30 27) (bit q.w 22) j
  let bAddr := q.addr (fld q.w 26 23) (bit q.w 21) j
  let (a, s1) :=
    if mChin q.w then
      let rows := (s.core key).chainFed
      let n := chainNeed flow kk
      let bad := fun x o => chainBad fs (j * n + x) o
      ((List.range (if flow then 64 else 32)).map fun r => (List.range kk).map fun k => chainElem flow q.fmtA rows bad r k,
        (s.modCore key fun c => { c with chainFed := c.chainFed.drop n }).parityChain i q fs (j * n) (j * n + n))
    else s.mmaOperand i q fs true aAddr
  let r2 := s1.mmaOperand i q fs false bAddr
  let bb := r2.1; let s2 := r2.2
  let used := (if mChin q.w then [] else ownBytes key aAddr 0 (operandBytes flow true q.fmtA kk))
    ++ ownBytes key bAddr 0 (operandBytes flow false q.fmtB kk)
  (s2.parityEvent i 1 q fs used).modCore key fun c => c.setBank b ((c.bank b).beat (q.fmtA == 8) a bb)

/-- Whether an MMA feeds from the chain: one that runs a beat with CHIN set. -/
def QEntry.feeds (q : QEntry) : Bool := mChin q.w && q.n != 0 && !q.skip

/-- The chained MMA of a stream that runs and whose Feed still waits for rows (04 R133). -/
def Stream.feeding (st : Stream) : Option Running := st.run.find? Running.feeding
def Core.feeding (c : Core) : Bool := c.fwd.feeding.isSome || c.bwd.feeding.isSome || c.upd.feeding.isSome

/-- Whether the matrix engine is free for an MMA: not while Feed waits for rows of another one, and a chained MMA needs a row to
begin with (04 R133). -/
def Core.chainReady (c : Core) (q : QEntry) : Bool := !c.feeding && (!q.feeds || !c.chainBuf.isEmpty)

/-- The Feed of a chained MMA, `reps` of whose repetitions have run, reads the rows that stand in the chain buffer, as far as it needs
them (04 R133). -/
def Core.feed (c : Core) (q : QEntry) (reps : Nat) : Core :=
  let k := if q.feeds then (q.n - reps) * chainNeed (mFlow q.w) (mK q.w) - c.chainFed.length else 0
  { c with chainFed := c.chainFed ++ c.chainBuf.take k, chainBuf := c.chainBuf.drop k }

/-- How many repetitions an MMA has run once the rows read so far are used: all of one that does not feed from the chain. -/
def Core.repsReady (c : Core) (q : QEntry) (reps : Nat) : Nat :=
  if q.feeds then min q.n (reps + c.chainFed.length / chainNeed (mFlow q.w) (mK q.w)) else q.n

/-- The repetitions `lo` to `hi - 1` of an MMA run: the first beat of its tile among them takes its ordinal (04 R111, R128). -/
def State.mmaBeats (s : State) (i : StreamId) (q : QEntry) (fs : List PhysFault) (lo hi : Nat) : State :=
  let b := (banksOf q.w q.wide).headD 0
  if hi ≤ lo then s
  else
    (List.range' lo (hi - lo)).foldl (fun s j => s.mmaRep i q fs b j)
      ((s.lamScan i q true).modCore (skey i) fun c => { c.firstBeat i.pass b with mxWide := q.wide })

/-- An MMA starts: it opens its bank where OPN is set, and its bank is CLOSED where CLS is set (Table 4-5, 04 R116, R117). -/
def State.mmaBank (s : State) (i : StreamId) (q : QEntry) : State :=
  let banks := banksOf q.w q.wide
  let s1 := if mOpn q.w then
      s.modCore (skey i) fun c => (banks.foldl (fun c b => c.setBank b (openedBank i.pass q)) c).lamClear banks
    else s
  if mCls q.w then
    s1.modCore (skey i) fun c => banks.foldl (fun c b => c.setBank b { c.bank b with state := .closed }) c
  else s1

end Sys2Proof.Machine
end

