-- ==== Sys2Proof/Machine/Pack.lean ====
section
/-! DEFINITION. The pack engine: the drain of a bank through Check, Pack and Write, the tile digest and the verdict (02 R64 to
R74, 04 R116 to R134, 06 R183, R184). -/

namespace Sys2Proof.Machine

/-! ### Fields of PACK (Table 6-11) -/

def pChout (w : W128) : Bool := bit w 78
def pPitch (w : W128) : Nat := fld w 52 37
def pTid (w : W128) : Nat := fld w 36 21

/-- Origin of the tile in its tensor, and its WORK ticket (06 R184). -/
def pRow (q : QEntry) : Nat := (q.creg (fld q.w 20 18)).toNat
def pCol (q : QEntry) : Nat := (q.creg (fld q.w 17 15)).toNat
def pTicket (q : QEntry) : W32 := if bit q.w 14 then q.creg (fld q.w 13 11) else 0

/-- `Tlast` and `Dpath` of Table 6-12, and the drain-path occupancy. -/
def packTiming (flow : Bool) (f axis str pre : Nat) : Nat × Nat × Nat :=
  let b := if axis = 1 then sbBlock f else 0
  if f = 9 then (if flow then (pre + str + 511, 526, 512) else (str + 287, 270, 256))
  else if flow then (pre + str + 63 + b, 78 + b, 64) else (str + 63 + b, 46 + b, 32)

/-- PACK: issue the drain of a bank (06 R183, R184). -/
def execPack (i : StreamId) (w : W128) (s : State) : Host.Outcome State Fault Refusal :=
  .next (s.onTurn i (some .pack) 0 fun s =>
    let st := s.stream i
    let f := (st.outRung (pCcw w)).toNat
    let (dm, str, pre, flow) := st.lastClose.getD (bankOf w) (0, 0, 0, false)
    let (tl, dp, occ) := packTiming flow f (ccwAxis (pCcw w)) str pre
    let d := st.dueStart .pack
    s.issueEng i w 3 0 .pack false false false
      { occ := occ, lat := max (dm + tl + 1) (d + dp) - d, rung := BitVec.ofNat 4 f
        incs := if bit w 53 then [fld w 61 58, fld w 57 54] else [] }
      fun st => let st1 := Stream.noteConv (pCcw w) st
        if pChout w && st1.inop then { st1 with chout := true } else st1)

/-! ### Conversion of a tile -/

/-- A converted tile: elements (row, column, code), scale bytes (hash row, hash column, byte offset from A[ASO], value), and
the flags of the output. -/
structure TileOut where
  elems : List (Nat × Nat × Nat)
  scales : List (Nat × Nat × Nat × Nat)
  flags : Flags

/-- Blocks of a line of values to scale bytes and codes (02 R74). -/
def convertLine (f : Nat) (sr : Bool) (vs : List (OutVal × Nat)) : List (Nat × List Nat × Flags) :=
  (splitEvery (sbBlock f) vs.length vs).map fun blk => convertBlock (fmtP f) (blk.map (·.1)) sr (blk.map (·.2))

/-- A tile of values with their draws: element codes and scale bytes at format `f`, blocks along `axis` (02 R64, R74, 06
R184). `r0`, `c0` is the tile's origin (log 73, DEDUCED). -/
def convertTile (f axis r0 c0 rows : Nat) (sr : Bool) (val : Nat → Nat → OutVal) (u : Nat → Nat → Nat) : TileOut :=
  let b := sbBlock f
  if b = 0 then
    let es := (List.range rows).flatMap fun i => (List.range 32).map fun j =>
      (i, j, convertOut (fmtP f) (val i j) sr (u i j))
    { elems := es.map fun (i, j, e, _) => (i, j, e), scales := []
      flags := es.foldl (fun acc (_, _, _, fl) => acc.or fl) {} }
  else if axis = 0 then
    let bs := (List.range rows).flatMap fun i =>
      (convertLine f sr ((List.range 32).map fun j => (val i j, u i j))).zipIdx.map fun (o, g) => (i, g, o)
    { elems := bs.flatMap fun (i, g, o) => o.2.1.zipIdx.map fun (e, t) => (i, b * g + t, e)
      scales := bs.map fun (i, g, o) => (r0 + i, c0 / b + g, i * (32 / b) + g, o.1)
      flags := bs.foldl (fun acc (_, _, o) => acc.or o.2.2) {} }
  else
    let bs := (List.range 32).flatMap fun j =>
      (convertLine f sr ((List.range rows).map fun i => (val i j, u i j))).zipIdx.map fun (o, g) => (j, g, o)
    { elems := bs.flatMap fun (j, g, o) => o.2.1.zipIdx.map fun (e, t) => (b * g + t, j, e)
      scales := bs.map fun (j, g, o) => (c0 + j, r0 / b + g, 32 * g + j, o.1)
      flags := bs.foldl (fun acc (_, _, o) => acc.or o.2.2) {} }

/-- Long words written with FMT = LW (03 R77, R95); `open_` gives the stored form of a normal-mode Wide word (log 14, DESIGN CHOICE). -/
def storeTile (rows : Nat) (wide : Bool) (lw : Nat → Nat → LW) (open_ : Nat → Nat → W256) : TileOut :=
  let es := (List.range rows).flatMap fun i => (List.range 32).map fun j => (i, j, (lw i j).store wide (open_ i j))
  { elems := es.map fun (i, j, e) => (i, j, e.1.toNat), scales := []
    flags := es.foldl (fun acc (_, _, e) => acc.or e.2) {} }

/-- The Wide flag of a tile (03 R91). -/
def wideFlag (ws : List LW) (wide : Bool) : Flags := { wide := ws.any fun w => w.isWide wide }

/-- The digest of a tile (04 R131). -/
def tileDigest (tid f r0 c0 : Nat) (o : TileOut) : W64 :=
  let es := o.elems.foldl (fun acc (i, j, e) =>
    (List.range (if f = 9 then 8 else 1)).foldl (fun acc t =>
      acc + ehash tid (r0 + i) (c0 + j) false f t (e / 2 ^ (32 * t))) acc) (0 : W64)
  o.scales.foldl (fun acc (hr, hc, _, v) => acc + ehash tid hr hc true f 0 v) es

/-- The bytes a PACK writes to the core store (06 R184). -/
def tileWrites (key : Nat) (q : QEntry) (f : Nat) (o : TileOut) : List (Nat × Byte) :=
  let nb := fmtBytes f
  let ao := q.areg (fld q.w 61 58)
  let aso := q.areg (fld q.w 57 54)
  (o.elems.flatMap fun (i, j, e) =>
      (ownBytes key ao (i * pPitch q.w + j * nb) nb).zip (leBytes nb e))
    ++ o.scales.map fun (_, _, off, v) => (ownByte key aso off, BitVec.ofNat 8 v)

/-- The rows a chained PACK sends (04 R133). A row carries the scale bytes of its own blocks; with AXIS = 1 the tile's scale bytes
are spread over the rows in the order of their offsets from A[ASO] (log 104, DESIGN CHOICE). -/
def tileRows (epoch : W16) (f rows : Nat) (o : TileOut) : List ChainRow :=
  (List.range rows).map fun i =>
    { epoch := epoch
      bytes := (o.elems.filter fun e => e.1 == i).flatMap fun (_, _, e) => leBytes (fmtBytes f) e
      scales := if sbBlock f = 0 then [] else
        (o.scales.filter fun x => x.2.2.1 / (32 / sbBlock f) == i).map fun x => BitVec.ofNat 8 x.2.2.2 }

/-! ### Check -/

/-- A long word with bits of its resolved value changed (04 R127; log 10, DESIGN CHOICE). -/
def LW.flip (w : LW) (mask : BitVec 536) (wide : Bool) : LW :=
  if wide then { w with n := (BitVec.ofInt 536 w.n ^^^ mask).toInt }
  else { w with n := (BitVec.ofInt 280 w.n ^^^ mask.setWidth 280).toInt }

/-- Long words of a bank after the upsets of this drain. -/
def Bank.words (bk : Bank) (us : List Upset) (i j : Nat) : LW :=
  us.foldl (fun w u => match u with
    | .word r c mask => if r = i ∧ c = j then w.flip mask bk.wide else w
    | _ => w) (tget {} bk.lw (32 * i + j))

/-- What faults of the residue unit add to the residue sum of a row or column (04 R127). -/
def residueErr (us : List Upset) (byRow : Bool) (k : Nat) : Nat :=
  us.foldl (fun acc u => match u with
    | .residue b x e => if b = byRow ∧ x = k then (acc + e) % ckMod else acc
    | _ => acc) 0

/-- The parity faults of what a drain writes (07 R220). -/
def upsetParity (us : List Upset) : List PhysFault :=
  us.filterMap fun u => match u with | .parity cw => some (.parityWrite cw) | _ => none

/-- The lowest mismatching row or column of a checked tile (04 R125): observed sums plus residues against expected sums. -/
def Bank.mismatch (bk : Bank) (us : List Upset) (word : Nat → Nat → LW) (rows : Nat) (byRow : Bool) : Option Nat :=
  let obs := fun (k : Nat) =>
    (List.range (if byRow then 32 else rows)).foldl
      (fun acc t => (acc + phi (Exact.ofInt (if byRow then word k t else word t k).n bk.anchor)) % ckMod) 0
  let res := if byRow then bk.resr else bk.resc
  let expect := if byRow then bk.expr else bk.expc
  (List.range (if byRow then rows else 32)).find? fun k => (obs k + tget 0 res k + residueErr us byRow k) % ckMod != tget 0 expect k

/-! ### The drain -/

/-- COLS of a tensor of a partition; 0 without a record (08 Table 8-5). -/
def Part.cols (p : Part) (tid : Nat) : Nat := recNat (tget [] p.tens tid) 0x0C 4

/-- The draw of an output element of a PACK: the row-major index in the tensor's planned shape (02 R65). -/
def packDraw (key : W128) (step : W64) (cols r c : Nat) : Nat := cicadaU key 1 step (r * cols + c)

/-- The drain of a closed bank: rows checked, converted, hashed and written; the verdict is kept for TILE_VERDICT (04 R118,
R125, R131; log 9, DEDUCED). A wide tile, which is in both banks, is reported under bank 0 (log 105, DESIGN CHOICE). -/
def State.drain (s : State) (i : StreamId) (q : QEntry) (us : List Upset) : State :=
  let s := s.lamScan i q false
  let key := skey i
  let c := s.core key
  let banks := banksOf q.w q.wide
  let b := banks.headD 0
  let bk := c.bank b
  let part := c.part.getD 0xFF
  let pt := s.part part
  let rows := if bk.flow then 64 else 32
  let f := q.rung.toNat
  let ccw := pCcw q.w
  let word := bk.words us
  let ws := (List.range rows).flatMap fun i => (List.range 32).map fun j => word i j
  let r0 := pRow q
  let c0 := pCol q
  let sr := ccwRnd ccw == 1
  let kslot := tget 0 pt.keys (ccwKslot ccw)
  let cols := pt.cols (pTid q.w)
  let draw := fun i j => if sr then packDraw kslot q.step cols (r0 + i) (c0 + j) else 0
  let o := if f = 9 then
      storeTile rows bk.wide word fun i j => (Config.freeValue (s.free + 32 * i + j)).setWidth 256
    else convertTile f (ccwAxis ccw) r0 c0 rows sr (fun i j => (word i j).out bk.anchor bk.wide) draw
  let flags := o.flags.or (wideFlag ws bk.wide)
  let s0 := s.skipFree 2048
  let writes := tileWrites key q f o
  let s1 := if pChout q.w then
      s0.modCore key fun c => { c with chainOut := c.chainOut ++ tileRows c.epoch f rows o }
    else (s0.writeMem (s0.whoOf i q) writes).parityWrites (s0.whoOf i q) (writes.map (·.1)) (upsetParity us)
  let checked := bk.checked && bk.ran
  let skip := ws.any fun w => w.nan || w.ovf
  let dig : DigestRec :=
    { part := part, tid := BitVec.ofNat 16 (pTid q.w), row := BitVec.ofNat 32 r0, col := BitVec.ofNat 32 c0
      ticket := pTicket q, rung := q.rung, wide := q.wide, attempt := q.attempt, opid := q.opid, step := q.step
      retry := pt.retry, digest := tileDigest (pTid q.w) f r0 c0 o, failed := false, unit := s.unitCore key 2
      rows := BitVec.ofNat 8 rows, cols := 32 }
  let d : Drain :=
    { bank := b, pass := i.pass, id := q.id, checked := checked, skip := skip
      badRow := if checked && !skip then bk.mismatch us word rows true else none
      badCol := if checked && !skip then bk.mismatch us word rows false else none
      ord := bk.ord, flags := flags, pol := ccwPol ccw, rung := q.rung, ceil := BitVec.ofNat 4 (ccwCeil ccw)
      inop := q.inop, iaddr := q.pc, dig := dig }
  s1.modCore key fun c =>
    { banks.foldl (fun c b => c.setBank b { c.bank b with state := .draining }) c with drains := c.drains ++ [d] }

/-- The bank of a drained tile is EMPTY once its last row has been read, unless an MMA has opened it since (Table 4-5). -/
def Core.emptied (c : Core) (banks : List Nat) : Core :=
  banks.foldl (fun c b => if (c.bank b).state = .draining then c.setBank b {} else c) c

/-- A skipped PACK: its bank goes from CLOSED to EMPTY with no drain, flags or digest, and a tile that had an ordinal is counted no
more: the tiles opened from now on do not count it (06 R171; log 106, DEDUCED). -/
def State.packSkipped (s : State) (i : StreamId) (q : QEntry) : State :=
  s.modCore (skey i) fun c =>
    let banks := banksOf q.w q.wide
    let c1 := if (c.bank (banks.headD 0)).ran then
        let st := c.stream i.pass
        c.setStream i.pass { st with tileOrd := st.tileOrd - 1 }
      else c
    banks.foldl (fun c b => c.setBank b {}) c1

/-! ### The verdict -/

/-- MX_CKLOC of a mismatch (Table 4-13). TILE_ORD holds the low 16 bits of an ordinal (log 107, DESIGN CHOICE), and BANK is 0 for a
wide tile (log 105, DESIGN CHOICE). -/
def ckLoc (d : Drain) : W32 :=
  BitVec.ofNat 32 (d.ord % 65536 * 65536 + d.badRow.getD 0 * 1024 + d.badCol.getD 0 * 32
    + (if d.badRow.isSome then 16 else 0) + (if d.badCol.isSome then 8 else 0) + d.bank * 4 + passIx d.pass)

/-- The TILE record of a tile (12 Table 12-6; log 20, DESIGN CHOICE). -/
def tileBody (r : DigestRec) : List Byte :=
  leBytes 2 r.tid.toNat ++ leBytes 4 r.row.toNat ++ leBytes 4 r.col.toNat ++ leBytes 2 r.rows.toNat ++ leBytes 2 r.cols.toNat
    ++ leBytes 4 r.ticket.toNat
    ++ [r.rung.setWidth 8, if r.wide then 1 else 0, r.attempt, r.retry] ++ leBytes 4 r.unit.toNat ++ leBytes 8 r.digest.toNat

/-- Key of a band: partition, TID, and attempt with band index (12 R361). -/
def bandKey (r : DigestRec) : Nat × Nat × Nat :=
  (r.part, r.tid.toNat, r.attempt.toNat * 2 ^ 22 + r.row.toNat / 1024)

/-- Add to an association list. -/
def assocMod {κ β : Type} [DecidableEq κ] (d : β) (l : List (κ × β)) (k : κ) (f : β → β) : List (κ × β) :=
  if l.any (fun e => e.1 = k) then l.map fun e => if e.1 = k then (k, f e.2) else e else l ++ [(k, f d)]

/-- The recorder takes a digest record: its band, and a TILE record where the partition records tiles of the operation. -/
def State.recordDigest (s : State) (half : Nat) (r : DigestRec) : State :=
  let cfg := tget {} s.ev.capCfg r.part
  let s1 := s.modEv fun v =>
    { v with digRecs := v.digRecs ++ [r]
             bands := if cfg.en then assocMod (0, 0) v.bands (bandKey r) fun (d, n) => (d + r.digest, n + 1) else v.bands }
  let forced := (s.replayOf (s.part r.part).job).isSome
  if (cfg.tile || forced) && cfg.opid == r.opid then s1.record half 10 r.part r.step (tileBody r) else s1

/-- The verdict of a drained tile: the check counters, a mismatch's location and event, the flags, and the digest record
(04 R130, R132, R134, 02 R67). -/
def State.verdict (s : State) (key : Nat) (d : Drain) : State :=
  let i : StreamId := ⟨key / 128, key % 128, d.pass⟩
  let bad := d.badRow.isSome || d.badCol.isSome
  let loc := ckLoc d
  let s1 := s.modCore key fun c =>
    let c1 : Core := { c with lastDig := d.dig.digest, drains := c.drains.filter fun x => x != d }
    let c2 := c1.emptied (if d.dig.wide then [0, 1] else [d.bank])
    if !d.checked then c2
    else if d.skip then { c2 with ckSkip := satAdd c2.ckSkip 1 }
    else if bad then { c2 with ckFail := satAdd c2.ckFail 1, ckf := true, ckLoc := loc }
    else { c2 with ckDone := satAdd c2.ckDone 1 }
  let ev := s1.coreEv i 2 0 0 d.dig.step d.iaddr d.dig.attempt (d.dig.tid.setWidth 64)
  let s2 := if bad then
      (s1.post { s1.coreEv i 1 0x01 0 d.dig.step d.iaddr d.dig.attempt
          (BitVec.ofNat 64 (loc.toNat + d.dig.tid.toNat * 2 ^ 32)) with part := ev.part }).modStream i
        fun st => if d.inop then { st with mismatch := true } else st
    else s1
  let s3 := (s2.postFlags ev d.flags (d.pol == 1)).collectFlags i d.inop d.flags (d.pol == 1)
  s3.recordDigest (halfOfDie (key / 128)) { d.dig with failed := bad }

/-- The heads of a core's pack queues, in the order forward, backward, update. -/
def Core.packHeads (c : Core) : List (Pass × QEntry) :=
  [Pass.fwd, Pass.bwd, Pass.upd].filterMap fun p => (((c.stream p).queue .pack).head?).map fun q => (p, q)

/-- The oldest of a list of queue heads, by issue cycle; of heads of equal age the first, and the lists of this model run forward,
backward, update (04 R119, 05 R141). -/
def oldest (hs : List (Pass × QEntry)) : Option (Pass × QEntry) :=
  hs.foldl (fun acc h => match acc with
    | none => some h
    | some a => if h.2.cyc < a.2.cyc then some h else some a) none

/-- The step from which Retract handling will rewind the streams of a core's partition, while it waits for the instructions
of earlier steps (12 R353). -/
def State.finishing (s : State) (i : StreamId) : Option W64 :=
  match (s.core (skey i)).part with
  | some p => ((s.part p).retracting.filter fun r => !r.rewound).map (·.step)
  | none => none

/-- Whether a stream's instructions may start and complete: its core is ON and it is neither stopped nor frozen (05 R138,
R162); instructions of earlier steps complete during Retract handling (12 Table 12-5). -/
def State.engineRuns (s : State) (i : StreamId) : Bool :=
  let st := (s.stream i).state
  (s.core (skey i)).pow == .on
    && (st == .running || st == .halted || st == .held || (st == .stopped && (s.finishing i).isSome))

/-- Whether the instruction at a queue head may start now. -/
def State.canStart (s : State) (i : StreamId) (q : QEntry) : Bool :=
  s.engineRuns i && (s.stream i).mayStart q
    && ((s.stream i).state != .stopped || (s.finishing i).any fun k => decide (q.step < k))

/-- Move the head of a queue to the running instructions. -/
def Stream.begin (st : Stream) (e : Engine) (flags : Flags) (ready : Bool) : Stream :=
  match st.queue e with
  | q :: rest => { st.setQueue e rest with run := st.run ++ [{ q := q, flags := flags, ready := ready }] }
  | [] => st

/-- Whether the mesh takes what a PACK writes: a chained one waits while rows it or an earlier one sent still wait for the consumer's
full chain buffer (04 R133). -/
def Core.writeFree (c : Core) (q : QEntry) : Bool := !pChout q.w || q.skip || c.chainOut.isEmpty

/-- The PACK that the pack engine of a core starts next: the oldest that can start (04 R119). -/
def State.packNext (s : State) (c : CoreId) : Option (Pass × QEntry) :=
  let k := s.core (ckey c)
  oldest (k.packHeads.filter fun (p, q) =>
    s.canStart ⟨c.die, c.core, p⟩ q && k.bankTurn p q != .wait && (k.bankTurn p q == .fault || k.writeFree q))

/-- DRAIN_START: the oldest PACK that can start, if it drains `bank` and is not skipped, starts or raises its Bank fault (04 R116 to
R119). -/
def execDrainStart (c : CoreId) (bank : Nat) (upsets : List Upset) (s : State) : Host.Outcome State Fault Refusal :=
  .next (match s.packNext c with
    | none => s
    | some (p, q) =>
      let i : StreamId := ⟨c.die, c.core, p⟩
      if q.skip || !(banksOf q.w q.wide).contains bank then s
      else if (s.core (ckey c)).bankTurn p q = .fault then s.bankFault i q
      else (s.drain i q upsets).modStream i fun st => st.begin .pack {} true)

/-- TILE_VERDICT: the verdict, flags and digest of the oldest drained tile of a bank are delivered (04 R130, R132). -/
def execTileVerdict (c : CoreId) (bank : Nat) (s : State) : Host.Outcome State Fault Refusal :=
  .next (match (s.core (ckey c)).drains.find? fun d => d.bank == bank with
    | some d => s.verdict (ckey c) d
    | none => s)

end Sys2Proof.Machine
end

