-- ==== Sys2Proof/Machine/Vec.lean ====
section
/-! DEFINITION. The vector engine: element operations, long-word slots and FINISH (02 R59 to R66, 03 R96 to R101, 06 R185,
R186). -/

namespace Sys2Proof.Machine

/-! ### Fields (Table 6-10) -/

def vAx (w : W128) : Nat := fld w 59 56
def vAy (w : W128) : Nat := fld w 55 52
def vAz (w : W128) : Nat := fld w 51 48
def vAd (w : W128) : Nat := fld w 47 44
def vInc (w : W128) : Bool := bit w 43
def vSlot (w : W128) : Nat := fld w 40 38
def vAnchor (w : W128) : Int := sfld w 37 22
def vAnchor2 (w : W128) : Int := sfld w 59 44
def vSlotD (w : W128) : Nat := fld w 12 10

/-- Base of the element index (06 R186). -/
def vIndexBase (q : QEntry) : Nat := if bit q.w 5 then (q.creg (fld q.w 2 0)).toNat else 0

/-! ### Issue -/

/-- Occupancy and latency of a VEC instruction of n repetitions (Table 6-9). -/
def vecTiming (op n : Nat) : Nat × Nat :=
  if op ≤ 9 then (n, n + 12)
  else match op with
    | 10 => (2 * n, 2 * n + 12)
    | 11 => (16 * n, 16 * n + 12)
    | 12 | 13 => (16, 28)
    | 16 | 17 => (1, 4)
    | 18 => (8, 14)
    | 19 => (2, 6)
    | _ => (48, 64)

/-- Opcodes that convert to a storage format or store a long word: they carry a CCW (06 R186). -/
def vecConverts (op : Nat) : Bool := decide (op ≤ 7) || op == 13 || op == 24

/-- Address registers an opcode's operands name, the ones that INC advances (06 R185, R186). -/
def vecRegs (op : Nat) (sb : Bool) (w : W128) : List Nat :=
  if op = 0 then [vAx w, vAy w, vAz w, vAd w]
  else if op ≤ 4 then [vAx w, vAy w, vAd w]
  else if op = 5 then [vAx w, vAd w] ++ (if sb then [vAy w, vAz w] else [])
  else if op ≤ 7 then [vAx w, vAd w]
  else if op ≤ 12 then [vAx w]
  else [vAd w]

/-- Issue of a VEC instruction. -/
def State.issueVec (s : State) (i : StreamId) (w : W128) (op : Nat) : State :=
  s.onTurn i (some .vec) 0 fun s =>
    let st := s.stream i
    let fi := if decide (op ≤ 10) then st.operandFmt (bit w 21) (fld w 20 13) (fld w 79 76) else some (fld w 79 76)
    let f := fi.getD 0
    let rung := if vecConverts op then st.outRung (vCcw w) else 0
    let sb := sbBlock f != 0 || sbBlock rung.toNat != 0
    let (occ, lat) := vecTiming op (st.reps w)
    s.issueEng i w 2 op .vec (fi.isSome && vecForceBad op f rung.toNat) fi.isNone false
      { occ := occ, lat := lat, fmtA := f, rung := rung
        incs := if vInc w && (decide (op ≤ 13) || op == 24) then vecRegs op sb w else [] }
      (if vecConverts op then Stream.noteConv (vCcw w) else id)

/-! ### Lanes -/

/-- Lane `l` of slot `k` of a core's vector engine. -/
def Core.slot (c : Core) (k l : Nat) : LW := tget {} c.vec (8 * l + k)
def Core.setSlot (c : Core) (k l : Nat) (v : LW) : Core := { c with vec := tset {} c.vec (8 * l + k) v }

/-- Change a slot in every lane. -/
def Core.eachLane (c : Core) (k : Nat) (f : Nat → LW → LW) : Core :=
  (List.range 64).foldl (fun c l => c.setSlot k l (f l (c.slot k l))) c

/-- Plain addresses of the 64 elements of an operand in a repetition; a broadcast operand gives one to every lane. -/
def laneAddrs (key : Nat) (a : W64) (w : Nat) (bc : Bool) : List (List Nat) :=
  (List.range 64).map fun l => ownBytes key a (if bc then 0 else l * w) w

/-- The elements of an operand of a repetition (07 R221: bad parity makes one NaN). `scale` gives an element's scale byte, none for
one that arrived with bad parity. -/
def State.lanes (s : State) (i : StreamId) (q : QEntry) (fs : List PhysFault) (fmt : Nat) (a : W64) (bc : Bool)
    (scale : Nat → Option Nat) : List Elem × State :=
  let key := skey i
  let w := fmtBytes fmt
  let as := laneAddrs key a w bc
  let r1 := s.readMem (s.whoOf i q) as.flatten
  let bs := r1.1; let s1 := r1.2
  let es := (splitEvery w 64 bs).zipIdx.map fun (b, l) =>
    match scale l with
    | some sc => if (as.getD l []).any (parityBad fs) then Elem.nan else scaleElem sc (decodeElem (fmtP fmt) (leNat b))
    | none => Elem.nan
  (es, s1.parityEvent i 3 q fs as.flatten)

/-! ### Element operations -/

/-- MAX and MIN: whether `a` is taken rather than `b` (06 R186). -/
def elemKey : Elem → Int × Exact
  | .nan => (0, ⟨false, 0, 0⟩)
  | .inf neg => (if neg then -1 else 1, ⟨false, 0, 0⟩)
  | .fin v => (0, v)

/-- `a < b` on the values, with -0 below +0. -/
def elemLess (a b : Elem) : Bool :=
  let (ka, va) := elemKey a
  let (kb, vb) := elemKey b
  if ka ≠ kb then decide (ka < kb)
  else
    let d := va.add vb.negate
    if d.mag = 0 then va.mag == 0 && va.neg && vb.mag == 0 && !vb.neg else d.neg

/-- A stored value as the output of a pure conversion (02 R61). -/
def Elem.pure : Elem → OutVal
  | .nan => .nan
  | .inf n => .inf n
  | .fin v => .fin v

/-- The result of an element opcode on one lane (Table 6-9). -/
def vecElem (op : Nat) (x y z : Elem) : OutVal :=
  match op with
  | 0 =>
    match elemMul x y, z with
    | some p, .fin c => .fin (p.add c)
    | _, _ => .nan
  | 1 =>
    match x, y with
    | .fin a, .fin b => .fin (a.add b)
    | _, _ => .nan
  | 2 => match elemMul x y with | some p => .fin p | none => .nan
  | 3 => if x = .nan ∨ y = .nan then .nan else if elemLess x y then y.pure else x.pure
  | 4 => if x = .nan ∨ y = .nan then .nan else if elemLess x y then x.pure else y.pure
  | 5 => x.pure
  | 6 => match x with | .fin v => .fin v.negate | .inf n => .inf (!n) | .nan => .nan
  | _ => match x with | .fin v => .fin { v with neg := false } | .inf _ => .inf false | .nan => .nan

/-- Key of a Cicada slot of a core's partition. -/
def State.kslot (s : State) (key k : Nat) : W128 := tget 0 (s.part ((s.core key).part.getD 0xFF)).keys k

/-- Scale bytes of a repetition: 64 / B of them at an address, none in place of one that arrives with bad parity (06 R186, 07
R221). -/
def State.readScales (s : State) (i : StreamId) (q : QEntry) (fs : List PhysFault) (a : W64) (b : Nat) : List (Option Nat) × State :=
  if b = 0 then ([], s)
  else
    let as := ownBytes (skey i) a 0 (64 / b)
    let r1 := s.readMem (s.whoOf i q) as
    ((as.zip r1.1).map fun (a, v) => if parityBad fs a then none else some v.toNat, r1.2.parityEvent i 3 q fs as)

/-- One repetition of an element opcode: operands, results, the write, and the flags. -/
def State.vecRep (s : State) (i : StreamId) (q : QEntry) (fs : List PhysFault) (j : Nat) : Flags × State :=
  let w := q.w
  let key := skey i
  let op := q.op
  let inc := vInc w
  let bi := sbBlock q.fmtA
  let r0 := if op = 5 then s.readScales i q fs (q.addr (vAy w) inc j) bi else ([], s)
  let ss := r0.1; let s0 := r0.2
  let scale := fun l => if bi = 0 then some 127 else (ss.getD (l / bi) (some 0))
  let r1 := s0.lanes i q fs q.fmtA (q.addr (vAx w) inc j) false scale
  let xs := r1.1; let s1 := r1.2
  let r2 := if op ≤ 4 then s1.lanes i q fs q.fmtA (q.addr (vAy w) inc j) (op ≤ 4 && bit w 42) (fun _ => some 127) else ([], s1)
  let ys := r2.1; let s2 := r2.2
  let r3 := if op = 0 then s2.lanes i q fs q.fmtA (q.addr (vAz w) inc j) (bit w 41) (fun _ => some 127) else ([], s2)
  let zs := r3.1; let s3 := r3.2
  let vals := (List.range 64).map fun l => vecElem op (xs.getD l .nan) (ys.getD l .nan) (zs.getD l .nan)
  let f := q.rung.toNat
  let sr := ccwRnd (vCcw w) == 1
  let k := s.kslot key (ccwKslot (vCcw w))
  let draw := fun l => if sr then cicadaU k 1 q.step (vIndexBase q + 64 * j + l) else 0
  let bo := sbBlock f
  let d := q.addr (vAd w) inc j
  let nb := fmtBytes f
  let (codes, scs, fl) :=
    if bo = 0 then
      let os := vals.zipIdx.map fun (v, l) => convertOut (fmtP f) v sr (draw l)
      (os.map (·.1), [], os.foldl (fun acc o => acc.or o.2) {})
    else
      let bs := convertLine f sr (vals.zipIdx.map fun (v, l) => (v, draw l))
      (bs.flatMap (·.2.1), bs.map (·.1), bs.foldl (fun acc b => acc.or b.2.2) {})
  let writes := (codes.zipIdx.flatMap fun (e, l) => (ownBytes key d (l * nb) nb).zip (leBytes nb e))
    ++ scs.zipIdx.map fun (v, g) => (ownByte key (q.addr (vAz w) inc j) g, BitVec.ofNat 8 v)
  let who := s.whoOf i q
  (fl, (s3.writeMem who writes).parityWrites who (writes.map (·.1)) fs)

/-! ### Long-word operations (03 R96) -/

/-- ACC, SUMSQ and MOMENTS on one element of a lane. -/
def Core.accLane (c : Core) (op k : Nat) (a : Int) (wide : Bool) (l : Nat) (e : Elem) : Core :=
  match e with
  | .fin v =>
    match op with
    | 8 => c.setSlot k l ((c.slot k l).add (align v a) wide)
    | 9 => c.setSlot k l ((c.slot k l).add (align (v.mul v) a) wide)
    | _ =>
      let m := align v a
      let c1 := c.setSlot k l ((c.slot k l).add m wide)
      c1.setSlot (k + 1) l ((c1.slot (k + 1) l).add (m * m) wide)
  | _ =>
    let c1 := c.setSlot k l (c.slot k l).poison
    if op = 10 then c1.setSlot (k + 1) l (c1.slot (k + 1) l).poison else c1

def State.accRep (s : State) (i : StreamId) (q : QEntry) (fs : List PhysFault) (j : Nat) : State :=
  let r1 := s.lanes i q fs q.fmtA (q.addr (vAx q.w) (vInc q.w) j) false fun _ => some 127
  let xs := r1.1; let s1 := r1.2
  s1.modCore (skey i) fun c =>
    xs.zipIdx.foldl (fun c (e, l) => c.accLane q.op (vSlot q.w) (vAnchor q.w) q.wide l e) c

/-- The 64 stored long words at an address. -/
def State.readWords (s : State) (i : StreamId) (q : QEntry) (fs : List PhysFault) (a : W64) : List LW × State :=
  let key := skey i
  let as := laneAddrs key a 32 false
  let r1 := s.readMem (s.whoOf i q) as.flatten
  let bs := r1.1; let s1 := r1.2
  let ws := (splitEvery 32 64 bs).zipIdx.map fun (b, l) =>
    if (as.getD l []).any (parityBad fs) then ({ nan := true } : LW) else LW.load (BitVec.ofNat 256 (leNat b))
  (ws, s1.parityEvent i 3 q fs as.flatten)

/-- LWADD: a stored long word joins a slot. -/
def LW.join (w x : LW) (wide : Bool) : LW :=
  let r := w.add x.n wide
  { r with nan := w.nan || x.nan, ovf := r.ovf || x.ovf }

/-- LRED: the sum of 64 lanes; a partial sum beyond the range sets no Over (03 R91). -/
def lredWord (ws : List LW) (wide : Bool) : LW :=
  { n := (ws.foldl (fun (acc : Int) (w : LW) => acc + w.n) 0).bmod (lwMod wide), nan := ws.any (·.nan), ovf := ws.any (·.ovf) }

/-- REANCHOR of a long word, its guard bits included, from anchor `a` to anchor `d` (03 R96, R101; log 121, DEDUCED). -/
def LW.reanchor (w : LW) (a d : Int) (wide : Bool) : LW :=
  let x := align (Exact.ofInt w.n a) d
  { n := x.bmod (lwMod wide), nan := w.nan, ovf := w.ovf || decide (x.natAbs > (lwMax wide).toNat) }

/-- LWST: the 64 words of a slot stored at an address (03 R77, R95); a normal-mode Wide word has no stated stored form, so
it is a free value (log 14, DESIGN CHOICE). -/
def State.lwst (s : State) (i : StreamId) (q : QEntry) (fs : List PhysFault) : Flags × State :=
  let key := skey i
  let c := s.core key
  let os := (List.range 64).map fun l =>
    (c.slot (vSlot q.w) l).store q.wide ((Config.freeValue (s.free + l)).setWidth 256)
  let writes := os.zipIdx.flatMap fun (o, l) => (ownBytes key (q.areg (vAd q.w)) (32 * l) 32).zip (leBytes 32 o.1.toNat)
  let who := s.whoOf i q
  let s1 := s.skipFree 64
  (os.foldl (fun acc o => acc.or o.2) {}, (s1.writeMem who writes).parityWrites who (writes.map (·.1)) fs)

/-! ### FINISH (03 R98 to R100) -/

/-- A Finish result as an output element of format `f`. -/
def finOut (f : FmtP) (r : FinRes) (sr : Bool) (u : Nat) : Nat × Flags :=
  match r with
  | .val v => convertOut f (.fin v) sr u
  | .nanSpecial => (f.qnan, { special := true })
  | .nanEmpty => (f.qnan, { empty := true })
  | .unbounded => (encodeFmt f false f.maxsig (f.emax - ((f.p : Int) - 1)), { sat := true })

/-- The eps of RSTDP; -0 acts as +0. -/
def finEps (w : W128) : Exact := match epsElem w with | .fin v => { v with neg := false } | _ => ⟨false, 0, 0⟩

/-- FINISH on every lane: the result at D + l x w. SUM and NORM do not read n (03 R100). A count that reaches the engine with bad parity
makes every result NaN (07 R221; log 135, DEDUCED). In normal mode Finish takes the 256 bits of a
long word, in wide mode its guard bits too (03 R98, R99). -/
def State.finishAll (s : State) (i : StreamId) (q : QEntry) (fs : List PhysFault) : Flags × State :=
  let w := q.w
  let key := skey i
  let who := s.whoOf i q
  let mode := fld w 79 76
  let as := if bit w 59 && decide (2 ≤ mode) then ownBytes key (q.areg (fld w 55 52)) 0 8 else []
  let r1 := s.readMem who as
  let nb := r1.1; let s1 := r1.2.parityEvent i 3 q fs as
  let bad := as.any (parityBad fs)
  let n := if bit w 59 then leNat nb else (q.creg (fld w 58 56)).toNat
  let c := s1.core key
  let k := vSlot w
  let a := vAnchor w
  let f := fmtP q.rung.toNat
  let sr := ccwRnd (vCcw w) == 1
  let kk := s.kslot key (ccwKslot (vCcw w))
  let os := (List.range 64).map fun l =>
    let s1w := c.slot k l
    let s2w := if mode = 1 then s1w else c.slot (k + 1) l
    let a2 := if mode = 1 then a else 2 * a
    let see := fun (x : LW) => { x with n := x.seen q.wide }
    let r := finOut f (if bad then .nanSpecial else finish mode (see s1w) (see s2w) a a2 n (finEps w)) sr (if sr then cicadaU kk 1 q.step (vIndexBase q + l) else 0)
    let used := if mode = 1 then [s2w] else [s1w, s2w]
    (r.1, r.2.or (wideFlag used q.wide))
  let wb := fmtBytes q.rung.toNat
  let writes := os.zipIdx.flatMap fun (o, l) => (ownBytes key (q.areg (vAd w)) (l * wb) wb).zip (leBytes wb o.1)
  (os.foldl (fun acc o => acc.or o.2) {}, (s1.writeMem who writes).parityWrites who (writes.map (·.1)) fs)

/-! ### Start -/

/-- A VEC instruction starts: every repetition in order; its flags are reported when it completes (06 R185; log 9, DEDUCED). In wide mode
every lane's slot holds a long word of 512 bits (03 R93; log 120, DESIGN CHOICE). -/
def State.vecStart (s : State) (i : StreamId) (q : QEntry) (fs : List PhysFault) : Flags × State :=
  let key := skey i
  let w := q.w
  if q.n = 0 ∨ q.skip then ({}, s)
  else if q.op ≤ 7 then
    (List.range q.n).foldl (fun acc j => let r' := acc.2.vecRep i q fs j; (Flags.or acc.1 r'.1, r'.2)) ({}, s)
  else if q.op ≤ 10 then ({}, (List.range q.n).foldl (fun s j => s.accRep i q fs j) s)
  else if q.op ≤ 12 then
    ({}, (List.range q.n).foldl (fun s j =>
      let r1 := s.readWords i q fs (q.addr (vAx w) (vInc w) j)
      let ws := r1.1; let s1 := r1.2
      s1.modCore key fun c => c.eachLane (vSlot w) fun l x =>
        if q.op = 11 then x.join (ws.getD l {}) q.wide else ws.getD l {}) s)
  else if q.op = 13 then s.lwst i q fs
  else if q.op = 16 then ({}, s.modCore key fun c => c.eachLane (vSlot w) fun _ _ => {})
  else if q.op = 17 then ({}, s.modCore key fun c => c.eachLane (vSlot w) fun _ x => { x with n := -x.n })
  else if q.op = 18 then
    ({}, s.modCore key fun c =>
      let r := lredWord ((List.range 64).map (c.slot (vSlot w))) q.wide
      c.eachLane (vSlot w) fun l _ => if l = 0 then r else {})
  else if q.op = 19 then
    ({}, s.modCore key fun c =>
      (List.range 64).foldl (fun c l =>
        c.setSlot (vSlotD w) l ((c.slot (vSlot w) l).reanchor (vAnchor w) (vAnchor2 w) q.wide)) c)
  else s.finishAll i q fs

/-! ### The meanings -/

def execVecFma (i : StreamId) (w : W128) (s : State) : Host.Outcome State Fault Refusal := .next (s.issueVec i w 0)
def execVecAdd (i : StreamId) (w : W128) (s : State) : Host.Outcome State Fault Refusal := .next (s.issueVec i w 1)
def execVecMul (i : StreamId) (w : W128) (s : State) : Host.Outcome State Fault Refusal := .next (s.issueVec i w 2)
def execVecMax (i : StreamId) (w : W128) (s : State) : Host.Outcome State Fault Refusal := .next (s.issueVec i w 3)
def execVecMin (i : StreamId) (w : W128) (s : State) : Host.Outcome State Fault Refusal := .next (s.issueVec i w 4)
def execVecCvt (i : StreamId) (w : W128) (s : State) : Host.Outcome State Fault Refusal := .next (s.issueVec i w 5)
def execVecNeg (i : StreamId) (w : W128) (s : State) : Host.Outcome State Fault Refusal := .next (s.issueVec i w 6)
def execVecAbs (i : StreamId) (w : W128) (s : State) : Host.Outcome State Fault Refusal := .next (s.issueVec i w 7)
def execVecAcc (i : StreamId) (w : W128) (s : State) : Host.Outcome State Fault Refusal := .next (s.issueVec i w 8)
def execVecSumsq (i : StreamId) (w : W128) (s : State) : Host.Outcome State Fault Refusal := .next (s.issueVec i w 9)
def execVecMoments (i : StreamId) (w : W128) (s : State) : Host.Outcome State Fault Refusal := .next (s.issueVec i w 10)
def execVecLwadd (i : StreamId) (w : W128) (s : State) : Host.Outcome State Fault Refusal := .next (s.issueVec i w 11)
def execVecLwld (i : StreamId) (w : W128) (s : State) : Host.Outcome State Fault Refusal := .next (s.issueVec i w 12)
def execVecLwst (i : StreamId) (w : W128) (s : State) : Host.Outcome State Fault Refusal := .next (s.issueVec i w 13)
def execVecLzero (i : StreamId) (w : W128) (s : State) : Host.Outcome State Fault Refusal := .next (s.issueVec i w 16)
def execVecLneg (i : StreamId) (w : W128) (s : State) : Host.Outcome State Fault Refusal := .next (s.issueVec i w 17)
def execVecLred (i : StreamId) (w : W128) (s : State) : Host.Outcome State Fault Refusal := .next (s.issueVec i w 18)
def execVecReanchor (i : StreamId) (w : W128) (s : State) : Host.Outcome State Fault Refusal := .next (s.issueVec i w 19)
def execVecFinish (i : StreamId) (w : W128) (s : State) : Host.Outcome State Fault Refusal := .next (s.issueVec i w 24)

end Sys2Proof.Machine
end

