-- ==== Sys2Proof/Machine/Strm.lean ====
section
/-! DEFINITION. The stream engine: STRM.COPY and STRM.FILL, windows and Bounds events, merging (06 R178, R179, 07 R202 to
R210, R223 to R225). -/

namespace Sys2Proof.Machine

/-! ### Fields (Table 6-5) -/

def tCtx (w : W128) : Nat := fld w 79 71
def tAsrc (w : W128) : Nat := fld w 70 67
def tAdst (w : W128) : Nat := fld w 66 63
def tAdesc (w : W128) : Nat := fld w 62 59
def tPat (w : W128) : W32 := BitVec.ofNat 32 (fld w 31 0)

/-! ### Latency classes (Table 6-6) -/

/-- An endpoint as the class sees it: kind (0 own core store, 1 another core store, 2 die store, 3 HBM) and addition. -/
def endpoint (gradeB : Bool) (key : Nat) (a : Nat) : Nat × Nat :=
  let die := key / 128
  let far := fun d => if d = die then 0 else if halfOfDie d = halfOfDie die then 120 else 200
  if viewBase ≤ a ∧ a < viewBase + 2 * 2 ^ 41 ∧ (a - viewBase) % 2 ^ 41 < 1152 * 2 ^ 30 then
    (3, if (a - viewBase) / 2 ^ 41 = halfOfDie die then 120 else 200)
  else match memUnit gradeB a with
    | some (.hbm st) => (3, far (st / 2))
    | some (.dieStore d) => (2, far d)
    | some (.coreStore k) => (if k = key then 0 else 1, far (k / 128))
    | none => (0, 0)

/-- Base and rate of a transfer between two endpoints (Table 6-6). Within one core store that is not the issuing core's they are those
of another core (log 123, DESIGN CHOICE). -/
def strmClass (src dst : Nat × Nat) : Nat × Nat :=
  let (base, r) :=
    match src.1, dst.1 with
    | 0, 0 => (12, 128)
    | 2, 2 => (24, 512)
    | 3, 3 | 3, 2 | 2, 3 => (240, 512)
    | 3, _ | _, 3 => (280, 64)
    | 2, _ | _, 2 => (104, 128)
    | _, _ => (40, 128)
  let extra := max src.2 dst.2
  (base + extra, if extra = 0 then r else min r 256)

/-! ### Issue -/

/-- The 128 bytes of the descriptor at A[ADESC], and the state after reading them (07 R202, R204). -/
def State.readDesc (s : State) (i : StreamId) (a : W64) : List Byte × State :=
  s.readMem (s.whoNow i) (ownBytes (skey i) (a &&& ~~~(15 : W64)) 0 128)

/-- Issue of a STRM: the descriptor is read through the instruction port and captured, and fixes occupancy and latency (05 R150, 06
R179, 07 R204, R205). A FILL with INCS set advances the register that its unused source field names (log 109, DESIGN CHOICE). -/
def State.issueStrm (s : State) (i : StreamId) (w : W128) (op : Nat) : State :=
  s.onTurn i (some .str) (if ofRow w 0 op then 128 else 0) fun s =>
    let key := skey i
    let st0 := s.stream i
    let r1 := if ofRow w 0 op then s.readDesc i (st0.areg (tAdesc w)) else ([], s)
    let d := r1.1; let s1 := r1.2
    let st := s1.stream i
    let f := st.operandFmt (bit w 56) (fld w 55 48) 0
    let ew := if bit w 56 then fmtBytes (f.getD 0) else ewBytes (dEw d)
    let z := List.replicate (dNdim d) 0
    let src := (dAddr (st.areg (tAsrc w)) d ew false 0 z).toNat
    let dst := (dAddr (st.areg (tAdst w)) d ew true 0 z).toNat
    let ends := (if op = 1 then (0, 0) else endpoint s.fuse.gradeB key src, endpoint s.fuse.gradeB key dst)
    let (base, r) := strmClass ends.1 ends.2
    let occ := st.reps w * ((dElems d * ew + r - 1) / r)
    s1.issueEng i w 0 op .str (!descOk d ew (op == 1)) f.isNone false
      { occ := occ, lat := base + occ, fmtA := ew, desc := d
        incs := (if bit w 58 then [tAsrc w] else []) ++ (if bit w 57 then [tAdst w] else []) }
      id

def execStrmCopy (i : StreamId) (w : W128) (s : State) : Host.Outcome State Fault Refusal := .next (s.issueStrm i w 0)
def execStrmFill (i : StreamId) (w : W128) (s : State) : Host.Outcome State Fault Refusal := .next (s.issueStrm i w 1)

/-! ### Window checks of an access -/

/-- What a check says of one byte: its plain address, or the sub-cause of its suppression (07 R204, R224). -/
def checkByte (gradeB : Bool) (wins : Tab Win) (write aligned : Bool) (a : Nat) : Nat ⊕ Nat :=
  if !aligned then .inr 2
  else match plainAddr gradeB a with
    | none => .inr 0
    | some p => match winCheck wins write p with
      | none => .inl p
      | some c => .inr c

/-- One element of a transfer: its bytes' checks at the source and at the destination, with their device addresses. -/
structure Moved where
  src : List (Nat × (Nat ⊕ Nat))
  dst : List (Nat × (Nat ⊕ Nat))

/-- Bytes of an element at a device address. -/
def elemBytesAt (gradeB : Bool) (wins : Tab Win) (write : Bool) (a : W64) (ew : Nat) : List (Nat × (Nat ⊕ Nat)) :=
  (List.range ew).map fun k =>
    let b := (a.toNat + k) % 2 ^ 64
    (b, checkByte gradeB wins write (a.toNat % ew == 0) b)

/-- The elements of one repetition of a STRM, in order (07 R203). -/
def movedRep (gradeB : Bool) (wins : Tab Win) (q : QEntry) (j : Nat) : List Moved :=
  let ew := q.fmtA
  (dIndices q.desc (dNdim q.desc)).map fun ix =>
    { src := if q.op = 1 then [] else
        elemBytesAt gradeB wins false (dAddr (q.addr (tAsrc q.w) (bit q.w 58) j) q.desc ew false j ix) ew
      dst := elemBytesAt gradeB wins true (dAddr (q.addr (tAdst q.w) (bit q.w 57) j) q.desc ew true j ix) ew }

/-- The elements of a STRM over every repetition. -/
def movedElems (gradeB : Bool) (wins : Tab Win) (q : QEntry) : List Moved :=
  (List.range q.n).flatMap fun j => movedRep gradeB wins q j

/-- The suppressed bytes of a transfer, in order: address and sub-cause. -/
def suppressed (es : List Moved) : List (Nat × Nat) :=
  es.flatMap fun e => (e.src ++ e.dst).filterMap fun (a, c) => match c with | .inr k => some (a, k) | .inl _ => none

/-- Plain addresses that stay in window. -/
def inWindow (bs : List (Nat × (Nat ⊕ Nat))) : List Nat :=
  bs.filterMap fun (_, c) => match c with | .inl p => some p | .inr _ => none

/-- Values an element writes, byte by byte, from what its source bytes read as. -/
def elemWrites (e : Moved) (vals : List Byte) : List (Nat × Byte) :=
  (e.dst.zip vals).filterMap fun ((_, c), v) => match c with | .inl p => some (p, v) | .inr _ => none

/-- A COPY whose source and destination share no byte: reads first, then writes in order (07 R203). -/
def copyWrites (before : Nat → Byte) (es : List Moved) : List (Nat × Byte) :=
  es.flatMap fun e => elemWrites e (e.src.map fun (_, c) => match c with | .inl p => before p | .inr _ => 0)

/-- A repetition of a COPY that writes bytes its own elements read: its elements take a free order, and a byte read holds a value it
had before or between the earlier repetitions (`cands`), or any value an element before it in that order wrote there (07 R203; log
111, DESIGN CHOICE). `draw` gives the free choices. The result lists each element's writes in the order of 07 R203, so the later one
stands. -/
def overlapWrites (cands : Nat → List Byte) (draw : Nat → Nat) (es : List Moved) : List (Nat × Byte) :=
  let idx := es.zipIdx
  let order := sortBy idx fun a b => decide (draw a.2 ≤ draw b.2)
  let run := order.foldl (fun (acc : List (Nat × Byte) × List (Nat × List (Nat × Byte))) (e, k) =>
    let vals := e.src.zipIdx.map fun ((_, c), t) => match c with
      | .inl p =>
        let cs := cands p ++ (acc.1.filter (·.1 == p)).map (·.2)
        cs.getD (draw (es.length + 32 * k + t) % cs.length) 0
      | .inr _ => 0
    let ws := elemWrites e vals
    (acc.1 ++ ws, acc.2 ++ [(k, ws)])) ([], [])
  (sortBy run.2 fun a b => decide (a.1 ≤ b.1)).flatMap (·.2)

/-- Whether a transfer writes a byte that it reads. -/
def overlaps (es : List Moved) : Bool :=
  let ws := es.flatMap fun e => inWindow e.dst
  es.any fun e => (inWindow e.src).any ws.contains

/-! ### Bounds events (07 R225) -/

/-- What the first suppressed byte of an instruction leaves in the core's registers (07 R225). -/
def State.boundsRegs (s : State) (i : StreamId) (q : QEntry) (a cause : Nat) : State :=
  s.modCore (skey i) fun c =>
    { c with
      baddr := BitVec.ofNat 64 a, bctx := BitVec.ofNat 9 (tCtx q.w), bstream := BitVec.ofNat 2 (passIx i.pass)
      bcause := BitVec.ofNat 2 cause, bcount := satAdd c.bcount 1, strBnd := true }

/-- The one Bounds record of an instruction of a core, with the count of its suppressed bytes (log 78, DEDUCED). -/
def State.boundsEv (s : State) (i : StreamId) (q : QEntry) (a cause n : Nat) : State :=
  s.post { s.coreEv i 4 0x05 cause q.step q.pc q.attempt (BitVec.ofNat 64 a) with count := BitVec.ofNat 16 (min 65535 n) }

/-- A Bounds record of a unit that is no core, for a partition (07 R226). -/
def State.boundsUnit (s : State) (unit : W32) (part : Nat) (bad : List (Nat × Nat)) : State :=
  match bad with
  | [] => s
  | (a, k) :: _ =>
    s.post { s.unitEv unit 0x05 k part (BitVec.ofNat 64 a) with count := BitVec.ofNat 16 (min 65535 bad.length) }

/-! ### Merging (07 R210) -/

/-- The accesses of a list of addresses: runs of consecutive bytes within one granule, as (address, length). -/
def accessRuns (as : List Nat) : List (Nat × Nat) :=
  (as.foldl (fun (acc : List (Nat × Nat)) a => match acc with
    | (b, n) :: t => if a = b + n ∧ a / 64 = b / 64 then (b, n + 1) :: t else (a, 1) :: acc
    | [] => [(a, 1)]) []).reverse

/-- Bytes of an open group. -/
def Merge.size (m : Merge) : Nat := (m.accesses.map fun x => x.2.2).foldl (· + ·) 0

/-- Whether an access joins the open group: the same granule, direction and partition, beginning above the last byte of the access
before it. -/
def Merge.joins (m : Merge) (part : Nat) (write : Bool) (a : Nat) : Bool :=
  m.granule == a / 64 && m.write == write && m.part == part
    && (match m.accesses.getLast? with | some x => decide (x.2.1 + x.2.2 ≤ a) | none => true)

/-- An access arrives: it joins the open group, or that one is issued and it begins a new one; a group that covers its granule is
issued. A window of 0 keeps none open. -/
def mergeAccess (win : Byte) (part ctx : Nat) (write : Bool) (m : Option Merge) (x : Nat × Nat) : Option Merge :=
  let new : Merge := { granule := x.1 / 64, write := write, part := part, accesses := [(ctx, x.1, x.2)] }
  let g := match m with
    | some g => if g.joins part write x.1 then { g with accesses := g.accesses ++ [(ctx, x.1, x.2)] } else new
    | none => new
  if win = 0 ∨ 64 ≤ g.size then none else some g

/-- The accesses of a repetition pass the merge stage, its reads and then its writes. -/
def Core.merged (c : Core) (part ctx : Nat) (reads writes : List Nat) : Core :=
  let m := (accessRuns reads).foldl (mergeAccess c.mergeWin part ctx false) c.merge
  { c with merge := (accessRuns writes).foldl (mergeAccess c.mergeWin part ctx true) m }

/-- The bytes of an access. -/
def accessBytes (x : Nat × Nat) : List Nat := (List.range x.2).map (x.1 + ·)

/-- The bytes that the open group holds of a direction. -/
def Core.groupBytes (c : Core) (write : Bool) : List Nat :=
  match c.merge with
  | some g => if g.write = write then g.accesses.flatMap fun x => accessBytes x.2 else []
  | none => []

/-- The codewords that a repetition's accesses reach in the memory access of the open group, which reaches them for its earlier
accesses already: the codeword is decoded once for all the contexts (07 R228). -/
def Core.inGroup (c : Core) (part ctx : Nat) (write : Bool) (as : List Nat) : List Nat :=
  let had := codewords (c.groupBytes write)
  let joined := (accessRuns as).foldl (fun (acc : Option Merge × List Nat) x => match acc.1 with
    | some g => if g.joins part write x.1 then (mergeAccess c.mergeWin part ctx write (some g) x, acc.2 ++ accessBytes x) else (none, acc.2)
    | none => acc) (c.merge, [])
  (codewords joined.2).filter had.contains

/-- Reads of a repetition: a codeword with an error that the open group has read gives zeros, and its one Memory-UE record has been
posted; the record names the stream that came first (07 R219, R228; log 137, DEDUCED). -/
def State.groupRead (s : State) (who : Who) (shared as : List Nat) : List (Nat × Byte) × State :=
  let live := as.filter fun a => !(shared.contains (cwBase a) && tget [] s.errs (cwBase a) != [])
  let r := s.readMem who live
  (live.zip r.1, r.2)

/-- Writes of a repetition: a codeword with an error that the open group has written is written in the same memory access, which makes it
valid where the group covers it whole (07 R219, R228). -/
def State.groupWrite (s : State) (who : Who) (shared had : List Nat) (ws : List (Nat × Byte)) : State :=
  let mine := fun (x : Nat × Byte) => shared.contains (cwBase x.1) && tget [] s.errs (cwBase x.1) != []
  let ls := s.landing who (ws.filter mine)
  let s1 := ls.foldl (fun (s : State) x => s.wr8 x.1 x.2) (s.writeMem who (ws.filter fun x => !mine x))
  (codewords (ls.map (·.1))).foldl (fun s cw =>
    if (List.range (cwData cw)).all fun k => had.contains (cw + k) || ls.any fun x => x.1 == cw + k then s.setErr cw [] else s) s1

/-! ### The counted schedule (07 R208) -/

/-- Whether the floor of a repetition counts as reached: stream time has come to it, or the stream is HALTED, or Retract handling
completes the instructions of earlier steps. -/
def State.floorMet (s : State) (i : StreamId) (q : QEntry) (j : Nat) : Bool :=
  let st := s.stream i
  decide (q.floorAt j ≤ st.stime.toNat) || st.state == .halted || (s.finishing i).any fun k => decide (q.step < k)

/-! ### Start -/

/-- The data of one repetition: in-window bytes move, and the rest are suppressed (07 R203 to R206, R225; log 9, DEDUCED). `old` are
earlier values of bytes that the STRM both reads and writes. The result has the suppressed bytes and those values. -/
def State.moveRep (s : State) (i : StreamId) (q : QEntry) (fs : List PhysFault) (j : Nat) (old : List (Nat × Byte)) :
    List (Nat × Nat) × List (Nat × Byte) × State :=
  let key := skey i
  let c := s.core key
  let who := s.whoOf i q
  let es := movedRep s.fuse.gradeB c.wins q j
  let ovl := q.op = 0 ∧ overlaps (movedElems s.fuse.gradeB c.wins q)
  let reads := es.flatMap fun e => inWindow e.src
  let r1 := s.groupRead who (c.inGroup who.part (tCtx q.w) false reads) reads
  let s1 := r1.2
  let tab := r1.1
  let before := fun p => ((tab.find? fun x => x.1 == p).map (·.2)).getD 0
  let ws := if q.op = 1 then
      es.flatMap fun e => elemWrites e ((List.range q.fmtA).map fun k => (tPat q.w).extractLsb' (8 * (k % 4)) 8)
    else if ovl then
      overlapWrites (fun p => before p :: (old.filter fun x => x.1 == p).map (·.2)) (fun n => (Config.freeValue (s1.free + n)).toNat) es
    else copyWrites before es
  let s2 := if ovl then s1.skipFree (33 * es.length) else s1
  let c1 := c.merged who.part (tCtx q.w) reads []
  let s3 := (s2.groupWrite who (c1.inGroup who.part (tCtx q.w) true (ws.map (·.1))) (c1.groupBytes true) ws).parityWrites who (ws.map (·.1)) fs
  (suppressed es, if ovl then old ++ (ws.map (·.1)).eraseDups.map fun p => (p, s.rd8 p) else old,
    s3.modCore key fun c => c.merged who.part (tCtx q.w) reads (ws.map (·.1)))

/-- Whether the plain addresses of a repetition are reached from its core. -/
def State.repReaches (s : State) (i : StreamId) (q : QEntry) (j : Nat) : Bool :=
  let es := movedRep s.fuse.gradeB (s.core (skey i)).wins q j
  s.reaches (halfOfDie i.die) (es.flatMap fun e => inWindow e.src ++ inWindow e.dst)

/-- A repetition's outcome in the running STRM: the repetition counts as moved, its suppressed bytes join the others. -/
def Running.moved (r : Running) (bad : List (Nat × Nat)) (old : List (Nat × Byte)) : Running :=
  let first := r.badN = 0
  { r with
    reps := r.reps + 1, ready := decide (r.reps + 1 = r.q.n), badN := r.badN + bad.length, old := old
    badAt := if first then (bad.headD (0, 0)).1 else r.badAt, badCause := if first then (bad.headD (0, 0)).2 else r.badCause }

/-- Put a running instruction in the place of the one with its number. -/
def Stream.setRun (st : Stream) (r : Running) : Stream :=
  { st with run := st.run.map fun x => if x.q.eng = r.q.eng ∧ x.q.id = r.q.id then r else x }

/-- The next repetition of a running STRM moves, once its floor is reached and the data can cross (07 R208). At the first
suppressed byte the registers take it, and the Bounds record follows when the count is whole (07 R225). -/
def State.strmRep (s : State) (i : StreamId) (id : Nat) (fs : List PhysFault) : State :=
  match (s.stream i).run.find? fun r => r.q.eng == .str && r.q.id == id with
  | none => s
  | some r =>
    if r.reps < r.q.n && !r.ready && s.floorMet i r.q r.reps && s.repReaches i r.q r.reps then
      let m := s.moveRep i r.q fs r.reps r.old
      let r1 := r.moved m.1 m.2.1
      let s1 := m.2.2.modStream i fun st => st.setRun r1
      let s2 := if r.badN = 0 && r1.badN != 0 then s1.boundsRegs i r.q r1.badAt r1.badCause else s1
      if r1.ready && r1.badN != 0 then s2.boundsEv i r.q r1.badAt r1.badCause r1.badN else s2
    else s

/-- As many repetitions of a running STRM as may move now. -/
def State.strmRun (s : State) (i : StreamId) (r : Running) (fs : List PhysFault) : State :=
  (List.range r.q.n).foldl (fun s _ => s.strmRep i r.q.id fs) s

/-- The running STRMs of a stream go on, oldest first. -/
def State.strmGoOn (s : State) (i : StreamId) (fs : List PhysFault) : State :=
  if s.engineRuns i then
    ((s.stream i).run.filter fun r => r.q.eng == .str).foldl (fun s r => s.strmRun i r fs) s
  else s

/-- A STRM starts: its context is taken, and the repetitions whose floors are reached move (07 R207, R208). -/
def State.strmStart (s : State) (i : StreamId) (q : QEntry) (fs : List PhysFault) : State :=
  let idle := q.n = 0 ∨ q.skip
  let s1 := s.modStream i fun st => st.begin .str {} (decide idle)
  if idle then s1
  else (s1.modCore (skey i) fun c => { c with ctxs := c.ctxs ++ [(tCtx q.w, q.id)] }).strmRun i { q := q, ready := false } fs

/-- Whether a STRM's context is free (07 R207). -/
def Core.ctxFree (c : Core) (q : QEntry) : Bool :=
  q.n == 0 || q.skip || !(c.ctxs.any fun x => x.1 == tCtx q.w)

/-- MERGE_WINDOW_EXPIRY: the open merge group is issued; what reaches memory does not change (07 R210). -/
def execMergeWindowExpiry (c : CoreId) (s : State) : Host.Outcome State Fault Refusal :=
  .next (s.modCore (ckey c) fun k => { k with merge := none })

end Sys2Proof.Machine
end

