-- ==== Sys2Proof/Machine/Net.lean ====
section
/-! DEFINITION. Exchange packets and Kamux frames on their way out: bytes, keys, routes, flow control, and the Collective
fault (09 R273, R292, 11 R317 to R322, R331, R336, R337). -/

namespace Sys2Proof.Machine

/-! ### Exchange packets as bytes (Table 9-4) -/

def pktBytes (p : XPkt) : List Byte :=
  pad8 (leBytes 1 p.kind ++ [p.retry] ++ leBytes 2 p.srank ++ leBytes 4 p.step.toNat ++ leBytes 4 p.sig.toNat
    ++ leBytes 2 p.coll ++ leBytes 2 p.anchor.toNat ++ leBytes 8 p.pos.toNat ++ leBytes 8 p.csum.toNat ++ p.body)

/-- The packet of a payload; none when it is shorter than a header. -/
def pktOf (b : List Byte) : Option XPkt :=
  if b.length < 32 then none
  else some
    { kind := recNat b 0 1, retry := BitVec.ofNat 8 (recNat b 1 1), srank := recNat b 2 2 % 1024
      step := BitVec.ofNat 32 (recNat b 4 4), sig := BitVec.ofNat 32 (recNat b 8 4), coll := recNat b 0x0C 2
      anchor := BitVec.ofNat 16 (recNat b 0x0E 2), pos := BitVec.ofNat 64 (recNat b 0x10 8)
      csum := BitVec.ofNat 64 (recNat b 0x18 8), body := b.drop 32 }

/-- POS of every packet but PUT and MIRROR: first element, count and chunk index. -/
def posWord (first count chunk : Nat) : W64 :=
  BitVec.ofNat 64 (first % 2 ^ 32 + count % 2 ^ 16 * 2 ^ 32 + chunk % 2 ^ 16 * 2 ^ 48)
def posFirst (p : XPkt) : Nat := fld p.pos 31 0
def posCount (p : XPkt) : Nat := fld p.pos 47 32
def posChunk (p : XPkt) : Nat := fld p.pos 63 48

/-! ### The collective table (Table 9-5) -/

def collKind (r : List Byte) : Nat := recNat r 1 1
def collEntry (r : List Byte) : Nat := recNat r 2 2
def collCcw (r : List Byte) : W16 := BitVec.ofNat 16 (recNat r 4 2)
def collAnchor (r : List Byte) : Int := recInt r 6 2
def collElems (r : List Byte) : Nat := recNat r 8 4
def collShard (r : List Byte) : Nat := recNat r 0x0C 4
def collBase (r : List Byte) : Nat := recNat r 0x10 8
def collStgn (r : List Byte) : Nat := recNat r 0x20 2
def collCredit (r : List Byte) : Nat := recNat r 0x22 2
def collNoc (r : List Byte) : Nat := recNat r 0x24 1
def collOcore (r : List Byte) (k : Nat) : Nat :=
  let v := recNat r (0x28 + 2 * k) 2
  coreKey (v / 256 % 16) (v % 64)
def collFirst (r : List Byte) : Nat := recNat r 0x38 4
def collCount (r : List Byte) : Nat := recNat r 0x3C 4
def collRobj (r : List Byte) : Option Nat := if recNat r 0x40 4 / 2 ^ 31 = 1 then some (recNat r 0x40 4 % 2 ^ 17) else none

/-- The member ranks, ascending. -/
def collMembers (r : List Byte) : List Nat :=
  (List.range 1024).filter fun k => recNat r (0x80 + k / 8) 1 / 2 ^ (k % 8) % 2 == 1

def collOacc (r : List Byte) : Nat := recNat r 0x18 4
def collOstg (r : List Byte) : Nat := recNat r 0x1C 4

/-- The bytes of a SHA-384 digest in order: the first is the most significant (FIPS 180-4; log 6, DESIGN CHOICE). -/
def digestBytes (d : W384) : List Byte := (leBytes 48 d.toNat).reverse

/-- The entry signature: the first 4 bytes of the SHA-384 digest of the shared fields, as a little-endian number (09 R277). -/
def collSig (r : List Byte) : W32 :=
  BitVec.ofNat 32 (leNat ((digestBytes (Config.sha384 ((r.drop 1).take 15 ++ (r.drop 0x80).take 0x80))).take 4))

/-- A record of a partition's collective table; none when it has no such entry. -/
def State.coll (s : State) (part entry : Nat) : Option (List Byte) :=
  let r := tget [] (s.part part).colls entry
  if r.isEmpty then none else some r

/-- Owner rank and local owner core of the shard of an element. -/
def collOwner (r : List Byte) (elem : Nat) : Nat × Nat :=
  let ms := collMembers r
  let k := elem / collShard r
  (ms.getD (k % ms.length) 0, collOcore r (k / ms.length % max 1 (collNoc r)))

/-! ### The Collective fault (09 R292) -/

/-- UNIT of a die's exchange engine. -/
def xchUnit (die : Nat) : W32 := unitDie 3 die

/-- XCH_CFAULT (Table 9-17). -/
def cfaultWord (code rank coll : Nat) (step : W64) : W64 :=
  BitVec.ofNat 64 (code % 256 * 2 ^ 40 + rank % 1024 * 2 ^ 30 + coll % 4096 * 2 ^ 18 + step.toNat % 65536)

/-- A Collective fault at a die's exchange engine: its registers and the event, which retracts the step (09 R292, R266). -/
def State.cfault (s : State) (die part code rank coll : Nat) : State :=
  let v := cfaultWord code rank coll (s.part part).openStep
  let s1 := s.modDie die fun d =>
    { d with
      cf := true, cfault := v, csumF := d.csumF || code == 3
      cntCsum := if code = 3 then satAdd d.cntCsum 1 else d.cntCsum }
  s1.post (s1.unitEv (xchUnit die) 0x07 code part v)

/-! ### Routes (11 R331) -/

/-- What an entry of a routing plane says. -/
inductive Route where
  | invalid | here
  | via (lport : Nat)
  deriving DecidableEq, Repr

def State.route (s : State) (plane rank : Nat) : Route :=
  let e := tget 0 s.link.planes (plane * 1024 + rank)
  if !e.getLsbD 15 then .invalid
  else if e.getLsbD 14 then .here
  else
    let lp := fld e 4 0
    if (s.members lp).isEmpty then .invalid else .via lp

/-- Die of a packet's destination on this module: that of the memory a PUT names, of the owner core of a contribution, the first of the
half of a mirrored object, else that of the entry's first owner core. -/
def State.pktDie (s : State) (part : Nat) (p : XPkt) : Nat :=
  let r := (s.coll part p.coll).getD []
  if p.kind = 0 then
    match (plainAddr s.fuse.gradeB p.pos.toNat).bind (memUnit s.fuse.gradeB) with
    | some (.hbm st) => st / 2
    | some (.dieStore d) => d
    | some (.coreStore k) => k / 128
    | none => 0
  else if p.kind = 1 then (collOwner r (posFirst p)).2 / 128
  else if p.kind = 4 then 6 * halfOfObj (collFirst r + fld p.pos 16 0)
  else collOcore r 0 / 128

/-- The exchange engine of a die sends a packet of a partition to a module: over the package fabric to itself, else as a job
frame along the partition's plane. Without a route, a key or a way across the midline it is dropped with NOPATH (11 R331, 09
R292, 01 R25). -/
def State.sendX (s : State) (die part drank : Nat) (p : XPkt) : State :=
  let pt := s.part part
  if drank = s.rank then
    if s.crosses (halfOfDie die) (halfOfDie (s.pktDie part p)) then
      s.modLink fun l => { l with fabric := l.fabric ++ [(die, part, p)] }
    else s.cfault die part 1 drank p.coll
  else
    let key := pt.jslot.bind fun j => (s.sec.jobKeys.find? fun k => k.1 == j)
    match s.route pt.plane drank, key with
    | .via lp, some (j, k) =>
      if !s.crosses (halfOfDie die) (lp / 12) then s.cfault die part 1 drank p.coll
      else
      let r1 := s.seal 0 j drank k.key k.job (pktBytes p)
      let f := r1.1; let s1 := r1.2
      s1.linkSend lp f
    | _, _ => s.cfault die part 1 drank p.coll

end Sys2Proof.Machine
end

