-- ==== Sys2Proof/Machine/Sync.lean ====
section
/-! DEFINITION. Sync objects: operations on their way, their effect at the control die, fences and Zombie traffic, mirrored
writes, latched waits and the clock gate of a core (05 R155, 06 R170, R191, 09 R259 to R272, 12 R351, 14 R397). -/

namespace Sys2Proof.Machine

/-! ### Operations on their way -/

/-- An operation goes to the control die of its object (09 R260). -/
def State.sendSync (s : State) (r : SyncReq) : State :=
  s.modSyn (halfOfObj r.obj) fun h => { h with net := h.net ++ [r] }

/-- An operation of an instruction of a core: its step, and the core's epoch (09 R269, 12 R351). -/
def State.syncReq (s : State) (i : StreamId) (step : W64) (id obj : Nat) (k : SyncKind) (v : W32) : SyncReq :=
  let c := s.core (skey i)
  { obj := obj, kind := k, value := v, step := step, epoch := c.epoch, part := c.part.getD 0xFF
    unit := s.unitCore (skey i) 0, src := some i, srcId := id, link := false }

/-- The completion-signal write of SIG: 1 to a FLAG, plus 1 to a COUNT (06 R170). -/
def State.signalReq (s : State) (i : StreamId) (step : W64) (id obj : Nat) : SyncReq :=
  s.syncReq i step id obj (if (s.obj obj).type = .flag then .set else .add) 1

/-- Put a withheld write in issue order. -/
def withhold (r : SyncReq) : List SyncReq → List SyncReq
  | [] => [r]
  | x :: t => if r.srcId < x.srcId then r :: x :: t else x :: withhold r t

/-- A completion write of an instruction: withheld in issue order inside an operation, and lost once the stream has halted
(05 R155, R162); sent at once outside one. -/
def State.completionWrite (s : State) (i : StreamId) (inop : Bool) (r : SyncReq) : State :=
  if inop then s.modStream i fun st => if st.inop && st.state != .halted then { st with wbuf := withhold r st.wbuf } else st
  else s.sendSync r

/-! ### Layers (12 R351) -/

/-- The layer a write tagged with a step belongs to. -/
def layerOf (opened step : W64) : Nat := if step < opened then 0 else if step = opened then 1 else 2

def SyncObj.layer (o : SyncObj) (k : Nat) : Option W32 := match k with | 0 => o.l0 | 1 => o.l1 | _ => o.l2
def SyncObj.setLayer (o : SyncObj) (k : Nat) (v : Option W32) : SyncObj :=
  match k with | 0 => { o with l0 := v } | 1 => { o with l1 := v } | _ => { o with l2 := v }
def SyncObj.addLayer (o : SyncObj) (k : Nat) (v : W32) : SyncObj := o.setLayer k (some ((o.layer k).getD 0 + v))

/-- What FADD adds: u, or the step of a ticket counter, which returns to 0 at LIMIT + NPART (08 R246, 09 R262; log 77, DEDUCED). -/
def SyncObj.faddDelta (o : SyncObj) (u : W32) : W32 :=
  if o.limit = 0 then u else if o.value + 1 = o.limit + o.npart then 0 - o.value else 1

/-- The object after an operation of layer `k`; an operation of another type than the object's leaves it (log 25, DEDUCED). -/
def SyncObj.apply (o : SyncObj) (k : Nat) (kind : SyncKind) (v : W32) : SyncObj :=
  match kind, o.type with
  | .set, .flag => o.setLayer k (some v)
  | .add, .count => o.addLayer k v
  | .fadd _, .work => o.addLayer k (o.faddDelta v)
  | _, _ => o

/-! ### Waits (09 R261) -/

/-- The wait at the head of a stream's sync queue, when it names the object and no evaluation has satisfied it. -/
def Stream.headWait (st : Stream) (obj : Nat) : Option QEntry :=
  match st.queue .syn with
  | q :: _ => if isWait q && synObj q.w == obj && (st.sat.map (·.1) != some q.id) then some q else none
  | [] => none

/-- Evaluate the wait of a stream on an object. -/
def State.latch (s : State) (obj : Nat) (i : StreamId) : State :=
  match (s.stream i).headWait obj with
  | some q => if s.waitNow i q then s.modStream i fun st => { st with sat := some (q.id, (s.obj obj).value) } else s
  | none => s

/-- The streams of a core. -/
def coreStreams (key : Nat) : List StreamId :=
  [⟨key / 128, key % 128, .fwd⟩, ⟨key / 128, key % 128, .bwd⟩, ⟨key / 128, key % 128, .upd⟩]

/-- Every stream that the state lists. -/
def State.streams (s : State) : List StreamId := s.cores.flatMap fun c => coreStreams c.1

/-- Evaluate every wait at the head of a sync queue that names an object. -/
def State.latchAll (s : State) (obj : Nat) : State := s.streams.foldl (fun s i => s.latch obj i) s

/-- The GATE object an UPD names (Table 6-14). -/
def updGate (w : W128) : Nat := fld w 39 23

/-- Whether a stream waits on an object: its sync head, its update head, or its verdict group (14 R397). -/
def Stream.waitsOn (st : Stream) (obj : Nat) : Bool :=
  (match st.queue .syn with | q :: _ => isWait q && synObj q.w == obj | [] => false)
    || (match st.queue .upd with | q :: _ => updGate q.w == obj | [] => false)
    || (st.phase != .none && st.opN != 0 && decide (st.opG ≤ obj) && decide (obj ≤ st.opG + 5))

/-- A module in Idle with a core ON is in Run (14 R394, R395). -/
def Pwr.toRun (p : Pwr) : Pwr := { p with state := if p.state = .idle then .run else p.state }

/-- The module is in Run while a core is ON, and in Idle when none remains ON (14 R394, R395). -/
def State.settlePower (s : State) : State :=
  s.modPwr fun p => match p.state with
    | .idle | .run => { p with state := if s.cores.any fun c => c.2.pow == .on then .run else .idle }
    | _ => p

/-- A gated core returns to ON (14 R397). -/
def State.wakeCore (s : State) (key : Nat) : State :=
  if (s.core key).pow = .gated then (s.modCore key fun c => { c with pow := .on }).modPwr Pwr.toRun else s

/-- The gated cores that wait on an object wake (log 67, DEDUCED). -/
def State.wakeWaiters (s : State) (obj : Nat) : State :=
  s.cores.foldl (fun s c =>
    if c.2.fwd.waitsOn obj || c.2.bwd.waitsOn obj || c.2.upd.waitsOn obj then s.wakeCore c.1 else s) s

/-- A change of an object: waits are evaluated before it, when they had reached their head, and after it (09 R261). -/
def State.changeObj (s : State) (obj : Nat) (f : SyncObj → SyncObj) : State :=
  let s1 := (s.latchAll obj).modObj obj f
  if s1.obj obj = s.obj obj then s1 else (s1.latchAll obj).wakeWaiters obj

/-! ### Drops at the sync ports (09 R269, R270) -/

/-- Whether a sync port drops a transaction: none, or whether the mask did it (log 65, DEDUCED). -/
def State.synDrop (s : State) (obj : Nat) (unit : W32) (epoch : W16) : Option Bool :=
  if s.masked unit then some true
  else if (s.obj obj).fence ≠ epoch then some false
  else none

/-! ### Mirrored objects (09 R271, R272) -/

/-- The die whose exchange engine sends a unit's mirrored writes: its own die, else the first die of its half. -/
def mirrorDie (r : SyncReq) : Nat := if fld r.unit 23 20 < 12 then fld r.unit 23 20 else 6 * halfOfObj r.obj

/-- Send a mirrored write to a member, and keep its frame in mind while it awaits sending (SYN_STATUS.MPEND, 09 R295). -/
def State.mirrorTo (s : State) (r : SyncReq) (m : Nat) (p : XPkt) : State :=
  let s1 := s.sendX (mirrorDie r) r.part m p
  s1.modSyn (halfOfObj r.obj) fun h =>
    { h with mirr := h.mirr.filter s1.awaits ++ s1.awaiting.filter fun f => !s.awaits f }

/-- Send an applied SET or ADD of a mirrored object to every other member (log 70, DEDUCED). -/
def State.mirrorOut (s : State) (r : SyncReq) : State :=
  let pt := s.part r.part
  let isSet := match r.kind with | .set => true | _ => false
  pt.colls.foldl (fun s (_, c) =>
    if collKind c = 2 ∧ collFirst c ≤ r.obj ∧ r.obj < collFirst c + collCount c then
      let p : XPkt :=
        { kind := 4, retry := if r.step = pt.openStep then pt.retry else 0, srank := s.rank, step := r.step.setWidth 32
          sig := collSig c, coll := collEntry c, anchor := 0
          pos := BitVec.ofNat 64 ((r.obj - collFirst c) + (if isSet then 0 else 2 ^ 32))
          csum := r.value.setWidth 64, body := [] }
      ((collMembers c).filter (· != s.rank)).foldl (fun s m => s.mirrorTo r m p) s
    else s) s

/-! ### An operation takes effect (09 R260) -/

/-- The instruction an effect belongs to may complete. -/
def Stream.markReady (st : Stream) (id : Nat) : Stream :=
  { st with run := st.run.map fun r => if r.q.id = id then { r with ready := true } else r }

/-- The bytes that a fetch-and-add writes at its core's store: the word at A[AOUT] (06 R191). -/
def SyncReq.returns (r : SyncReq) : List Nat :=
  match r.kind, r.src with
  | .fadd ret, some _ => (List.range 4).map (ret + ·)
  | _, _ => []

/-- The maker of a sync-object operation's accesses. -/
def SyncReq.who (r : SyncReq) : Who := { part := r.part, src := some (r.unit, r.epoch) }

/-- A fetch-and-add hands its old value to the issuing core: the word at A[AOUT], and its instruction may complete. -/
def State.faddReturn (s : State) (r : SyncReq) (old : W32) : State :=
  match r.kind, r.src with
  | .fadd _, some i =>
    (s.writeMem r.who (r.returns.zip (leBytes 4 old.toNat))).modStream i
      fun st => st.markReady r.srcId
  | _, _ => s

/-- An operation at its object: dropped as Zombie traffic, or applied atomically in its step's layer. -/
def State.syncApply (s : State) (r : SyncReq) : State :=
  match s.synDrop r.obj r.unit r.epoch with
  | some masked => (s.zombie (halfOfObj r.obj) r.obj r.unit r.epoch r.part masked).faddReturn r 0
  | none =>
    let o := s.obj r.obj
    if !o.alloc then s.faddReturn r 0
    else
      let k := layerOf (s.part o.part).openStep r.step
      let s1 := (s.changeObj r.obj fun o => o.apply k r.kind r.value).faddReturn r o.value
      if o.mirr && !r.link && (match r.kind with | .fadd _ => false | _ => true) then s1.mirrorOut r else s1

/-- Whether the operation at an index of a half's list may arrive: none of the same source unit stands before it (01 R24). -/
def netReady (net : List SyncReq) (k : Nat) : Bool :=
  match net[k]? with
  | some r => (net.take k).all fun e => e.unit != r.unit
  | none => false

/-- SYNC_OPERATION: an operation arrives at its object and takes effect; none crosses a dead midline (09 R260, R269, R271, 12
R351, 01 R25). -/
def execSyncOperation (half : Nat) (pick : NetPick) (s0 : State) : Host.Outcome State Fault Refusal :=
  let s := s0.upset pick.faults
  let net := (s.syn half).net
  .next (match net[pick.index]? with
    | some r =>
      if netReady net pick.index && s.crosses (unitHalf r.unit) half then
        ((s.modSyn half fun h => { h with net := h.net.eraseIdx pick.index }).syncApply r).parityWrites r.who r.returns pick.faults
      else s
    | none => s)

/-- The operations of a unit on their way to a half arrive, in the order it sent them (01 R24). -/
def State.unitArrives (s : State) (half : Nat) (unit : W32) : State :=
  ((s.syn half).net.filter fun r => r.unit == unit).foldl (fun s r => s.syncApply r)
    (s.modSyn half fun h => { h with net := h.net.filter fun r => r.unit != unit })

/-! ### The clock gate of a core (14 R397) -/

/-- Whether a stream keeps its core clocked. -/
def Stream.awake (st : Stream) : Bool := st.state == .running && st.stall != 5 && st.stall != 6

/-- Whether every engine of a core is idle: none runs an instruction, and no bank drains. -/
def Core.enginesIdle (c : Core) : Bool :=
  ([c.fwd, c.bwd, c.upd].all fun st => st.run.isEmpty) && c.drains.isEmpty && c.b0.state != .draining && c.b1.state != .draining

/-- CORE_GATE: after 256 idle cycles, with no stream to run and every engine idle, the core's clock stops. -/
def execCoreGate (c : CoreId) (s : State) : Host.Outcome State Fault Refusal :=
  .next ((s.modCore (ckey c) fun k =>
    if k.pow = .on ∧ k.enginesIdle ∧ ([k.fwd, k.bwd, k.upd].all fun st => !st.awake) then { k with pow := .gated } else k).settlePower)

end Sys2Proof.Machine
end

