-- ==== Sys2Proof/Machine/Xch.lean ====
section
/-! DEFINITION. The exchange engine of a die as a sender: XCH at issue and start, privileged channels, exact transfer words,
and transfers under credits (06 R187, R188, 07 R211 to R213, R226, 09 R279 to R290). -/

namespace Sys2Proof.Machine

/-! ### Fields (Table 6-13) -/

def xColl (w : W128) : Nat := fld w 79 68
def xAsrc (w : W128) : Nat := fld w 67 64
def xAdst (w : W128) : Nat := fld w 63 60
def xRsig (w : W128) : Nat := fld w 57 41
def xRse (w : W128) : Bool := bit w 40
def xLen (w : W128) : Nat := fld w 39 24
def xDrank (w : W128) : Nat := fld w 23 14

/-! ### Issue -/

/-- Issue of an XCH (06 R187, R188, Table 6-17). -/
def State.issueXch (s : State) (i : StreamId) (w : W128) (op : Nat) : State :=
  s.onTurn i (some .xch) 0 fun s =>
    let st := s.stream i
    let occ := 4 * st.reps w
    s.issueEng i w 4 op .xch false st.inop (s.fuse.absent.contains (xchUnit i.die))
      { occ := occ, lat := occ
        incs := (if bit w 59 then [xAsrc w] else []) ++ (if bit w 58 then [xAdst w] else []) }
      id

def execXchPut (i : StreamId) (w : W128) (s : State) : Host.Outcome State Fault Refusal := .next (s.issueXch i w 0)
def execXchMcast (i : StreamId) (w : W128) (s : State) : Host.Outcome State Fault Refusal := .next (s.issueXch i w 1)
def execXchReduce (i : StreamId) (w : W128) (s : State) : Host.Outcome State Fault Refusal := .next (s.issueXch i w 2)
def execXchGather (i : StreamId) (w : W128) (s : State) : Host.Outcome State Fault Refusal := .next (s.issueXch i w 3)
def execXchAllred (i : StreamId) (w : W128) (s : State) : Host.Outcome State Fault Refusal := .next (s.issueXch i w 4)

/-! ### Accesses of a die's units, checked against a partition's windows (07 R226) -/

/-- The checks of consecutive bytes at a device address. -/
def State.dmaBytes (s : State) (part : Nat) (write : Bool) (a n : Nat) : List (Nat × (Nat ⊕ Nat)) :=
  (List.range n).map fun k =>
    let b := (a + k) % 2 ^ 64
    (b, checkByte s.fuse.gradeB (s.part part).wins write true b)

/-- The bytes a check suppresses, with their sub-causes. -/
def outOfWindow (bs : List (Nat × (Nat ⊕ Nat))) : List (Nat × Nat) :=
  bs.filterMap fun (a, c) => match c with | .inr k => some (a, k) | .inl _ => none

/-- The exchange engine of a die and an update unit as the makers of accesses, with their epoch copies for a partition (09 R269). -/
def State.xchWho (s : State) (die part : Nat) : Who :=
  { part := part, src := some (xchUnit die, tget 0 (s.die die).epochs part) }
def State.updWho (s : State) (u part : Nat) : Who :=
  { part := part, src := some (unitPair 4 u, tget 0 (s.unit u).epochs part) }

/-- Read bytes: out-of-window ones read as zero and are posted by the unit. -/
def State.dmaRead (s : State) (who : Who) (unit : W32) (a n : Nat) : List Byte × State :=
  let part := who.part
  let bs := s.dmaBytes part false a n
  let r1 := s.readMem who (inWindow bs)
  let vs := r1.1; let s1 := r1.2
  let tab := (inWindow bs).zip vs
  (bs.map fun (_, c) => match c with
      | .inl p => ((tab.find? fun x => x.1 == p).map (·.2)).getD 0
      | .inr _ => 0,
    s1.boundsUnit unit part (outOfWindow bs))

/-- Write bytes: out-of-window ones are suppressed and posted by the unit. -/
def State.dmaWrite (s : State) (who : Who) (unit : W32) (a : Nat) (vs : List Byte) (fs : List PhysFault) : State :=
  let part := who.part
  let bs := s.dmaBytes part true a vs.length
  let ws := (bs.zip vs).filterMap fun ((_, c), v) => match c with | .inl p => some (p, v) | .inr _ => none
  ((s.writeMem who ws).parityWrites who (ws.map (·.1)) fs).boundsUnit unit part (outOfWindow bs)

/-- Whether a die's units reach every in-window byte of a range: across the midline only while a bridge segment lives (01 R25). -/
def State.dmaReaches (s : State) (die part : Nat) (write : Bool) (a n : Nat) : Bool :=
  s.reaches (halfOfDie die) (inWindow (s.dmaBytes part write a n))

/-! ### Exact transfer words (Table 9-6, 09 R281, R282) -/

/-- Index of the lowest nonzero limb at or above `k`; `f` bounds the search. -/
def lowLimb : Nat → Nat → Nat → Nat
  | 0, _, k => k
  | f + 1, m, k => if m / 2 ^ (32 * k) % 2 ^ 32 = 0 then lowLimb f m (k + 1) else k

/-- One element as an exact transfer word. -/
def etwEncode (n : Int) (nan : Bool) : List Byte :=
  let m := n.natAbs
  let tagBit := if nan then 64 else 0
  if m = 0 then leBytes 2 (128 + tagBit)
  else
    let lo := lowLimb 8 m 0
    let cnt := Nat.log2 m / 32 + 1 - lo
    leBytes 2 (cnt * 4096 + lo * 512 + (if n < 0 then 256 else 0) + tagBit) ++ leBytes (4 * cnt) (m / 2 ^ (32 * lo))

/-- One element read from the front of a packet's body; none when its header is malformed. -/
def etwDecode (bs : List Byte) : Option ((Int × Bool) × List Byte) :=
  if bs.length < 2 then none
  else
    let h := recNat bs 0 2
    let cnt := h / 4096
    let lo := h / 512 % 8
    let neg := h / 256 % 2 == 1
    let zr := h / 128 % 2 == 1
    let nan := h / 64 % 2 == 1
    let m := recNat bs 2 (4 * cnt)
    let bad := cnt > 8 ∨ h % 64 ≠ 0 ∨ zr ≠ (cnt == 0) ∨ lo + cnt > 8 ∨ (zr = true ∧ (lo ≠ 0 ∨ neg = true))
      ∨ bs.length < 2 + 4 * cnt
      ∨ (cnt ≠ 0 ∧ (m % 2 ^ 32 = 0 ∨ m / 2 ^ (32 * (cnt - 1)) = 0)) ∨ m * 2 ^ (32 * lo) ≥ 2 ^ 255
    if bad then none
    else
      let v : Int := m * 2 ^ (32 * lo)
      some ((if neg then -v else v, nan), bs.drop (2 + 4 * cnt))

/-- `n` elements of a body; the rest must be padding. -/
def etwAll : Nat → List Byte → Option (List (Int × Bool))
  | 0, bs => if bs.length < 8 ∧ bs.all (· == 0) then some [] else none
  | n + 1, bs =>
    match etwDecode bs with
    | none => none
    | some (e, rest) => (etwAll n rest).map fun es => e :: es

/-- The sum modulo 2^64 of the low 64 bits of integers (09 R283). -/
def low64sum (ns : List Int) : W64 := ns.foldl (fun acc n => acc + BitVec.ofInt 64 n) 0

/-! ### Packets of this module -/

/-- RETRY of a packet of a step (09 R274). -/
def Part.retryOf (p : Part) (step : W64) : Byte := if step = p.openStep then p.retry else 0

/-- A packet header of this module for an entry of a partition. -/
def State.mkPkt (s : State) (part kind entry : Nat) (step : W64) (pos csum : W64) (body : List Byte) : XPkt :=
  let r := ((s.coll part entry).getD [])
  { kind := kind, retry := (s.part part).retryOf step, srank := s.rank, step := step.setWidth 32
    sig := if kind = 0 then 0 else collSig r, coll := if kind = 0 then 0 else entry
    anchor := if kind = 1 then BitVec.ofInt 16 (collAnchor r) else 0, pos := pos, csum := csum, body := body }

/-- A write of RSIG by a die's exchange engine: RSIG names a FLAG or COUNT object of the partition, and another one is not written (09
R275, R285, R289; log 113, DEDUCED). -/
def State.rsigWrite (s : State) (die part : Nat) (step : W64) (obj : Nat) : State :=
  let o := s.obj obj
  if o.alloc && o.part == part && (o.type == .flag || o.type == .count) then
    s.sendSync
      { obj := obj, kind := if o.type = .flag then .set else .add, value := 1, step := step
        epoch := tget 0 (s.die die).epochs part, part := part, unit := xchUnit die, src := none, srcId := 0, link := false }
  else s

/-- An XCH is complete, for retirement, when its last completion write is made: no descriptor of it is left and no RSIG of
it is owed (06 R175). -/
def State.settle (s : State) (i : StreamId) (id : Nat) : State :=
  let d := s.die i.die
  let mine := fun (x : PDesc) => x.at_ == i && x.id == id
  let busy := d.chans.any (fun c => c.2.ring.any mine || c.2.cache.any mine || c.2.wait.any mine)
    || d.gathers.any (fun g => g.at_ == i && g.id == id)
    || d.swarms.any (fun w => w.at_ == i && w.id == id && w.rsig.isSome)
  if busy then s else s.modStream i fun st => st.markReady id

/-! ### Transfers under credits (09 R286) -/

/-- Receivers still in a transfer. -/
def Swarm.live (w : Swarm) : List Nat := w.receivers.filter fun r => !w.dropped.contains r

/-- Whether a receiver's credits hold the sender. -/
def Swarm.blocked (w : Swarm) (credit r : Nat) : Bool := decide (credit ≤ tget 0 w.outstanding r)

/-- Send unsent chunks, in order, while every live receiver has fewer than CREDIT outstanding; `f` bounds their number. -/
def State.pumpSwarm (s : State) (die credit : Nat) : Nat → Swarm → Swarm × State
  | 0, w => (w, s)
  | f + 1, w =>
    match w.unsent with
    | [] => (w, s)
    | p :: rest =>
      if w.live.any (w.blocked credit) then (w, s)
      else
        let s1 := w.live.foldl (fun s r => s.sendX die w.part r p) s
        s1.pumpSwarm die credit f
          { w with
            unsent := rest, sent := w.sent ++ [p]
            outstanding := w.live.foldl (fun t r => tset 0 t r (tget 0 t r + 1)) w.outstanding }

/-- Whether a transfer has nothing left to send or to hear. -/
def Swarm.over (w : Swarm) : Bool :=
  w.unsent.isEmpty && w.sent.length == w.total
    && (if w.kind = 1 then w.receivers.all fun r => tget 0 w.outstanding r == 0 else w.receivers.all w.acked.contains)

/-- Replace a transfer of a die, pumping it; a transfer that is over leaves, and writes its RSIG (09 R289). -/
def State.putSwarm (s : State) (die k : Nat) (w : Swarm) : State :=
  let credit := max 1 (collCredit ((s.coll w.part w.coll).getD []))
  let r1 := s.pumpSwarm die credit w.unsent.length w
  let w1 := r1.1; let s1 := r1.2
  if w1.over then
    let s2 := s1.modDie die fun d => { d with swarms := d.swarms.eraseIdx k }
    match w1.rsig with
    | some o => (s2.rsigWrite die w1.part w1.step o).settle w1.at_ w1.id
    | none => s2
  else s1.modDie die fun d => { d with swarms := lset d.swarms k w1 }

/-- Index of a die's transfer. -/
def State.findSwarm (s : State) (die : Nat) (f : Swarm → Bool) : Option (Nat × Swarm) :=
  ((s.die die).swarms.zipIdx.find? fun x => f x.1).map fun x => (x.2, x.1)

/-- Give a chunk to a transfer, which `new` starts when there is none. -/
def State.feedSwarm (s : State) (die : Nat) (f : Swarm → Bool) (new : Swarm) (p : XPkt) : State :=
  match s.findSwarm die f with
  | some (k, w) => s.putSwarm die k { w with unsent := w.unsent ++ [p] }
  | none =>
    (s.modDie die fun d => { d with swarms := d.swarms ++ [new] }).putSwarm die (s.die die).swarms.length
      { new with unsent := [p] }

/-! ### Element offsets (09 R279) -/

/-- Bytes of an element of an entry's result. -/
def collW (r : List Byte) : Nat := fmtBytes (ccwFmt (collCcw r))

/-- Element offset of a repetition; none for the OFFSET fault (log 61, DEDUCED). -/
def xchOff (r : List Byte) (op len : Nat) (a : W64) : Option Nat :=
  let d := a.toNat - collBase r
  let off := d / collW r
  if a.toNat < collBase r ∨ d % collW r ≠ 0 ∨ off + 64 * len > collElems r ∨ ((op = 2 ∨ op = 4) ∧ off % 64 ≠ 0) then none
  else some off

/-! ### Start of an XCH -/

/-- The lead word of a PUT packet's body: RSIG of the last packet, and of the body of a packet of an MCAST transfer: its chunks, its
sender and its number (log 22, DESIGN CHOICE). -/
def putLead (rsig : Option Nat) : List Byte :=
  leBytes 8 (match rsig with | some o => 2 ^ 31 + o | none => 0)
def mcastLead (total src tid : Nat) : List Byte :=
  leBytes 8 (total % 2 ^ 16 + src % 2 ^ 16 * 2 ^ 16 + tid % 2 ^ 32 * 2 ^ 32)

/-- Number of an instruction among the transfers of its module. -/
def tidOf (i : StreamId) (q : QEntry) : Nat :=
  q.id % 2 ^ 20 + (i.die * 64 + i.core) % 1024 * 2 ^ 20 + passIx i.pass * 2 ^ 30

/-- DST of a link destination (09 R274). -/
def linkDst (drank : Nat) (h : XPkt) : W64 :=
  BitVec.ofNat 64 (2 ^ 63 + drank % 1024 * 2 ^ 32 + h.coll % 4096 * 2 ^ 16 + h.kind * 256)

/-- A descriptor of an XCH: `n` bytes at `src` to a link destination; one that moves no data has the length of a header (log 22, DESIGN
CHOICE); DL is 0 and RATE 1 (log 124, DESIGN CHOICE). -/
def mkDesc (i : StreamId) (q : QEntry) (part src n drank : Nat) (h : XPkt) : PDesc :=
  { src := BitVec.ofNat 64 src, dst := linkDst drank h
    len0 := BitVec.ofNat 32 (if q.skip then 32 else n), cnt1 := 1, sstr1 := 0, dstr1 := 0, dl := 0, rate := 1, part := part, signal := false
    sobj := hSobj q.w, at_ := i, id := q.id, act := .send true (!q.skip) (h.kind != 0), drank := drank, hdr := h }

/-- A descriptor that the exchange engine forms from the collective table (07 R213); DL is 0 and RATE 1 (log 124, DESIGN CHOICE). -/
def collDesc (part src n drank : Nat) (data swarm : Bool) (h : XPkt) : PDesc :=
  { src := BitVec.ofNat 64 src, dst := linkDst drank h, len0 := BitVec.ofNat 32 n, cnt1 := 1, sstr1 := 0, dstr1 := 0, dl := 0, rate := 1
    part := part, signal := false, sobj := 0, at_ := ⟨0, 0, .fwd⟩, id := 0, act := .send false data swarm, drank := drank, hdr := h }

/-- Bytes of one PUT packet: 63 units (log 22, DESIGN CHOICE). -/
def putPiece : Nat := 63 * 64

/-- The descriptors of an XCH, in order; one that is skipped sends its packets without data (09 R290). `offs` are the element offsets of
its repetitions. -/
def State.xchDescs (s : State) (i : StreamId) (q : QEntry) (part : Nat) (r : List Byte) (offs : List Nat) : List PDesc :=
  let len := xLen q.w
  let op := q.op
  let total := q.n * len
  let rsig := if xRse q.w then some (xRsig q.w) else none
  if op = 3 then []
  else if q.skip && op == 0 then
    [mkDesc i q part 0 0 (xDrank q.w) (s.mkPkt part 0 0 q.step (q.areg (xAdst q.w)) 0 (putLead rsig))]
  else if q.skip && op == 1 then
    [mkDesc i q part 0 0 0 (s.mkPkt part 3 (xColl q.w) q.step (posWord (offs.headD 0) 0 0xFFFF) 0 (mcastLead 1 s.rank (tidOf i q)))]
  else
    let ds := (List.range q.n).flatMap fun j =>
      let src := (q.addr (xAsrc q.w) (bit q.w 59) j).toNat
      let dst := (q.addr (xAdst q.w) (bit q.w 58) j).toNat
      let off := offs.getD j 0
      if op = 0 then
        (List.range ((64 * len + putPiece - 1) / putPiece)).map fun k =>
          let n := min putPiece (64 * len - putPiece * k)
          let lastOne := j + 1 = q.n ∧ putPiece * (k + 1) ≥ 64 * len
          mkDesc i q part (src + putPiece * k) n (xDrank q.w)
            (s.mkPkt part 0 0 q.step (BitVec.ofNat 64 (dst + putPiece * k)) 0 (putLead (if lastOne then rsig else none)))
      else if op = 1 then
        (List.range len).map fun k =>
          let n := 64 * collW r
          mkDesc i q part (src + n * k) n 0
            (s.mkPkt part 3 (xColl q.w) q.step (posWord (off + 64 * k) 64 (len * j + k)) 0 (mcastLead total s.rank (tidOf i q)))
      else
        (List.range len).map fun k =>
          mkDesc i q part (src + 2048 * k) 2048 (collOwner r (off + 64 * k)).1
            (s.mkPkt part 1 (xColl q.w) q.step (posWord (off + 64 * k) (if q.skip then 0 else 64) (len * j + k)) 0 [])
    match ds.getLast? with
    | some l => ds.dropLast ++ [{ l with signal := hSig q.w && !q.skip }]
    | none => ds

/-- Channel of a core's XCH, and of a collective entry's own traffic: the exchange engine has channels 0 to 15 (01 R28; log 22, DESIGN
CHOICE). -/
def xchChan (i : StreamId) : Nat := i.core % 16
def collChan (coll : Nat) : Nat := coll % 16

/-- The SOBJ write of an XCH that reads no source (09 R279, R285, R290). -/
def State.xchSobj (s : State) (i : StreamId) (q : QEntry) : State :=
  if hSig q.w then s.sendSync (s.signalReq i q.step q.id (hSobj q.w)) else s

/-! ### Rings (07 R211 to R213) -/

def Die.chan (d : Die) (c : Nat) : Chan := tget {} d.chans c
def Die.modChan (d : Die) (c : Nat) (f : Chan → Chan) : Die := { d with chans := tset {} d.chans c (f (d.chan c)) }

/-- Plain address of a slot of a channel's ring (07 R211). -/
def slotAddr (die ch slot : Nat) : Nat := dieBase + die * 2 ^ 32 + 0x3F00000 + ch * 0x8000 + slot % 512 * 64

/-- The 64 bytes of a descriptor, and a descriptor with the fields that 64 bytes give it (Table 7-6). -/
def PDesc.bytes (x : PDesc) : List Byte :=
  leBytes 8 x.src.toNat ++ leBytes 8 x.dst.toNat ++ leBytes 4 x.len0.toNat ++ leBytes 4 x.cnt1.toNat ++ leBytes 4 x.sstr1.toNat
    ++ leBytes 4 x.dstr1.toNat ++ leBytes 4 x.dl.toNat ++ leBytes 2 x.rate.toNat ++ leBytes 1 x.part ++ [if x.signal then 1 else 0]
    ++ leBytes 4 x.sobj ++ List.replicate 20 0
def PDesc.read (x : PDesc) (b : List Byte) : PDesc :=
  { x with
    src := BitVec.ofNat 64 (recNat b 0 8), dst := BitVec.ofNat 64 (recNat b 8 8), len0 := BitVec.ofNat 32 (recNat b 0x10 4)
    cnt1 := BitVec.ofNat 32 (recNat b 0x14 4), sstr1 := BitVec.ofNat 32 (recNat b 0x18 4), dstr1 := BitVec.ofNat 32 (recNat b 0x1C 4)
    dl := BitVec.ofNat 32 (recNat b 0x20 4), rate := BitVec.ofNat 16 (recNat b 0x24 2), part := recNat b 0x26 1
    signal := recNat b 0x27 1 % 2 == 1, sobj := recNat b 0x28 4 % 2 ^ 17 }

/-- A unit writes a descriptor into the next slot of its channel's ring. -/
def State.ringWrite (s : State) (die ch : Nat) (x : PDesc) : State :=
  let slot := ((s.die die).chan ch).tail.toNat
  (s.writeMem { part := x.part } (((List.range 64).map (slotAddr die ch slot + ·)).zip x.bytes)).modDie die fun d =>
    d.modChan ch fun c => { c with ring := c.ring ++ [x], tail := c.tail + 1 }

/-- Waiting descriptors are written while the ring holds fewer than 512 unfetched ones (07 R213). -/
def State.refill (s : State) (die ch : Nat) : State :=
  let c := (s.die die).chan ch
  let n := 512 - c.ring.length
  (c.wait.take n).foldl (fun s x => s.ringWrite die ch x) (s.modDie die fun d => d.modChan ch fun c => { c with wait := c.wait.drop n })

/-- Descriptors for a channel. -/
def State.pushDescs (s : State) (die ch : Nat) (ds : List PDesc) : State :=
  (s.modDie die fun d => d.modChan ch fun c => { c with wait := c.wait ++ ds }).refill die ch

/-- The exchange engine of a die forms the descriptor of a packet that moves no data (07 R213). -/
def State.queueX (s : State) (die part drank : Nat) (p : XPkt) : State :=
  s.pushDescs die (collChan p.coll) [collDesc part 0 32 drank false false p]

/-- Whether a descriptor was formed for an XCH. -/
def PDesc.own (x : PDesc) : Bool := match x.act with | .send o _ _ => o | _ => false

/-- Whether a channel has a free slot and nothing waits for one. -/
def Chan.open_ (c : Chan) : Bool := c.wait.isEmpty && decide (c.ring.length < 512)

/-- Whether an XCH finds the exchange engine free, no other still writing its descriptors, and a free slot (07 R213). -/
def State.xchReady (s : State) (i : StreamId) : Bool :=
  let d := s.die i.die
  !(d.chans.any fun c => decide (c.1 < 16) && c.2.wait.any PDesc.own) && (d.chan (xchChan i)).open_

/-! ### Start of an XCH -/

/-- A transfer this module sends for an MCAST. -/
def mcastSwarm (i : StreamId) (q : QEntry) (part : Nat) (r : List Byte) (own total : Nat) : Swarm :=
  { part := part, coll := xColl q.w, kind := 3, step := q.step, tid := tidOf i q, total := total
    receivers := (collMembers r).filter (· != own), rsig := if xRse q.w then some (xRsig q.w) else none, at_ := i, id := q.id }

/-- An XCH that waits for results of its range (09 R285). -/
def State.addGather (s : State) (i : StreamId) (q : QEntry) (part : Nat) (offs : List Nat) : State :=
  if xRse q.w then
    s.modDie i.die fun d =>
      { d with gathers := d.gathers ++ [{ at_ := i, id := q.id, part := part, coll := xColl q.w
                                          ranges := offs.map fun o => (o, 64 * xLen q.w), step := q.step, rsig := xRsig q.w }] }
  else s

/-- The elements that results have made complete on this module: chunks received and chunks of its own shards. -/
def State.resultDone (s : State) (part coll : Nat) (step : W32) (e : Nat) : Bool :=
  s.dies.any fun d =>
    d.2.rx.any (fun x => x.part == part && x.coll == coll && x.kind == 2 && x.step == step
      && x.have_.any fun p => decide (posFirst p ≤ e) && decide (e < posFirst p + 64))
    || d.2.chunks.any (fun c => c.part == part && c.coll == coll && c.step == step && c.finished && c.chunk == e / 64)

/-- Whether every element of a range is complete; results come in chunks of 64. -/
def State.rangeDone (s : State) (part coll : Nat) (step : W32) (r : Nat × Nat) : Bool :=
  (List.range (r.2 / 64 + 1)).all fun k =>
    s.resultDone part coll step (min (r.1 + 64 * k) (r.1 + r.2 - 1))

/-- Write RSIG of the XCHs of a die whose ranges are complete. -/
def State.gatherDie (s : State) (die : Nat) : State :=
  (s.die die).gathers.foldl (fun (s : State) g =>
    if g.ranges.all (s.rangeDone g.part g.coll (g.step.setWidth 32)) then
      (((s.modDie die fun d => { d with gathers := d.gathers.filter (· != g) }).rsigWrite die g.part g.step g.rsig)).settle g.at_ g.id
    else s) s

def State.gatherAll (s : State) : State := (s.dies.map (·.1)).foldl (fun s d => s.gatherDie d) s

/-- An XCH starts: its descriptors, its place among the waiters, or its OFFSET fault (06 R188, 09 R279, R285, R290). One that reads no
source makes its SOBJ write now. The caller has made it a running instruction. -/
def State.xchStart (s : State) (i : StreamId) (q : QEntry) : State :=
  if q.n = 0 then s.settle i q.id
  else
    let die := i.die
    let part := (s.core (skey i)).part.getD 0xFF
    let r := (s.coll part (xColl q.w)).getD []
    let offs := if q.op = 0 then some [] else
      (List.range q.n).mapM fun j => xchOff r q.op (xLen q.w) (q.addr (xAdst q.w) (bit q.w 58) j)
    match offs with
    | none =>
      let s1 := s.cfault die part 9 s.rank (xColl q.w)
      let s2 := s1.xchSobj i q
      (if xRse q.w then s2.rsigWrite die part q.step (xRsig q.w) else s2).settle i q.id
    | some os =>
      let s1 := s.pushDescs die (xchChan i) (s.xchDescs i q part r os)
      let s2 := if q.op = 1 then
          s1.modDie die fun d =>
            { d with swarms := d.swarms ++ [mcastSwarm i q part r s.rank (if q.skip then 1 else q.n * xLen q.w)] }
        else s1
      let s3 := if 2 ≤ q.op then (s2.addGather i q part os).gatherAll else s2
      (if q.skip ∨ q.op = 3 then s3.xchSobj i q else s3).settle i q.id

/-! ### Service of a channel (07 R212) -/

/-- A descriptor is fetched: its bytes are read from the ring, through the code of the die store. -/
def State.fetchOne (s : State) (die ch : Nat) : State :=
  let c := (s.die die).chan ch
  match c.ring with
  | [] => s
  | x :: rest =>
    if x.act = .void then s.modDie die fun d => d.modChan ch fun c => { c with ring := rest, head := c.head + 1 }
    else
    let r1 := s.readMem { part := x.part } ((List.range 64).map (slotAddr die ch c.head.toNat + ·))
    r1.2.modDie die fun d => d.modChan ch fun c => { c with cache := c.cache ++ [x.read r1.1], ring := rest, head := c.head + 1 }

/-- DESCRIPTOR_FETCH: when the cache holds 32 or fewer, a burst of up to 32 unfetched descriptors (07 R212). -/
def execDescriptorFetch (die ch : Nat) (s : State) : Host.Outcome State Fault Refusal :=
  .next (if ((s.die die).chan ch).cache.length ≤ 32 then
      ((List.range 32).foldl (fun s _ => s.fetchOne die ch) s).refill die ch
    else s)

/-- Elements of `w` bytes as numbers, zero-extended. -/
def elemCodes (w : Nat) (bs : List Byte) : List Nat := (splitEvery w bs.length bs).map leNat

/-- CSUM of a chunk moved as elements: encodings zero-extended, or the low 64 bits of each long word (09 R285). -/
def codesSum (cs : List Nat) : W64 := cs.foldl (fun acc c => acc + BitVec.ofNat 64 c) 0

/-- The packet a descriptor forms from its source bytes. `bad` marks long words that arrived with bad parity. A result or a repaired chunk
keeps the checksum it was finished with (09 R285, R288). -/
def descPkt (r : List Byte) (x : PDesc) (swarm : Bool) (bs : List Byte) (bad : Nat → Bool) : XPkt :=
  match x.hdr.kind with
  | 1 =>
    let ws := (splitEvery 32 64 bs).zipIdx.map fun (b, k) =>
      let w := LW.load (BitVec.ofNat 256 (leNat b))
      (if w.nan ∨ bad k then 0 else w.n, w.nan || bad k)
    { x.hdr with csum := low64sum (ws.map (·.1)), body := ws.flatMap fun (n, t) => etwEncode n t }
  | 3 =>
    { x.hdr with csum := if swarm then codesSum (elemCodes (collW r) bs) else x.hdr.csum, body := x.hdr.body ++ bs }
  | _ => { x.hdr with body := x.hdr.body ++ bs }

/-- A CONTRIB waits for the credits of its owner (09 R283). -/
def contribSwarm (x : PDesc) (step : W64) : Swarm :=
  { part := x.part, coll := x.hdr.coll, kind := 1, step := step, tid := x.drank, total := 0, receivers := [x.drank]
    rsig := none, at_ := x.at_, id := x.id }

/-- Chunks of the shards that an owner rank has in an entry. -/
def ownerChunks (r : List Byte) (owner : Nat) : List Nat :=
  ((List.range (collElems r / collShard r)).filter fun k => (collOwner r (k * collShard r)).1 == owner).flatMap fun k =>
    (List.range (collShard r / 64)).map fun t => k * (collShard r / 64) + t

/-- The results of this module's shards, as a transfer to the other members (09 R285, R286). -/
def State.resultSwarm (s : State) (part coll : Nat) (r : List Byte) (step : W64) : Swarm :=
  { part := part, coll := coll, kind := 2, step := step, tid := s.rank, total := (ownerChunks r s.rank).length
    receivers := (collMembers r).filter (· != s.rank), rsig := none, at_ := ⟨0, 0, .fwd⟩, id := 0 }

/-- A packet of a descriptor goes out: under credits, or at once. -/
def State.descSend (s : State) (die : Nat) (r : List Byte) (x : PDesc) (swarm : Bool) (step : W64) (p : XPkt) : State :=
  if !swarm then s.sendX die x.part x.drank p
  else match p.kind with
    | 1 =>
      let f := fun (w : Swarm) => w.kind == 1 && w.part == x.part && w.coll == p.coll && w.tid == x.drank && w.step == step
      match s.findSwarm die f with
      | some (k, w) => s.putSwarm die k { w with total := w.total + 1, unsent := w.unsent ++ [p] }
      | none => s.feedSwarm die f { contribSwarm x step with total := 1 } p
    | 2 =>
      s.feedSwarm die (fun w => w.kind == 2 && w.part == x.part && w.coll == p.coll && w.step == step)
        (s.resultSwarm x.part p.coll r step) p
    | 3 =>
      match s.findSwarm die fun w => w.kind == 3 && w.at_ == x.at_ && w.id == x.id with
      | some (k, w) => s.putSwarm die k { w with unsent := w.unsent ++ [p], src := tset 0 w.src (posChunk p) x.src.toNat }
      | none => s
    | _ => s.sendX die x.part x.drank p

/-- Source addresses of the rows of a descriptor (Table 7-6). -/
def PDesc.rows (x : PDesc) : List Nat :=
  (List.range x.cnt1.toNat).map fun k => (x.src + BitVec.ofInt 64 (x.sstr1.toInt * k)).toNat

/-- The bytes of a descriptor's rows, read by a unit. -/
def State.readRows (s : State) (who : Who) (unit : W32) (x : PDesc) : List Byte × State :=
  x.rows.foldl (fun (acc : List Byte × State) a =>
    let r1 := acc.2.dmaRead who unit a x.len0.toNat
    (acc.1 ++ r1.1, r1.2)) ([], s)

/-- A Parity record for each source byte of a descriptor that arrives with bad parity (07 R221). -/
def State.inputParity (s : State) (unit : W32) (x : PDesc) (fs : List PhysFault) : State :=
  fs.foldl (fun (s : State) f => match f with
    | .parityInput a =>
      if x.rows.any fun b => decide (b ≤ a) && decide (a < b + x.len0.toNat) then
        s.post (s.unitEv unit 0x04 1 x.part (BitVec.ofNat 64 a)) else s
    | _ => s) s

/-- The exchange engine serves a descriptor: its source is read and its packet goes out; one whose source lies across a dead midline
raises NOPATH (07 R212, R226, 09 R281, R285, R292). The last one of an XCH makes the completion write. -/
def State.serveX (s : State) (die : Nat) (x : PDesc) (data swarm : Bool) (fs : List PhysFault) : State :=
  let r := (s.coll x.part x.hdr.coll).getD []
  let p := s.part x.part
  let step := if x.hdr.step = p.openStep.setWidth 32 then p.openStep else p.openStep + 1
  let s1 :=
    if !data then s.descSend die r x swarm step x.hdr
    else if !(x.rows.all fun a => s.dmaReaches die x.part false a x.len0.toNat) then s.cfault die x.part 1 s.rank x.hdr.coll
    else
      let r2 := s.readRows (s.xchWho die x.part) (xchUnit die) x
      let bad := fun k => (List.range 32).any fun b => parityBad fs (x.src.toNat + 32 * k + b)
      (r2.2.inputParity (xchUnit die) x fs).descSend die r x swarm step (descPkt r x swarm r2.1 bad)
  let s2 := if x.signal then s1.sendSync (s1.signalReq x.at_ step x.id x.sobj) else s1
  if x.own then s2.settle x.at_ x.id else s2

end Sys2Proof.Machine
end

