-- ==== Sys2Proof/Machine/Packets.lean ====
section
/-! DEFINITION. The exchange engine of a die as a receiver: PUT, contributions and their exact reduction, results, multicast,
mirrored writes, credits, drops and repair, and the timeouts (09 R272 to R294). -/

namespace Sys2Proof.Machine

/-! ### Acceptance (09 R274) -/

/-- The step a packet belongs to: the open step at its retry, or the next at retry 0. None is Stale. -/
def Part.accepts (x : Part) (p : XPkt) : Option W64 :=
  if p.step = x.openStep.setWidth 32 ∧ p.retry = x.retry then some x.openStep
  else if p.step = (x.openStep + 1).setWidth 32 ∧ p.retry = 0 then some (x.openStep + 1)
  else none

/-- A Stale packet: counted, and one event for each step and retry. -/
def State.stale (s : State) (die part : Nat) (p : XPkt) : State :=
  let seen := (s.die die).staleSeen.contains (part, p.step, p.retry)
  let s1 := s.modDie die fun d =>
    { d with
      stale := true, cntStale := satAdd d.cntStale 1
      staleSeen := if seen then d.staleSeen else d.staleSeen ++ [(part, p.step, p.retry)] }
  if seen then s1 else s1.post (s1.unitEv (xchUnit die) 0x11 0 part 0)

/-- Remove the first element that satisfies a test. -/
def dropFirst {α : Type} (f : α → Bool) : List α → List α
  | [] => []
  | x :: t => if f x then t else x :: dropFirst f t

/-- The packet leaves the list it waited in, if it stood in one (log 91, DEDUCED). -/
def State.takePkt (s : State) (part : Nat) (p : XPkt) : State :=
  s.modLink fun l =>
    if l.xin.any (fun e => e == (part, p)) then { l with xin := dropFirst (fun e => e == (part, p)) l.xin }
    else { l with fabric := dropFirst (fun e => e.2 == (part, p)) l.fabric }

/-- Whether a PUT packet carries the RSIG write of its transfer. -/
def putRsig (p : XPkt) : Bool := p.kind == 0 && recNat p.body 0 8 / 2 ^ 31 % 2 == 1

/-- Whether a packet of another partition, which left the same source earlier, goes to the same die and still can: one for a partition
that is not resident is refused meanwhile (01 R24, 09 R294). -/
def State.standsBefore (s : State) (part : Nat) (p : XPkt) (e : Nat × XPkt) : Bool :=
  e.1 != part && s.pktDie e.1 e.2 == s.pktDie part p && ((s.part e.1).saved.isNone || e.2.kind == 4)

/-- Whether a packet may arrive now: over a link behind every earlier packet of its sender for the partition, over the package fabric
behind every earlier one from its die to its destination; the RSIG of a PUT behind every PUT packet of its sender; behind those of other
partitions on one way; and across the midline only while a bridge segment lives (01 R24, R25, R39, 09 R272, R275). A packet that stands in
no list arrives from outside. -/
def State.mayTake (s : State) (die part : Nat) (p : XPkt) : Bool :=
  let way := s.crosses (halfOfDie die) (halfOfDie (s.pktDie part p))
  if s.link.xin.any (fun e => e == (part, p)) then
    way && (s.link.xin.takeWhile fun e => e != (part, p)).all fun e =>
      e.2.srank != p.srank || (e.1 != part && !s.standsBefore part p e)
  else match s.link.fabric.find? fun e => e.2 == (part, p) with
    | some f =>
      way && (s.link.fabric.takeWhile fun e => e != f).all fun e =>
        e.1 != f.1 || (if e.2.1 = part then s.pktDie part e.2.2 != s.pktDie part p && !(putRsig p && e.2.2.kind == 0)
          else !s.standsBefore part p e.2)
    | none => true

/-- A packet arrives at a die's exchange engine, in order, and while the partition is resident, but for a mirrored write (08 R255, 09
R294): Stale, or a wrong signature, or `go` with its step. -/
def State.packet (s : State) (die part : Nat) (p : XPkt) (go : W64 → List Byte → State → State) : State :=
  if !s.mayTake die part p || ((s.part part).saved.isSome && p.kind != 4) then s
  else
    let s1 := s.takePkt part p
    match (s1.part part).accepts p with
    | none => s1.stale die part p
    | some step =>
      let r := (s1.coll part p.coll).getD []
      if p.kind ≠ 0 ∧ p.kind ≠ 1 ∧ p.sig ≠ collSig r then s1.cfault die part 5 p.srank p.coll
      else go step r s1

/-- The chunk a packet names, as REPAIRREQ, CREDIT and the like carry it. -/
def reply (p : XPkt) : W64 := p.pos

/-- Bytes of a packet are written at a device address; across a dead midline nothing is, and NOPATH is raised (01 R25, 09 R292). The flag
says whether they were. -/
def State.landBytes (s : State) (die part coll a : Nat) (bs : List Byte) (fs : List PhysFault) : Bool × State :=
  if s.dmaReaches die part true a bs.length then (true, s.dmaWrite (s.xchWho die part) (xchUnit die) a bs fs)
  else (false, s.cfault die part 1 s.rank coll)

/-- PUT_PACKET: the bytes are written at the destination address, then RSIG (09 R275, R290). -/
def execPutPacket (die part : Nat) (x : Arrival) (s : State) : Host.Outcome State Fault Refusal :=
  let p := x.pkt
  let fs := x.faults
  .next (s.packet die part p fun step _ s =>
    let r1 := s.landBytes die part p.coll p.pos.toNat (p.body.drop 8) fs
    if r1.1 && putRsig p then r1.2.rsigWrite die part step (recNat p.body 0 8 % 2 ^ 17) else r1.2)

/-! ### Transfers of this module found by a reply -/

/-- The die and index of the transfer that satisfies a test. -/
def State.anySwarm (s : State) (f : Swarm → Bool) : Option (Nat × Nat × Swarm) :=
  ((s.dies.map (·.1)).filterMap fun d => (s.findSwarm d f).map fun x => (d, x.1, x.2)).head?

/-- The number of an MCAST transfer in the lead word of a packet's body, and its chunks and sender. -/
def leadTid (p : XPkt) : Nat := recNat p.body 4 4
def leadTotal (p : XPkt) : Nat := recNat p.body 0 2
def leadSrc (p : XPkt) : Nat := recNat p.body 2 2

/-- Whether a transfer is that of this module's contributions to an owner, the chunk of a packet among those it has sent (log 62,
DEDUCED). -/
def Swarm.contributes (w : Swarm) (owner : Nat) (p : XPkt) : Bool :=
  w.kind == 1 && w.tid == owner && w.sent.any fun q => posFirst q == posFirst p

/-- Which transfer a CREDIT belongs to: contributions to an owner, results of this owner, or the MCAST whose number it carries (log 62,
DEDUCED). -/
def State.creditFor (s : State) (part : Nat) (r : List Byte) (step : W64) (p : XPkt) (w : Swarm) : Bool :=
  w.part == part && w.coll == p.coll && w.step == step
    && (if collKind r = 1 then w.kind == 3 && w.tid == leadTid p
        else if (collOwner r (posFirst p)).1 = s.rank then w.kind == 2
        else w.contributes p.srank p)

/-- A credit of a receiver for a transfer that satisfies a test: one chunk of it is no longer outstanding, and further chunks go out (09
R286). -/
def State.credited (s : State) (f : Swarm → Bool) (rank : Nat) : State :=
  match s.anySwarm f with
  | some (d, k, w) => s.putSwarm d k { w with outstanding := tset 0 w.outstanding rank (tget 0 w.outstanding rank - 1) }
  | none => s

/-- CREDIT: a chunk of this module is complete at its receiver (09 R286). -/
def execCredit (die part : Nat) (p : XPkt) (s : State) : Host.Outcome State Fault Refusal :=
  .next (s.packet die part p fun step r s => s.credited (s.creditFor part r step p) p.srank)

/-- SWARM_ACK: a receiver holds the whole transfer; the last one lets RSIG be written (09 R286, R289). -/
def execSwarmAck (die part : Nat) (p : XPkt) (s : State) : Host.Outcome State Fault Refusal :=
  .next (s.packet die part p fun step r s =>
    let kind := if collKind r = 1 then 3 else 2
    match s.anySwarm fun w => w.part == part && w.coll == p.coll && w.step == step && w.kind == kind
        && (kind == 2 || w.tid == leadTid p) with
    | some (d, k, w) => s.putSwarm d k { w with acked := if w.acked.contains p.srank then w.acked else w.acked ++ [p.srank] }
    | none => s)

/-! ### Receivers of a transfer (09 R285 to R289) -/

/-- The transfer a packet of a kind belongs to, before anything of it has arrived: that of the owner for RESULT, that of the sender and
number in the lead word for MCAST (log 22, DESIGN CHOICE). -/
def newRx (r : List Byte) (part kind : Nat) (p : XPkt) : RxXfer :=
  let owner := (collOwner r (posFirst p)).1
  { part := part, coll := p.coll, kind := kind, step := p.step
    tid := if kind = 2 then owner else leadTid p, src := if kind = 2 then owner else leadSrc p
    total := if kind = 2 then (ownerChunks r owner).length else leadTotal p, first := (posFirst p, posChunk p) }

/-- Whether two receptions are of one transfer. -/
def RxXfer.is (x y : RxXfer) : Bool :=
  x.part == y.part && x.coll == y.coll && x.kind == y.kind && x.tid == y.tid && x.src == y.src && x.step == y.step

/-- Change what a die holds of a transfer, which `new` starts. -/
def State.modRx (s : State) (die : Nat) (new : RxXfer) (f : RxXfer → RxXfer) : State :=
  s.modDie die fun d =>
    let t := fun (x : RxXfer) => x.is new
    if d.rx.any t then { d with rx := d.rx.map fun x => if t x then f x else x } else { d with rx := d.rx ++ [f new] }

def State.getRx (s : State) (die : Nat) (new : RxXfer) : RxXfer :=
  ((s.die die).rx.find? fun x => x.is new).getD new

/-- The lead word of the replies about a transfer: that of an MCAST, none for results. -/
def RxXfer.lead (x : RxXfer) : List Byte := if x.kind = 3 then mcastLead x.total x.src x.tid else []

/-- POS of a chunk of results: its index is its place among the chunks of its owner, which are the transfer (09 R273; log 129,
DEDUCED). -/
def resultPos (r : List Byte) (owner chunk : Nat) : W64 := posWord (64 * chunk) 64 ((ownerChunks r owner).idxOf chunk)

/-- POS of a chunk of a transfer: the element offset of a chunk of results is 64 times its number, that of a chunk of an MCAST follows from
the first chunk heard of (log 22, DESIGN CHOICE). -/
def RxXfer.posOf (x : RxXfer) (r : List Byte) (chunk : Nat) : W64 :=
  if x.kind = 2 then resultPos r x.tid chunk
  else posWord (((x.first.1 : Int) + 64 * ((chunk : Int) - x.first.2)).toNat) 64 chunk

/-- The chunk a packet completes: its first element for RESULT, its index for MCAST. -/
def chunkId (kind : Nat) (p : XPkt) : Nat := if kind = 2 then posFirst p / 64 else posChunk p

/-- Chunks a receiver still lacks. -/
def RxXfer.missing (x : RxXfer) (r : List Byte) : List Nat :=
  let all := if x.kind = 2 then ownerChunks r x.tid else List.range x.total
  all.filter fun c => !(x.have_.any fun p => chunkId x.kind p == c)

/-- A chunk is complete at its destination: CREDIT to its sender, and once the receiver holds every chunk ROBJ, ACK and, after
a repair, the Repaired event (09 R286 to R289). -/
def State.rxChunk (s : State) (die part : Nat) (r : List Byte) (step : W64) (p : XPkt) : State :=
  let new := newRx r part p.kind p
  let old := s.getRx die new
  let known := old.have_.any fun x => chunkId p.kind x == chunkId p.kind p
  let s1 := s.modRx die new fun x => { x with have_ := if known then x.have_ else x.have_ ++ [p], total := new.total }
  let s2 := if old.dropped then s1 else s1.queueX die part old.src (s1.mkPkt part 5 p.coll step (reply p) 0 new.lead)
  let x := s2.getRx die new
  let whole := x.have_.any (fun y => y.kind == 3 && posChunk y == 0xFFFF) || decide (x.total ≤ x.have_.length)
  if whole ∧ !x.acked then
    let s3 := s2.modRx die new fun x => { x with acked := true }
    let s4 := match p.kind, collRobj r with
      | 3, some o => s3.rsigWrite die part step o
      | _, _ => s3
    let s5 := s4.queueX die part x.src (s4.mkPkt part 6 p.coll step (posWord x.first.1 0 0) 0 x.lead)
    if x.dropped then s5.post (s5.unitEv (xchUnit die) 0x11 2 part 0) else s5
  else s2

/-- RESULT: signature and CSUM are checked, the elements are written, and waiters of the range hear of it (09 R285). -/
def execResult (die part : Nat) (x : Arrival) (s : State) : Host.Outcome State Fault Refusal :=
  let p := x.pkt
  let fs := x.faults
  .next (s.packet die part p fun step r s =>
    let n := collW r * 64
    let data := p.body.take n
    if codesSum (elemCodes (collW r) data) ≠ p.csum then s.cfault die part 3 p.srank p.coll
    else
      let r1 := s.landBytes die part p.coll (collBase r + posFirst p * collW r) data fs
      if r1.1 then (r1.2.rxChunk die part r step p).gatherAll else r1.2)

/-- MCAST_PACKET: a chunk is written unchanged; a packet of count 0 stands for the whole range and writes nothing (09 R286,
R289, R290; log 64, DEDUCED). -/
def execMcastPacket (die part : Nat) (x : Arrival) (s : State) : Host.Outcome State Fault Refusal :=
  let p := x.pkt
  let fs := x.faults
  .next (s.packet die part p fun step r s =>
    let data := (p.body.drop 8).take (posCount p * collW r)
    if codesSum (elemCodes (collW r) data) ≠ p.csum then s.cfault die part 3 p.srank p.coll
    else
      let r1 := s.landBytes die part p.coll (collBase r + posFirst p * collW r) data fs
      if r1.1 then r1.2.rxChunk die part r step p else r1.2)

/-! ### Exact reduction (09 R283, R284) -/

/-- Die whose exchange engine keeps an entry's chunks and results: that of its first owner core (log 22, DESIGN CHOICE). -/
def collDie (r : List Byte) : Nat := collOcore r 0 / 128

/-- The integers and tags of a contribution; a packet of count 0 stands for 64 zeros (09 R290). None is malformed. -/
def contribElems (p : XPkt) : Option (List (Int × Bool)) :=
  if posCount p = 0 then some (List.replicate 64 (0, false)) else etwAll 64 p.body

/-- The owner core of a chunk, and the shard's number among those it owns, in the order of k (09 R280). -/
def chunkCore (r : List Byte) (chunk : Nat) : Nat := (collOwner r (64 * chunk)).2
def chunkTurn (r : List Byte) (chunk : Nat) : Nat := 64 * chunk / collShard r / ((collMembers r).length * max 1 (collNoc r))

/-- Address of a chunk's sums in the accumulation area of its owner core, and of a staging slot of that core (09 R280; Table 9-5). -/
def accAddr (r : List Byte) (chunk : Nat) : Nat :=
  coreStore (chunkCore r chunk) + collOacc r + chunkTurn r chunk * (32 * collShard r) + 64 * chunk % collShard r * 32
def stgAddr (r : List Byte) (chunk slot : Nat) : Nat := coreStore (chunkCore r chunk) + collOstg r + slot * 2176

/-- The vector engine of an owner core as the maker of accesses. -/
def State.ownerWho (s : State) (part key : Nat) : Who := { part := part, src := some (s.unitCore key 0, (s.core key).epoch) }

/-- The sums of a chunk so far: the 256 bits in the accumulation area, and what the adder keeps above them. -/
def State.readAcc (s : State) (r : List Byte) (c : OwnChunk) : List Int × State :=
  if c.next = 0 then (List.replicate 64 0, s)
  else
    let r1 := s.readMem (s.ownerWho c.part (chunkCore r c.chunk)) ((List.range 2048).map (accAddr r c.chunk + ·))
    ((c.high.zip (splitEvery 32 64 r1.1)).map fun (h, b) => h * 2 ^ 256 + leNat b, r1.2)

/-- Put sums into the accumulation area. -/
def State.writeAcc (s : State) (r : List Byte) (c : OwnChunk) (acc : List Int) (fs : List PhysFault) : State :=
  let who := s.ownerWho c.part (chunkCore r c.chunk)
  let ws := ((List.range 2048).map (accAddr r c.chunk + ·)).zip (acc.flatMap fun n => leBytes 32 (BitVec.ofInt 256 n).toNat)
  (s.writeMem who ws).parityWrites who (ws.map (·.1)) fs

/-- Which elements of a body have a byte of bad parity: `n` elements from byte `off` on. -/
def etwBad (bad : Nat → Bool) : Nat → Nat → List Byte → List Bool
  | 0, _, _ => []
  | n + 1, off, bs =>
    match etwDecode bs with
    | none => []
    | some (_, rest) =>
      let len := bs.length - rest.length
      (List.range len).any (fun k => bad (off + k)) :: etwBad bad n (off + len) rest

/-- Which of the sums read back from the accumulation area have a byte of bad parity (07 R221). -/
def accBad (r : List Byte) (c : OwnChunk) (fs : List PhysFault) : List Bool :=
  (List.range 64).map fun l => c.next != 0 && (List.range 32).any fun b => parityBad fs (accAddr r c.chunk + 32 * l + b)

/-- The Parity events of an owner core's vector engine, for the bytes of bad parity among those it reads (07 R221). -/
def State.ownerParity (s : State) (part key : Nat) (fs : List PhysFault) (as : List Nat) : State :=
  fs.foldl (fun (s : State) f => match f with
    | .parityInput a =>
      if as.contains a then s.post (s.unitEv (s.unitCore key 3) 0x04 1 part (BitVec.ofNat 64 a)) else s
    | _ => s) s

/-- The addresses of a chunk's sums. -/
def accAddrs (r : List Byte) (c : OwnChunk) : List Nat := (List.range 2048).map (accAddr r c.chunk + ·)

/-- Tags that bad parity joins (02 R60, 07 R221). -/
def tagBad (tag bad : List Bool) : List Bool := tag.zipIdx.map fun x => x.1 || bad.getD x.2 false

/-- A contribution whose turn has come is checked and added; an element of it that arrived with bad parity, as `bad` says, is taken as NaN,
and its checksum is taken without it (07 R221, 09 R283; logs 63 and 141, DEDUCED). -/
def State.addContrib (s : State) (die : Nat) (r : List Byte) (c : OwnChunk) (p : XPkt) (bad : List Bool) (fs : List PhysFault) :
    OwnChunk × State :=
  let s0 := if contribElems p = none then s.cfault die c.part 6 p.srank c.coll else s
  let es := ((contribElems p).getD (List.replicate 64 (0, false))).zipIdx.map fun x => (x.1.1, x.1.2 || bad.getD x.2 false)
  let s1 := if p.sig ≠ collSig r then s0.cfault die c.part 5 p.srank c.coll else s0
  let s2 := if p.anchor.toInt ≠ collAnchor r then s1.cfault die c.part 4 p.srank c.coll else s1
  let s3 := if low64sum (es.map fun e => if e.2 then 0 else e.1) ≠ p.csum then s2.cfault die c.part 3 p.srank c.coll else s2
  let r4 := s3.readAcc r c
  let acc := r4.1.zipWith (fun a e => a + (if e.2 then 0 else e.1)) es
  ({ c with
      high := acc.map fun n => n / 2 ^ 256
      tag := (tagBad c.tag (accBad r c fs)).zipWith (fun t e => t || e.2) es
      expect := c.expect + p.csum, next := c.next + 1
      staged := c.staged.filter fun x => x.rank != p.srank },
    (r4.2.ownerParity c.part (chunkCore r c.chunk) fs (if c.next = 0 then [] else accAddrs r c)).writeAcc r c acc fs)

/-- One element of a finished chunk at CCW: its encoding and flags (09 R284). -/
def reduceElem (r : List Byte) (key : W128) (step : W64) (idx : Nat) (n : Int) (nan : Bool) : Nat × Flags :=
  let ccw := collCcw r
  let f := ccwFmt ccw
  if f = 9 then
    if nan then (lwNan.toNat, { special := true })
    else if n.natAbs > (lwMax false).toNat then (lwNan.toNat, { lwRange := true })
    else ((BitVec.ofInt 256 n).toNat, {})
  else
    let sr := ccwRnd ccw == 1
    convertOut (fmtP f) (if nan then .nan else .fin (Exact.ofInt n (collAnchor r))) sr (if sr then cicadaU key 1 step idx else 0)

/-- Flags that an output has not raised before. -/
def Flags.minus (a b : Flags) : Flags :=
  { sat := a.sat && !b.sat, empty := a.empty && !b.empty, lwRange := a.lwRange && !b.lwRange, wideTop := a.wideTop && !b.wideTop
    special := a.special && !b.special, wide := a.wide && !b.wide }

/-- The flags of a chunk join those of its collective's output, which are sticky: the new ones are posted, and a first saturation under
REPLAY is Ladder-top (02 R67, 09 R284). -/
def State.collFlags (s : State) (die : Nat) (r : List Byte) (c : OwnChunk) (fl : Flags) : State :=
  let key := (c.part, c.coll, c.step)
  let old := (((s.die die).collFlags.find? fun x => x.1 == key).map (·.2)).getD {}
  let new := fl.minus old
  let scale := ccwPol (collCcw r) == 1
  let unit := s.unitCore (chunkCore r c.chunk) 3
  let s1 := s.modDie die fun d => { d with collFlags := assocMod {} d.collFlags key fun f => f.or fl }
  let s2 := s1.postFlags (s1.unitEv unit 0 0 c.part (BitVec.ofNat 64 (2 ^ 63 + c.coll))) new scale |>.countScale c.part (scaleEvents new scale)
  if new.saturated && !old.saturated && !scale then
    s2.mailTurn.post (s2.unitEv unit 0x0F 1 c.part (BitVec.ofNat 64 (ccwFmt (collCcw r))))
  else s2

/-- The chunk that a holder supplies: from what it has received, or from what it has sent or is about to send. -/
def State.heldChunk (s : State) (x : RxXfer) (chunk : Nat) : Option XPkt :=
  let rx := s.dies.flatMap fun d => (d.2.rx.filter fun y => y.is x).flatMap (·.have_)
  let tx := s.dies.flatMap fun d =>
    (d.2.swarms.filter fun w => w.part == x.part && w.coll == x.coll && w.kind == x.kind && w.tid == x.tid && x.src == s.rank
      && w.step.setWidth 32 == x.step).flatMap fun w => w.sent ++ w.unsent
  (rx ++ tx).find? fun p => chunkId x.kind p == chunk

/-- Where the bytes of a chunk stand that a holder supplies: at the source of an MCAST that this module sent, else in the entry's result
(09 R288). -/
def State.heldAt (s : State) (x : RxXfer) (r : List Byte) (q : XPkt) : Nat :=
  let own := s.dies.flatMap fun d => d.2.swarms.filter fun w => w.part == x.part && w.coll == x.coll && w.kind == 3 && x.kind == 3
    && w.tid == x.tid && x.src == s.rank && w.step.setWidth 32 == x.step
  match (own.flatMap (·.src)).find? fun e => e.1 == posChunk q with
  | some e => e.2
  | none => collBase r + posFirst q * collW r

/-- A holder sends a chunk it holds, from its place in memory, with its original CSUM (09 R288). -/
def State.sendHeld (s : State) (die part rank a : Nat) (r : List Byte) (q : XPkt) : State :=
  s.pushDescs die (collChan q.coll)
    [collDesc part a (posCount q * collW r) rank true false
      { q with srank := s.rank, retry := (s.part part).retry, body := if q.kind = 3 then q.body.take 8 else [] }]

/-- Repairs owed of a chunk that is now finished. -/
def State.payOwed (s : State) (die part : Nat) (r : List Byte) (q : XPkt) : State :=
  let mine := fun (e : Nat × XPkt) => e.1 == part && e.2.coll == q.coll && e.2.step == q.step && posFirst e.2 / 64 == posFirst q / 64
  ((s.die die).owed.filter mine).foldl (fun s e => s.sendHeld die part e.2.srank (collBase r + posFirst q * collW r) r q)
    (s.modDie die fun d => { d with owed := d.owed.filter fun e => !mine e })

/-- A finished chunk: the result check, the conversion, its write, its flags, and its RESULT packets (09 R283 to R285). -/
def State.finishChunk (s : State) (die : Nat) (r : List Byte) (step : W64) (c : OwnChunk) (fs : List PhysFault) : State :=
  let part := c.part
  let r0 := s.readAcc r c
  let s0 := r0.2.ownerParity part (chunkCore r c.chunk) fs (if c.next = 0 then [] else accAddrs r c)
  let s1 := if low64sum r0.1 ≠ c.expect then s0.cfault die part 3 s.rank c.coll else s0
  let first := 64 * c.chunk
  let key := tget 0 (s.part part).keys (ccwKslot (collCcw r))
  let es := ((r0.1.zip (tagBad c.tag (accBad r c fs))).zipIdx).map fun ((n, t), l) => reduceElem r key step (first + l) n t
  let data := es.flatMap fun e => leBytes (collW r) e.1
  let w := s1.landBytes die part c.coll (collBase r + first * collW r) data fs
  let s3 := w.2.collFlags die r c (es.foldl (fun acc e => acc.or e.2) {})
  let p := s3.mkPkt part 2 c.coll step (resultPos r s.rank c.chunk) (codesSum (elemCodes (collW r) data)) []
  if w.1 then
    (s3.pushDescs die (collChan c.coll)
      [collDesc part (collBase r + first * collW r) data.length s.rank true true p]).payOwed die part r p
  else s3

/-- Replace a chunk of a die. -/
def State.putChunk (s : State) (die : Nat) (c : OwnChunk) : State :=
  s.modDie die fun d =>
    let t := fun (x : OwnChunk) => x.part == c.part && x.coll == c.coll && x.chunk == c.chunk && x.step == c.step
    if d.chunks.any t then { d with chunks := d.chunks.map fun x => if t x then c else x } else { d with chunks := d.chunks ++ [c] }

/-- The packet of a contribution in staging, its ETWs read from its slot, with a Parity event for each byte of bad parity. -/
def State.readStaged (s : State) (r : List Byte) (c : OwnChunk) (x : Staged) (fs : List PhysFault) : XPkt × State :=
  let as := (List.range x.len).map (stgAddr r c.chunk x.slot + ·)
  let r1 := s.readMem (s.ownerWho c.part (chunkCore r c.chunk)) as
  ({ x.hdr with body := r1.1 }, r1.2.ownerParity c.part (chunkCore r c.chunk) fs as)

/-- Which elements of a contribution in staging arrive with bad parity. -/
def stagedBad (r : List Byte) (c : OwnChunk) (x : Staged) (p : XPkt) (fs : List PhysFault) : List Bool :=
  etwBad (parityBad fs) 64 (stgAddr r c.chunk x.slot) p.body

/-- Whether the exchange engine of a die, and the one that keeps a chunk, reach its owner core (01 R25). -/
def State.ownerReached (s : State) (die : Nat) (r : List Byte) (chunk : Nat) : Bool :=
  let h := halfOfDie (chunkCore r chunk / 128)
  s.crosses (halfOfDie die) h && s.crosses (halfOfDie (collDie r)) h

/-- The owner returns a credit for a contribution it has added; over the package fabric to its own exchange engine (09 R286). -/
def State.returnCredit (s : State) (die : Nat) (step : W64) (c : OwnChunk) (p : XPkt) : State :=
  if p.srank = s.rank then
    s.credited (fun w => w.part == c.part && w.coll == c.coll && w.step == step && w.contributes s.rank p) s.rank
  else s.queueX die c.part p.srank (s.mkPkt c.part 5 c.coll step (reply p) 0 [])

/-- Add staged contributions while the next rank in order is there, and finish the chunk after the last; `f` bounds their number. An owner
core across a dead midline raises NOPATH (01 R25, 09 R292). The exchange engine that keeps the chunk does it. -/
def State.ownerRun (s : State) (r : List Byte) (step : W64) (fs : List PhysFault) : Nat → OwnChunk → State
  | 0, c => s.putChunk (collDie r) c
  | f + 1, c =>
    let die := collDie r
    let ms := collMembers r
    if c.finished then s.putChunk die c
    else if !s.ownerReached die r c.chunk then (s.putChunk die c).cfault die c.part 1 s.rank c.coll
    else if ms.length ≤ c.next then
      ((s.putChunk die { c with finished := true }).finishChunk die r step c fs).gatherAll
    else match c.staged.find? fun x => some x.rank == ms[c.next]? with
      | none => s.putChunk die c
      | some x =>
        let r0 := s.readStaged r c x fs
        let r1 := r0.2.addContrib die r c r0.1 (stagedBad r c x r0.1 fs) fs
        (r1.2.returnCredit die step c r0.1).ownerRun r step fs f r1.1

/-- Chunks of a step that has become the open one: contributions held for it are added (09 R294). -/
def State.openChunks (s : State) (part : Nat) : State :=
  let step := (s.part part).openStep
  (s.dies.flatMap fun d => d.2.chunks.filter fun c => c.part == part && c.step == step.setWidth 32 && !c.finished).foldl
    (fun s c =>
      let r := (s.coll part c.coll).getD []
      s.ownerRun r step [] (c.staged.length + 2) c) s

/-- The staging slots of a chunk's owner core that hold a contribution of its entry. -/
def State.slotsUsed (s : State) (r : List Byte) (c : OwnChunk) : List Nat :=
  (((s.die (collDie r)).chunks.filter fun x => x.part == c.part && x.coll == c.coll && chunkCore r x.chunk == chunkCore r c.chunk).flatMap
    (·.staged)).map (·.slot)

/-- A free slot for a contribution: one of the STGN is kept for the rank whose turn it is (09 R283). -/
def State.freeSlot (s : State) (r : List Byte) (c : OwnChunk) (due : Bool) : Option Nat :=
  let used := s.slotsUsed r c
  if due ∨ used.length + 1 < collStgn r then (List.range (collStgn r)).find? fun k => !used.contains k else none

/-- A contribution waits in staging. -/
def State.stage (s : State) (r : List Byte) (c : OwnChunk) (slot : Nat) (p : XPkt) (fs : List PhysFault) : OwnChunk × State :=
  let who := s.ownerWho c.part (chunkCore r c.chunk)
  let ws := ((List.range p.body.length).map (stgAddr r c.chunk slot + ·)).zip p.body
  ({ c with
      seen := c.seen ++ [(p.srank, p)]
      staged := c.staged ++ [{ rank := p.srank, slot := slot, hdr := { p with body := [] }, len := p.body.length }] },
    (s.writeMem who ws).parityWrites who (ws.map (·.1)) fs)

/-- The chunk that a contribution belongs to, as its owner holds it. -/
def State.chunkOf (s : State) (part : Nat) (r : List Byte) (p : XPkt) : OwnChunk :=
  let chunk := posFirst p / 64
  ((s.die (collDie r)).chunks.find? fun c => c.part == part && c.coll == p.coll && c.chunk == chunk && c.step == p.step).getD
    { part := part, coll := p.coll, chunk := chunk, step := p.step, high := List.replicate 64 0, tag := List.replicate 64 false }

/-- Whether a contribution is that of the rank whose turn it is in the open step. -/
def State.contribDue (s : State) (part : Nat) (r : List Byte) (p : XPkt) : Bool :=
  let c := s.chunkOf part r p
  p.step == (s.part part).openStep.setWidth 32 && !c.finished && (collMembers r)[c.next]? == some p.srank

/-- Whether a contribution finds a place: it is added, discarded, or a slot is free. -/
def State.contribFits (s : State) (part : Nat) (p : XPkt) : Bool :=
  let r := (s.coll part p.coll).getD []
  let c := s.chunkOf part r p
  (s.part part).accepts p = none || (collOwner r (posFirst p)).1 != s.rank || !(collMembers r).contains p.srank
    || (contribElems p).isNone || (c.seen.any fun x => x.1 == p.srank) || (s.freeSlot r c (s.contribDue part r p)).isSome

/-- CONTRIB: a contribution of a rank to a chunk of this module's shards: malformed, a duplicate, or staged and added in rank
order; it waits while no staging slot is free. One that is for no chunk of this module, or from no member, shows a differing entry at its
sender; one for an owner core across a dead midline raises NOPATH (01 R25, 09 R277, R281 to R284, R290, R292). -/
def execContrib (die part : Nat) (x : Arrival) (s : State) : Host.Outcome State Fault Refusal :=
  let p := x.pkt
  let fs := x.faults
  .next (if !s.contribFits part p then s else s.packet die part p fun step r s =>
    if (collOwner r (posFirst p)).1 ≠ s.rank ∨ !(collMembers r).contains p.srank then
      if p.sig ≠ collSig r then s.cfault die part 5 p.srank p.coll else s
    else if !s.ownerReached die r (posFirst p / 64) then s.cfault die part 1 s.rank p.coll
    else if contribElems p = none then s.cfault die part 6 p.srank p.coll
    else
      let c := s.chunkOf part r p
      match c.seen.find? fun x => x.1 == p.srank with
      | some (_, q) =>
        if q = p then s.modSyn (halfOfDie die) fun h => { h with dupBen := satAdd h.dupBen 1 }
        else s.cfault die part 7 p.srank p.coll
      | none =>
        let r1 := s.stage r c ((s.freeSlot r c (s.contribDue part r p)).getD 0) p fs
        if step = (s.part part).openStep then r1.2.ownerRun r step fs (r1.1.staged.length + 2) r1.1
        else r1.2.putChunk (collDie r) r1.1)

/-- MIRROR: a mirrored SET or ADD from a link takes effect on the local copy, after the data its sender sent before it
(09 R271, R272); one for an object across a dead midline raises NOPATH (01 R25, 09 R292). -/
def execMirror (die part : Nat) (p : XPkt) (s : State) : Host.Outcome State Fault Refusal :=
  .next (s.packet die part p fun step r s =>
    if collKind r ≠ 2 ∨ collCount r ≤ fld p.pos 16 0 then s
    else if !s.crosses (halfOfDie die) (halfOfObj (collFirst r + fld p.pos 16 0)) then s.cfault die part 1 s.rank p.coll
    else s.syncApply
      { obj := collFirst r + fld p.pos 16 0, kind := if fld p.pos 33 32 = 0 then .set else .add, value := p.csum.setWidth 32
        step := step, epoch := tget 0 (s.die die).epochs part, part := part, unit := xchUnit die, src := none, srcId := 0, link := true })

/-! ### Drops and repair (09 R287, R288) -/

/-- Holders in order of nearness: fewest hops under the routes in force of the partition's plane, then the lower rank. A rank without a
valid route is none (11 R332). -/
def State.holders (s : State) (part : Nat) (r : List Byte) : List Nat :=
  let pl := (s.part part).plane
  let tab := s.link.planes.filter fun e => e.1 / 1024 == pl
  sortBy ((collMembers r).filter fun m => m != s.rank && s.route pl m != .invalid) fun a b =>
    decide (Config.hops tab a < Config.hops tab b ∨ (Config.hops tab a = Config.hops tab b ∧ a ≤ b))

/-- Ask the nearest holder not yet asked for a chunk. -/
def State.askRepair (s : State) (die part : Nat) (r : List Byte) (step : W64) (x : RxXfer) (chunk : Nat) : State :=
  match (s.holders part r).find? fun h => !((s.getRx die x).asked.contains (chunk, h)) with
  | none => s
  | some h =>
    (s.modRx die x fun y => { y with asked := y.asked ++ [(chunk, h)] }).queueX die part h
      (s.mkPkt part 8 x.coll step (x.posOf r chunk) 0 x.lead)

/-- KIND of the data packets of an entry's transfers. -/
def dataKind (r : List Byte) : Nat := if collKind r = 1 then 3 else 2

/-- DROP: the sender has dropped this receiver, which asks for every chunk it lacks (09 R287, R288). -/
def execDrop (die part : Nat) (p : XPkt) (s : State) : Host.Outcome State Fault Refusal :=
  .next (s.packet die part p fun step r s =>
    let new := newRx r part (dataKind r) p
    let s1 := s.modRx die new fun x => { x with dropped := true }
    let x := s1.getRx die new
    (x.missing r).foldl (fun s c => s.askRepair die part r step x c) s1)

/-- REPAIRREQ: the holder sends the chunk with its original CSUM; an owner that has not finished it sends it then, and another holder that
lacks it answers REPAIRNAK (09 R288). -/
def execRepairreq (die part : Nat) (p : XPkt) (s : State) : Host.Outcome State Fault Refusal :=
  .next (s.packet die part p fun step r s =>
    let x := newRx r part (dataKind r) p
    match s.heldChunk x (chunkId x.kind p) with
    | some q => s.sendHeld die part p.srank (s.heldAt x r q) r q
    | none =>
      if x.kind = 2 ∧ x.tid = s.rank then s.modDie (collDie r) fun d => { d with owed := d.owed ++ [(part, p)] }
      else s.queueX die part p.srank { (s.mkPkt part 9 p.coll step (reply p) 0 []) with body := p.body })

/-- REPAIRNAK: the receiver asks the next nearest holder (09 R288). -/
def execRepairnak (die part : Nat) (p : XPkt) (s : State) : Host.Outcome State Fault Refusal :=
  .next (s.packet die part p fun step r s =>
    let x := s.getRx die (newRx r part (dataKind r) p)
    if x.dropped ∧ (x.missing r).contains (chunkId x.kind p) then s.askRepair die part r step x (chunkId x.kind p) else s)

/-! ### Timeouts -/

/-- LAGGARD_TIMEOUT: a transfer held by the credits of one receiver alone drops it, unless it is the last one (09 R287). -/
def execLaggardTimeout (die part coll rank : Nat) (s : State) : Host.Outcome State Fault Refusal :=
  let r := (s.coll part coll).getD []
  let credit := max 1 (collCredit r)
  .next (match s.findSwarm die fun w =>
      w.part == part && w.coll == coll && w.kind != 1 && !w.unsent.isEmpty
        && (w.live.filter (w.blocked credit)) == [rank] && decide (1 < w.live.length) with
    | some (k, w) =>
      let p := w.unsent.headD { kind := 0, retry := 0, srank := 0, step := 0, sig := 0, coll := 0, anchor := 0, pos := 0, csum := 0, body := [] }
      let s1 := s.queueX die part rank
        (s.mkPkt part 7 coll w.step p.pos 0 (if w.kind = 3 then mcastLead w.total s.rank w.tid else []))
      let s2 := s1.modDie die fun d => { d with lag := true, cntLag := satAdd d.cntLag 1 }
      let s3 := s2.post (s2.unitEv (xchUnit die) 0x11 1 part
        (BitVec.ofNat 64 (rank % 1024 * 2 ^ 32 + coll % 4096 * 2 ^ 16 + posChunk p)))
      s3.putSwarm die k { w with dropped := w.dropped ++ [rank] }
    | none => s)

/-- COLLECTIVE_TIMEOUT: an owner has lacked a rank's chunk for XCH_CTO since its first contribution (Table 9-7). -/
def execCollectiveTimeout (die part coll chunk : Nat) (s : State) : Host.Outcome State Fault Refusal :=
  let r := (s.coll part coll).getD []
  .next (match (s.die (collDie r)).chunks.find? fun c =>
      c.part == part && c.coll == coll && c.chunk == chunk && c.step == (s.part part).openStep.setWidth 32 && !c.finished with
    | some c =>
      match (collMembers r).find? fun m => !(c.seen.any fun x => x.1 == m) with
      | some m => s.cfault die part 2 m coll
      | none => s
    | none => s)

/-- REPAIR_TIMEOUT: no holder has supplied a chunk within XCH_CTO (09 R288). -/
def execRepairTimeout (die part coll chunk : Nat) (s : State) : Host.Outcome State Fault Refusal :=
  let r := (s.coll part coll).getD []
  .next (match (s.die die).rx.find? fun x => x.part == part && x.coll == coll && x.dropped && (x.missing r).contains chunk with
    | some x => s.cfault die part 8 x.src coll
    | none => s)

end Sys2Proof.Machine
end

