-- ==== Sys2Proof/Machine/Upd.lean ====
section
/-! DEFINITION. The update units: UPD at issue, the optimiser recipes, the remainder split, the clip factor and the exponent
table (06 R189, R190, 10 R299 to R307). -/

namespace Sys2Proof.Machine

/-! ### Fields (Table 6-14) -/

def uRecipe (w : W128) : Nat := fld w 79 77
def uFmtP (w : W128) : Nat := fld w 51 48
def uFmtG (w : W128) : Nat := fld w 47 44
def uFmtM (w : W128) : Nat := fld w 43 40
def uSr (w : W128) : Bool := fld w 22 21 == 1
def uLen (w : W128) : Nat := fld w 17 0
def uHasM (w : W128) : Bool := uRecipe w != 0
def uHasV (w : W128) : Bool := uRecipe w == 2 || uRecipe w == 3
def uHasR (w : W128) : Bool := fld w 60 57 != 0

/-- Address registers that advance (06 R189). -/
def updIncs (w : W128) : List Nat :=
  if bit w 52 then
    [fld w 76 73, fld w 72 69] ++ (if uHasM w then [fld w 68 65] else []) ++ (if uHasV w then [fld w 64 61] else [])
      ++ (if uHasR w then [fld w 60 57] else [])
  else []

/-- UNIT of an update unit. -/
def updUnitWord (u : Nat) : W32 := unitPair 4 u

/-- The update unit that holds a parameter address; unit 2d of the issuing die for one that no HBM stack holds. -/
def updUnitOf (gradeB : Bool) (die a : Nat) : Nat × Bool :=
  match (plainAddr gradeB a).bind (memUnit gradeB) with
  | some (.hbm st) => (st, true)
  | _ => (2 * die, false)

/-- The elements of an UPD: repetition and index, with the device address of the parameter, in ascending address (10 R300). -/
def updElems (q : QEntry) : List (Nat × Nat × Nat) :=
  let wp := fmtBytes (uFmtP q.w)
  sortBy ((List.range q.n).flatMap fun j => (List.range (64 * uLen q.w)).map fun e =>
      (j, e, ((q.addr (fld q.w 76 73) (bit q.w 52) j).toNat + e * wp) % 2 ^ 64)) fun a b => decide (a.2.2 ≤ b.2.2)

/-- The update units that an UPD's parameters reach, in order of address. -/
def updUnits (gradeB : Bool) (die : Nat) (q : QEntry) : List Nat :=
  ((updElems q).map fun e => (updUnitOf gradeB die e.2.2).1).eraseDups

/-- UPD: issue to the update units; an absent one that any of its parameters reaches is the Absent-unit fault (06 R189, R190, R193). -/
def execUpd (i : StreamId) (w : W128) (s : State) : Host.Outcome State Fault Refusal :=
  .next (s.onTurn i (some .upd) 0 fun s =>
    let st := s.stream i
    let occ := 2 * uLen w * st.reps w
    let us := updUnits s.fuse.gradeB i.die (st.entry 0 0 w .upd { occ := occ, lat := occ + 400 })
    s.issueEng i w 5 0 .upd false st.inop (us.any fun u => s.fuse.absent.contains (updUnitWord u))
      { occ := occ, lat := occ + 400, incs := updIncs w } id)

/-! ### Arithmetic (10 R301) -/

/-- A value rounded to a format under RNE, and whether it saturated. -/
def rnFmt (f : FmtP) (x : Exact) : Exact × Bool :=
  let r := cvt f x false 0
  (match decodeElem f r.1 with | .fin v => v | _ => x, r.2)

def rn32 (x : Exact) : Exact := (rnFmt fFP32 x).1

def Exact.one : Exact := ⟨false, 1, 0⟩
def Exact.sub (a b : Exact) : Exact := a.add b.negate
def Exact.isZero (a : Exact) : Bool := a.mag == 0
def Exact.isNeg (a : Exact) : Bool := a.neg && a.mag != 0

/-- An exact quotient (03 R99). -/
def Exact.div (a b : Exact) : Exact := ratio (if a.neg != b.neg then -(a.mag : Int) else a.mag) b.mag (a.exp - b.exp)

/-- b^t with a rounding at each product; `f` bounds the bits of t. -/
def powFrom : Nat → Exact → Exact → Nat → Exact
  | 0, r, _, _ => r
  | f + 1, r, p, t =>
    if t = 0 then r else powFrom f (if t % 2 = 1 then rn32 (r.mul p) else r) (rn32 (p.mul p)) (t / 2)

def pw (b : Exact) (t : Nat) : Exact := powFrom 65 Exact.one b t

/-- The largest finite FP32 value with a sign. -/
def maxF32 (neg : Bool) : Exact := ⟨neg, fFP32.maxsig, 104⟩

/-- A bias correction: 1 / (1 - b^t), or the largest finite value with Range (10 R302). -/
def biasCorr (b : Exact) (t : Nat) : Exact × Bool :=
  let d := Exact.one.sub (pw b t)
  if d.isZero then (maxF32 false, true) else (rn32 (Exact.one.div d), false)

/-! ### The remainder split (10 R303) -/

/-- `split`: the BF16 parameter, the remainder, and Range. -/
def splitParam (y : Exact) : Nat × Int × Bool :=
  if y.mag = 0 then (0, 0, false)
  else
    let q := max (msb y.mag + y.exp) (-126) - 7
    let nd := q - y.exp
    let keep := if nd ≤ 0 then y.mag * 2 ^ (-nd).toNat else y.mag / 2 ^ nd.toNat
    let rem := if nd ≤ 0 then 0 else y.mag % 2 ^ nd.toNat
    let up := decide (0 < nd) && (decide (2 * rem > 2 ^ nd.toNat) || (decide (2 * rem = 2 ^ nd.toNat) && !y.neg))
    let k0 := if up then keep + 1 else keep
    let (k, q) := if k0 = 256 then (128, q + 1) else (k0, q)
    if q > 120 then (if y.neg then 0xFF7F else 0x7F7F, 0, true)
    else (encodeFmt fBF16 y.neg k q, align (y.sub ⟨y.neg, k, q⟩) (q - 16), false)

/-- Weight of one ulp of a BF16 encoding (10 R303). -/
def bf16Ulp (p : Nat) : Int := max ((p / 128 % 256 : Nat) - 127 : Int) (-126) - 7

/-! ### The hyperparameter record (Table 10-1) -/

/-- An FP32 field; none when it is NaN or infinite. -/
def recF32 (r : List Byte) (off : Nat) : Option Exact :=
  match decodeElem fFP32 (recNat r off 4) with | .fin v => some v | _ => none

/-- What an UPD takes from its record and its exponent entry: none for a hyperparameter that is NaN or infinite. -/
structure Hyper where
  eta : Option Exact
  beta1 : Option Exact
  beta2 : Option Exact
  eps : Option Exact
  lambda : Option Exact
  t : Nat
  s : Int
  /-- the clip factor; none is NaN -/
  c : Option Exact

/-- The clip factor (10 R307). -/
def clipFactor (rec_ : List Byte) (sexp : Int) (s2 : LW) : Option Exact :=
  match recF32 rec_ 0x14 with
  | none => none
  | some tau =>
    if s2.nan ∨ s2.n < 0 ∨ tau.isNeg then none
    else
      let a := recInt rec_ 0x1A 2
      let lhs : Exact := Exact.ofInt s2.n a
      let rhs : Exact := { tau.mul tau with exp := 2 * tau.exp + 2 * sexp }
      if !(lhs.sub rhs).isNeg && !(lhs.sub rhs).isZero then
        some (rn32 (root (tau.mag * tau.mag) s2.n.natAbs (2 * tau.exp + 2 * sexp - a)))
      else some Exact.one

/-! ### One element -/

/-- The new parameter code, remainder and moments of an element, with the flags. -/
structure UpdOut where
  p : Nat
  r : Int
  m : Nat
  v : Nat
  range : Bool
  spec : Bool

/-- The NaN case (10 R302). -/
def updNan (fp fm : FmtP) : UpdOut := { p := fp.qnan, r := 0, m := fm.qnan, v := fm.qnan, range := false, spec := true }

/-- Whether a recipe's hyperparameters are all finite (10 R302). -/
def Hyper.finite (h : Hyper) (recipe : Nat) : Bool :=
  h.eta.isSome && (recipe == 0 || h.beta1.isSome) && (decide (recipe ≤ 1) || h.beta2.isSome)
    && ((recipe != 2 && recipe != 3) || h.eps.isSome) && ((recipe != 3 && recipe != 4) || h.lambda.isSome)

/-- The update `u` of a recipe, the moments, and Range; none for a negative radicand, whose result is that of the NaN case whatever else
saturated (Table 10-2, 10 R302; log 131, DESIGN CHOICE). -/
def recipeStep (recipe : Nat) (h : Hyper) (fm : FmtP) (x g m v : Exact) : Option (Exact × Exact × Exact × Bool) :=
  let z : Exact := ⟨false, 0, 0⟩
  let eta := h.eta.getD z
  let b1 := h.beta1.getD z
  let b2 := h.beta2.getD z
  let lam := h.lambda.getD z
  match recipe with
  | 0 =>
    let u := rnFmt fFP32 (eta.mul g)
    some (u.1, z, z, u.2)
  | 1 =>
    let m' := rnFmt fm ((b1.mul m).add g)
    let u := rnFmt fFP32 (eta.mul m'.1)
    some (u.1, m'.1, z, m'.2 || u.2)
  | 4 =>
    let m' := rnFmt fm (g.add (b2.mul (m.sub g)))
    let sg := g.add (b1.mul (m.sub g))
    let sigma : Exact := if sg.isZero then z else ⟨sg.neg, 1, 0⟩
    let u := rnFmt fFP32 (eta.mul (sigma.add (lam.mul x)))
    some (u.1, m'.1, z, m'.2 || u.2)
  | _ =>
    let m' := rnFmt fm (g.add (b1.mul (m.sub g)))
    let gg := g.mul g
    let v' := rnFmt fm (gg.add (b2.mul (v.sub gg)))
    let c1 := biasCorr b1 h.t
    let c2 := biasCorr b2 h.t
    let rad := c2.1.mul v'.1
    if rad.isNeg then none
    else
      let d := rn32 ((rn32 (root rad.mag 1 rad.exp)).add (h.eps.getD z))
      let num := if recipe = 2 then eta.mul (c1.1.mul m'.1) else eta.mul ((c1.1.mul m'.1).add ((lam.mul x).mul d))
      let u := if d.isZero then (if num.isZero then (z, false) else (maxF32 num.neg, true)) else rnFmt fFP32 (num.div d)
      some (u.1, m'.1, v'.1, m'.2 || v'.2 || c1.2 || c2.2 || u.2)

/-- One element: its stored inputs to its outputs (10 R301 to R303). -/
def updElem (w : W128) (h : Hyper) (pc : Nat) (g : Elem) (m v : Elem) (r : Int) (u : Nat) : UpdOut :=
  let fp := fmtP (uFmtP w)
  let fm := fmtP (uFmtM w)
  let recipe := uRecipe w
  match decodeElem fp pc, g, m, v, h.c with
  | .fin p, .fin gv, .fin mv, .fin vv, some c =>
    if !h.finite recipe then updNan fp fm
    else
      let x := if uHasR w then p.add (Exact.ofInt r (bf16Ulp pc - 16)) else p
      let gx := gv.mul c
      let gn := rn32 { gx with exp := gx.exp - h.s }
      match recipeStep recipe h fm x gn mv vv with
      | none => updNan fp fm
      | some (du, m', v', rng) =>
        let y := x.sub du
        let (p', r', rg) := if uHasR w then splitParam y else
          let o := cvt fp y (uSr w) u
          (o.1, 0, o.2)
        { p := p', r := r', m := (cvt fm m' false 0).1, v := (cvt fm v' false 0).1, range := rng || rg, spec := false }
  | _, _, _, _, _ => updNan fp fm

/-! ### Start (06 R190, 10 R306) -/

/-- A record of an update unit about an UPD. -/
def State.updEv (s : State) (i : StreamId) (q : QEntry) (unit cls cause : Nat) (detail : W64) : EvRec :=
  { s.coreEv i 0 cls cause q.step q.pc 0 detail with unit := updUnitWord unit }

/-- Read bytes of an operand at an element: its value and the bytes suppressed. -/
def State.updRead (s : State) (who : Who) (a n : Nat) : Nat × List (Nat × Nat) × State :=
  let bs := s.dmaBytes who.part false a n
  let r1 := s.readMem who (inWindow bs)
  let vs := r1.1; let s1 := r1.2
  let tab := (inWindow bs).zip vs
  (leNat (bs.map fun (_, c) => match c with
      | .inl p => ((tab.find? fun x => x.1 == p).map (·.2)).getD 0
      | .inr _ => 0),
    outOfWindow bs, s1)

/-- Write bytes of an operand at an element; the bytes suppressed. -/
def State.updWrite (s : State) (who : Who) (a n v : Nat) (fs : List PhysFault) : List (Nat × Nat) × State :=
  let bs := s.dmaBytes who.part true a n
  let ws := (bs.zip (leBytes n v)).filterMap fun ((_, c), b) => match c with | .inl p => some (p, b) | .inr _ => none
  (outOfWindow bs, (s.writeMem who ws).parityWrites who (ws.map (·.1)) fs)

/-- An element as its operand's input: NaN when it arrives with bad parity (07 R221). -/
def updIn (fs : List PhysFault) (fmt a v : Nat) : Elem :=
  if (List.range (fmtBytes fmt)).any fun k => parityBad fs (a + k) then .nan else decodeElem (fmtP fmt) v

/-- A tensor that the instruction does not name is neither read nor written (06 R189; log 92, DEDUCED). -/
def State.updReadIf (s : State) (has : Bool) (who : Who) (a n : Nat) : Nat × List (Nat × Nat) × State :=
  if has then s.updRead who a n else (0, [], s)
def State.updWriteIf (s : State) (has : Bool) (who : Who) (a n v : Nat) (fs : List PhysFault) : List (Nat × Nat) × State :=
  if has then s.updWrite who a n v fs else ([], s)

/-- Addresses of an element in the gradient, the moments and the remainders (Table 6-14). -/
def updAddrs (q : QEntry) (x : Nat × Nat × Nat) : Nat × Nat × Nat × Nat :=
  let at_ := fun (r n : Nat) => ((q.addr r (bit q.w 52) x.1).toNat + x.2.1 * n) % 2 ^ 64
  let wm := fmtBytes (uFmtM q.w)
  (at_ (fld q.w 72 69) (fmtBytes (uFmtG q.w)), at_ (fld q.w 68 65) wm, at_ (fld q.w 64 61) wm, at_ (fld q.w 60 57) 2)

/-- Whether an update unit reaches every in-window byte of an element in every tensor (01 R25). -/
def State.updReaches (s : State) (die part : Nat) (q : QEntry) (x : Nat × Nat × Nat) : Bool :=
  let (ga, ma, va, ra) := updAddrs q x
  let ok := fun (has : Bool) (a n : Nat) => !has || (s.dmaReaches die part false a n && s.dmaReaches die part true a n)
  ok true x.2.2 (fmtBytes (uFmtP q.w)) && ok true ga (fmtBytes (uFmtG q.w)) && ok (uHasM q.w) ma (fmtBytes (uFmtM q.w))
    && ok (uHasV q.w) va (fmtBytes (uFmtM q.w)) && ok (uHasR q.w) ra 2

/-- Cicada index of a parameter element: (address - PBASE) / w, modulo 2^64 (10 R300). -/
def updIndex (pa pbase w : Nat) : Nat := (BitVec.ofInt 64 (((pa : Int) - pbase) / w)).toNat

/-- One element of an UPD in memory: flags, suppressed bytes, state. -/
def State.updOne (s : State) (i : StreamId) (q : QEntry) (fs : List PhysFault) (who : Who) (rec_ : List Byte) (h : Hyper)
    (x : Nat × Nat × Nat) : (Bool × Bool) × List (Nat × Nat) × State :=
  let w := q.w
  let pa := x.2.2
  let wp := fmtBytes (uFmtP w)
  let wg := fmtBytes (uFmtG w)
  let wm := fmtBytes (uFmtM w)
  let (ga, ma, va, ra) := updAddrs q x
  if !(updUnitOf s.fuse.gradeB i.die pa).2 then ((false, false), (List.range wp).map fun k => (pa + k, 0), s)
  else
    let r1 := s.updRead who pa wp
    let pv := r1.1; let b1 := r1.2.1; let s1 := r1.2.2
    let r2 := s1.updRead who ga wg
    let gv := r2.1; let b2 := r2.2.1; let s2 := r2.2.2
    let r3 := s2.updReadIf (uHasM w) who ma wm
    let mv := r3.1; let b3 := r3.2.1; let s3 := r3.2.2
    let r4 := s3.updReadIf (uHasV w) who va wm
    let vv := r4.1; let b4 := r4.2.1; let s4 := r4.2.2
    let r5 := s4.updReadIf (uHasR w) who ra 2
    let rv := r5.1; let b5 := r5.2.1; let s5 := r5.2.2
    let idx := updIndex pa (recNat rec_ 0x30 8) wp
    let u := if uSr w then cicadaU (tget 0 (s.part who.part).keys (fld w 20 18)) 2 q.step idx else 0
    let zero : Elem := .fin ⟨false, 0, 0⟩
    let o := if (List.range wp).any (fun k => parityBad fs (pa + k)) then updNan (fmtP (uFmtP w)) (fmtP (uFmtM w))
      else updElem w h pv (updIn fs (uFmtG w) ga gv) (if uHasM w then updIn fs (uFmtM w) ma mv else zero)
        (if uHasV w then updIn fs (uFmtM w) va vv else zero) ((BitVec.ofNat 16 rv).toInt) u
    let r6 := s5.updWrite who pa wp o.p fs
    let b6 := r6.1; let s6 := r6.2
    let r7 := s6.updWriteIf (uHasM w) who ma wm (o.m) fs
    let b7 := r7.1; let s7 := r7.2
    let r8 := s7.updWriteIf (uHasV w) who va wm (o.v) fs
    let b8 := r8.1; let s8 := r8.2
    let r9 := s8.updWriteIf (uHasR w) who ra 2 ((BitVec.ofInt 16 o.r).toNat) fs
    let b9 := r9.1; let s9 := r9.2
    ((o.range, o.spec), b1 ++ b2 ++ b3 ++ b4 ++ b5 ++ b6 ++ b7 ++ b8 ++ b9, s9)

/-- The exponent entry of a unit for a partition and step (10 R306, Table 10-8). -/
def UpdUnit.entry (u : UpdUnit) (part : Nat) (step : W64) : Option Int :=
  let a := tget (0, 0) u.tabA part
  let b := tget (0, 0) u.tabB part
  if a.1 = step.setWidth 24 then some a.2.toInt else if b.1 = step.setWidth 24 then some b.2.toInt else none

/-- Channel of an update unit for a partition: unit 2d has channels 16 to 23 of die d and unit 2d + 1 channels 24 to 31 (01 R28; log 23,
DESIGN CHOICE). -/
def updChan (u part : Nat) : Nat := 16 + 8 * (u % 2) + part % 8

/-- A descriptor of an update unit: `n` bytes from a device address to the same place, with DL 0 and RATE 1 (07 R211; log 23,
DESIGN CHOICE; log 124, DESIGN CHOICE). -/
def updDesc (part a n : Nat) (q : QEntry) (i : StreamId) (act : DescAct) : PDesc :=
  { src := BitVec.ofNat 64 a, dst := BitVec.ofNat 64 a, len0 := BitVec.ofNat 32 n, cnt1 := 1, sstr1 := 0, dstr1 := 0, dl := 0, rate := 1
    part := part, signal := false, sobj := hSobj q.w, at_ := i, id := q.id, act := act, drank := 0
    hdr := { kind := 0, retry := 0, srank := 0, step := 0, sig := 0, coll := 0, anchor := 0, pos := 0, csum := 0, body := [] } }

/-- The granules of an UPD in a unit, each with its first parameter address and its bytes, in ascending address (08 Table 8-9, 10 R312). -/
def updGranules (wp : Nat) (es : List (Nat × Nat × Nat)) : List (Nat × Nat) :=
  ((es.map fun e => e.2.2 / 4096).eraseDups).map fun g =>
    let mine := (es.map (·.2.2)).filter fun a => a / 4096 == g
    (mine.headD 0, mine.getLastD 0 + wp - mine.headD 0)

/-- The granules of a running UPD become descriptors of its unit's channel. -/
def State.formGranules (s : State) (u : Nat) (r : UpdRun) : State :=
  let gs := updGranules (fmtBytes (uFmtP r.q.w)) r.elems
  s.pushDescs (u / 2) (updChan u r.part)
    (gs.zipIdx.map fun (g, k) => updDesc r.part g.1 g.2 r.q r.at_ (.granule (k + 1 == gs.length)))

/-- Whether two records are of one UPD. -/
def UpdRun.same (r x : UpdRun) : Bool := x.at_ == r.at_ && x.q.id == r.q.id

/-- The UPD at the front of a unit is the one it runs: descriptors that waited for its turn go to its channel (10 R300). -/
def State.updNext (s : State) (u : Nat) : State :=
  match (s.unit u).run with
  | r :: rest =>
    if r.waiting.isEmpty then s
    else (s.modUnit u fun k => { k with run := { r with waiting := [] } :: rest }).pushDescs (u / 2) (updChan u r.part) r.waiting
  | [] => s

/-- A unit's record of an UPD changes. -/
def State.setRun (s : State) (u : Nat) (r : UpdRun) : State :=
  s.modUnit u fun k => { k with run := k.run.map fun y => if r.same y then r else y }

/-- The instruction of an UPD may complete once no unit runs a share of it. -/
def State.updSettle (s : State) (i : StreamId) (id : Nat) : State :=
  if s.upds.any fun u => u.2.run.any fun r => r.at_ == i && r.q.id == id then s
  else s.modStream i fun st => st.markReady id

/-- The end of a unit's share in an UPD: its registers, and one Bounds record for its suppressed bytes (07 R225, 10 R313). -/
def State.updShareEnd (s : State) (u : Nat) (r : UpdRun) : State :=
  let s1 := s.modUnit u fun x =>
    { x with
      run := x.run.filter fun y => !r.same y
      done := satAdd x.done 1
      rangec := if r.range then satAdd x.rangec 1 else x.rangec
      clip := r.clip.getD 0, sexp := BitVec.ofInt 8 r.sexp }
  let s2 := if r.badN = 0 then s1 else
    s1.post { s1.updEv r.at_ r.q u 0x05 r.badCause (BitVec.ofNat 64 r.badAt) with count := BitVec.ofNat 16 (min 65535 r.badN) }
  (s2.updNext u).updSettle r.at_ r.q.id

/-- What an UPD takes from its record, exponent entry and clip factor. -/
def UpdRun.hyper (r : UpdRun) : Hyper :=
  { eta := recF32 r.rec_ 0, beta1 := recF32 r.rec_ 4, beta2 := recF32 r.rec_ 8, eps := recF32 r.rec_ 0x0C
    lambda := recF32 r.rec_ 0x10, t := r.q.step.toNat - recNat r.rec_ 0x20 8 + 1, s := r.sexp
    c := match decodeElem fFP32 (r.clip.getD 0).toNat with | .fin v => some v | _ => none }

/-- The clip factor as FP32; the canonical NaN for none. -/
def clipWord (c : Option Exact) : W32 := BitVec.ofNat 32 (match c with | some v => (cvt fFP32 v false 0).1 | none => fFP32.qnan)

/-- A granule of an UPD: its elements in ascending address, with the flags shown when they are raised and posted when they are first (02
R67, 10 R300, R313). -/
def State.updGranule (s : State) (u : Nat) (r : UpdRun) (es : List (Nat × Nat × Nat)) (fs : List PhysFault) : UpdRun × State :=
  let who := s.updWho u r.part
  let r1 := es.foldl (fun (acc : (Bool × Bool) × List (Nat × Nat) × State) e =>
    let r' := acc.2.2.updOne r.at_ r.q fs who r.rec_ r.hyper e
    ((acc.1.1 || r'.1.1, acc.1.2 || r'.1.2), acc.2.1 ++ r'.2.1, r'.2.2)) ((false, false), [], s)
  let bad := r1.2.1
  let s1 := r1.2.2.modUnit u fun x => { x with range := x.range || r1.1.1, spec := x.spec || r1.1.2 }
  let s2 := if r1.1.1 && !r.range then s1.post (s1.updEv r.at_ r.q u 0x0C 0 0) else s1
  let s3 := if r1.1.2 && !r.spec then (if r1.1.1 && !r.range then s2.mailTurn else s2).post (s2.updEv r.at_ r.q u 0x0D 0 0) else s2
  let first := r.badN = 0
  ({ r with
      range := r.range || r1.1.1, spec := r.spec || r1.1.2, badN := r.badN + bad.length
      badAt := if first then (bad.headD (0, 0)).1 else r.badAt, badCause := if first then (bad.headD (0, 0)).2 else r.badCause }, s3)

/-- A Parity record for each input of an update unit that arrives with bad parity (07 R221). -/
def State.updParity (s : State) (i : StreamId) (q : QEntry) (u : Nat) (fs : List PhysFault) : State :=
  fs.foldl (fun s f => match f with
    | .parityInput a => s.post (s.updEv i q u 0x04 1 (BitVec.ofNat 64 a))
    | _ => s) s

/-- An update unit serves a descriptor of its running UPD: the hyperparameter record, read once; the squared norm, from which c is formed
once; or the elements of a granule (10 R299, R300, R307). The flag says whether it has been served: one whose data lies across a dead
midline waits (01 R25; log 43, DEDUCED). -/
def State.serveUpd (s : State) (u : Nat) (x : PDesc) (fs : List PhysFault) : Bool × State :=
  let a := x.src.toNat
  match (s.unit u).run.head?.filter fun r => r.at_ == x.at_ && r.q.id == x.id with
  | none => (true, s)
  | some r =>
    let who := s.updWho u r.part
    match x.act with
    | .record =>
      if !s.dmaReaches (u / 2) x.part false a x.len0.toNat then (false, s)
      else
        let r1 := s.dmaRead who (updUnitWord u) a x.len0.toNat
        let clip := recNat r1.1 0x18 2 % 2 == 1
        let r' := { r with rec_ := r1.1, clip := if clip then none else some (clipWord (some Exact.one)) }
        let s2 := r1.2.setRun u r'
        (true, if clip then
            s2.pushDescs (u / 2) (updChan u r.part) [updDesc r.part (recNat r1.1 0x28 8) 32 r.q r.at_ .norm]
          else s2.formGranules u r')
    | .norm =>
      if !s.dmaReaches (u / 2) x.part false a x.len0.toNat then (false, s)
      else
        let r1 := s.dmaRead who (updUnitWord u) a x.len0.toNat
        let r' := { r with clip := some (clipWord (clipFactor r.rec_ r.sexp (LW.load (BitVec.ofNat 256 (leNat r1.1))))) }
        (true, (r1.2.setRun u r').formGranules u r')
    | .granule last =>
      let es := r.elems.filter fun e => decide (a ≤ e.2.2) && decide (e.2.2 < a + x.len0.toNat)
      if !(es.all fun e => s.updReaches (u / 2) r.part r.q e) then (false, s)
      else
        let r1 := s.updGranule u r es fs
        let s2 := (r1.2.setRun u r1.1).updParity r.at_ r.q u fs
        (true, if last then s2.updShareEnd u r1.1 else s2)
    | _ => (true, s)

/-- A unit starts its share of an UPD under a COMMIT verdict: it takes its exponent entry and asks for the record; with no entry it writes
nothing (10 R299, R306). -/
def State.updShare (s : State) (i : StreamId) (q : QEntry) (part u : Nat) (es : List (Nat × Nat × Nat)) : State :=
  match (s.unit u).entry part q.step with
  | none =>
    let s1 := s.modUnit u fun x => { x with smiss := true, nowrite := satAdd x.nowrite 1 }
    s1.post (s1.updEv i q u 0x13 3 0)
  | some sexp =>
    (s.modUnit u fun x => { x with run := x.run ++ [{ at_ := i, q := q, part := part, elems := es, sexp := sexp }] }).pushDescs (u / 2)
      (updChan u part) [updDesc part (q.areg (fld q.w 56 53)).toNat 64 q i .record]

/-- An UPD starts under a verdict: its units run on COMMIT, and otherwise it writes nothing (06 R190). The caller has made it a running
instruction; it may complete once every unit's share has ended. -/
def State.updStart (s : State) (i : StreamId) (q : QEntry) : State :=
  if q.n = 0 ∨ q.skip then s.updSettle i q.id
  else
    let part := (s.core (skey i)).part.getD 0xFF
    let us := updUnits s.fuse.gradeB i.die q
    if fld (s.obj (updGate q.w)).value 11 10 ≠ 1 then
      (us.foldl (fun s u => s.modUnit u fun x => { x with nowrite := satAdd x.nowrite 1 }) s).updSettle i q.id
    else
      (us.foldl (fun s u =>
        s.updShare i q part u ((updElems q).filter fun e => (updUnitOf s.fuse.gradeB i.die e.2.2).1 == u)) s).updSettle i q.id

/-- Whether the units of an UPD are free for it: a unit runs one UPD at a time, and its channel has a free slot (07 R213, 10 R300). -/
def State.updFree (s : State) (i : StreamId) (q : QEntry) : Bool :=
  let part := (s.core (skey i)).part.getD 0xFF
  (updUnits s.fuse.gradeB i.die q).all fun u =>
    (s.unit u).run.isEmpty && ((s.die (u / 2)).chan (updChan u part)).open_ && s.crosses (halfOfDie i.die) (halfOfDie (u / 2))

/-- Whether an UPD may start: its GATE is reached and records a verdict for its step and its update units are free, or it does nothing (06
R190, 09 R263, 01 R25). -/
def State.updReady (s : State) (i : StreamId) (q : QEntry) : Bool :=
  q.n == 0 || q.skip
    || (s.objReached i (updGate q.w) && !s.synDenied (skey i) (updGate q.w) && gateRules (s.obj (updGate q.w)).value q.step
        && s.updFree i q)

/-- The oldest UPD of a core that may start. -/
def State.updHead (s : State) (c : CoreId) : Option (Pass × QEntry) :=
  let k := s.core (ckey c)
  oldest ([Pass.fwd, Pass.bwd, Pass.upd].filterMap fun p =>
    match (k.stream p).queue .upd with
    | q :: _ => if s.canStart ⟨c.die, c.core, p⟩ q && s.updReady ⟨c.die, c.core, p⟩ q then some (p, q) else none
    | [] => none)

/-- Start the oldest UPD of a core. -/
def State.startUpd (s : State) (c : CoreId) : State :=
  match s.updHead c with
  | none => s
  | some (p, q) =>
    let i : StreamId := ⟨c.die, c.core, p⟩
    (s.modStream i fun st => st.begin .upd {} false).updStart i q

/-- UPD_START: the oldest UPD of a core whose GATE records a verdict for its step starts (06 R190). -/
def execUpdStart (c : CoreId) (fs : List PhysFault) (s : State) : Host.Outcome State Fault Refusal :=
  .next ((s.upset fs).startUpd c)

/-- DESCRIPTOR_COMPLETE: the oldest fetched descriptor of a channel is served by the exchange engine or the update unit that owns the
channel, and the next one may follow (07 R212; 01 R28). -/
def execDescriptorComplete (die ch : Nat) (fs : List PhysFault) (s : State) : Host.Outcome State Fault Refusal :=
  let s0 := s.upset fs
  let drop := fun (s : State) => s.modDie die fun d => d.modChan ch fun c => { c with cache := c.cache.drop 1 }
  .next (match ((s0.die die).chan ch).cache with
    | [] => s0
    | x :: _ =>
      match x.act with
      | .send _ data swarm => (drop s0).serveX die x data swarm fs
      | _ =>
        let r := s0.serveUpd (2 * die + if ch < 24 then 0 else 1) x fs
        if r.1 then drop r.2 else s0)

end Sys2Proof.Machine
end

