-- ==== Sys2Proof/Machine/Engines.lean ====
section
/-! DEFINITION. Instructions of the sync engine, the start and completion of every engine instruction, chains, and the end of
an operation (05 R141, R156 to R161, R165, 06 R170, R191, R192, 04 R133). -/

namespace Sys2Proof.Machine

/-! ### SYN at issue -/

/-- Issue of a SYN instruction (06 R191, R192). -/
def State.issueSyn (s : State) (i : StreamId) (w : W128) (op : Nat) : State :=
  s.onTurn i (some .syn) 0 fun s =>
    s.issueEng i w 6 op .syn false false false
      { occ := 1, lat := if halfOfObj (synObj w) = halfOfDie i.die then 64 else 96 } id

def execSynWait (i : StreamId) (w : W128) (s : State) : Host.Outcome State Fault Refusal := .next (s.issueSyn i w 0)
def execSynSet (i : StreamId) (w : W128) (s : State) : Host.Outcome State Fault Refusal := .next (s.issueSyn i w 1)
def execSynAdd (i : StreamId) (w : W128) (s : State) : Host.Outcome State Fault Refusal := .next (s.issueSyn i w 2)
def execSynFadd (i : StreamId) (w : W128) (s : State) : Host.Outcome State Fault Refusal := .next (s.issueSyn i w 3)
def execSynOpld (i : StreamId) (w : W128) (s : State) : Host.Outcome State Fault Refusal := .next (s.issueSyn i w 4)
def execSynGwait (i : StreamId) (w : W128) (s : State) : Host.Outcome State Fault Refusal := .next (s.issueSyn i w 5)

/-! ### SYN at start -/

/-- A dropped evaluation or read of a core at a sync port (09 R269). -/
def State.synZombie (s : State) (i : StreamId) (obj : Nat) : State :=
  let c := s.core (skey i)
  match s.synDrop obj (s.unitCore (skey i) 0) c.epoch with
  | some m => s.zombie (halfOfObj obj) obj (s.unitCore (skey i) 0) c.epoch (c.part.getD 0xFF) m
  | none => s

/-- Plain address of the result word of FADD and GWAIT. -/
def synOut (i : StreamId) (q : QEntry) : Nat := ownByte (skey i) (q.areg (fld q.w 23 20)) 0

/-- The effect of a SYN instruction that starts; the flag says whether it may complete (06 R191; log 72, DEDUCED). -/
def State.synStart (s : State) (i : StreamId) (q : QEntry) (fs : List PhysFault) : Bool × State :=
  let obj := synObj q.w
  if q.skip then (true, s)
  else match q.op with
    | 0 => (true, s)
    | 1 => (true, s.completionWrite i q.inop (s.syncReq i q.step q.id obj .set (synValue q)))
    | 2 => (true, s.completionWrite i q.inop (s.syncReq i q.step q.id obj .add (synValue q)))
    | 3 => (false, s.sendSync (s.syncReq i q.step q.id obj (.fadd (synOut i q)) (synValue q)))
    | 4 =>
      let v := if s.synDenied (skey i) obj then 0 else (s.obj obj).value
      (true, (s.synZombie i obj).modStream i fun st => { st with optab := tset 0 st.optab (fld q.w 19 12) v })
    | _ =>
      let v := match (s.stream i).sat with
        | some (id, v) => if id = q.id then v else (s.obj obj).value
        | none => (s.obj obj).value
      let as := (List.range 4).map (synOut i q + ·)
      (true, (s.writeMem (s.whoOf i q) (as.zip (leBytes 4 v.toNat))).parityWrites (s.whoOf i q) as fs)

/-- Whether a SYN at the head of its queue may start: a wait once it is satisfied, a read of an object once it reaches it. -/
def State.synReady (s : State) (i : StreamId) (q : QEntry) : Bool :=
  if isWait q then s.waitMet i q else q.op != 4 || q.skip || s.objReached i (synObj q.w)

/-! ### MMA at start -/

/-- An MMA that starts is among the running instructions, with the repetitions that have run; it is complete in effect once all have. -/
def Stream.mmaBegin (st : Stream) (reps : Nat) (q : QEntry) : Stream :=
  let t := st.begin .mx {} true
  if q.feeds ∧ reps < q.n then
    { t with run := t.run.map fun r => if r.q.id = q.id then { r with reps := reps, ready := false } else r }
  else t

/-- An MMA starts: its bank, then its repetitions unless it is empty or skipped; a chained one runs those whose rows have come (04 R116,
R117, R133, 06 R171, R180). -/
def State.mmaStart (s : State) (i : StreamId) (q : QEntry) (fs : List PhysFault) : State :=
  let s1 := (s.mmaBank i q).modCore (skey i) fun c => c.feed q 0
  let k := if q.n = 0 ∨ q.skip then 0 else (s1.core (skey i)).repsReady q 0
  (s1.mmaBeats i q fs 0 k).modStream i fun st => st.mmaBegin k q

/-- The chained MMA of a stream whose Feed waits goes on with the rows that have come (04 R133). -/
def State.mmaGoOn (s : State) (i : StreamId) (fs : List PhysFault) : State :=
  match (s.stream i).feeding with
  | some r =>
    if !s.engineRuns i then s else
    let s1 := s.modCore (skey i) fun c => c.feed r.q r.reps
    let k := (s1.core (skey i)).repsReady r.q r.reps
    (s1.mmaBeats i r.q fs r.reps k).modStream i fun st =>
      { st with run := st.run.map fun x => if x.feeding && x.q.id == r.q.id then { x with reps := k, ready := decide (r.q.n ≤ k) } else x }
  | none => s

/-! ### INSTRUCTION_START (05 R141) -/

/-- The heads of a queue of a core's streams that may start. -/
def State.heads (s : State) (c : CoreId) (e : Engine) (ok : StreamId → QEntry → Bool) : List (Pass × QEntry) :=
  [Pass.fwd, Pass.bwd, Pass.upd].filterMap fun p =>
    let i : StreamId := ⟨c.die, c.core, p⟩
    match (s.stream i).queue e with
    | q :: _ => if s.canStart i q && ok i q then some (p, q) else none
    | [] => none

/-- Start the oldest head that `ok` admits. -/
def State.startOldest (s : State) (c : CoreId) (e : Engine) (ok : StreamId → QEntry → Bool)
    (go : StreamId → QEntry → State → State) : State :=
  match oldest (s.heads c e ok) with
  | some (p, q) => go ⟨c.die, c.core, p⟩ q s
  | none => s

/-- Whether a matrix head meets no wait of Table 4-6 and finds the engine free for it (04 R133). -/
def State.bankReady (s : State) (i : StreamId) (q : QEntry) : Bool :=
  let c := s.core (skey i)
  c.bankTurn i.pass q != .wait && (c.bankTurn i.pass q == .fault || c.chainReady q)

/-- A denied wait at the head of the sync queue is logged each time it is evaluated (09 R269). -/
def State.deniedWaits (s : State) (c : CoreId) : State :=
  [Pass.fwd, Pass.bwd, Pass.upd].foldl (fun s p =>
    let i : StreamId := ⟨c.die, c.core, p⟩
    match (s.stream i).queue .syn with
    | q :: _ => if isWait q && s.objReached i (synObj q.w) && s.synDenied (skey i) (synObj q.w) && s.engineRuns i then s.synZombie i (synObj q.w) else s
    | [] => s) s

/-- An engine of a core starts the oldest instruction that can start (05 R141). -/
def State.startEngine (s : State) (c : CoreId) (e : Engine) (fs : List PhysFault) : State :=
  match e with
  | .str =>
    let s0 := [Pass.fwd, Pass.bwd, Pass.upd].foldl (fun s p => s.strmGoOn ⟨c.die, c.core, p⟩ fs) s
    s0.startOldest c e (fun i q => (s0.core (skey i)).ctxFree q) fun i q s => s.strmStart i q fs
  | .mx =>
    let s0 := [Pass.fwd, Pass.bwd, Pass.upd].foldl (fun s p => s.mmaGoOn ⟨c.die, c.core, p⟩ fs) s
    s0.startOldest c e s0.bankReady fun i q s =>
      if (s.core (skey i)).bankTurn i.pass q = .fault then s.bankFault i q else s.mmaStart i q fs
  | .vec =>
    s.startOldest c e (fun _ _ => true) fun i q s =>
      let r1 := s.vecStart i q fs
      let fl := r1.1; let s1 := r1.2
      s1.modStream i fun st => st.begin e fl true
  | .pack =>
    match s.packNext c with
    | some (p, q) =>
      let i : StreamId := ⟨c.die, c.core, p⟩
      if (s.core (skey i)).bankTurn p q = .fault then s.bankFault i q
      else if q.skip then (s.packSkipped i q).modStream i fun st => st.begin e {} true
      else s
    | none => s
  | .xch =>
    s.startOldest c e (fun i q => q.n == 0 || s.xchReady i) fun i q s =>
      (s.modStream i fun st => st.begin e {} false).xchStart i q
  | .upd => s.startUpd c
  | .syn =>
    (s.deniedWaits c).startOldest c e s.synReady fun i q s =>
      let r1 := s.synStart i q fs
      let r := r1.1; let s1 := r1.2
      s1.modStream i fun st => { st.begin e {} r with sat := none }

/-- INSTRUCTION_START: physical upsets, then the engine starts its oldest startable instruction (05 R141). -/
def execInstructionStart (c : CoreId) (e : Engine) (fs : List PhysFault) (s : State) : Host.Outcome State Fault Refusal :=
  .next ((s.upset fs).startEngine c e fs)

/-! ### INSTRUCTION_COMPLETE (06 R170) -/

/-- What an instruction does as it completes: its context and bank are free, its flags are reported, and it makes its
completion write. -/
def State.complete (s : State) (i : StreamId) (r : Running) : State :=
  let q := r.q
  let s1 := s.modCore (skey i) fun c =>
    let c1 : Core := { c with ctxs := c.ctxs.filter fun x => !(q.eng == .str && x.2 == q.id) }
    if q.eng = .pack then c1.emptied (banksOf q.w q.wide) else c1
  let scale := ccwPol (vCcw q.w) == 1
  let s2 := if q.eng = .vec then
      (s1.postFlags (s1.coreEv i 3 0 0 q.step q.pc q.attempt 0) r.flags scale).collectFlags i q.inop r.flags scale
    else s1
  if hSig q.w && q.n != 0 && q.eng != .xch then s2.completionWrite i q.inop (s2.signalReq i q.step q.id (hSobj q.w)) else s2

/-- Whether a running instruction's effects have come about: for a chained PACK, once the consumer's buffer has taken its rows (04
R133). -/
def State.done (s : State) (i : StreamId) (e : Engine) (r : Running) : Bool :=
  r.q.eng == e && r.ready && (e != .pack || (s.core (skey i)).writeFree r.q)

/-- INSTRUCTION_COMPLETE: the oldest running instruction of an engine whose effects have come about retires (05 R163); the stream
engine first moves the repetitions of the stream whose floors are reached (07 R208), and the matrix engine runs those of a chained MMA
whose rows have come (04 R133). -/
def execInstructionComplete (i : StreamId) (e : Engine) (s : State) : Host.Outcome State Fault Refusal :=
  let s0 := match e with | .str => s.strmGoOn i [] | .mx => s.mmaGoOn i [] | _ => s
  let st := s0.stream i
  .next (match st.run.find? (s0.done i e) with
    | some r =>
      if s0.engineRuns i then (s0.setStream i { st with run := dropFirst (s0.done i e) st.run }).complete i r
      else s0
    | none => s0)

/-! ### Chains (04 R133, 05 R159) -/

/-- Bytes a row takes in the 8 KiB chain buffer. -/
def rowSize (r : ChainRow) : Nat := r.bytes.length + r.scales.length

/-- The core whose chain feeds a core, as its partition's structure names it (08 R234). -/
def State.producer (s : State) (key : Nat) : Option Nat :=
  ((s.core key).part.bind fun p => (s.part p).chains.find? fun c => c.2 == key).map (·.1)

/-- Whether a "repeat" of the producer is on its way to a core, or has reached a stream of it that has not acted on it: the rows sent
since then belong to the new attempt, and the chain buffer is emptied before them (04 R133, 05 R159; log 132, DEDUCED). -/
def State.repeatOpen (s : State) (key : Nat) : Bool :=
  let k := s.core key
  (match s.producer key with | some p => (s.core p).chainVs.any fun v => v.2.isSome | none => false)
    || [k.fwd, k.bwd, k.upd].any fun st => st.chainV.any Option.isSome

/-- CHAIN_ROW: a row reaches the chain buffer of its consumer, is dropped for a wrong epoch, or waits for space or for the emptying
that a repeat asks for (04 R133, 09 R269). -/
def execChainRow (c : CoreId) (row : ChainRow) (s : State) : Host.Outcome State Fault Refusal :=
  let key := ckey c
  let k := s.core key
  let taken := match s.producer key with
    | some p => s.modCore p fun x => { x with chainOut := dropFirst (fun r => r == row) x.chainOut }
    | none => s
  let part := k.part.getD 0xFF
  .next (if row.epoch ≠ k.epoch then
      taken.zombie (halfOfDie c.die) 0 (s.unitCore ((s.producer key).getD key) 0) row.epoch part false
    else if !s.repeatOpen key && decide ((k.chainBuf.map rowSize).foldl (· + ·) 0 + rowSize row ≤ 8192) then
      (taken.modCore key fun x => { x with chainBuf := x.chainBuf ++ [row] }).wakeCore key
    else s)

/-- CHAIN_VERDICT: how the producer's operation ended reaches the consumer; none is complete (05 R159, 09 R269). -/
def execChainVerdict (i : StreamId) (epoch : W16) (again : Option (BitVec 4 × Bool)) (s : State) :
    Host.Outcome State Fault Refusal :=
  let key := skey i
  let k := s.core key
  let taken := match s.producer key with
    | some p => s.modCore p fun x => { x with chainVs := dropFirst (fun r => r == (epoch, again)) x.chainVs }
    | none => s
  .next (if epoch ≠ k.epoch then
      taken.zombie (halfOfDie i.die) 0 (s.unitCore ((s.producer key).getD key) 0) epoch (k.part.getD 0xFF) false
    else (taken.modStream i fun st => { st with chainV := st.chainV ++ [again] }).wakeCore key)

/-! ### The end of an operation -/

/-- Whether an attempt can be evaluated: OPEND has issued, every instruction of the attempt has retired, every tile of it has its
verdict, and an operation that reads a chain has the producer's chain verdict (05 R156, R159). -/
def State.attemptOver (s : State) (i : StreamId) : Bool :=
  let st := s.stream i
  st.state == .running && st.phase == .ended && st.attemptLeft.isEmpty
    && !((s.core (skey i)).drains.any fun d => d.pass == i.pass && d.inop)
    && (!st.chained || !st.chainV.isEmpty)

/-- Objects of the verdict group for an attempt's parity (Table 5-5). -/
def pairW (g : Nat) (attempt : Byte) : Nat := if attempt.toNat % 2 = 0 then g + 1 else g + 3
def pairR (g : Nat) (attempt : Byte) : Nat := if attempt.toNat % 2 = 0 then g + 2 else g + 4

/-- One add of the evaluation. -/
def State.groupAdd (s : State) (i : StreamId) (obj : Nat) : State :=
  s.sendSync (s.syncReq i (s.stream i).step 0 obj .add 1)

/-- Range by saturation under REPLAY, below CEIL and at it (05 R156). -/
def Stream.rangeIn (st : Stream) : Bool := st.opFlags.saturated && st.opPol == 0 && st.rung != st.opCeil
def Stream.ladderTop (st : Stream) : Bool := st.opFlags.saturated && st.opPol == 0 && st.rung == st.opCeil

/-- OPERATION_EVALUATION: the attempt's outcome enters its verdict group, or a mismatch holds the stream (05 R156 to R158,
R161). -/
def execOperationEvaluation (i : StreamId) (s : State) : Host.Outcome State Fault Refusal :=
  let st := s.stream i
  .next (if !s.attemptOver i then s
    else if st.mismatch then
      let s1 := if st.opN = 0 then s else s.groupAdd i st.opG
      s1.modStream i fun st => { st with state := .held, ckhold := true, wbuf := [], stall := 0 }
    else
      let w := st.opFlags.wide
      let g := st.rangeIn
      let s1 := if st.opN = 0 then s
        else
          let a := if w then s.groupAdd i (pairW st.opG st.attempt) else s
          let b := if g then a.groupAdd i (pairR st.opG st.attempt) else a
          b.groupAdd i st.opG
      (s1.modStream i fun st => { st with phase := .evaluated w g, stall := s.opendCause i }).wakeCore (skey i))

/-- A Ladder event and its LADDER record, with the rung reached; both carry the attempt that led there (02 R70, R71, 05 R158; log 68,
DEDUCED). -/
def State.ladderLog (s : State) (i : StreamId) (rung : BitVec 4) (cause : Nat) : State :=
  let st := s.stream i
  (s.post (s.coreEv i 0 0x0F cause st.step st.pc st.attempt (rung.setWidth 64))).ladderRecord i { st with rung := rung }

/-- Repeat the operation from its snapshot at a rung and wide state (05 R154). -/
def Stream.again (st : Stream) (rung : BitVec 4) (wide : Bool) : Stream :=
  match st.snap with
  | some p =>
    { st with
      a := p.a, s := p.s, c := p.c, loops := p.loops, pc := p.pc, attempt := st.attempt + 1, rung := rung, wide := wide
      phase := .none, opFlags := {}, opScale := 0, mismatch := false, wbuf := [], tileOrd := 0, stall := 0, asked := false }
  | none => st

/-- A repeat: what it sent to a chain is withdrawn and its consumer told; when the producer's verdict asks for it, the chain buffer it
read is emptied (04 R133, 05 R159). The rows of the producer's new attempt reach that buffer afterwards (log 132, DEDUCED). -/
def State.repeatOp (s : State) (i : StreamId) (told : Bool) (rung : BitVec 4) (wide : Bool) : State :=
  let st := s.stream i
  (s.modStream i fun st => st.again rung wide).modCore (skey i) fun c =>
    { c with
      chainBuf := if told then [] else c.chainBuf
      chainFed := if told then [] else c.chainFed
      chainOut := if st.chout then [] else c.chainOut
      chainVs := if st.chout then c.chainVs ++ [(c.epoch, some (rung, wide))] else c.chainVs }

/-- The entry of the operation table (05 R158). -/
def opEntryWord (rung : BitVec 4) (wide : Bool) : W32 :=
  BitVec.ofNat 32 (rung.toNat + (if wide then 16 else 0) + 2 ^ 31)

/-- Completion: the table entry, G + 5 first, then the withheld writes in issue order; the attempt's Range events with the SCALE cause
count; the stream goes on (05 R158, 09 R265; log 66, DEDUCED). What its core has sent before to the control die of G + 5 arrives
before it (01 R24). -/
def State.completeOp (s : State) (i : StreamId) : State :=
  let st := s.stream i
  let e := opEntryWord st.rung st.wide
  let s0 := if st.ladderTop then s.ladderLog i st.rung 1 else s
  let req := s0.syncReq i st.step 0 (st.opG + 5) .set e
  let s1 := if st.opN = 0 then s0 else if s0.objReached i (st.opG + 5) then (s0.unitArrives (halfOfObj req.obj) req.unit).syncApply req else s0.sendSync req
  let s2 := st.wbuf.foldl (fun s r => s.sendSync r) s1
  let s3 := s2.countScale req.part st.opScale
  ((s3.modStream i fun st =>
    let t := { st with optab := tset 0 st.optab st.opid.toNat e, inop := false, phase := .none, wbuf := [], snap := none, opScale := 0
                       chainV := if st.chained then st.chainV.drop 1 else st.chainV }.issued none st.pc 0
    { t with stime := st.stime }).portJump i).modCore (skey i) fun c =>
      if st.chout then { c with chainVs := c.chainVs ++ [(c.epoch, none)] } else c

/-- What a participant has read of its group, with the decision's inputs (05 R158): none while not all have arrived, or while it does
not reach the group (01 R27); the last part says that too many have. -/
def State.readGroup (s : State) (i : StreamId) (st : Stream) : Option (Group × Bool × Bool × Bool) :=
  let g := tget {} st.groups st.opG
  let n : W32 := BitVec.ofNat 32 st.opN
  let tot := (s.obj st.opG).value - g.base
  if !s.objReached i st.opG || decide (tot < (g.finished + 1) * n) then none
  else
    let tw := (s.obj (pairW st.opG st.attempt)).value
    let tr := (s.obj (pairR st.opG st.attempt)).value
    let even := st.attempt.toNat % 2 == 0
    let g1 : Group := if even then { g with lastW0 := tw, lastR0 := tr } else { g with lastW1 := tw, lastR1 := tr }
    some ({ g1 with finished := g.finished + 1 }, tw != (if even then g.lastW0 else g.lastW1),
      tr != (if even then g.lastR0 else g.lastR1), decide ((g.finished + 2) * n ≤ tot))

/-- The decision once its inputs are known: a repeat the chain's verdict asks for, at the stream's own rung and wide state, or in
wide mode at the producer's rung when the outcome shows Wide; wide repeat; ladder repeat; or completion (05 R158, R159, R165). A
"repeat" verdict is used once, a "complete" one stands until the operation completes. -/
def State.decideOp (s : State) (i : StreamId) (w g : Bool) : State :=
  let st := s.stream i
  match (if st.chained then st.chainV.head?.join else none) with
  | some (r, _) =>
    let s1 := s.modStream i fun st => { st with chainV := st.chainV.drop 1 }
    if w then s1.repeatOp i true r true else s1.repeatOp i true st.rung st.wide
  | none =>
    if w then s.repeatOp i false st.rung true
    else if g then
      let r := BitVec.ofNat 4 ((nextRung st.rung.toNat).getD st.rung.toNat)
      ((s.ladderLog i r 0).modStream i fun st => { st with opLadder := st.opLadder + 1 }).repeatOp i false r st.wide
    else s.completeOp i

/-- OPERATION_DECISION: with every participant's arrival, the sequencer decides (05 R158, R159). -/
def execOperationDecision (i : StreamId) (s : State) : Host.Outcome State Fault Refusal :=
  let st := s.stream i
  .next (match st.phase with
    | .evaluated w g =>
      if st.state ≠ .running then s
      else
        let s0 := s.wakeCore (skey i)
        if st.opN = 0 then s0.decideOp i w g
        else match s0.readGroup i st with
          | none => s
          | some (grp, gw, gr, bad) =>
            if bad then s0.streamFault i 7 0xF st.pc none
            else (s0.modStream i fun st => { st with groups := tset {} st.groups st.opG grp }).decideOp i gw gr
    | _ => s)

end Sys2Proof.Machine
end

