-- ==== Sys2Proof/Machine/Staging.lean ====
section
/-! DEFINITION. Host staging accesses: the staging windows, the bytes that fail, and the digests of external tensors (07 R227,
01 R45, 12 R361). -/

namespace Sys2Proof.Machine

/-- UNIT of a PCIe endpoint (Table 12-2). -/
def pcieUnit (half : Nat) : W32 := unitIndex 9 half

/-- Whether the memories of the compute dies answer (14 Table 14-2). -/
def State.fabricOn (s : State) : Bool := s.pwr.state == .idle || s.pwr.state == .run

/-- The partition whose staging window covers a plain address with a direction (07 R227). -/
def State.stageOwner (s : State) (write : Bool) (a : Nat) : Option Nat :=
  (s.parts.find? fun x => x.2.loaded && (winCheck x.2.swins write a).isNone).map (·.1)

/-- The partition whose stream windows cover a device address, else 0xFF (07 R227; log 54, DEDUCED). -/
def State.streamOwner (s : State) (a : Nat) : Nat :=
  match plainAddr s.fuse.gradeB a with
  | none => 0xFF
  | some p => ((s.parts.find? fun x => x.2.loaded && x.2.wins.any fun w => w.2.covers p).map (·.1)).getD 0xFF

/-- What staging through a half's endpoint makes of a byte: its plain address and the partition it belongs to, or the sub-cause of its
failure (log 55, DEDUCED). A byte across a dead midline fails (01 R25; log 43, DEDUCED). -/
def State.stageByte (s : State) (half : Nat) (write : Bool) (a : Nat) : (Nat × Nat) ⊕ Nat :=
  match if s.fabricOn then plainAddr s.fuse.gradeB a else none with
  | none => .inr 0
  | some p => if !s.reaches half [p] then .inr 0 else match s.stageOwner write p with
    | some k => .inl (p, k)
    | none => .inr (if s.parts.any fun x => x.2.loaded && x.2.swins.any fun w => w.2.covers p then 1 else 0)

/-! ### External tensors (08 Table 8-5) -/

def tensTid (r : List Byte) : Nat := recNat r 0 2
def tensExt (r : List Byte) : Bool := recNat r 3 1 % 2 == 1
def tensFmt (r : List Byte) : Nat := recNat r 4 1 % 16
def tensRows (r : List Byte) : Nat := recNat r 8 4
def tensCols (r : List Byte) : Nat := recNat r 0x0C 4
def tensBase (r : List Byte) : Nat := recNat r 0x10 8
def tensPitch (r : List Byte) : Nat := recNat r 0x18 4
def tensSpitch (r : List Byte) : Nat := recNat r 0x1C 4
def tensSbase (r : List Byte) : Nat := recNat r 0x20 8
def tensAxis (r : List Byte) : Nat := recNat r 0x28 1 % 2

/-- The device names of a plain address (07 R196). -/
def namesOf (p : Nat) : List Nat := if p < 24 * 2 ^ 37 then [p, viewOfPlain p] else [p]

/-- The offset of a plain address in `len` bytes from a device address, under either name. -/
def offsetIn (base len p : Nat) : Option Nat :=
  ((namesOf p).find? fun a => decide (base ≤ a) && decide (a < base + len)).map fun a => a - base

/-- The digest of the elements that the written bytes cover whole (12 R361). -/
def elemDigest (gradeB : Bool) (r : List Byte) (ws : List (Nat × Byte)) : W64 :=
  let nb := fmtBytes (tensFmt r)
  let look := fun (a : Nat) => (plainAddr gradeB a).bind fun p => (ws.find? fun w => w.1 == p).map (·.2)
  ws.foldl (fun acc w =>
    match offsetIn (tensBase r) (tensPitch r * tensRows r) w.1 with
    | none => acc
    | some off =>
      let row := off / tensPitch r
      let b := off % tensPitch r
      if b % nb ≠ 0 ∨ tensCols r ≤ b / nb then acc
      else match (List.range nb).mapM fun k => look (tensBase r + off + k) with
        | none => acc
        | some bs =>
          (List.range (if tensFmt r = 9 then 8 else 1)).foldl (fun acc t =>
            acc + ehash (tensTid r) row (b / nb) false (tensFmt r) t (leNat bs / 2 ^ (32 * t) % 2 ^ 32)) acc) 0

/-- The digest of the scale bytes among the written bytes. -/
def scaleDigest (r : List Byte) (ws : List (Nat × Byte)) : W64 :=
  let blk := sbBlock (tensFmt r)
  if blk = 0 then 0
  else
    let rows := if tensAxis r = 0 then tensRows r else tensRows r / blk
    let cols := if tensAxis r = 0 then tensCols r / blk else tensCols r
    ws.foldl (fun acc w =>
      match offsetIn (tensSbase r) (tensSpitch r * rows) w.1 with
      | none => acc
      | some off =>
        let a := off / tensSpitch r
        let b := off % tensSpitch r
        if cols ≤ b then acc
        else if tensAxis r = 0 then acc + ehash (tensTid r) a b true (tensFmt r) 0 w.2.toNat
        else acc + ehash (tensTid r) b a true (tensFmt r) 0 w.2.toNat) 0

/-- Whether a plain address lies in an external tensor or its scale bytes (log 53, DEDUCED). -/
def inTensor (r : List Byte) (p : Nat) : Bool :=
  (offsetIn (tensBase r) (tensPitch r * tensRows r) p).isSome
    || (sbBlock (tensFmt r) != 0 && (offsetIn (tensSbase r) (tensSpitch r * tensRows r) p).isSome)

/-- What staging notes of the bytes it writes for a partition: the digests and the bytes of its external tensors. -/
def State.extNote (s : State) (p : Nat) (ws : List (Nat × Byte)) : State :=
  ((s.part p).tens.filter fun t => tensExt t.2).foldl (fun s t =>
    let mine := ws.filter fun w => inTensor t.2 w.1
    match mine with
    | [] => s
    | (a, _) :: _ =>
      s.modEv fun v =>
        { v with
          extDig := assocMod 0 v.extDig (p, tensTid t.2) fun d => d + elemDigest s.fuse.gradeB t.2 mine + scaleDigest t.2 mine
          extData := v.extData ++ [(p, a, mine.map (·.2))] }) s

/-! ### Accesses -/

/-- The Bounds record of the bytes that fail, for the first of them (07 R225, R227). -/
def State.stageBounds (s : State) (half : Nat) (bad : List (Nat × Nat)) : State :=
  match bad with
  | [] => s
  | (a, _) :: _ => s.boundsUnit (pcieUnit half) (s.streamOwner a) bad

/-- A host write: bytes in window are written for the partition whose window covers them, the others are discarded. -/
def State.stageWrite (s : State) (half addr : Nat) (data : List Byte) (fs : List PhysFault) : State :=
  let bs := data.zipIdx.map fun (b, k) => (addr + k, b, s.stageByte half true (addr + k))
  let good := bs.filterMap fun x => match x.2.2 with | .inl (p, k) => some (k, p, x.2.1) | .inr _ => none
  let bad := bs.filterMap fun x => match x.2.2 with | .inl _ => none | .inr c => some (x.1, c)
  let s1 := (good.map (·.1)).eraseDups.foldl (fun s k =>
    let ws := (good.filter fun g => g.1 == k).map (·.2)
    ((s.writeMem { part := k } ws).parityWrites { part := k } (ws.map (·.1)) fs).extNote k ws) s
  s1.stageBounds half bad

/-- A host read: bytes out of window, and uncorrectable codewords, read as zero. -/
def State.stageRead (s : State) (half addr len : Nat) : List Byte × State :=
  let bs := (List.range len).map fun k => (addr + k, s.stageByte half false (addr + k))
  let good := bs.filterMap fun x => match x.2 with | .inl (p, k) => some (k, x.1, p) | .inr _ => none
  let bad := bs.filterMap fun x => match x.2 with | .inl _ => none | .inr c => some (x.1, c)
  let r1 := (good.map (·.1)).eraseDups.foldl (fun (acc : List (Nat × Byte) × State) k =>
    let mine := (good.filter fun g => g.1 == k).map (·.2)
    let r' := acc.2.readMem { part := k } (mine.map (·.2))
    let v := r'.1; let s' := r'.2
    (acc.1 ++ (mine.map (·.1)).zip v, s')) ([], s)
  let vals := r1.1; let s1 := r1.2
  (bs.map fun x => ((vals.find? fun v => v.1 == x.1).map (·.2)).getD 0, s1.stageBounds half bad)

/-- STAGING_ACCESS: a host access through a half's PCIe endpoint; it completes with successful status whatever it meets (01
R45, 07 R227). -/
def execStagingAccess (half : Nat) (write : Bool) (addr : W64) (len : Nat) (data : HostData) (s : State) :
    Host.Outcome State Fault Refusal :=
  .next (if !(s.ff half).pcieUp then s
    else if write then s.stageWrite half addr.toNat data.bytes data.faults
    else
      let r1 := s.stageRead half addr.toNat len
      let bs := r1.1; let s1 := r1.2
      s1.modLink fun l => { l with host := l.host ++ [(half, bs)] })

/-- During a replay the recorder stages the recorded external data of the open step itself (12 R363). -/
def State.replayStage (s : State) (p : Nat) : State :=
  match s.replayOf (s.part p).job with
  | some r =>
    (r.records.filter fun x => x.type == 8 && x.part.toNat == p && x.step == (s.part p).openStep).foldl (fun s x =>
      s.stageWrite s.leadHalf (recNat x.body 0 8) (x.body.drop 8) []) s
  | none => s

end Sys2Proof.Machine
end

