-- ==== Sys2Proof/Machine/Steps.lean ====
section
/-! DEFINITION. The step of a partition: duplicate tiles, the step report, the manager's verdict and loss scale, the GATE
write and what advances with it, freezes, job stops and drains (09 R263 to R268, R291, 10 R305, R306, 12 R351, R354 to R356). -/

namespace Sys2Proof.Machine

/-! ### Streams of a partition -/

/-- The streams of a partition that stand in its cores. -/
def State.partStreams (s : State) (p : Nat) : List StreamId :=
  if (s.part p).resident then (s.part p).cores.flatMap coreStreams else []

def State.modStreams (s : State) (is : List StreamId) (f : Stream → Stream) : State :=
  is.foldl (fun s i => s.modStream i f) s

/-- The partitions loaded with an image of a job. -/
def State.jobParts (s : State) (job : W64) : List Nat :=
  (s.parts.filter fun x => x.2.loaded && x.2.job == job).map (·.1)

/-- A stream is frozen: one that has halted or is held stays so, for a freeze leaves neither state, and one without an image does not run
(05 Table 5-1; log 27, DEDUCED). -/
def Stream.frozen (st : Stream) : Stream :=
  if st.state = .halted ∨ st.state = .held ∨ st.imgLen = 0 then st else { st with state := .frozen, stall := 0 }

/-- A frozen stream runs again (12 R354). -/
def Stream.unfrozen (st : Stream) : Stream := if st.state = .frozen then { st with state := .running } else st

/-- Change every stream of a core. -/
def Core.eachStream (c : Core) (f : Stream → Stream) : Core := { c with fwd := f c.fwd, bwd := f c.bwd, upd := f c.upd }

/-- Change every stream of a partition, those of its Chrysalis too (08 R254). -/
def State.eachStream (s : State) (p : Nat) (f : Stream → Stream) : State :=
  (s.modStreams (s.partStreams p) f).modPart p fun x =>
    { x with saved := x.saved.map fun ch => { ch with cores := ch.cores.map fun c => (c.1, c.2.eachStream f) } }

/-- Freeze every stream of a partition (12 R357). -/
def State.freezePart (s : State) (p : Nat) : State := s.eachStream p Stream.frozen

/-! ### Layers of a partition's objects (12 R351) -/

/-- L1 folds into L0 and L2 becomes L1. -/
def SyncObj.fold (o : SyncObj) : SyncObj :=
  match o.type with
  | .gate => o
  | .flag => { o with l0 := o.l1.orElse fun _ => o.l0, l1 := o.l2, l2 := none }
  | _ => { o with l0 := if o.l0 = none ∧ o.l1 = none then none else some (o.l0.getD 0 + o.l1.getD 0), l1 := o.l2, l2 := none }

/-- L1 and L2 are discarded, and a ticket counter returns to 0. -/
def SyncObj.discard (o : SyncObj) : SyncObj :=
  match o.type with
  | .gate => o
  | .work => if o.limit = 0 then { o with l1 := none, l2 := none } else { o with l0 := some 0, l1 := none, l2 := none }
  | _ => { o with l1 := none, l2 := none }

/-- The objects allocated to a partition. -/
def State.partObjs (s : State) (p : Nat) : List Nat := (s.objs.filter fun o => o.2.alloc && o.2.part == p).map (·.1)

/-! ### Job stop and drain (12 R354, R356) -/

/-- The value of a GATE (Table 9-2). -/
def gateWord (step : W64) (verdict snext : Nat) : W32 :=
  BitVec.ofNat 32 (step.toNat % 2 ^ 20 * 2 ^ 12 + verdict % 4 * 2 ^ 10 + snext % 256)

/-- Freeze every partition of the module: a drained module runs none (12 R356). -/
def State.freezeAll (s : State) : State := (s.parts.map (·.1)).foldl (fun s p => s.freezePart p) s

/-- The module is drained: DRAIN is set and no partition of it runs (12 R356). -/
def State.setDrain (s : State) : State := ((s.modEv fun v => { v with drain := true }).alert 5).freezeAll

/-- The cause of a job stop: the class of the event that led to it, 0 for none, and bit 7 where this module is drained (12 R354, R356; log
145, DESIGN CHOICE). -/
def stopCause (drained : Bool) (cls : Nat) : Byte := BitVec.ofNat 8 ((if drained then 128 else 0) + cls % 128)

/-- The partitions of a job on this module freeze, and every session hears of the cause; a stop that this module has made already is made
no second time. Bit 7 of the cause drains the module. -/
def State.stopLocal (s : State) (job : W64) (cause : Byte) : State :=
  let ps := s.jobParts job
  let s' := if ps.all fun p => (s.part p).jobStop then s
    else
      let s1 := ps.foldl (fun s p => (s.freezePart p).modPart p fun x => { x with jobStop := true }) s
      let s2 := s1.modEv fun v => { v with dwStops := satAdd v.dwStops 1 }
      s2.sec.sessions.foldl (fun s k =>
        if k.accepted then s.say { sid := k.sid, type := 6, data := leBytes 8 job.toNat ++ [cause] } else s) (s2.alert 3)
  if cause.getLsbD 7 then s'.setDrain else s'

/-! ### The GATE write (09 R268) -/

/-- A replayed step of a partition ends: its records are compared with those of the recorded step, and a retracted retry's are put away; a
step that is not recorded whole is not compared (12 R362, R363). -/
def State.replayGate (s : State) (p : Nat) (verdict : Nat) : State :=
  let x := s.part p
  match s.replayOf x.job with
  | some rp =>
    let whole := (tget {} s.ev.capCfg p).en && !s.ev.incomplete.contains (p, x.openStep)
    let s1 := s.modEv fun v => { v with replay := some { rp with seen := rp.seen.filter fun r => r.part.toNat != p } }
    (match if verdict ≠ 3 ∧ whole then firstDivergence x (rp.divergences p x.openStep) else none with
      | some d => s1.replayEnd x (some d)
      | none => s1)
  | none => s

/-- The records a verdict writes: VERDICT, EXTDIG with EXTDATA, and BAND (12 Table 12-6; log 20, DESIGN CHOICE). What the step has staged into
EXT tensors stays with it through its retries, which stage none of it again (12 R361). -/
def State.verdictRecords (s : State) (p : Nat) (value : W32) : State :=
  let x := s.part p
  let h := s.leadHalf
  let s1 := s.record h 4 p x.openStep [BitVec.ofNat 8 (fld value 11 10), BitVec.ofNat 8 (fld value 7 0), x.retry]
  let s2 := (s1.ev.extDig.filter fun e => e.1.1 == p).foldl (fun s e =>
    s.record h 7 p x.openStep (leBytes 2 e.1.2 ++ leBytes 8 e.2.toNat)) s1
  let s3 := if (tget {} s.ev.capCfg p).data then
      (s2.ev.extData.filter fun e => e.1 == p).foldl (fun s e => s.record h 8 p x.openStep (leBytes 8 e.2.1 ++ e.2.2)) s2
    else s2
  let bands := sortBy (s3.ev.bands.filter fun e => e.1.1 == p) fun a b =>
    decide (a.1.2.1 < b.1.2.1 ∨ (a.1.2.1 = b.1.2.1 ∧ a.1.2.2 ≤ b.1.2.2))
  let s4 := bands.foldl (fun s e =>
    s.record h 9 p x.openStep (leBytes 2 e.1.2.1 ++ [x.retry, BitVec.ofNat 8 (e.1.2.2 / 2 ^ 22)]
      ++ leBytes 4 (e.1.2.2 % 2 ^ 22) ++ leBytes 8 e.2.1.toNat ++ leBytes 4 e.2.2)) s3
  let last := fld value 11 10 != 3
  (s4.replayGate p (fld value 11 10)).modEv fun v =>
    { v with
      bands := v.bands.filter fun e => e.1.1 != p
      extDig := v.extDig.filter fun e => !(last && e.1.1 == p)
      extData := v.extData.filter fun e => !(last && e.1 == p)
      tracker := v.tracker.filter fun r => r.part != p }

/-- The STEPOPEN record (12 Table 12-6). -/
def State.stepOpen (s : State) (p : Nat) : State :=
  let x := s.part p
  s.record s.leadHalf 3 p x.openStep [x.retry, x.ls.sexp]

/-- A verdict's exponent enters the older entry of every update unit (10 R306). -/
def State.scaleEntry (s : State) (p : Nat) (step : W64) (snext : Byte) : State :=
  let e : BitVec 24 × Byte := ((step + 1).setWidth 24, snext)
  (List.range 24).foldl (fun s u =>
    let x := s.unit u
    let a := tget (0, 0) x.tabA p
    let b := tget (0, 0) x.tabB p
    if a.1 = step.setWidth 24 then s.modUnit u fun x => { x with tabB := tset (0, 0) x.tabB p e }
    else if b.1 = step.setWidth 24 then s.modUnit u fun x => { x with tabA := tset (0, 0) x.tabA p e }
    else
      let s1 := s.modUnit u fun x => { x with tabB := tset (0, 0) x.tabB p e }
      s1.post (s1.unitEv (unitPair 4 u) 0x13 3 p 0)) s

/-- A step is over: the exchange engines drop what they hold of it that is complete, and repairs they owe of it (09 R295; log 116,
DEDUCED). -/
def State.closeStep (s : State) (p : Nat) (step : W64) : State :=
  let w := step.setWidth 32
  (s.dies.map (·.1)).foldl (fun s d => s.modDie d fun x =>
    { x with
      chunks := x.chunks.filter fun c => !(c.part == p && c.step == w && c.finished)
      rx := x.rx.filter fun c => !(c.part == p && c.step == w && c.acked)
      collFlags := x.collFlags.filter fun f => !(f.1.1 == p && f.1.2.2 == w)
      owed := x.owed.filter fun e => !(e.1 == p && e.2.step == w) }) s

/-- COMMIT or DISCARD for the open step: the step advances and everything that goes with it (09 R268, R291, 10 R306,
12 R349, R351, R361). -/
def State.advance (s : State) (p : Nat) (value : W32) : State :=
  let x := s.part p
  let s1 := (s.verdictRecords p value).modPart p fun x =>
    { x with
      openStep := x.openStep + 1, retry := 0, line0 := false, line1 := false, stepEvent := false
      retractSent := false, scaleEv := 0, reported := false }
  let s2 := (s1.partObjs p).foldl (fun s o => s.modObj o SyncObj.fold) s1
  let s3 := (s2.scaleEntry p x.openStep (BitVec.ofNat 8 (fld value 7 0))).stepOpen p
  let s4 := match s3.replayOf x.job with
    | some r => if r.s1 == x.openStep then s3.replayEnd x none else s3
    | none => s3
  ((s4.closeStep p x.openStep).replayStage p).openChunks p

/-- A GATE value reaches a partition: the object takes it, FF_LSSTATE the job's state; a verdict for the open step advances
the step or is recorded, and a pending value during Retract handling lets the streams go (09 R267, R268, 12 R353). -/
def State.gatePart (s : State) (p : Nat) (value : W32) (ls : LsState) : State :=
  let s1 := match (s.part p).gate with
    | some o => s.changeObj o fun x => { x with l0 := some value }
    | none => s
  let s2 := s1.modPart p fun x => { x with ls := ls }
  let x := s2.part p
  if fld value 31 12 ≠ x.openStep.toNat % 2 ^ 20 then s2
  else match fld value 11 10 with
    | 0 => s2.modPart p fun x =>
      { x with retracting := x.retracting.map fun r => { r with gateSeen := true }, owedGate := x.owedRetract.isSome }
    | 3 => s2.verdictRecords p value
    | _ => s2.advance p value

/-- A GATE value of a job reaches this module. -/
def State.gateApply (s : State) (job : W64) (value : W32) (ls : LsState) : State :=
  (s.jobParts job).foldl (fun s p => s.gatePart p value ls) s

/-- The manager's message waits for the end of a split (14 R405; log 159, DEDUCED). -/
def State.defer (s : State) (d : Deferred) : State := s.modMgr fun g => { g with deferred := g.deferred ++ [d] }

/-- GATE_WRITE: the manager's GATE value arrives at a module (09 R267, R268); during a split without a ruling it waits (14 R405). -/
def execGateWrite (job : W64) (value : W32) (ls : LsState) (s : State) : Host.Outcome State Fault Refusal :=
  .next (if s.managing then s.gateApply job value ls else s.defer (.gate job value ls))

/-! ### The manager (09 R267, 10 R305) -/

def State.findJob (s : State) (job : W64) : Option Job := s.mgr.jobs.find? fun j => j.job == job
def State.putJob (s : State) (j : Job) : State :=
  s.modMgr fun g => { g with jobs := g.jobs.map fun x => if x.job = j.job then j else x }

/-- The ranks of a job's modules, each once. -/
def Job.ranks (j : Job) : List Nat := (j.members.map (·.1)).eraseDups

/-- A GATE value goes to every module of a job: directly to this one, by message to the others (09 R267). -/
def State.sendGates (s : State) (j : Job) (value : W32) (ls : LsState) : State :=
  let s1 := (j.ranks.filter (· != s.rank)).foldl (fun s r => s.mgmt r (.gate j.job value ls)) s
  if j.ranks.contains s.rank then s1.gateApply j.job value ls else s1

/-- The state machine of Table 10-3 for COMMIT (true) and DISCARD: the new state and the event, by its CAUSE. -/
def scaleNext (r : ScaleRec) (l : LsState) (commit : Bool) : LsState × Option Nat :=
  let e := l.sexp.toInt
  if commit then
    (if l.clean.toNat + 1 < r.window.toNat then ({ l with clean := l.clean + 1 }, none)
     else
       let e' := min (e + r.up.toNat) r.smax.toInt
       ({ l with clean := 0, sexp := BitVec.ofInt 8 e' }, if e' = e then none else some 0))
  else if r.smin.toInt < e then ({ l with clean := 0, sexp := BitVec.ofInt 8 (e - 1), disc := satAdd l.disc 1 }, some 1)
  else ({ l with clean := 0, disc := satAdd l.disc 1, floor := satAdd l.floor 1 }, some 2)

/-- The partition of this module in a job, 0xFF for none. -/
def State.ownPart (s : State) (job : W64) : Nat := ((s.jobParts job).head?).getD 0xFF

/-- The verdict a replay writes in place of the state machine's: the recorded one of the step (12 R363). -/
def State.replayVerdict (s : State) (j : Job) : Option (Nat × Byte) :=
  (s.replayOf j.job).bind fun r =>
    ((r.records.filter fun x => x.type == 4 && x.step == j.step && recNat x.body 0 1 != 3).getLast?).map fun x =>
      (recNat x.body 0 1, BitVec.ofNat 8 (recNat x.body 1 1))

/-- What an elect module receives of a job. -/
def Job.toState (j : Job) : JobState :=
  { job := j.job, ls := j.ls, step := j.step, retry := j.retry, verdict := j.verdict, members := j.members, rec_ := j.rec_ }

/-- With each verdict the manager sends every elect module its state, the hive key and the members' wrap keys, wrapped for the receiver
(11 R339, 13 R381; log 29, DESIGN CHOICE). -/
def State.sendState (s : State) : State :=
  match s.sec.hiveKey with
  | some (_, k) =>
    s.mgr.members.foldl (fun s m =>
      if m.1 = s.rank ∨ !(s.mgr.reports.any fun r => r.serial == m.2.1 && r.elect) then s
      else s.mgmt m.1 (.state (s.mgr.jobs.map Job.toState) (Config.keyWrap m.2.2 k)
        (s.mgr.members.map fun x => (x.1, x.2.1, Config.keyWrap m.2.2 x.2.2)))) s
  | none => s

/-- COMMIT or DISCARD: the loss-scale state moves, and every GATE is written (09 R267, 10 R305). -/
def State.ruleStep (s : State) (j : Job) (commit : Bool) : State :=
  let (ls, ev) := scaleNext j.rec_ j.ls commit
  let (verdict, ls, ev) := match s.replayVerdict j with
    | some (v, e) => (v, { ls with sexp := e }, none)
    | none => (if commit then 1 else 2, ls, ev)
  let s1 := s.putJob { j with step := j.step + 1, retry := 0, reports := [], verdict := BitVec.ofNat 2 verdict, ls := ls }
  let s2 := match ev with
    | some c => s1.post (s1.unitEv s1.ffUnit 0x13 c (s1.ownPart j.job) 0)
    | none => s1
  (s2.sendGates j (gateWord j.step verdict ls.sexp.toNat) ls).sendState

/-- The manager orders a module to stop a job, and with bit 7 of the cause drains it. -/
def State.orderStop (s : State) (job : W64) (r : Nat) (cause : Byte) : State :=
  if r = s.rank then s.stopLocal job cause else s.mgmt r (.bringJobStop job cause)

/-- The manager stops a job: RETRACT in every GATE, every partition of the job frozen on every module; the modules of `drained` are
drained (12 R354 to R356). `cls` is the class of the event that led to it. -/
def State.managerStop (s : State) (j : Job) (drained : List Nat) (cls : Nat) : State :=
  let s1 := ((s.putJob { j with stopped := true, reports := [], drained := j.drained ++ drained }).sendGates j
    (gateWord j.step 3 j.ls.sexp.toNat) j.ls).sendState
  j.ranks.foldl (fun s r => s.orderStop j.job r (stopCause (drained.contains r) cls)) s1

/-- RETRACT: at once in every GATE, then the Retract message with the retry number raised by one and the pending GATE value,
in order; where the retry would be the fourth, the module that raised it is drained, or, when none did, the job stops (09 R267,
R268, 12 R353, R355). -/
def State.ruleRetract (s : State) (j : Job) (m : StepMsg) (raised : Bool) : State :=
  if 3 ≤ j.retry.toNat then s.managerStop j (if raised then [m.rank] else []) 0
  else
    let r := j.retry + 1
    let s1 := (s.putJob { j with retry := r, reports := [], verdict := 3 }).sendGates j (gateWord j.step 3 j.ls.sexp.toNat) j.ls
    j.members.foldl (fun s x =>
      let msg : StepMsg := { job := j.job, step := j.step, rank := m.rank, part := x.2, retry := r, status := 3
                             scaleEv := m.scaleEv, lastEv := m.lastEv }
      (s.mgmt x.1 (.step msg)).mgmt x.1 (.gate j.job (gateWord j.step 0 j.ls.sexp.toNat) j.ls)) s1.sendState

/-- The manager hears a report or a Retract of a job: once a fourth retry was due, every further module that raised one in the last
retry is drained (12 R355); otherwise it is discarded for a step or retry already ruled or a stopped job. The first
message of a job names the step its collection starts at (log 57, DEDUCED). -/
def State.managerHear (s : State) (m : StepMsg) : State :=
  match s.findJob m.job with
  | none => s
  | some j0 =>
    let j := if j0.started then j0 else { j0 with started := true, step := m.step, retry := m.retry }
    if s.mgr.acting ∧ !j.drained.isEmpty ∧ 3 ≤ j.retry.toNat ∧ j.step = m.step ∧ j.retry = m.retry ∧ 2 ≤ m.status.toNat ∧ !j.drained.contains m.rank then
      (s.putJob { j with drained := j.drained ++ [m.rank] }).orderStop j.job m.rank (stopCause true 0)
    else if !s.mgr.acting || j.stopped || j.step != m.step || j.retry != m.retry then s
    else if 2 ≤ m.status.toNat then s.ruleRetract j m true
    else
      let j1 := if j.reports.any fun r => r.rank == m.rank && r.part == m.part then j else { j with reports := j.reports ++ [m] }
      if j1.members.all fun x => j1.reports.any fun r => r.rank == x.1 && r.part == x.2 then
        s.ruleStep j1 (j1.reports.all fun r => r.status != 1)
      else s.putJob j1

/-- STEP_REPORT_ARRIVAL: a module's step report reaches the manager (09 R267); during a split of the manager's own module without a ruling it
waits (14 R405). -/
def execStepReportArrival (m : StepMsg) (s : State) : Host.Outcome State Fault Refusal :=
  .next (if s.managing then s.managerHear m else s.defer (.report m))

/-- RETRACT_ARRIVAL: a module's Retract reaches the manager (09 R266, R267). -/
def execRetractArrival (m : StepMsg) (s : State) : Host.Outcome State Fault Refusal :=
  .next (s.managerHear { m with status := 3 })

/-! ### Requests of this module to the manager -/

/-- The job of a partition stops (12 R354): by this module when it is the manager, else by message; its own partitions
freeze at once (log 26, DEDUCED). -/
def State.stopJob (s : State) (p : Nat) (drained : Bool) (cls : Nat) : State :=
  let job := (s.part p).job
  let rank := if drained then [s.rank] else []
  match s.mgr.acting, s.findJob job with
  | true, some j => if j.stopped && !drained then s else s.managerStop j rank cls
  | _, _ => (s.mgmt s.mgrRank (.bringJobStop job (stopCause drained cls))).stopLocal job (stopCause drained cls)

/-- The manager drains the module: every partition of the job freezes, the job stops, and the module runs no partition until a
reset (12 R356). A module that holds no job only sets DRAIN. `cls` is the class of the event that led to it. -/
def State.drainModule (s : State) (p cls : Nat) : State :=
  if s.ev.drain then s
  else
    let s1 := if p < 16 ∧ (s.part p).loaded then s.stopJob p true cls
      else (s.parts.filter fun x => x.2.loaded).foldl (fun s x => if (s.part x.1).jobStop then s else s.stopJob x.1 true cls) s
    s1.setDrain

/-! ### Duplicate tiles (09 R291) -/

/-- Whether two digest records are of one tile. -/
def sameTile (a b : DigestRec) : Bool :=
  a.part == b.part && a.tid == b.tid && a.ticket == b.ticket && a.step == b.step && a.retry == b.retry && a.attempt == b.attempt

/-- DUPLICATE_TILE: the lead domain compares a digest record that carries a ticket. -/
def execDuplicateTile (r : DigestRec) (s : State) : Host.Outcome State Fault Refusal :=
  let h := s.leadHalf
  let s0 := s.modEv fun v => { v with digRecs := dropFirst (fun x => x == r) v.digRecs }
  .next (if r.ticket = 0 ∨ r.failed = true then s0
    else match s0.ev.tracker.find? fun x => sameTile x r with
      | some x =>
        if x.digest = r.digest then
          (s0.modSyn h fun k => { k with dupBen := satAdd k.dupBen 1 }).modEv fun v => { v with dupLog := v.dupLog ++ [r] }
        else
          let s1 := s0.modSyn h fun k => { k with sde := true, dupSde := satAdd k.dupSde 1 }
          s1.post { s1.unitEv r.unit 0x08 0 r.part (BitVec.ofNat 64 (r.ticket.toNat * 2 ^ 32 + r.tid.toNat * 2 ^ 16)) with
            step := r.step, attempt := r.attempt }
      | none =>
        if 65536 ≤ s0.ev.tracker.length then s0.modSyn h fun k => { k with dupUn := satAdd k.dupUn 1 }
        else s0.modEv fun v => { v with tracker := v.tracker ++ [r] })

/-! ### The step report (09 R264, R265) -/

/-- Whether a gate waiter has the GWAIT or UPD of a step at the head of its queue. -/
def Stream.atGate (st : Stream) (gate : Nat) (step : W64) : Bool :=
  (match st.queue .syn with | q :: _ => q.op == 5 && synObj q.w == gate && q.step == step | [] => false)
    || (match st.queue .upd with | q :: _ => updGate q.w == gate && q.step == step | [] => false)

/-- Whether a partition has reached the gate for its open step. -/
def State.atGate (s : State) (p : Nat) : Bool :=
  let x := s.part p
  match x.gate with
  | some g => x.resident && x.waiters.all fun i => (s.stream i).atGate g x.openStep
  | none => false

/-- Whether the mailboxes hold no record of a partition that has not been delivered. -/
def State.delivered (s : State) (p : Nat) : Bool :=
  let mine := fun (e : EvRec) => e.part.toNat == p
  s.ev.slots.all (fun x => !(x.2.ret.any mine) && !(x.2.ord.any mine)) && !(s.ev.q0.any mine) && !(s.ev.q1.any mine)

/-- Whether a Lost record waits to be handled (12 R347). -/
def State.lostWaits (s : State) : Bool :=
  let lost := fun (e : EvRec) => e.cls == 0x14
  s.ev.slots.any (fun x => x.2.ret.any lost || x.2.ord.any lost) || s.ev.q0.any lost || s.ev.q1.any lost

/-- STATUS of a step report. -/
def State.reportStatus (s : State) (p : Nat) : Nat :=
  let x := s.part p
  if x.stepEvent || x.line0 || x.line1 || s.lostWaits then 2 else if x.scaleEv ≠ 0 then 1 else 0

/-- STEP_REPORT: a partition has reached its gate and every record is delivered: the report goes to the manager. -/
def execStepReport (p : Nat) (s : State) : Host.Outcome State Fault Refusal :=
  let x := s.part p
  .next (if x.loaded && s.managing && !x.reported && x.retracting.isNone && s.atGate p && s.delivered p then
      (s.mgmt s.mgrRank (.step (s.stepMsg p (s.reportStatus p)))).modPart p fun x => { x with reported := true }
    else s)

end Sys2Proof.Machine
end

