-- ==== Sys2Proof/Machine/Retract.lean ====
section
/-! DEFINITION. Retract handling: stop, abandon, rewind, escalation with fencing and spare substitution, and release; and the
Deathwatch (09 R270, R293, 12 R350 to R358, R365). -/

namespace Sys2Proof.Machine

/-! ### Positions of a die (01 R31 to R33, 12 R358) -/

/-- Whether a logical index carries a position. -/
def State.posUsed (s : State) (die pos : Nat) : Bool :=
  (List.range 64).any fun l => s.corePos (coreKey die l) == some pos

/-- Whether a position is fenced in the mask of its half. -/
def State.posFenced (s : State) (die pos : Nat) : Bool :=
  (s.syn (halfOfDie die)).fence.any fun u => fld u 31 28 == 0 && fld u 23 20 == die && fld u 19 13 == pos

/-- The spares of a die that are not marked failed, lowest position first. -/
def State.spares (s : State) (die : Nat) : List Nat :=
  (List.range 72).filter fun p =>
    tget PosKind.exposed s.fuse.kinds (die * 72 + p) != .fusedOff && !s.posUsed die p && !s.posFenced die p
      && !s.ev.failed.contains (die * 72 + p)

/-! ### Fencing (09 R270) -/

/-- Whether a unit is fenced. -/
def State.fenced (s : State) (u : W32) : Bool := (s.syn (unitHalf u)).fence.contains u

/-- Every operation of a partition on its way arrives (09 R270, 12 Table 12-5; log 59, DEDUCED). -/
def State.flushSync (s : State) (p : Nat) : State :=
  let mine := (s.syn0.net ++ s.syn1.net).filter fun r => r.part == p
  let s1 := (s.modSyn 0 fun h => { h with net := h.net.filter fun r => r.part != p }).modSyn 1 fun h =>
    { h with net := h.net.filter fun r => r.part != p }
  mine.foldl (fun s r => s.syncApply r) s1

/-- The exchange engines and update units, but for a fenced one, take an epoch for a partition (09 R269, R270). -/
def State.hubEpochs (s : State) (p : Nat) (u : W32) (e : W16) : State :=
  let s1 := (List.range 12).foldl (fun s d =>
    if xchUnit d = u then s else s.modDie d fun x => { x with epochs := tset 0 x.epochs p e }) s
  (List.range 24).foldl (fun s k =>
    if unitPair 4 k = u then s else s.modUnit k fun x => { x with epochs := tset 0 x.epochs p e }) s1

/-- A unit enters the fence mask of its control die, and a core's position has its failed bit set, for a passing scan clears both (09 R270,
12 R360; log 46, DEDUCED). -/
def State.mask (s : State) (u : W32) : State :=
  let s1 := s.modSyn (unitHalf u) fun h => { h with fence := h.fence ++ [u] }
  let pos := fld u 23 20 * 72 + fld u 19 13
  if fld u 31 28 = 0 ∧ ¬s1.ev.failed.contains pos then s1.modEv fun v => { v with failed := v.failed ++ [pos] } else s1

/-- The load port fences a unit of a stopped partition: the epoch plus one everywhere but in the unit, which the mask names.
A partition at epoch 0xFFFF cannot be fenced again. A core that another partition holds keeps that one's epoch. -/
def State.fence (s : State) (p : Nat) (u : W32) : State :=
  let x := s.part p
  if x.epoch = 0xFFFF ∨ s.fenced u then s
  else
    let e := x.epoch + 1
    let s1 := (s.flushSync p).modPart p fun x => { x with epoch := e }
    let s2 := (s1.partObjs p).foldl (fun s o => s.modObj o fun x => { x with fence := e }) s1
    let s3 := x.cores.foldl (fun s k => if s.unitCore k 0 = u ∨ (s.core k).part ≠ some p then s else s.modCore k fun c => { c with epoch := e }) s2
    (s3.hubEpochs p u e).mask u

/-! ### Abort (12 R355) -/

/-- An Abort event: reported to the manager, which drains the module. -/
def State.abort (s : State) (p cause : Nat) (detail : W64) : State :=
  (s.post (s.unitEv s.ffUnit 0x19 cause p detail)).drainModule p 0x19

/-- Whether a class is R, Freeze or Job-stop: retracting, and not Degraded. -/
def stepClass (e : EvRec) : Bool := clsRetracting e.cls.toNat e.cause.toNat && e.cls != 0x14

/-- The records of a partition that the mailboxes hold, those of the queues first. -/
def State.heldRecs (s : State) (p : Nat) : List EvRec :=
  (s.ev.q0 ++ s.ev.q1 ++ s.ev.slots.flatMap fun x => x.2.ret.toList).filter fun e => e.part.toNat == p && stepClass e

/-- An event of class R, Freeze or Job-stop since a Retract message arrived has its Abort event once (12 R355). `by_` is the record that shows
it; an event without one of its own, folded or lost, is shown by the record that held its slot. -/
def State.abortDue (s : State) (p : Nat) (by_ : Option EvRec) : State :=
  match (s.part p).retracting with
  | some r =>
    if r.interrupted && !r.aborted then
      let d := match by_.orElse fun _ => (s.heldRecs p).head? with
        | some e => e.cls.toNat * 2 ^ 56 + e.seq.toNat % 2 ^ 56
        | none => 0
      (s.modPart p fun x => { x with retracting := some { r with aborted := true } }).abort p 0 (BitVec.ofNat 64 d)
    else s
  | none => s

/-! ### Spare substitution (12 R358) -/

/-- The copy of a core's store reads its codewords: whether one is uncorrectable, and the state with what the others decode to
(12 R358, 07 R217). -/
def State.copyStore (s : State) (key : Nat) : Bool × State :=
  (s.errs.filter fun e => decide (coreStore key ≤ e.1) && decide (e.1 < coreStore key + 2 ^ 21)).foldl
    (fun (acc : Bool × State) e => match cwState e.1 e.2 with
      | .clean | .corrected => acc
      | .poisoned => (true, acc.2)
      | .beyond => match acc.2.cwFree e.1 with
        | none => (true, acc.2.skipFree 2)
        | some bs => (acc.1, (acc.2.skipFree 2).wrCw e.1 bs)) (false, s)

/-- A core as a spare takes it over: the store and the stream marks come with it, the load port writes the structure's
registers, and no other state is copied. -/
def Core.onSpare (c : Core) (pos : Nat) (epoch : W16) : Core :=
  { pow := c.pow, pos := some pos, part := c.part, epoch := epoch, fwd := c.fwd, bwd := c.bwd, upd := c.upd, age := c.age
    ckRate := c.ckRate, ckPhase := c.ckPhase, wins := c.wins }

/-- The spare takes the logical index; its store is what the copy decoded. -/
def State.takeSpare (s : State) (p key pos : Nat) : State :=
  let old := (s.corePos key).getD 0xFF
  let inStore := fun (a : Nat) => decide (coreStore key ≤ a) && decide (a < coreStore key + 2 ^ 21)
  let s1 := (s.keepMem (fun _ => true) fun a => !inStore a).modCore key fun c => c.onSpare pos (s.part p).epoch
  s1.post (s1.unitEv s1.ffUnit 0x15 0 p (BitVec.ofNat 64 (old % 256 * 256 + pos)))

/-- A core moves to a spare outside Retract handling, as a whole: the partition it belongs to is saved out, or there is none; what the
resident member of the group holds there moves with it (08 R258; log 149, DEDUCED). -/
def State.moveCore (s : State) (p key pos : Nat) : State :=
  let old := (s.corePos key).getD 0xFF
  let inStore := fun (a : Nat) => decide (coreStore key ≤ a) && decide (a < coreStore key + 2 ^ 21)
  let c := s.copyStore key
  let s1 := (if c.1 then s else c.2.keepMem (fun _ => true) fun a => !inStore a).modCore key fun k => { k with pos := some pos }
  s1.post (s1.unitEv s1.ffUnit 0x15 0 p (BitVec.ofNat 64 (old % 256 * 256 + pos)))

/-- The spare map changes at once for a core that escalates outside Retract handling; the flag says that it has to wait for a scan (08 R258,
12 R365). -/
def State.substituteNow (s : State) (p : Nat) (u : W32) : Bool × State :=
  let die := fld u 23 20
  let key := coreKey die (fld u 12 7)
  let sp := s.spares die
  if s.corePos key ≠ some (fld u 19 13) then (false, s)
  else match sp.find? fun q => !s.ev.scanning.contains (die * 72 + q) with
    | some q => (false, s.moveCore p key q)
    | none =>
      if sp.isEmpty then (false, s.post (s.unitEv s.ffUnit 0x15 1 p (BitVec.ofNat 64 (fld u 19 13 * 256 + 0xFF)))) else (true, s)

/-- The escalation of a unit inside Retract handling; the flag says that it has to wait for a scan (12 Table 12-4, R358,
R365). A fence that the load port refuses, and an uncorrectable codeword or a mark with bad parity in the copy, are Aborts (R355; log 98,
DEDUCED). -/
def State.escalate (s : State) (p : Nat) (u : W32) : Bool × State :=
  let s1 := s.fence p u
  if (s.part p).epoch = 0xFFFF ∧ !s.fenced u then (false, s.abort p 1 0)
  else if fld u 31 28 ≠ 0 then (false, s1)
  else
    let die := fld u 23 20
    let key := coreKey die (fld u 12 7)
    let sp := s1.spares die
    if s1.corePos key ≠ some (fld u 19 13) then (false, s1)
    else match sp.find? fun q => !s1.ev.scanning.contains (die * 72 + q) with
      | some q =>
        let c := s1.copyStore key
        let marks := match (s.part p).retracting with | some r => r.parity.any fun i => skey i == key | none => false
        (false, if marks then s1.abort p 2 0 else if c.1 then c.2.abort p 1 0 else c.2.takeSpare p key q)
      | none =>
        if sp.isEmpty then
          (false, s1.post (s1.unitEv s1.ffUnit 0x15 1 p (BitVec.ofNat 64 (fld u 19 13 * 256 + 0xFF))))
        else (true, s1)

/-- Run the escalations that can run; those that wait for a scan stay. -/
def State.runEscalations (s : State) (p : Nat) : State :=
  match (s.part p).retracting with
  | some r =>
    let r1 := r.escalation.foldl (fun (acc : List W32 × State) u =>
      let r' := acc.2.escalate p u
      let w := r'.1; let s' := r'.2
      (if w then acc.1 ++ [u] else acc.1, s')) ([], s)
    let left := r1.1; let s1 := r1.2
    s1.modPart p fun x => { x with retracting := x.retracting.map fun r => { r with escalation := left } }
  | none => s

/-! ### Rewind (12 R350, R353) -/

/-- A stream goes back to its mark for a step; its operation table is cleared, as at CTL.STEP. A stream that has halted stays
halted (05 R138; log 27, DEDUCED). -/
def Stream.rewind (st : Stream) (step : W64) : Stream :=
  let st0 : Stream := match st.marks.find? fun m => m.step == step with
    | some m => { st with a := m.a, s := m.s, c := m.c, loops := m.loops, pc := m.pc, step := m.step, groups := m.groups }
    | none => st
  { st0 with
    state := if st.state = .halted then .halted else .stopped
    buf := [], idleLeft := 0, portLeft := 0, portLate := 0, asked := false, stall := 0, inop := false, opid := 0, attempt := 0, rung := 0, wide := false
    chained := false, chout := false, ckhold := false, phase := .none, opFlags := {}, opScale := 0, mismatch := false
    chainV := [], snap := none, wbuf := [], optab := [], queues := Vector.replicate 7 [], run := [], tileOrd := 0
    sat := none, marks := st.marks.filter fun m => decide (m.step ≤ step) }

/-- A core whose streams `ps` are rewound: their banks EMPTY, chain buffers emptied, contexts free. -/
def Core.rewound (c : Core) (ps : List Pass) (ctxs : List Nat) : Core :=
  let bank := fun (b : Bank) => match b.owner with | some p => if ps.contains p then {} else b | none => b
  { c with
    b0 := bank c.b0, b1 := bank c.b1, drains := c.drains.filter fun d => !ps.contains d.pass
    chainBuf := [], chainFed := [], chainOut := [], chainVs := [], merge := none
    ctxs := c.ctxs.filter fun x => !ctxs.contains x.1 }

/-- Whether an instruction issued before a rewinding stream's mark has not completed (log 60, DEDUCED). -/
def State.olderLeft (s : State) (p : Nat) (step : W64) : Bool :=
  (s.partStreams p).any fun i =>
    let st := s.stream i
    decide (step ≤ st.step) && st.unretired.any fun q => decide (q.step < step)

/-- Rewind every stream of a partition whose SEQ_STEP has reached the step, and discard the sync layers. -/
def State.rewindPart (s : State) (p : Nat) (step : W64) : State :=
  let s1 := s.flushSync p
  let s2 := (s1.part p).cores.foldl (fun s k =>
    let c := s.core k
    let ps := [Pass.fwd, Pass.bwd, Pass.upd].filter fun q => decide (step ≤ (c.stream q).step)
    if ps.isEmpty then s
    else
      let c1 := ps.foldl (fun (c : Core) q => c.setStream q ((c.stream q).rewind step)) c
      s.setCore k (c1.rewound ps (ps.flatMap fun q => (c.stream q).ctx))) s1
  (s2.partObjs p).foldl (fun s o => s.changeObj o SyncObj.discard) s2

/-- The rewind, once nothing older is left, and after it the escalations. -/
def State.tryRewind (s : State) (p : Nat) : State :=
  match (s.part p).retracting with
  | some r =>
    if r.rewound then s.runEscalations p
    else if s.olderLeft p r.step then s
    else
      ((s.rewindPart p r.step).modPart p fun x => { x with retracting := x.retracting.map fun r => { r with rewound := true } }).runEscalations p
  | none => s

/-- Whether a descriptor is the exchange engine's. -/
def PDesc.isSend (x : PDesc) : Bool := match x.act with | .send .. => true | _ => false

/-- Descriptors are discarded; those that lie in the ring keep their slots, and move nothing (09 R293; log 22, DESIGN CHOICE). -/
def Chan.drop (c : Chan) (old : PDesc → Bool) : Chan :=
  { c with ring := c.ring.map fun e => if old e then { e with act := .void } else e
           wait := c.wait.filter fun e => !old e, cache := c.cache.filter fun e => !old e }

/-- The exchange engines abandon a step at its old retry (09 R293). -/
def State.abandon (s : State) (p : Nat) (step : W64) : State :=
  let w := step.setWidth 32
  let old := fun (d : PDesc) => d.part == p && d.isSend && (d.hdr.step == w || d.hdr.step == w + 1)
  (s.dies.map (·.1)).foldl (fun s d => s.modDie d fun x =>
    { x with
      chunks := x.chunks.filter fun c => !(c.part == p && c.step == w)
      swarms := x.swarms.filter fun c => !(c.part == p && decide (step ≤ c.step))
      gathers := x.gathers.filter fun c => !(c.part == p && decide (step ≤ c.step))
      rx := x.rx.filter fun c => !(c.part == p && c.step == w)
      collFlags := x.collFlags.filter fun f => !(f.1.1 == p && f.1.2.2 == w)
      owed := x.owed.filter fun e => !(e.1 == p && e.2.step == w)
      chans := x.chans.map fun c => (c.1, c.2.drop old) }) s

/-- Retract handling of a resident partition: the new retry, every stream stopped, the exchange engines' abandonment, and the
rewind as soon as earlier instructions have completed; a mark with bad parity escalates its core and aborts (12 R350, R353, R355, Table
12-5). -/
def State.handleRetract (s : State) (p : Nat) (m : StepMsg) (parity : List StreamId) : State :=
  let x := s.part p
  let s1 := s.modPart p fun x =>
    { x with
      retry := m.retry, line0 := false, line1 := false, stepEvent := false, retractSent := false, scaleEv := 0
      reported := false, escal := []
      retracting := some { step := m.step, retry := m.retry, gateSeen := x.owedGate, rewound := false, escalation := x.escal, parity := parity }
      owedGate := false, owedRetract := none }
  let s2 := (s1.modEv fun v => { v with incomplete := v.incomplete.filter fun e => e != (p, m.step) }).stepOpen p
  let s3 := s2.modStreams (s2.partStreams p) fun st =>
    if st.state = .halted then st else { st with state := .stopped, stall := 0, ckhold := false }
  let s4 := (x.cores.foldl (fun s k => s.wakeCore k) (s3.abandon p m.step)).alert 2
  let bad := (s4.partStreams p).filter fun i => parity.contains i && decide (m.step ≤ (s4.stream i).step)
  if bad.isEmpty then s4.tryRewind p
  else
    let us := (bad.map fun i => s4.unitCore (skey i) 0).eraseDups
    ((s4.modPart p fun x =>
      { x with retracting := x.retracting.map fun r => { r with escalation := (r.escalation ++ us).eraseDups } }).tryRewind p).abort p 2 0

/-- The manager's Retract message for a job's step: discarded for another step or the retry in force, and where an
event interrupted the handling of the one before, which is an Abort (R355); for a saved-out partition the retry number changes now, and the rest waits for the next turn (12 R353, R365, 08 R258, 09 R268). -/
def State.hearRetract (s : State) (m : StepMsg) (parity : List StreamId) : State :=
  (s.jobParts m.job).foldl (fun s p =>
    let x := s.part p
    if x.openStep ≠ m.step ∨ x.retry = m.retry ∨ x.jobStop then s
    else if x.resident then
      let s1 := s.abortDue p none
      if (s1.part p).jobStop then s1 else s1.handleRetract p m parity
    else s.modPart p fun x =>
      { x with owedRetract := some m, owedGate := false, retry := m.retry, line0 := false, line1 := false, stepEvent := false
               retractSent := false, scaleEv := 0, reported := false }) s

/-- RETRACT_HANDLING: the Retract message arrives; during a split without a ruling it waits (14 R405). -/
def execRetractHandling (m : StepMsg) (parity : List StreamId) (s : State) : Host.Outcome State Fault Refusal :=
  .next (if s.managing then s.hearRetract m parity else s.defer (.retract m parity))

/-- A stream with an image that the load port has stopped runs again (05 Table 5-1). -/
def Stream.released (st : Stream) : Stream :=
  if st.state = .stopped ∧ st.imgLen ≠ 0 then { st with state := .running } else st

/-- RETRACT_RELEASE: after the rewind, the escalations and the pending GATE value, the streams run from their marks (12
R353), unless an event that retracts the step has occurred since the Retract arrived (R355); the handling of the units' records ends (12 R348). -/
def execRetractRelease (p : Nat) (s : State) : Host.Outcome State Fault Refusal :=
  let s1 := s.tryRewind p
  .next (match (s1.part p).retracting with
    | some r =>
      if r.rewound && r.escalation.isEmpty && r.gateSeen && !r.interrupted && !s1.ev.drain && !(s1.part p).jobStop then
        ((s1.part p).cores.foldl (fun s k => s.wakeCore k) (s1.modStreams (s1.partStreams p) Stream.released)).modPart p fun x =>
          { x with retracting := none, handling := [] }
      else s1
    | none => s1)

/-! ### Deathwatch (12 R357) -/

/-- The head at which a running stream is stalled with cause SYNC or OPEND: its address, the object and the CAUSE. -/
def Stream.stalledAt (st : Stream) : Option (W64 × Nat × Nat) :=
  if st.state ≠ .running then none
  else if st.stall = 5 then
    match st.queue .syn with
    | q :: _ => some (q.pc, synObj q.w, if q.op = 5 then 0xFE else fld q.w 62 60)
    | [] => none
  else if st.stall = 6 then some (st.pc, st.opG, 0xFF)
  else none

/-- DEATHWATCH: no instruction of the partition's running streams has retired for the interval: its streams are frozen, each
stalled one is recorded, and the same heads in the next retry stop the job (12 R354, R357). During a split without a ruling it does nothing
(14 R405). -/
def execDeathwatch (p : Nat) (s : State) : Host.Outcome State Fault Refusal :=
  let x := s.part p
  let heads := (s.partStreams p).filterMap fun i => ((s.stream i).stalledAt).map fun h => (i, h)
  .next (if heads.isEmpty || !s.managing then s
    else
      let s1 := (s.freezePart p).modEv fun v => { v with dwFires := satAdd v.dwFires 1, dwPart := BitVec.ofNat 4 p }
      let s2 := heads.foldl (fun s h =>
        let st := s.stream h.1
        s.post (s.coreEv h.1 0 0x0A h.2.2.2 st.step h.2.1 (if st.inop then st.attempt else 0)
          (BitVec.ofNat 64 ((s.obj h.2.2.1).value.toNat * 2 ^ 32 + h.2.2.1 % 2 ^ 17)))) s1
      let now := heads.map fun h => (h.1, h.2.1)
      let s3 := s2.modPart p fun x => { x with dwLast := some (x.openStep, x.retry, now) }
      match x.dwLast with
      | some (st, r, hs) => if st = x.openStep ∧ r + 1 = x.retry ∧ hs = now then s3.stopJob p false 0x0A else s3
      | none => s3)

end Sys2Proof.Machine
end

