-- ==== Sys2Proof/Machine/Links.lean ====
section
/-! DEFINITION. Kamux ports and frames: port states, logical ports, beacons, hop retry and credits, refusal of frames, and
delivery, forwarding and authentication (11 R316 to R326, R330, R331, R337, R338, R340). -/

namespace Sys2Proof.Machine

/-! ### Ports -/

/-- UNIT of a port (Table 12-2), and a Link event of it (Table 12-3). -/
def portUnit (p : Nat) : W32 := unitIndex 7 p
def State.linkEv (s : State) (p cause part : Nat) (detail : W64) : State :=
  s.post (s.unitEv (portUnit p) 0x10 cause part detail)

/-- Whether the optics rails are on (14 R394). -/
def State.opticsOn (s : State) : Bool := s.pwr.state == .idle || s.pwr.state == .run

/-- The partition a job slot maps to on this module (11 R331, R335). -/
def State.slotPart (s : State) (j : Nat) : Option Nat := (s.parts.find? fun x => x.2.jslot == some j).map (·.1)

/-- The die whose exchange engine reports a lost path of a half's links. -/
def lostDie (half : Nat) : Nat := 6 * half
def portHalf (p : Nat) : Nat := p / 12

/-- A job frame is lost: the Collective fault NOPATH of its partition (11 R320, R324, R331, 09 R292; log 69, DEDUCED). -/
def State.noPath (s : State) (half : Nat) (f : Frame) : State :=
  if f.cls ≠ 0 then s
  else match s.slotPart (f.jslot.toNat % 16) with
    | some p => s.cfault (lostDie half) p 1 (f.drank.toNat % 1024) 0
    | none => s

/-- Frames that wait on a logical port, sent or unsent. -/
def lportFrames (l : LPort) : List Frame := l.retry.map (·.1) ++ l.waiting ++ l.hold.flatMap (·.2)

/-- Frames sent again on a logical port count in LNK_RETRY.RESENT of its lowest port in service (11 R341). -/
def State.countResent (s : State) (lp n : Nat) : State :=
  match (s.members lp).head? with
  | some p => s.modPort p fun x => { x with resent := satAdd x.resent n }
  | none => s

/-- Send the stored frames from a sequence number on, unchanged; each resend counts (11 R319). -/
def State.resendFrom (s : State) (lp : Nat) (lseq : BitVec 48) : State :=
  let l := s.lport lp
  let fs := l.retry.filter fun e => decide (lseq ≤ e.1.lseq)
  let s1 := s.modLport lp fun l =>
    { l with retry := l.retry.map fun e => if lseq ≤ e.1.lseq then (e.1, e.2 + 1) else e }
  fs.foldl (fun s e => s.emit (.frame lp e.1)) (s1.countResent lp fs.length)

/-- A port leaves service: its logical port loses it; on the last member the frames are lost, else they are resent on the
survivors (11 R319, R322, R324; log 84, DEDUCED). -/
def State.leave (s : State) (p : Nat) (dest : PState) : State :=
  let x := s.port p
  let s1 := s.modPort p fun x =>
    { x with state := dest, lport := 0xFF
             lanes := if dest = .down ∨ dest = .failed ∨ dest = .disabled then 0 else x.lanes }
  if x.state ≠ .active then s1
  else
    let lp := x.lport.toNat
    let s2 := s1.modPort p fun x => { x with downs := satAdd x.downs 1 }
    if (s2.members lp).isEmpty then
      let l := s2.lport lp
      (lportFrames l).foldl (fun s f => s.noPath (portHalf p) f) (s2.modLport lp fun _ => {})
    else s2.resendFrom lp 0

/-- Own version word, and the position the straps give (15 R422). -/
def State.strapPos (s : State) : Nat := s.ff0.rack.toNat * 32 + s.ff0.slot.toNat

/-- The strap role in force: a reserved value acts as worker; East's where West's latch is not valid (15 R422). -/
def State.role (s : State) : Nat :=
  let r := if s.ff0.strapValid then s.ff0.role.toNat else s.ff1.role.toNat
  if r = 3 then 0 else r

/-- This module's neighbour report (11 R329): the peers behind its ports that have trained; a port in QUARANTINE is ignored (11 R340). -/
def State.nbrReport (s : State) : NbrReport :=
  { serial := s.fuse.serial, strapPos := s.strapPos, elect := s.role == 2
    peers := (List.range 24).map fun p =>
      let x := s.port p
      if x.peer = 0 ∨ !(x.state == .discover || x.state == .active || x.state == .miswired) then none
      else some (x.peer, x.peerPort.toNat)
    lports := (List.range 24).map fun p => if (s.port p).state = .active then (s.port p).lport else 0xFF
    tags := (List.range 24).map fun p => (s.port p).btag
    accs := (List.range 24).filter fun p => (s.port p).state == .active && (s.port p).accepted.isSome }

/-- The module reports its peers and ports when its report has changed since the last one (11 R329, R330; log 24, DESIGN CHOICE). -/
def State.reportNews (s : State) : State :=
  let r := s.nbrReport
  if s.link.reported = some r ∨ (s.link.reported.isNone ∧ r.peers.all Option.isNone) then s
  else (s.modLink fun l => { l with reported := some r }).mgmt s.mgrRank (.neighbour r)

/-- A port leaves service or training to FAILED or DOWN; one that was in service posts Port-down, and the module reports the peer that is
gone (11 R324, R329). -/
def State.portDown (s : State) (p : Nat) (dest : PState) : State :=
  let was := (s.port p).state
  let s1 := s.leave p dest
  (if was = .active then s1.linkEv p 0 0xFF 0 else s1).reportNews

/-- Whether two ports reach the same half of the same neighbour, in one half, under one bundle tag (11 R322). -/
def State.together (s : State) (p q : Nat) : Bool :=
  let x := s.port p
  let y := s.port q
  portHalf p == portHalf q && x.peer == y.peer && x.peerPort.toNat / 12 == y.peerPort.toNat / 12 && x.btag == y.btag

/-- A port enters ACTIVE: it joins the logical port it belongs to, or forms one, numbered by itself, or by the lowest free
number where a survivor holds that (11 R322; log 28, DESIGN CHOICE). -/
def State.activate (s : State) (p : Nat) : State :=
  match (List.range 24).find? fun q => q != p && decide ((s.port q).state = .active) && s.together p q with
  | some q => s.modPort p fun x => { x with state := .active, lport := (s.port q).lport }
  | none =>
    let n := if (s.members p).isEmpty then p else ((List.range 24).find? fun k => (s.members k).isEmpty).getD p
    (s.modPort p fun x => { x with state := .active, lport := BitVec.ofNat 8 n }).modLport n fun _ => {}

/-- SIGNAL_DETECT: a port in DOWN with its optics on trains (Table 11-3). -/
def execSignalDetect (p : Nat) (s : State) : Host.Outcome State Fault Refusal :=
  .next (if (s.port p).state = .down ∧ s.opticsOn then s.modPort p fun x => { x with state := .train } else s)

/-- The lanes a port runs on, when all or one group of four have trained (11 R316). -/
def trainedLanes (lanes : Byte) : Option Byte :=
  if lanes = 0xFF then some 0xFF
  else if lanes &&& 0x0F = 0x0F then some 0x0F
  else if lanes &&& 0xF0 = 0xF0 then some 0xF0
  else none

/-- A failed training (Table 11-3). -/
def State.trainFail (s : State) (p : Nat) : State :=
  s.modPort p fun x => { x with state := .failed, fails := satAdd x.fails 1, lanes := 0 }

/-- TRAINING_COMPLETE: with a width reached the port goes to DISCOVER (11 R316). -/
def execTrainingComplete (p : Nat) (lanes : Byte) (s : State) : Host.Outcome State Fault Refusal :=
  .next (if (s.port p).state ≠ .train then s
    else match trainedLanes lanes with
      | some w => s.modPort p fun x => { x with state := .discover, lanes := w, fails := 0 }
      | none => s.trainFail p)

/-- TRAINING_TIMEOUT: no width within 50 ms (Table 11-3). -/
def execTrainingTimeout (p : Nat) (s : State) : Host.Outcome State Fault Refusal :=
  .next (if (s.port p).state = .train then s.trainFail p else s)

/-- SIGNAL_LOSS: on every lane at once: DOWN from any state but DISABLED, and not from a FAILED port that waits for
management (Table 11-3, 11 R324). -/
def execSignalLoss (p : Nat) (s : State) : Host.Outcome State Fault Refusal :=
  let x := s.port p
  .next (if x.state = .disabled ∨ (x.state = .failed ∧ 8 ≤ x.fails.toNat) then s else s.portDown p .down)

/-- LANE_FAILURE: a lane in use fails while another receives: out of service to FAILED (11 R316, R324, R340). -/
def execLaneFailure (p lane : Nat) (s : State) : Host.Outcome State Fault Refusal :=
  let x := s.port p
  .next (if x.state = .active ∧ x.lanes.getLsbD lane then s.portDown p .failed else s)

/-- FEC_ERROR_BURST: 16 uncorrectable codewords within 1 ms (11 R324). -/
def execFecErrorBurst (p : Nat) (s : State) : Host.Outcome State Fault Refusal :=
  .next (if (s.port p).state = .active then s.portDown p .failed else s)

/-- LINK_SILENCE: no frame or idle for 10 µs (11 R324). -/
def execLinkSilence (p : Nat) (s : State) : Host.Outcome State Fault Refusal :=
  .next (if (s.port p).state = .active then s.portDown p .failed else s)

/-- FAILED_RETRY_TIMER: 1 s in FAILED; after 8 failed trainings it stays (Table 11-3). -/
def execFailedRetryTimer (p : Nat) (s : State) : Host.Outcome State Fault Refusal :=
  let x := s.port p
  .next (if x.state = .failed ∧ x.fails.toNat < 8 then s.modPort p fun x => { x with state := .down } else s)

/-- LNK_CFG as management writes it: a port disabled leaves service, one enabled goes DOWN with FAILS cleared, and one whose
bundle tag changes forms its logical port anew (11 R322, R341, Table 11-3). -/
def State.writeLnkCfg (s : State) (p : Nat) (v : W32) : State :=
  let x := s.port p
  let tag : Byte := BitVec.ofNat 8 (fld v 15 8)
  let s1 := if x.state = .active ∧ v.getLsbD 0 ∧ tag ≠ x.btag then
      ((s.leave p .active).modPort p fun y => { y with btag := tag }).activate p
    else s
  let s2 := s1.modPort p fun y => { y with rto := BitVec.ofNat 16 (fld v 31 16), btag := tag, en := v.getLsbD 0 }
  if !v.getLsbD 0 then (if x.state = .disabled then s2 else s2.portDown p .disabled)
  else s2.modPort p fun y =>
    { y with fails := 0, state := if x.state = .disabled ∨ (x.state = .failed ∧ 8 ≤ x.fails.toNat) then .down else y.state }

/-- LNK_CFG_WRITE: management firmware writes a port's LNK_CFG through the load port (11 R341). -/
def execLnkCfgWrite (p : Nat) (v : W32) (s : State) : Host.Outcome State Fault Refusal := .next (s.writeLnkCfg p v)

/-! ### Beacons (11 R325, R326, R328) -/

/-- The hive identifier of the stored map; zero for none. -/
def State.hiveId (s : State) : W64 := match s.mgr.map with | some m => m.hive | none => 0

/-- The serial of the acting manager known to this module; zero for none. -/
def State.mgrSerial (s : State) : W64 := if s.mgr.acting then s.fuse.serial else s.mgr.mgrSerial

/-- The hop header of a frame without an end-to-end header: LSEQ 0 (Table 11-2). -/
def hopHeader (hflags : Byte) : List Byte := leBytes 6 0 ++ [32, hflags]

/-- Bytes 0x00 to 0x3B of a beacon body (Table 11-6). -/
def beaconBody (b : Beacon) : List Byte :=
  leBytes 8 b.serial.toNat ++ leBytes 8 b.hive.toNat ++ leBytes 1 b.port ++ [b.vmaj, b.vmin, b.vlow] ++ leBytes 2 b.rank.toNat
    ++ [b.role, b.posr, b.poss, b.btag] ++ List.replicate 6 0 ++ leBytes 8 b.best.toNat ++ leBytes 8 b.mgr.toNat ++ List.replicate 12 0

/-- A beacon with its CRC written, and whether the stored CRC is right (11 R325). -/
def withBeaconCrc (b : Beacon) : Beacon := { b with crc := crc32 (beaconBody b) }
def beaconGood (b : Beacon) : Bool := b.crc == crc32 (beaconBody b)

/-- A link-control frame: the hop header, its body and the hop CRC (11 R317; log 114, DESIGN CHOICE). -/
def ctlBytes (kind x y : Nat) : List Byte :=
  let b := hopHeader 2 ++ leBytes 16 (Config.linkBody kind x y).toNat
  b ++ leBytes 4 (crc32 b).toNat

/-- The bytes on the wire (11 R317). -/
def LinkOut.bytes (o : LinkOut) : List Byte :=
  match o with
  | .frame _ f | .raw _ f => frameBytes f ++ leBytes 4 f.hcrc.toNat
  | .beacon _ b => hopHeader 1 ++ beaconBody b ++ leBytes 4 b.crc.toNat
  | .ack _ n => ctlBytes 0 n.toNat 0
  | .nak _ n => ctlBytes 1 n.toNat 0
  | .credit _ k => ctlBytes 2 k 0
  | .refuse _ n => ctlBytes 3 n.toNat 0
  | .resume _ j d => ctlBytes 4 j d

/-- The beacon of a port (Table 11-6). -/
def State.beacon (s : State) (p : Nat) : Beacon :=
  withBeaconCrc
   { serial := s.fuse.serial, hive := s.hiveId, port := p, vmaj := s.link.vmaj, vmin := s.link.vmin, vlow := s.link.vlow
     rank := match s.link.rank with | some r => BitVec.ofNat 16 (r % 1024 + 2 ^ 15) | none => 0
     role := BitVec.ofNat 8 (s.role + if s.mgr.acting then 128 else 0)
     posr := s.ff0.rack.setWidth 8, poss := s.ff0.slot.setWidth 8, btag := (s.port p).btag
     best := s.mgr.best, mgr := s.mgrSerial, crc := 0 }

/-- Whether a port sends beacons. -/
def PState.beacons (x : PState) : Bool := x == .discover || x == .active || x == .miswired || x == .quarantine

/-- BEACON_SEND: the port's beacon falls due (11 R325). -/
def execBeaconSend (p : Nat) (s : State) : Host.Outcome State Fault Refusal :=
  .next (if (s.port p).state.beacons then s.emit (.beacon p (s.beacon p)) else s)

/-- Whether a peer is incompatible, or of another Hive (11 R326). -/
def State.alien (s : State) (b : Beacon) : Bool :=
  b.vmaj != s.link.vmaj || decide (b.vmin < s.link.vlow) || decide (s.link.vmin < b.vlow)
    || (b.hive != 0 && s.hiveId != 0 && b.hive != s.hiveId)

/-- Whether a beacon shows a second acting manager of this Hive (11 R328). -/
def State.rival (s : State) (b : Beacon) : Bool :=
  s.mgr.acting && b.hive == s.hiveId
    && ((b.role.getLsbD 7 && b.serial != s.fuse.serial) || (b.mgr != 0 && b.mgr != s.fuse.serial))

/-- What an election and the manager's identity take from a beacon: no module stands while a manager acts, and a manager that is new to this
module has a report to come (11 R328, R329). -/
def State.beaconNews (s : State) (b : Beacon) : State :=
  let s1 := (if b.mgr ≠ 0 ∧ b.mgr ≠ s.mgr.mgrSerial then s.modLink fun l => { l with reported := none } else s).modMgr fun g =>
    { g with
      best := if b.mgr ≠ 0 then 0 else if b.best ≠ 0 ∧ (g.best = 0 ∨ b.best < g.best) then b.best else g.best
      mgrSerial := if b.mgr ≠ 0 ∧ !g.acting then b.mgr else g.mgrSerial
      standing := g.standing && b.mgr == 0 }
  if s.rival b ∧ !s.mgr.dual then
    (s1.modMgr fun g => { g with dual := true }).post (s1.unitEv s1.ffUnit 0x10 6 0xFF b.serial)
  else s1

/-- DETAIL of a Miswired event, which names the observed and the expected peer: [31:0] the low half of the observed serial, [39:32] its
port, [55:40] the expected position, 0xFFFF for one that is not known, [63:56] the expected port (11 R329; log 115, DESIGN CHOICE). -/
def miswired (serial : W64) (port : Nat) (pos : Option Nat) (want : Nat) : W64 :=
  BitVec.ofNat 64 (serial.toNat % 2 ^ 32 + port % 256 * 2 ^ 32 + (pos.getD 0xFFFF) % 2 ^ 16 * 2 ^ 40 + want % 256 * 2 ^ 56)

/-- BEACON_RECEIVE: the peer is recorded; an incompatible or foreign one quarantines the port, a compatible one frees it, and
a changed peer takes a port out of service (11 R325, R326, R340, Table 11-3). -/
def execBeaconReceive (p : Nat) (b : Beacon) (s : State) : Host.Outcome State Fault Refusal :=
  let x := s.port p
  .next (if !beaconGood b || !x.state.beacons then s
    else
      let changed := x.peer != b.serial || x.peerPort.toNat != b.port
      let s1 := s.modPort p fun x =>
        { x with
          peer := b.serial, peerPort := BitVec.ofNat 5 b.port, peerVmaj := b.vmaj, peerVmin := b.vmin, peerVlow := b.vlow
          peerRank := b.rank, peerRole := b.role, peerBest := b.best }
      let alien := s.alien b
      let s2 := if alien then s1 else s1.beaconNews b
      let vers : W64 := BitVec.ofNat 64 (s.link.vmaj.toNat + s.link.vmin.toNat * 2 ^ 8 + s.link.vlow.toNat * 2 ^ 16
        + b.vmaj.toNat * 2 ^ 32 + b.vmin.toNat * 2 ^ 40 + b.vlow.toNat * 2 ^ 48)
      let s3 := if alien then
          (if x.state = .quarantine then s2
           else ((s2.leave p .quarantine).modPort p fun x => { x with qrn := true }).linkEv p 3 0xFF vers)
        else if x.state = .quarantine then s2.modPort p fun x => { x with state := .discover }
        else if x.state = .active ∧ changed then
          ((s2.leave p .miswired).modPort p fun x => { x with msw := true }).linkEv p 2 0xFF
            (miswired b.serial b.port none x.peerPort.toNat)
        else s2
      s3.reportNews)

/-! ### Acknowledgement, credits and resends (11 R319, R320, R324) -/

/-- LINK_ACK: frames up to a sequence number are acknowledged, and waiting frames go out. -/
def execLinkAck (lp : Nat) (lseq : BitVec 48) (s : State) : Host.Outcome State Fault Refusal :=
  .next ((s.modLport lp fun l => { l with retry := l.retry.filter fun e => decide (lseq < e.1.lseq) }).pump lp)

/-- Resend from a sequence number; a frame already resent 8 times takes a member port to FAILED instead. -/
def State.tryResend (s : State) (lp : Nat) (lseq : BitVec 48) : State :=
  if (s.lport lp).retry.any fun e => decide (lseq ≤ e.1.lseq) && decide (8 ≤ e.2) then
    (match (s.members lp).head? with
    | some p => s.portDown p .failed
    | none => s)
  else s.resendFrom lp lseq

/-- LINK_NAK: the receiver lacks a frame. -/
def execLinkNak (lp : Nat) (lseq : BitVec 48) (s : State) : Host.Outcome State Fault Refusal := .next (s.tryResend lp lseq)

/-- LINK_CREDIT: the receiver grants credits, and waiting frames go out. -/
def execLinkCredit (lp credits : Nat) (s : State) : Host.Outcome State Fault Refusal :=
  .next ((s.modLport lp fun l => { l with credits := min 4096 (l.credits + credits) }).pump lp)

/-- ACK_TIMER: a cumulative ACK of what has been delivered in order. -/
def execAckTimer (lp : Nat) (s : State) : Host.Outcome State Fault Refusal :=
  .next (if (s.lport lp).expect = 0 then s else s.emit (.ack lp ((s.lport lp).expect - 1)))

/-- GAP_TIMEOUT: a gap has stayed open for 10 µs. -/
def execGapTimeout (lp : Nat) (s : State) : Host.Outcome State Fault Refusal :=
  .next (if (s.lport lp).gap then s.emit (.nak lp (s.lport lp).expect) else s)

/-- RESEND_TIMEOUT: the oldest unacknowledged frame has waited RTO. -/
def execResendTimeout (lp : Nat) (s : State) : Host.Outcome State Fault Refusal :=
  .next (match (s.lport lp).retry with
    | e :: _ => s.tryResend lp e.1.lseq
    | [] => s)

/-! ### Refusal (11 R321) -/

/-- REFUSE: the destination holds no resident partition for the frame's job slot: it and every later frame of the slot to that
destination wait in a hold queue. -/
def execRefuse (lp : Nat) (lseq : BitVec 48) (s : State) : Host.Outcome State Fault Refusal :=
  let l := s.lport lp
  .next (match l.retry.find? fun e => e.1.lseq == lseq with
    | none => s
    | some e =>
      match holdKey e.1 with
      | none => s
      | some key =>
        let mine := fun (f : Frame) => holdKey f == some key
        let out := (l.retry.filter fun x => mine x.1 && decide (lseq ≤ x.1.lseq)).map (·.1) ++ l.waiting.filter mine
        let old := ((l.hold.find? fun h => h.1 == key).map (·.2)).getD []
        (s.modLport lp fun l =>
          { l with
            retry := l.retry.filter fun x => !(mine x.1 && decide (lseq ≤ x.1.lseq))
            waiting := l.waiting.filter fun f => !mine f
            hold := (l.hold.filter fun h => h.1 != key) ++ [(key, out ++ old)] }).pump lp)

/-- RESUME: the held frames go back to the window in their original order. -/
def execResume (lp jslot drank : Nat) (s : State) : Host.Outcome State Fault Refusal :=
  let key := (jslot, drank)
  .next (match (s.lport lp).hold.find? fun h => h.1 == key with
    | some h =>
      h.2.foldl (fun s f => s.linkSend lp f) (s.modLport lp fun l => { l with hold := l.hold.filter fun x => x.1 != key })
    | none => s)

/-! ### Delivery (11 R318, R330, R337, R338) -/

/-- The generation a frame's GEN names: the newest that a frame has authenticated, or the next. The one before it is kept only until
then (11 R337). -/
def genOf (cur : W32) (gen : Byte) : Option W32 :=
  if cur.setWidth 8 = gen then some cur
  else if (cur + 1).setWidth 8 = gen then some (cur + 1)
  else none

/-- Open a frame under a key: its payload, and the generation in force after it. -/
def State.openFrame (s : State) (f : Frame) (kin : W256) (ctx : W64) : Option (List Byte × State) :=
  let cls := f.cls.toNat
  let src := f.srank.toNat % 1024
  let k := pairKey cls (f.jslot.toNat % 16) src
  let cur := tget 0 s.link.rxGen k
  match genOf cur f.gen with
  | none => none
  | some g =>
    let (fk, salt) := frameKey kin cls ctx src s.rank g
    match Config.gcmOpen fk (frameNonce salt f.ctr) (frameAad f) f.payload f.tag with
    | some pl => some (pl, s.modLink fun l => { l with rxGen := tset 0 l.rxGen k (if cur < g then g else cur) })
    | none => none

/-- A frame fails its tag: counted, and a Link-auth event of its class (11 R338). -/
def State.authFail (s : State) (p part : Nat) (f : Frame) : State :=
  let s1 := s.modPort p fun x => { x with auth := satAdd x.auth 1 }
  s1.post (s1.unitEv (portUnit p) 0x09 (if f.cls = 0 then 0 else 1) part
    (BitVec.ofNat 64 (p + f.srank.toNat % 1024 * 2 ^ 16 + f.srank.toNat / 2 ^ 15 * 2 ^ 31)))

/-- A frame for a job slot with no key: counted, and posted once per step. -/
def State.staleKeyDrop (s : State) (p : Nat) (f : Frame) : State :=
  let j := f.jslot.toNat % 16
  let step := match s.slotPart j with | some x => (s.part x).openStep | none => 0
  let s1 := s.modPort p fun x => { x with auth := satAdd x.auth 1 }
  if s1.link.staleKey.contains (j, step) then s1
  else (s1.modLink fun l => { l with staleKey := l.staleKey ++ [(j, step)] }).linkEv p 9 0xFF (BitVec.ofNat 64 j)

/-- A job stop arrives: at the acting manager a member's request, at a member the manager's stop (12 R354, R356). -/
def State.hearJobStop (s : State) (src : Nat) (job : W64) (cause : Byte) : State :=
  match s.mgr.acting, s.findJob job with
  | true, some j =>
    if j.stopped && !cause.getLsbD 7 then s else s.managerStop j (if cause.getLsbD 7 then [src] else []) (fld cause 6 0)
  | true, none => s
  | false, _ => s.stopLocal job cause

/-! ### Job keys (11 R335, 13 R382) -/

/-- The counters of a key's frames start again. -/
def Link.forget (l : Link) (cls jslot : Nat) : Link :=
  let mine := fun (k : Nat) => k / 2 ^ 14 == cls && (cls == 1 || k / 2 ^ 10 % 16 == jslot)
  { l with txCtr := l.txCtr.filter fun e => !mine e.1, rxGen := l.rxGen.filter fun e => !mine e.1 }

/-- Whether this module holds a job's key. -/
def State.hasKey (s : State) (job : W64) : Bool := s.sec.jobKeys.any fun k => k.2.job == job

/-- Loads whose job now has its key are released to the loader, in their order. -/
def State.releaseLoads (s : State) : State :=
  let due := fun (e : W32 × W64 × List Byte) => s.hasKey (BitVec.ofNat 64 (recNat e.2.2 0x18 8))
  s.modLdr fun l => { l with queue := l.queue ++ l.held.filter due, held := l.held.filter fun e => !due e }

/-- A job key enters the key store: the frames of its slot count anew, the job's partitions have the slot, and its loads are released. A key
that the slot holds already changes nothing. -/
def State.takeKey (s : State) (job : W64) (jslot : Nat) (k : W256) : State :=
  if s.sec.jobKeys.any fun e => e == (jslot, { job := job, key := k }) then s
  else
    let s1 := (s.modSec fun x =>
      { x with jobKeys := tset { job := 0, key := 0 } x.jobKeys jslot { job := job, key := k } }).modLink fun l => l.forget 0 jslot
    ((s1.jobParts job).foldl (fun s p => s.modPart p fun x => { x with jslot := some jslot }) s1).releaseLoads

/-- A job's key is destroyed and its slot is free (13 R382). -/
def State.dropKey (s : State) (job : W64) : State :=
  (s.jobParts job).foldl (fun s p => s.modPart p fun x => { x with jslot := none })
    (s.modSec fun x => { x with jobKeys := x.jobKeys.filter fun e => e.2.job != job })

/-- The members of the Hive among ranks, but for this module. -/
def State.membersOf (s : State) (ranks : List Nat) : List (Nat × W64 × W256) :=
  s.mgr.members.filter fun m => ranks.contains m.1 && m.1 != s.rank

/-- The acting manager gives a job its key before any structure load for it passes: the lowest slot that no job of the Hive holds, a key of
the DRBG, and the key wrapped for every member named, its own into its own store. A rank that asks later gets the same key, but none twice:
only a new job delivers a key again (13 R391). While no slot is free the request waits (11 R335; log 58, DESIGN CHOICE). -/
def State.giveKey (s : State) (job : W64) (ranks : List Nat) (who : Nat) : State :=
  let send := fun (s : State) (j : Nat) (k : W256) (rs : List Nat) =>
    (s.membersOf rs).foldl (fun s m => s.mgmt m.1 (.jobKey job j (Config.keyWrap m.2.2 k))) s
  match s.sec.jobKeys.find? fun k => k.2.job == job with
  | some (j, k) =>
    if s.mgr.jobSlots.any fun e => e.1 == job && e.2.2.contains who then s
    else
      send (s.modMgr fun g =>
        { g with jobSlots := g.jobSlots.map fun e => if e.1 = job then (e.1, e.2.1, e.2.2 ++ [who]) else e }) j k.key [who]
  | none =>
    match (List.range 16).find? fun j => !(s.sec.jobKeys.any fun k => k.1 == j) && !(s.mgr.jobSlots.any fun x => x.2.1 == j) with
    | none => s.modMgr fun g => { g with asks := g.asks.filter (fun e => e.1 != job || e.2.2 != who) ++ [(job, ranks, who)] }
    | some j =>
      let r1 := s.draw 256
      let rs := if ranks.contains who then ranks else ranks ++ [who]
      send ((r1.2.takeKey job j r1.1).modMgr fun g => { g with jobSlots := g.jobSlots ++ [(job, j, (s.membersOf rs).map (·.1))] }) j r1.1 rs

/-- The manager frees a job's slot on every module of the job, and gives it to a job that waits (13 R382). -/
def State.slotFreed (s : State) (job : W64) : State :=
  let rs := (s.mgr.jobSlots.filter fun e => e.1 == job).flatMap fun e => e.2.2
  let asks := s.mgr.asks
  let s1 := (s.dropKey job).modMgr fun g => { g with jobSlots := g.jobSlots.filter fun e => e.1 != job, asks := [] }
  let s2 := (s.membersOf rs).foldl (fun s m => s.mgmt m.1 (.slotFree job)) s1
  asks.foldl (fun s e => s.giveKey e.1 e.2.1 e.2.2) s2

/-- A job has left this module: its key is destroyed here, and by the manager on every module of the job (13 R382). -/
def State.leaveSlot (s : State) (job : W64) : State :=
  if !s.hasKey job then s
  else if s.mgr.acting then s.slotFreed job
  else (s.dropKey job).mgmt s.mgrRank (.slotFree job)

/-- What a management message does that no command of its own delivers: a job stop, a request for a twin mapping or a job key, a job slot
that is free, a heartbeat (11 R335, R339, 12 R354, Table 12-4, 13 R382; log 24, DESIGN CHOICE). -/
def State.mgmtAct (s : State) (src : Nat) (m : MgmtMsg) : State :=
  match m with
  | .bringJobStop job cause => s.hearJobStop src job cause
  | .twin p half => if s.mgr.acting then s.mgmt src (.twinSwitch p half) else s
  | .heartbeat => if s.mgr.acting then s else s.modMgr fun g => { g with heartbeat := true, standing := false, best := 0 }
  | .keyAsk job ranks => if s.mgr.acting then s.giveKey job ranks src else s
  | .slotFree job => if s.mgr.acting then s.slotFreed job else s.dropKey job
  | _ => s

/-- A message of this module is acknowledged; a module that has its management table is reached through it from now on (11 R330). -/
def State.msgAcked (s : State) (id : Nat) : State :=
  let done := s.link.unacked.filter fun e => e.1 == id
  (s.modLink fun l => { l with unacked := l.unacked.filter fun e => e.1 != id }).modMgr fun g =>
    { g with routed := g.routed ++ (done.filterMap fun e => match e.2.2.1 with | .route _ => some e.2.1 | _ => none) }

/-- A management payload arrives from a rank; `serial` is that of the origin of an unkeyed frame, else 0. It is acknowledged (11 R330). -/
def State.hearMgmt (s : State) (src : Nat) (serial : W64) (pl : List Byte) : State :=
  let s1 := s.modLink fun l => { l with min_ := l.min_ ++ [(src, pl)] }
  match Config.mgmtOf pl with
  | none => s1
  | some (_, .ack ser id) => if ser = 0 ∨ ser = s.fuse.serial then s1.msgAcked id else s1
  | some (n, m) => (s1.sendMgmt src 0 (.ack serial n)).mgmtAct src m

/-- A payload that travelled unkeyed is heard when its signature verifies; an OFFER and an ACCEPT carry theirs for the command that checks it
(11 R318, 13 R380; log 151, DESIGN CHOICE). -/
def State.hearSigned (s : State) (src : Nat) (serial : W64) (b : List Byte) : State :=
  match signedMsg serial b with
  | some pl => s.hearMgmt src serial pl
  | none => match Config.mgmtOf b with
    | some (_, m) => if selfSigned m then s.hearMgmt src serial b else s
    | none => s

/-- A frame at its destination. A partition that is not resident takes mirrored writes only (11 R321, 09 R294). A packet of a reserved
KIND is discarded (09 R273; log 130, DESIGN CHOICE). One for the half across a dead midline is dropped with NOPATH (01 R25, 09 R292). -/
def State.deliver (s : State) (p lp : Nat) (f : Frame) : State :=
  if f.cls = 0 then
    let j := f.jslot.toNat % 16
    match s.sec.jobKeys.find? fun k => k.1 == j, s.slotPart j with
    | some (_, k), some part =>
      match s.openFrame f k.key k.job with
      | some (pl, s1) =>
        (match pktOf pl with
        | some x =>
          if 10 ≤ x.kind then s1
          else if !s.crosses (portHalf p) (halfOfDie (s.pktDie part x)) then s1.cfault (s.pktDie part x) part 1 s.rank x.coll
          else if !(s.part part).resident && x.kind != 4 then s.emit (.refuse lp f.lseq)
          else s1.modLink fun l => { l with xin := l.xin ++ [(part, x)] }
        | none => s1)
      | none => s.authFail p part f
    | _, _ => s.staleKeyDrop p f
  else match s.sec.hiveKey with
    | some (hive, key) =>
      (match s.openFrame f key hive with
      | some (pl, s1) => s1.hearMgmt (f.srank.toNat % 1024) 0 pl
      | none => s.authFail p 0xFF f)
    | none => s.authFail p 0xFF f

/-- Whether a frame carries no key: it floods, or its origin is not placed (11 R318, R330). -/
def unkeyed (f : Frame) : Bool := f.cls != 0 && (f.drank.getLsbD 15 || f.srank.getLsbD 15)

/-- A frame of a lower TTL, with its hop CRC. -/
def hopDown (f : Frame) : Frame := withCrc { f with ttl := f.ttl - 1 }

/-- A frame whose TTL has run out is dropped, counted, and posted as a Route-loop (11 R320). -/
def State.ttlDrop (s : State) (p : Nat) (f : Frame) : State :=
  (s.modPort p fun x => { x with ttld := satAdd x.ttld 1 }).linkEv p 1 0xFF (BitVec.ofNat 64 (f.drank.toNat % 1024))

/-- An unkeyed management frame: repeats are discarded; a module with its rank hears it, and every module that has none yet; one that
floods, or is for another module, goes on (11 R330; log 24, DESIGN CHOICE). -/
def State.flood (s : State) (p : Nat) (f : Frame) : State :=
  let serial : W64 := BitVec.ofNat 64 (recNat f.payload 0 8)
  let recent := s.recentFloods
  if recent.any fun e => e.1 == serial && e.2.1 == f.ctr then s
  else
    let here := s.link.rank == some (f.drank.toNat % 1024)
    let s1 := s.modLink fun l => { l with flooded := recent ++ [(serial, f.ctr, s.pwr.ffTime)] }
    let s2 := if here || s.link.rank.isNone then s1.hearSigned (f.srank.toNat % 1024) serial (f.payload.drop 8) else s1
    if here && !f.drank.getLsbD 15 then s2
    else if f.ttl.toNat ≤ 1 then s2.ttlDrop p f
    else s2.floodPorts p (hopDown f)

/-- A frame for another module: its TTL falls, and it goes on along its path or is dropped (11 R320, R331). -/
def State.forward (s : State) (p : Nat) (f : Frame) : State :=
  let h := portHalf p
  if f.ttl.toNat ≤ 1 then (s.ttlDrop p f).noPath h f
  else
    let d := f.drank.toNat % 1024
    if f.cls = 0 then
      match s.slotPart (f.jslot.toNat % 16) with
      | some part =>
        (match s.route (s.part part).plane d with
        | .via lp => if s.crosses h (lp / 12) then s.linkSend lp (hopDown f) else s.noPath h f
        | _ => s.noPath h f)
      | none => s
    else
      match s.mgmtPort d with
      | some lp => s.linkSend lp (hopDown f)
      | none => s

/-- A frame that stands next in order: its credits return, and it is delivered, flooded or forwarded. -/
def State.take (s : State) (p lp : Nat) (f : Frame) : State :=
  let s1 := s.emit (.credit lp (frameUnits f))
  if unkeyed f then s1.flood p f
  else if s1.link.rank == some (f.drank.toNat % 1024) then s1.deliver p lp f
  else s1.forward p f

/-- Take the frames that now stand in order; `n` bounds their number. -/
def State.takeEarly (s : State) (p lp : Nat) : Nat → State
  | 0 => s.modLport lp fun l => { l with gap := !l.early.isEmpty }
  | n + 1 =>
    let l := s.lport lp
    match l.early.find? fun f => f.lseq == l.expect with
    | some f =>
      ((s.modLport lp fun l => { l with expect := l.expect + 1, early := l.early.filter fun g => g.lseq != f.lseq }).take p lp f).takeEarly
        p lp n
    | none => s.modLport lp fun l => { l with gap := !l.early.isEmpty }

/-- FRAME_RECEIVE: corrected FEC codewords are counted (11 R341); hop CRC and FEC, LSEQ order, and what becomes of the frame (11 R318 to R321). -/
def execFrameReceive (p : Nat) (f : Frame) (fec : Fec) (s0 : State) : Host.Outcome State Fault Refusal :=
  let s := s0.modPort p fun x => { x with fecce := satAdd x.fecce fec.fixed }
  let x := s.port p
  let lp := x.lport.toNat
  let bad := fec.bad || f.hcrc != crc32 (frameBytes f)
  .next (if x.state = .discover then
      (if bad then s.modPort p fun x => { x with hcrc := satAdd x.hcrc 1 } else if unkeyed f then s.flood p f else s)
    else if x.state ≠ .active then s
    else if bad then (s.modPort p fun x => { x with hcrc := satAdd x.hcrc 1 }).emit (.nak lp (s.lport lp).expect)
    else
      let l := s.lport lp
      if f.lseq < l.expect ∨ l.early.any (fun g => g.lseq == f.lseq) then s
      else
        let s1 := s.modLport lp fun l => { l with early := l.early ++ [f] }
        s1.takeEarly p lp (l.early.length + 2))

/-- MANAGEMENT_RESEND: an unacknowledged management message is sent again, up to 8 times (11 R330). -/
def execManagementResend (id : Nat) (s : State) : Host.Outcome State Fault Refusal :=
  .next (match s.link.unacked.find? fun m => m.1 == id with
    | some (_, r, m, n) =>
      if n < 8 then
        ((s.modMgr fun g => { g with out := g.out ++ [(r, m)] }).modLink fun l =>
          { l with unacked := l.unacked.map fun e => if e.1 = id then (id, r, m, n + 1) else e }).sendMgmt r id m
      else s.modLink fun l => { l with unacked := l.unacked.filter fun e => e.1 != id }
    | none => s)

end Sys2Proof.Machine
end

