-- ==== Sys2Proof/Machine/Hive.lean ====
section
/-! DEFINITION. The Hive: placement and management routes, the election of the acting manager, admission, key delivery, manager
continuity and the loss-scale records of jobs (11 R327 to R330, R335, R339, 13 R379 to R381, 10 R306). -/

namespace Sys2Proof.Machine

/-! ### Placement (11 R329) -/

/-- The map entry of a position. -/
def mapAt (m : HiveMap) (pos : Nat) : Option HiveEntry := m.entries.find? fun e => e.pos == pos

/-- Where modules are located, by serial. -/
abbrev Located := List (W64 × Nat)

def locOf (l : Located) (serial : W64) : Option Nat := (l.find? fun x => x.1 == serial).map (·.2)

/-- What a module's report says of a port. -/
def nbrOf (rs : List NbrReport) (serial : W64) (p : Nat) : Option (W64 × Nat) :=
  (rs.find? fun r => r.serial == serial).bind fun r => (r.peers[p]?).bind id

/-- By serial, and this module by its straps where no entry names it. -/
def placeSerial (m : HiveMap) (rs : List NbrReport) (self : W64) (strap : Nat) : Located :=
  let l := m.entries.filterMap fun e =>
    if e.serial ≠ 0 ∧ rs.any (fun r => r.serial == e.serial) then some (e.serial, e.pos) else none
  if l.any fun x => x.1 == self then l else l ++ [(self, strap)]

/-- The proposals of a round: a peer at the position the map expects behind a port, confirmed from both ends. -/
def proposals (m : HiveMap) (rs : List NbrReport) (l : Located) : List (W64 × Nat) :=
  (sortBy l fun a b => decide (a.1 ≤ b.1)).flatMap fun x => (List.range 24).filterMap fun p =>
    match (mapAt m x.2).bind (fun e => (e.peers[p]?).bind id), nbrOf rs x.1 p with
    | some (epos, eport), some (oser, oport) =>
      if oport ≠ eport ∨ nbrOf rs oser oport ≠ some (x.1, p) ∨ (locOf l oser).isSome ∨ l.any (fun y => y.2 == epos)
          ∨ ((mapAt m epos).map (·.serial)).getD 1 ≠ 0 ∨ m.entries.any (fun e => e.serial == oser) then none
      else some (oser, epos)
    | _, _ => none

/-- Discovery in rounds, until one locates nothing; `f` bounds their number. -/
def discover (m : HiveMap) (rs : List NbrReport) : Nat → Located → Located
  | 0, l => l
  | f + 1, l =>
    let ps := (proposals m rs l).eraseDups
    let acc := ps.filter fun x => !ps.any fun y => (y.1 == x.1) != (y.2 == x.2)
    if acc.isEmpty then l else discover m rs f (l ++ acc)

/-- What discovery leaves falls back to the straps, in ascending serial. -/
def strapFall (m : HiveMap) (rs : List NbrReport) (l : Located) : Located :=
  (sortBy rs fun a b => decide (a.serial ≤ b.serial)).foldl (fun l r =>
    if (locOf l r.serial).isNone && (match mapAt m r.strapPos with | some e => e.serial == 0 | none => false)
        && !(l.any fun x => x.2 == r.strapPos) then l ++ [(r.serial, r.strapPos)]
    else l) l

/-- Whether a located module's port reaches the peer the map names. -/
def consistent (m : HiveMap) (rs : List NbrReport) (l : Located) (serial : W64) (p : Nat) : Bool :=
  match (locOf l serial).bind (mapAt m ·), nbrOf rs serial p with
  | some e, some (oser, oport) =>
    (match locOf l oser with | some opos => (e.peers[p]?).bind id == some (opos, oport) | none => false)
  | _, _ => false

/-! ### Management routes (11 R330) -/

/-- Whether a reported port is in service, or will be once its verdict has arrived: it is consistent, or an ACCEPT record has admitted it. -/
def serves (m : HiveMap) (rs : List NbrReport) (l : Located) (r : NbrReport) (p : Nat) : Bool :=
  consistent m rs l r.serial p || r.accs.contains p

/-- LPORT of a module's port: the one that its report gives a port of its logical port, else the lowest of them (11 R322). -/
def lportOf (r : NbrReport) (ok : List (Nat × W64 × Nat)) (p : Nat) (o : W64 × Nat) : Option Nat :=
  let tag := fun (q : Nat) => (r.tags[q]?).getD 0
  let lport := fun (q : Nat) => (r.lports[q]?).getD 0xFF
  let mine := (ok.filter fun (q, o') => q / 12 == p / 12 && o'.1 == o.1 && o'.2 / 12 == o.2 / 12 && tag q == tag p).map (·.1)
  match mine.find? fun q => lport q != 0xFF with
  | some q => some (lport q).toNat
  | none => mine.min?

/-- The links between ranks over logical ports in service (11 R330). -/
def mgmtLinks (m : HiveMap) (rs : List NbrReport) (l : Located) : List (Nat × Nat × Nat) :=
  let rankOf := fun (serial : W64) => ((locOf l serial).bind (mapAt m ·)).map (·.rank)
  (l.flatMap fun x => match rs.find? fun r => r.serial == x.1 with
    | none => []
    | some r =>
      let ok := (List.range 24).filterMap fun p => if serves m rs l r p then (nbrOf rs x.1 p).map fun o => (p, o) else none
      ok.filterMap fun (p, o) => match rankOf x.1, rankOf o.1, lportOf r ok p o with
        | some a, some b, some k => some (a, k, b)
        | _, _, _ => none).eraseDups

/-- Distances to a rank, breadth first; `f` bounds the rounds. -/
def distTo (links : List (Nat × Nat × Nat)) : Nat → List (Nat × Nat) → List (Nat × Nat)
  | 0, ds => ds
  | f + 1, ds =>
    let d := (ds.map (·.2)).foldl max 0
    let new := ((links.filter fun x => ds.any (fun e => e.1 == x.2.2 && e.2 == d) && !(ds.any fun e => e.1 == x.1)).map (·.1)).eraseDups
    if new.isEmpty then ds else distTo links f (ds ++ new.map fun r => (r, d + 1))

/-- The management table of a rank: to each other rank the first logical port of a fewest-hop path, ties to the lower logical
port, then the lower neighbour rank. -/
def mgmtTable (links : List (Nat × Nat × Nat)) (ranks : List Nat) (r : Nat) : List (Nat × Nat) :=
  (ranks.filter (· != r)).filterMap fun d =>
    let ds := distTo links ranks.length [(d, 0)]
    let cs := (links.filter (·.1 == r)).filterMap fun x =>
      (ds.find? fun e => e.1 == x.2.2).map fun e => (e.2, x.2.1, x.2.2)
    ((sortBy cs fun a b => decide (a.1 < b.1 ∨ (a.1 = b.1 ∧ (a.2.1 < b.2.1 ∨ (a.2.1 = b.2.1 ∧ a.2.2 ≤ b.2.2))))).head?).map
      fun c => (d, c.2.1)

/-! ### A module takes its place -/

/-- Whether the ports of this module may leave DISCOVER: it has an admission list, whose first entry is its own key where it acts itself
(13 R379; log 152, DEDUCED). -/
def State.listed (s : State) : Bool :=
  match s.mgr.admission with
  | none => false
  | some (_, ds) => !s.mgr.acting || ds.head? == some (Config.sha384 (Config.ecPublic s.fuse.idKey))

/-- A place that is new to the module: one that its straps gave is posted, and so is one found by discovery with which its straps disagree
(11 R329; log 85, DEDUCED). -/
def State.takePlace (s : State) (x : Place) : State :=
  if s.link.placed = some x then s
  else
    let s1 := s.modLink fun l => { l with placed := some x }
    match x.how with
    | .straps => s1.post (s1.unitEv s1.ffUnit 0x10 4 0xFF s.fuse.serial)
    | .discovery => if s.strapPos = x.pos then s1 else s1.post (s1.unitEv s1.ffUnit 0x10 5 0xFF s.fuse.serial)
    | .serial => s1

/-- A port takes its verdict: consistent ports and those whose peer an ACCEPT record has admitted enter ACTIVE, the others MISWIRED; a port
in QUARANTINE is ignored (11 R329, R333, R340, Table 11-3). -/
def State.portVerdict (s : State) (v : PortVerdict) : State :=
    let x := s.port v.port
    if v.ok || x.accepted == some (x.peer, x.peerPort.toNat) then (if x.state = .discover ∨ x.state = .miswired then s.activate v.port else s)
    else if x.state = .discover ∨ x.state = .active then
      ((s.leave v.port .miswired).modPort v.port fun y => { y with msw := true }).linkEv v.port 2 0xFF
        (miswired x.peer x.peerPort.toNat (v.want.map (·.1)) ((v.want.map (·.2)).getD 0xFF))
    else s

/-- A module takes its place, its management routes and a verdict for each port; without an admission list its ports stay in DISCOVER
(11 R329, R330, 13 R379). -/
def State.applyPlacement (s : State) (place : Place) (verdicts : List PortVerdict) (routes : List (Nat × Nat)) : State :=
  let s1 := (s.modLink fun l =>
    { l with rank := some place.rank, mgmtTab := routes.foldl (fun t x => tset 0 t x.1 (x.2 + 1)) [] }).takePlace place
  (if s.listed then verdicts.foldl (fun s v => s.portVerdict v) s1 else s1).reportNews

/-- PLACEMENT_VERDICT: a module receives its rank, its ports' verdicts and its management routes; one that has no admission list refuses them
(11 R329, R330, 13 R379). -/
def execPlacementVerdict (place : Place) (verdicts : List PortVerdict) (routes : List (Nat × Nat)) (s : State) :
    Host.Outcome State Fault Refusal :=
  .next (if s.mgr.admission.isNone then s else s.applyPlacement place verdicts routes)

/-! ### Key derivation and admission (13 R379 to R381) -/

/-- ASCII bytes of a label. -/
def ascii (s : String) : List Byte := s.toList.map fun c => BitVec.ofNat 8 c.toNat

/-- SP 800-108 in counter mode with one block of 256 bits: `label || 0 || context || be32(256)` (11 R336, 13 R384). -/
def kdfInput (label : String) (ctx : List Byte) : List Byte := be32 1 ++ ascii label ++ [0] ++ ctx ++ be32 256

/-- The enrolment key of an admission. -/
def enrolKey (z : W384) (hive mgr cand : W64) : W256 :=
  Config.hmacZ z (kdfInput "TALHAN-ENROL" (leBytes 8 hive.toNat ++ leBytes 8 mgr.toNat ++ leBytes 8 cand.toNat))

/-- The bytes an OFFER and an ACCEPT sign (13 R380; log 30, DESIGN CHOICE). -/
def offerBytes (hive mgr : W64) (qm cert : List Byte) : List Byte := leBytes 8 hive.toNat ++ leBytes 8 mgr.toNat ++ qm ++ cert
def acceptBytes (qc cert : List Byte) (wrapped : BitVec 320) : List Byte := qc ++ cert ++ leBytes 40 wrapped.toNat

/-- The life-cycle state: the higher of the two fuse counts (13 R367). -/
def State.lcs (s : State) : Nat := max s.fuse.lcsW.toNat s.fuse.lcsE.toNat

/-- A Key-reject event (11 R335, 13 R380). -/
def State.keyReject (s : State) (detail : W64) : State := s.post (s.unitEv s.ffUnit 0x10 7 0xFF detail)

/-- The manager offers admission to a located module. -/
def State.sendOffer (s : State) (rank : Nat) (serial : W64) : State :=
  let r1 := s.draw 384
  let eph := r1.1; let s1 := r1.2
  let qm := Config.ecPublic eph
  let r2 := s1.sign (offerBytes s.hiveId s.fuse.serial qm s.fuse.cert)
  let sig := r2.1; let s2 := r2.2
  (s2.modMgr fun g => { g with ephs := (g.ephs.filter fun e => e.1 != serial) ++ [(serial, eph)] }).mgmt rank
    (.offer s.hiveId s.fuse.serial qm s.fuse.cert sig)

/-- The acting manager runs placement over the reports it holds: every located module that is admitted gets its rank, verdicts
and routes, every other one an OFFER (11 R329, R330, 13 R380; log 85, DEDUCED). -/
def State.runPlacement (s : State) : State :=
  match s.mgr.acting, s.mgr.map with
  | true, some m =>
    let rs := (s.mgr.reports.filter fun r => r.serial != s.fuse.serial) ++ [s.nbrReport]
    let l0 := placeSerial m rs s.fuse.serial s.strapPos
    let l1 := discover m rs (rs.length + 1) l0
    let l2 := strapFall m rs l1
    let s1 := s.modMgr fun g => { g with reports := rs, loc := l2 }
    let how := fun (serial : W64) =>
      if m.entries.any fun e => e.serial == serial then Locate.serial
      else if (locOf l1 serial).isNone || serial == s.fuse.serial then .straps else .discovery
    let links := mgmtLinks m rs l2
    let ranks := l2.filterMap fun x => (mapAt m x.2).map (·.rank)
    l2.foldl (fun s x =>
      match mapAt m x.2 with
      | none => s
      | some e =>
        let vs := (List.range 24).filterMap fun p =>
          if (nbrOf rs x.1 p).isSome then
            some { port := p, ok := consistent m rs l2 x.1 p, want := (e.peers[p]?).bind id : PortVerdict } else none
        let tab := mgmtTable links ranks e.rank
        let place : Place := { rank := e.rank, pos := x.2, how := how x.1 }
        if x.1 = s.fuse.serial then s.applyPlacement place vs tab
        else if s.mgr.members.any fun k => k.2.1 == x.1 then (s.mgmt e.rank (.placement place vs)).mgmt e.rank (.route tab)
        else if s.mgr.dual then s
        else s.sendOffer e.rank x.1) s1
  | _, _ => s

/-- NEIGHBOUR_REPORT: a module reports its peers to the acting manager, and placement runs again (11 R329). -/
def execNeighbourReport (r : NbrReport) (s : State) : Host.Outcome State Fault Refusal :=
  .next (if s.mgr.acting then
      (s.modMgr fun g => { g with reports := (g.reports.filter fun x => x.serial != r.serial) ++ [r] }).runPlacement
    else s)

/-- OFFER: a candidate in FIELD checks the manager's certificate, key digest, HIVE and signature against its admission list,
and answers with its wrapped wrap key; anything else is dropped with Key-reject (13 R379, R380, R391). -/
def execOffer (hive mgr : W64) (qm cert : List Byte) (sig : BitVec 768) (s : State) : Host.Outcome State Fault Refusal :=
  let ok := match Config.certSubject cert, s.mgr.admission with
    | some (ser, pub), some (h, digs) =>
      ser == mgr && h == hive && digs.contains (Config.sha384 pub) && Config.ecdsaVerify pub (offerBytes hive mgr qm cert) sig
    | _, _ => false
  .next (if !ok || s.lcs != 2 then s.keyReject mgr
    else
      let r1 := s.draw 384
      let eph := r1.1; let s1 := r1.2
      let kt := enrolKey (Config.ecdh eph qm) hive mgr s.fuse.serial
      let qc := Config.ecPublic eph
      let w := Config.keyWrap kt s.fuse.wrapKey
      let r2 := s1.sign (acceptBytes qc s.fuse.cert w)
      let sg := r2.1; let s2 := r2.2
      let s3 := s2.modMgr fun g => { g with mgrSerial := mgr }
      s3.mgmt s3.mgrRank (.accept qc s.fuse.cert w sg))

/-- The hive key goes to a member, wrapped under its wrap key (11 R335; log 58, DESIGN CHOICE). -/
def State.sendHiveKey (s : State) (rank : Nat) (wk : W256) : State :=
  match s.sec.hiveKey with
  | some (h, k) => s.mgmt rank (.hiveKey h (Config.keyWrap wk k))
  | none => s

/-- ADMISSION_ACCEPT: the manager checks the candidate's chain, serial and key digest against its map entry, keeps its wrap
key, and sends it the hive key and its place (13 R380). -/
def execAdmissionAccept (serial : W64) (qc cert : List Byte) (wrapped : BitVec 320) (sig : BitVec 768) (s : State) :
    Host.Outcome State Fault Refusal :=
  let entry := s.mgr.map.bind fun m => (locOf s.mgr.loc serial).bind (mapAt m ·)
  let ok := match Config.certSubject cert, entry with
    | some (ser, pub), some e =>
      ser == serial && (e.serial == 0 || e.serial == serial) && (e.keyDig == 0 || e.keyDig == Config.sha384 pub)
        && Config.ecdsaVerify pub (acceptBytes qc cert wrapped) sig
    | _, _ => false
  let key := (s.mgr.ephs.find? fun e => e.1 == serial).bind fun e =>
    Config.keyUnwrap (enrolKey (Config.ecdh e.2 qc) s.hiveId s.fuse.serial serial) wrapped
  .next (if !s.mgr.acting || s.mgr.dual then s
    else match ok, key, entry with
      | true, some wk, some e =>
        let s1 := s.modMgr fun g =>
          { g with
            ephs := g.ephs.filter fun x => x.1 != serial
            members := (g.members.filter fun x => x.2.1 != serial) ++ [(e.rank, serial, wk)] }
        ((s1.sendHiveKey e.rank wk).mgmt e.rank (.admitted e.rank serial)).runPlacement
      | _, _, _ => s.keyReject serial)

/-! ### Key delivery (11 R335) -/

/-- A rejected job key: the job does not start here, so its loads are refused (11 R335; log 58, DESIGN CHOICE). -/
def State.refuseLoads (s : State) (job : W64) : State :=
  let mine := fun (e : W32 × W64 × List Byte) => BitVec.ofNat 64 (recNat e.2.2 0x18 8) == job
  (s.ldr.held.filter mine).foldl (fun s e =>
    if s.sec.sessions.any fun k => k.sid == e.1 then s.say { sid := e.1, type := 5, seq := e.2.1, status := 4 } else s)
    (s.modLdr fun l => { l with held := l.held.filter fun e => !mine e })

/-- KEY_DELIVERY: a member unwraps a job key or the hive key into its key store, or rejects it. -/
def execKeyDelivery (job : W64) (jslot : Nat) (hiveKey : Bool) (wrapped : BitVec 320) (s : State) :
    Host.Outcome State Fault Refusal :=
  .next (if s.lcs ≠ 2 then s
    else match Config.keyUnwrap s.fuse.wrapKey wrapped with
      | none => if hiveKey then s.keyReject job else (s.keyReject job).refuseLoads job
      | some k =>
        if hiveKey then
          (if s.sec.hiveKey = some (job, k) then s
           else (s.modSec fun x => { x with hiveKey := some (job, k) }).modLink fun l => l.forget 1 0)
        else s.takeKey job jslot k)

/-- The acting manager's hive key protects the channel under the HIVE of a map that has been loaded, and every member receives it again
(11 R335, R336; log 58, DESIGN CHOICE). -/
def State.rehive (s : State) (hive : W64) : State :=
  match s.mgr.acting, s.sec.hiveKey with
  | true, some (h, k) =>
    if h = hive then s
    else
      let s1 := (s.modSec fun x => { x with hiveKey := some (hive, k) }).modLink fun l => l.forget 1 0
      (s1.mgr.members.filter fun m => m.1 != s1.rank).foldl (fun s m => s.sendHiveKey m.1 m.2.2) s1
  | _, _ => s

/-! ### The acting manager (11 R327, R328, R339) -/

/-- A message that no module raised, for a verdict a new manager writes. -/
def State.ownMsg (s : State) (j : Job) : StepMsg :=
  { job := j.job, step := j.step, rank := s.rank, part := 0, retry := j.retry, status := 3, scaleEv := 0, lastEv := s.ev.seq - 1 }

/-- The module begins to act: a hive key, the state last received with RETRACT in every open step, for an elect module a Manager-change
event, and placement (11 R335, R339). -/
def State.becomeManager (s : State) : State :=
  let r1 := s.draw 256
  let k := r1.1; let s1 := r1.2
  let s2 := (if s.sec.hiveKey.isSome then s else s1.modSec fun x => { x with hiveKey := some (s.hiveId, k) }).modMgr fun g =>
    { g with
      acting := true, standing := false, mgrSerial := s.fuse.serial, best := 0
      jobs := g.jobs ++ (g.lastState.filter fun j => !(g.jobs.any fun x => x.job == j.job)).map fun j =>
        { job := j.job, members := j.members, step := j.step, retry := j.retry, verdict := j.verdict, ls := j.ls
          rec_ := j.rec_, recRank := 0, started := true } }
  let s3 := if s.role = 2 then
      (s2.mgr.jobs.filter fun j => !j.stopped).foldl (fun s j => s.ruleRetract j (s.ownMsg j) false)
        (s2.post (s2.unitEv s2.ffUnit 0x10 8 0xFF s2.fuse.serial))
    else s2
  s3.runPlacement

/-- Whether no acting manager is known: neither from a beacon nor from a heartbeat (11 R328). -/
def State.noManager (s : State) : Bool := s.mgr.mgrSerial == 0 && !s.mgr.heartbeat

/-- ELECT_STAND: an elect module with a port that has reached DISCOVER, which has known no acting manager for its wait, stands (11
R328). -/
def execElectStand (s : State) : Host.Outcome State Fault Refusal :=
  .next (if s.role = 2 ∧ !s.mgr.acting ∧ s.noManager ∧ (List.range 24).any fun p => (s.port p).state.beacons then
      s.modMgr fun g =>
        { g with standing := true, best := if g.best = 0 ∨ s.fuse.serial < g.best then s.fuse.serial else g.best }
    else s)

/-- ACTING_MANAGER: a standing module whose own serial has been BEST in every beacon for 1 s acts; ports that carry more
than beacons count (11 R328; log 29, DESIGN CHOICE). -/
def execActingManager (s : State) : Host.Outcome State Fault Refusal :=
  let ports := (List.range 24).filter fun p =>
    ((s.port p).state == .discover || (s.port p).state == .active) && (s.port p).peer != 0
  .next (if s.mgr.standing && !s.mgr.acting && s.noManager && s.mgr.best == s.fuse.serial
        && ports.all (fun p => (s.port p).peerBest == s.fuse.serial) then s.becomeManager
    else s)

/-- MANAGER_HEARTBEAT: to every admitted module (11 R339). -/
def execManagerHeartbeat (s : State) : Host.Outcome State Fault Refusal :=
  .next (if s.mgr.acting ∧ s.managing then
      (s.mgr.members.filter fun m => m.1 != s.rank).foldl (fun s m => s.mgmt m.1 .heartbeat) s
    else s)

/-- MANAGER_STATE: an elect module keeps the manager's state, the hive key and the members' wrap keys (11 R339, 13 R381). -/
def execManagerState (jobs : List JobState) (wrapped : BitVec 320) (members : List (Nat × W64 × BitVec 320)) (s : State) :
    Host.Outcome State Fault Refusal :=
  .next (if s.role ≠ 2 ∨ s.mgr.acting then s
    else
      let s1 := s.modMgr fun g =>
        { g with
          heartbeat := true, lastState := jobs, best := 0
          members := members.foldl (fun ms m =>
            match Config.keyUnwrap s.fuse.wrapKey m.2.2 with
            | some k => (ms.filter fun x => x.2.1 != m.2.1) ++ [(m.1, m.2.1, k)]
            | none => ms) g.members }
      match Config.keyUnwrap s.fuse.wrapKey wrapped with
      | some k => s1.modSec fun x => { x with hiveKey := some (((x.hiveKey.map (·.1)).getD s.hiveId), k) }
      | none => s1.keyReject 0)

/-- MANAGER_LOSS: no heartbeat for 1 s: an elect module stands, and any other forgets the manager that it knew (11 R328, R339; log 29,
DESIGN CHOICE). -/
def execManagerLoss (s : State) : Host.Outcome State Fault Refusal :=
  .next (if s.mgr.acting then s
    else s.modMgr fun g =>
      { g with
        heartbeat := false, mgrSerial := 0, standing := s.role == 2
        best := if s.role = 2 ∧ (g.best = 0 ∨ s.fuse.serial < g.best) then s.fuse.serial else g.best })

/-! ### Loss-scale records (10 R306) -/

/-- A job as the first record of it sets it up. -/
def newJob (job : W64) (rank part : Nat) (r : ScaleRec) : Job :=
  { job := job, members := [(rank, part)], rec_ := r, recRank := rank, ls := { clean := 0, sexp := r.s0, disc := 0, floor := 0 } }

/-- SCALE_RECORD_ARRIVAL: the acting manager takes a module's SCALE record; the lowest rank's values are used. A record for a job
that has begun or stopped opens it anew: its image has been loaded again (10 R306, 12 R354; log 31, DEDUCED). -/
def execScaleRecordArrival (job : W64) (rank part : Nat) (r : ScaleRec) (s : State) : Host.Outcome State Fault Refusal :=
  .next (if !s.mgr.acting then s
    else match s.findJob job with
      | none => s.modMgr fun g => { g with jobs := g.jobs ++ [newJob job rank part r] }
      | some j =>
        if j.stopped || j.started then s.putJob (newJob job rank part r)
        else
          let j1 := { j with members := if j.members.contains (rank, part) then j.members else j.members ++ [(rank, part)] }
          s.putJob (if rank ≤ j.recRank then
              { j1 with rec_ := r, recRank := rank, ls := { clean := 0, sexp := r.s0, disc := 0, floor := 0 } }
            else j1))

end Sys2Proof.Machine
end

