-- ==== Sys2Proof/Machine/Power.lean ====
section
/-! DEFINITION. Supply, reset, start-up, the service inputs, twin arbitration, clocks and operating points, cooling and trips
(13 R370 to R372, R390, 14 R393 to R409, 15 R414, R419, R422, R428). -/

namespace Sys2Proof.Machine

/-! ### Units and events -/

/-- UNIT of power and clocks of a half (Table 12-2), and an event of Table 14-7 for no partition. -/
def State.pwrEv (s : State) (half cls : Nat) (detail : W64) : State :=
  s.post (s.unitEv (unitIndex 0xA half) cls 0 0xFF detail)

/-- TDP of the grade in W (Table 14-2). -/
def State.tdp (s : State) : Nat := if s.fuse.gradeB then 5700 else 6400

/-! ### Sessions close -/

/-- Close the sessions that satisfy a test: each hears CLOSE (13 R385). -/
def State.closeSessions (s : State) (f : Session → Bool) : State :=
  ((s.sec.sessions.filter f).foldl (fun s k => s.say { sid := k.sid, type := 7 }) s).modSec fun x =>
    { x with sessions := x.sessions.filter fun k => !f k }

/-! ### Reset and wipe -/

/-- The event unit of each half outlives a reset of the functional logic; the slots of functional units, the trackers and the
recorder's buffers do not (14 Table 14-5). -/
def Events.funcReset (v : Events) : Events :=
  { v with
    slots := v.slots.filter fun x => x.1 / 2 ^ 28 == 8 || x.1 / 2 ^ 28 == 0xA
    drain := false, handling := [], nested := [], scanning := [], cap0 := [], cap1 := [], incomplete := [], replay := none
    tracker := [], bands := [], extDig := [], digRecs := [], extData := [] }

/-- Dies out of reset: every register at its reset value but PWR_OPP.MAX, which the power controller keeps (14 R400; log 81, DEDUCED). -/
def State.freshDies (s : State) : Tab Die :=
  (List.range 12).foldl (fun t d =>
    tset {} t d { oppMax := (s.die d).oppMax, oppCur := (s.die d).oppMax }) []

/-- Whether every sensor has last read below 85 °C (14 R407). -/
def State.coolAll (s : State) : Bool := s.pwr.temps.all fun e => decide (e.2.toInt < 85 * 8)

/-- A reset that reaches the functional logic: sessions close, the key store is cleared, every functional register returns to
its reset value; latches clear as their rules say; start-up has step 2 before it. Memory waits for the wipe (14 R404, R406,
R407, 13 R382). Fence masks outlast it (09 R270), and the Firefly domains keep running: who leads and which half has failed stand (14 R404). -/
def State.funcReset (s : State) : State :=
  let s1 := s.closeSessions fun _ => true
  let cool := s.coolAll
  let vin := (s.ff s.leadHalf).vin.toNat
  let inside := decide (40000 ≤ vin) && decide (vin ≤ 60000)
  { s1 with
    cores := [], dies := s.freshDies, upds := [], objs := []
    syn0 := { fence := s.syn0.fence }, syn1 := { fence := s.syn1.fence }, parts := []
    ev := s1.ev.funcReset
    link := { vmaj := s.link.vmaj, vmin := s.link.vmin, vlow := s.link.vlow, bridgeN := s.link.bridgeN, bridgeS := s.link.bridgeS
              out := s.link.out }
    mgr := { map := s.mgr.map, admission := s.mgr.admission, out := s.mgr.out }
    sec := { s1.sec with jobKeys := [], hiveKey := none, ringKey := 0, portInForce := s.sec.port }
    ldr := {}
    pwr := { s.pwr with
      step := if s.pwr.supply then 1 else 0, start := true, stopped := false, coolLat := false, coolTimer := false
      tripLat := s.pwr.tripLat && !cool, thermPin := s.pwr.thermPin && !cool, supLat := s.pwr.supLat && !inside }
    ff0 := { s.ff0 with strapValid := false, strapChg := false, badRole := false, mism := false, pcieUp := false, ldr := {} }
    ff1 := { s.ff1 with strapValid := false, strapChg := false, badRole := false, mism := false, pcieUp := false, ldr := {} } }

/-- The main rails fall: everything but the Firefly domain is off and holds no state (14 R393, R395, R407). -/
def State.railsOff (s : State) : State :=
  let s1 := s.funcReset
  (s1.keepMem (fun _ => false) fun _ => false).modPwr fun p => { p with rails := false, state := .standby }

/-- A hardware removal of the main rails: the module is drained, the rails fall, and the latch holds (14 R407). -/
def State.railTrip (s : State) (cls bit : Nat) (detail : W64) (f : Pwr → Pwr) : State :=
  let s1 := if s.pwr.rails then s.drainModule 16 cls else s
  let s2 := (s1.railsOff.modPwr f).modEv fun v => { v with drain := s1.ev.drain }
  (s2.pwrEv s.leadHalf cls detail).alert bit

/-- What the blocks of the ring in flash hold: its records, each encrypted under the ring key (13 R372; log 87, DESIGN CHOICE). -/
def State.ringBlocks (s : State) : List (List Byte) :=
  s.ev.ring.zipIdx.map fun x => Config.xtsEncrypt s.sec.ringKey x.2 (capBytes x.1.1)

/-- The hardware wipe: every SRAM and HBM byte zero under valid check bytes, sync objects at reset, the ring unreadable under
a fresh key with its blocks still to be erased, every ownership tag CLEAN (13 R370 to R372). The duration is a free value (log 49, DESIGN
CHOICE). -/
def State.wipe (s : State) : State :=
  let r1 := s.draw 512
  let k := r1.1; let s1 := r1.2
  let r2 := s1.draw 16
  let ms := r2.1; let s2 := r2.2
  let s3 : State := { s2.keepMem (fun _ => false) (fun _ => false) with objs := [] }
  ((s3.modEv fun v =>
    { v with ring := [], pins := [], pinnedMiB := 0, unerased := v.unerased + (v.ring.map fun x => capSize x.1).sum }).modSec fun x => { x with ringKey := k }).modLdr fun l =>
    { l with wipeMs := ms, wipeRing := true, wipeHbm := true, wipeSram := true, coreTag := [], granTag := [] }

/-! ### Supply and firmware (14 R402, 13 R390) -/

/-- Which image the boot ROM starts: the active one if it verifies and its SVN is not below the floor, else the other. -/
def State.bootImage (s : State) : Option Nat :=
  let img := fun (k : Nat) => if k = 0 then s.sec.fw0 else s.sec.fw1
  let ok := fun (k : Nat) => (img k).valid && decide (s.fuse.svnFloor ≤ (img k).svn)
  if ok s.sec.active then some s.sec.active else if ok (1 - s.sec.active) then some (1 - s.sec.active) else none

/-- The Firefly firmware starts on an image; a fallback raises FWFAIL. -/
def State.boot (s : State) (k : Nat) : State :=
  let fall := k != s.sec.active
  let s1 := s.modSec fun x => { x with running := k, fallbk := fall }
  if fall then s1.alert 7 else s1

/-- A half's Firefly domain out of power-on reset: its inputs take their pins' levels. -/
def FfHalf.fresh (h : FfHalf) : FfHalf :=
  { up := true, resetIn := h.pinReset, pwrEn := h.pinPwr, coolOk := h.pinCool
    pinReset := h.pinReset, pinPwr := h.pinPwr, pinCool := h.pinCool }

/-- The input voltage that both halves measure (14 R410; log 83, DEDUCED). -/
def State.setVin (s : State) (mv : W16) : State := (s.modFf 0 fun h => { h with vin := mv }).modFf 1 fun h => { h with vin := mv }

/-- SUPPLY_RISE: the input reaches 40 V: the standby rails, both Firefly domains and their firmware start, and FF_TIME starts
at 0. A RESET_L that is low then holds the functional logic in reset (15 R419). With the domains up already it only brings the input inside its range (14 R402, R407; log 33, DEDUCED). -/
def execSupplyRise (fwVer : W32) (s : State) : Host.Outcome State Fault Refusal :=
  .next (if s.pwr.supply then s.setVin 40000
    else match s.bootImage with
      | none => (s.setVin 40000).modPwr fun p => { p with supply := true }
      | some k =>
        let s1 := (s.boot k).modPwr fun p =>
          { p with supply := true, step := 1, start := true, state := .standby, ffTime := 0, inReset := s.ff0.pinReset }
        { s1 with
          ff0 := { s.ff0.fresh with vin := 40000 }, ff1 := { s.ff1.fresh with vin := 40000 }
          link := { s1.link with vmaj := BitVec.ofNat 8 (fld fwVer 7 0), vmin := BitVec.ofNat 8 (fld fwVer 15 8)
                                 vlow := BitVec.ofNat 8 (fld fwVer 23 16) } })

/-- What of the sessions' domain flash holds: slots without their failure counts, images, and the network port (13 R377). -/
def Sec.cold (x : Sec) : Sec :=
  { slots := x.slots.map fun e => (e.1, { e.2 with fails := 0, locked := false, lockSecs := 0, lockAt := 0 })
    fw0 := x.fw0, fw1 := x.fw1, active := x.active, ownerActivated := x.ownerActivated, nextSid := x.nextSid, out := x.out }

/-- What of the event unit flash holds: the log and the health map (12 R360, 13 R388). -/
def Events.cold (v : Events) : Events := { log := v.log, failed := v.failed, badGran := v.badGran, ring := v.ring, pins := v.pins, unerased := v.unerased }

/-- UNDERVOLTAGE_RESET: below 38 V for 1 ms everything is reset, and the rails are off (14 R404). -/
def execUndervoltageReset (s : State) : Host.Outcome State Fault Refusal :=
  let s1 := s.railsOff
  .next { s1 with
    ev := s.ev.cold, sec := s1.sec.cold, link := { out := s.link.out }, dies := []
    pwr := { cap := BitVec.ofNat 16 s.tdp }
    ff0 := { pinReset := s.ff0.pinReset, pinPwr := s.ff0.pinPwr, pinCool := s.ff0.pinCool }
    ff1 := { pinReset := s.ff1.pinReset, pinPwr := s.ff1.pinPwr, pinCool := s.ff1.pinCool } }

/-! ### Start-up (14 Table 14-4, R402, R403) -/

def leadIx (l : Lead) : Nat := match l with | .east => 1 | _ => 0
def leadOf (h : Nat) : Lead := if h = 0 then .west else .east

/-- The step-2 result of a half. -/
def startOk (h : StartHalf) : Bool := h.railOk && h.selfOk

/-- Half-fail: marked, posted and alerted. -/
def State.halfFail (s : State) (half : Nat) (h : StartHalf) : State :=
  if startOk h then s
  else
    ((s.modPwr fun p => if half = 0 then { p with wFail := true } else { p with eFail := true }).pwrEv half 0x28
      (BitVec.ofNat 64 (half + h.failUnit.toNat * 256))).alert 15

/-- Step 3: each half latches its straps; West's rack and slot are in effect, and a difference shows in both (15 R422). -/
def State.latchStraps (s : State) (w e : StartHalf) : State :=
  let mism := w.role != e.role || w.rack != e.rack || w.slot != e.slot
  let put := fun (h : FfHalf) (own : StartHalf) =>
    ({ h with strapValid := true, strapChg := false, badRole := own.role == 3, mism := mism, rack := w.rack, slot := w.slot
              role := own.role } : FfHalf)
  let s1 := (s.modFf 0 fun h => put h w).modFf 1 fun h => put h e
  if w.role = 3 then s1.post (s1.unitEv s1.ffUnit 0x1A 0 0xFF 3) else s1

/-- Step 3: the life-cycle counts are compared; the module takes the higher (13 R367). -/
def State.compareLcs (s : State) : State :=
  if s.fuse.lcsW = s.fuse.lcsE then s
  else
    s.pwrEv 0 0x29 (BitVec.ofNat 64 (s.fuse.lcsW.toNat + s.fuse.lcsE.toNat * 256))

/-- Step 6: who leads: each half takes it over both paths, and the other half is shadow (14 R405). -/
def State.decideLead (s : State) (east : Bool) : State :=
  let l : Lead := if east then .east else .west
  ((s.modPwr fun p => { p with lead := l }).modFf 0 fun h => { h with claim := !east, fenced := east, lead := l }).modFf 1 fun h =>
    { h with claim := east, fenced := !east, lead := l }

/-- The halves are split: a half that hears nothing claims the lead, and asks the manager (14 R405). -/
def State.splitHalf (s : State) (half : Nat) : State :=
  ((s.modFf half fun h => { h with split := true, ruled := false, claim := true, lead := leadOf half, splitAt := s.pwr.ffTime }).alert 14).mgmt
    s.mgrRank (.leadQuery s.rank half)

/-- Step 6: West leads when its self-check passed, East otherwise; two sound halves that do not hear each other are split, and arbitration
waits for a ruling or the default (14 R403, R405, Table 14-4). -/
def State.arbitrate (s : State) (w e : StartHalf) : State :=
  let p := s.pwr
  let s1 := (s.modFf 0 fun h => { h with selfOk := !p.wFail, sbOk := w.sbOk, pinOk := w.pinOk }).modFf 1 fun h =>
    { h with selfOk := !p.eFail, sbOk := e.sbOk, pinOk := e.pinOk }
  let deaf := fun (h : StartHalf) => !h.sbOk && !h.pinOk
  if !p.wFail && !p.eFail && (deaf w || deaf e) then (s1.splitHalf 0).splitHalf 1
  else (s1.decideLead p.wFail).modPwr fun p => { p with step := 6 }

/-- Whether start-up has reached P (14 R402). -/
def State.atP (s : State) : Bool :=
  let h := s.ff s.leadHalf
  s.pwr.supply && (s.ff0.up || s.ff1.up) && h.pwrEn && h.coolOk && !s.pwr.inReset && !s.pwr.stopped && s.pwr.start
    && s.pwr.step == 1 && !s.pwr.tripLat && !s.pwr.supLat

/-- Step 2: the main rails, and the self-check of each half. With both halves failed the module goes no further: it is wiped and Dark, or in
Standby when a rail failed (14 R402, R403, 13 R370). -/
def State.startRails (s : State) (w e : StartHalf) : State :=
  let clear := fun (h : FfHalf) => { h with split := false, ruled := false }
  let s0 := ((s.modFf 0 clear).modFf 1 clear).modPwr fun p => { p with rails := true, step := 2, wFail := false, eFail := false }
  let s1 := (s0.halfFail 0 w).halfFail 1 e
  if startOk w || startOk e then s1
  else if w.railOk && e.railOk then s1.wipe.modPwr fun p => { p with state := .dark, stopped := true }
  else (s1.keepMem (fun _ => false) fun _ => false).modPwr fun p => { p with state := .standby, rails := false, stopped := true }

/-- Step 7: sessions are accepted, the PCIe endpoints are up, and the counter of unkeyed frames starts at a drawn value. Outside FIELD
start-up ends here (14 R402, 11 R330). -/
def State.startSessions (s : State) : State :=
  let r1 := s.draw 64
  (((r1.2.modLink fun l => { l with floodCtr := r1.1 }).modPwr fun p => { p with step := 7, start := s.lcs == 2 }).modFf 0 fun h =>
    { h with pcieUp := true }).modFf 1 fun h => { h with pcieUp := true }

/-- Step 8, in FIELD: the module goes to Idle with its ports on, and a manager-strapped module acts (14 R402, 11 R327). -/
def State.startIdle (s : State) : State :=
  let s1 := s.modPwr fun p => { p with step := 8, start := false, state := .idle }
  if s1.role == 1 then s1.becomeManager else s1

/-- A step of Table 14-4, once the step before it is complete (14 R402). -/
def State.startStep (w e : StartHalf) (s : State) (k : Nat) : State :=
  if s.pwr.stopped ∨ s.pwr.step.toNat + 1 ≠ k then s
  else match k with
    | 2 => s.startRails w e
    | 3 => ((s.latchStraps w e).compareLcs).modPwr fun p => { p with step := 3 }
    | 4 => s.wipe.modPwr fun p => { p with step := 4 }
    | 5 => s.modPwr fun p => { p with step := 5, state := .dark }
    | 6 => s.arbitrate w e
    | 7 => s.startSessions
    | 8 => if s.lcs = 2 then s.startIdle else s
    | _ => s

/-- The steps 2 to `n`, in order. -/
def State.startTo (s : State) (w e : StartHalf) (n : Nat) : State :=
  ([2, 3, 4, 5, 6, 7, 8].filter fun k => decide (k ≤ n)).foldl (State.startStep w e) s

/-- START_UP: at P the steps of Table 14-4 run in order, with what the self-check and the straps of each half give. -/
def execStartUp (w e : StartHalf) (s : State) : Host.Outcome State Fault Refusal := .next (if s.atP then s.startTo w e 8 else s)

/-- START_TIMEOUT: a step exceeds twice its bound: the steps before it are complete, it is posted, and the module proceeds no further until a
reset (14 R403). -/
def execStartTimeout (late : LateStep) (s : State) : Host.Outcome State Fault Refusal :=
  let n := late.step
  let due := (s.pwr.step.toNat == 0 && n == 1) || (s.atP && decide (2 ≤ n) && decide (n ≤ 8)) || (s.pwr.step.toNat == 5 && n == 6)
  .next (if s.pwr.supply && s.pwr.start && !s.pwr.stopped && due then
      let s1 := if s.atP then s.startTo late.w late.e (n - 1) else s
      if s1.pwr.stopped then s1
      else (s1.modPwr fun p => { p with stopped := true }).pwrEv s1.leadHalf 0x2B (BitVec.ofNat 64 n)
    else s)

/-! ### Service inputs (15 R419, Table 15-6) -/

/-- The level in effect of an input of a half: 0 RESET_L asserted, 1 PWR_EN, 2 COOLANT_OK. -/
def FfHalf.level (h : FfHalf) (k : Nat) : Bool := match k with | 0 => h.resetIn | 1 => h.pwrEn | _ => h.coolOk
def FfHalf.setLevel (h : FfHalf) (k : Nat) (v : Bool) : FfHalf :=
  match k with | 0 => { h with resetIn := v } | 1 => { h with pwrEn := v } | _ => { h with coolOk := v }
def FfHalf.latched (h : FfHalf) (k : Nat) : Bool := match k with | 0 => h.rstF | 1 => h.pwrF | _ => h.coolF
def FfHalf.setLatch (h : FfHalf) (k : Nat) (v : Bool) : FfHalf :=
  match k with | 0 => { h with rstF := v } | 1 => { h with pwrF := v } | _ => { h with coolF := v }
def FfHalf.pin (h : FfHalf) (k : Nat) : Bool := match k with | 0 => h.pinReset | 1 => h.pinPwr | _ => h.pinCool
def FfHalf.setPin (h : FfHalf) (k : Nat) (v : Bool) : FfHalf :=
  match k with | 0 => { h with pinReset := v } | 1 => { h with pinPwr := v } | _ => { h with pinCool := v }
def FfHalf.changes (h : FfHalf) (k : Nat) : List W64 := match k with | 0 => h.chgS | 1 => h.chgP | _ => h.chgC
def FfHalf.setChanges (h : FfHalf) (k : Nat) (l : List W64) : FfHalf :=
  match k with | 0 => { h with chgS := l } | 1 => { h with chgP := l } | _ => { h with chgC := l }

/-- The changes of an input within the last second of Firefly time. -/
def FfHalf.recent (h : FfHalf) (now : W64) (k : Nat) : List W64 :=
  (h.changes k).filter fun t => decide (now.toNat < t.toNat + 1000000000)

/-- RESET_L asserted in effect: the functional logic is held in reset and the rails stay as they are; PWR_STATE shows Dark again once the wipe
is complete (14 R404, 13 R370; log 49, DESIGN CHOICE). -/
def State.holdReset (s : State) : State :=
  let s1 := s.funcReset
  s1.modPwr fun p => { p with inReset := true, state := .standby }

/-- RESET_L released: the sessions of the hold close, and start-up has step 2 before it. -/
def State.releaseReset (s : State) : State :=
  (s.closeSessions fun _ => true).modPwr fun p => { p with inReset := false, start := true }

/-- What a change of the leading half's levels does. PWR_EN deasserted prevails, and its assertion brings on an input fault that waits for it
(15 R428). -/
def State.levelsChanged (s : State) (old new : FfHalf) : State :=
  let s1 := if old.pwrEn ∧ !new.pwrEn then s.railsOff else s
  let s2 := if !old.resetIn ∧ new.resetIn then s1.holdReset
    else if old.resetIn ∧ !new.resetIn then s1.releaseReset else s1
  let s3 := if old.coolOk ∧ !new.coolOk then s2.modPwr fun p => { p with coolTimer := true, coolTime := p.ffTime }
    else if !old.coolOk ∧ new.coolOk then s2.modPwr fun p => { p with coolTimer := false }
    else s2
  match s3.pwr.supDue with
  | some mv =>
    if !old.pwrEn ∧ new.pwrEn then s3.railTrip 0x24 12 (mv.setWidth 64) fun p => { p with supLat := true, supDue := none } else s3
  | none => s3

/-- Replace a half's inputs and act on them when it leads. -/
def State.inputs (s : State) (half : Nat) (h : FfHalf) : State :=
  let old := s.ff half
  let s1 := s.modFf half fun _ => h
  if half = s.leadHalf ∧ old.up then s1.levelsChanged old h else s1

/-- A filtered change of an input: ignored while the input is latched; the ninth within 1 s latches it as failed, asserted but
for COOLANT_OK, whose 100 ms count from the latch, and posts Service-input (15 R419, R428). -/
def State.pinTo (s : State) (half k : Nat) (v : Bool) : State :=
  let h0 := s.ff half
  let h := h0.setPin k v
  if !h.up then s.modFf half fun _ => h
  else if h.latched k ∨ h.level k = v then s.modFf half fun _ => h
  else
    let times := h.recent s.pwr.ffTime k ++ [s.pwr.ffTime]
    if 9 ≤ times.length then
      let s1 := s.inputs half (((h.setChanges k times).setLatch k true).setLevel k (k != 2))
      let s2 := if k = 2 ∧ half = s.leadHalf then s1.modPwr fun p => { p with coolTimer := true, coolTime := p.ffTime } else s1
      s2.post (s2.unitEv (unitIndex 8 half) 0x1A 0 0xFF (BitVec.ofNat 64 k))
    else s.inputs half ((h.setChanges k times).setLevel k v)

/-- An OPERATOR session clears latched inputs: each takes its pin's level, and its count starts from zero (15 R419). -/
def State.clearLatches (s : State) (half : Nat) (bits : W32) : State :=
  (List.range 3).foldl (fun s k =>
    let h := s.ff half
    if bits.getLsbD k && h.latched k then
      s.inputs half (((h.setLatch k false).setChanges k []).setLevel k (h.pin k))
    else s) s

def execResetLAssert (half : Nat) (s : State) : Host.Outcome State Fault Refusal := .next (s.pinTo half 0 true)
def execResetLRelease (half : Nat) (s : State) : Host.Outcome State Fault Refusal := .next (s.pinTo half 0 false)
def execPwrEnAssert (half : Nat) (s : State) : Host.Outcome State Fault Refusal := .next (s.pinTo half 1 true)
def execPwrEnDeassert (half : Nat) (s : State) : Host.Outcome State Fault Refusal := .next (s.pinTo half 1 false)
def execCoolantOkAssert (half : Nat) (s : State) : Host.Outcome State Fault Refusal := .next (s.pinTo half 2 true)
def execCoolantOkDeassert (half : Nat) (s : State) : Host.Outcome State Fault Refusal := .next (s.pinTo half 2 false)

/-- STRAP_CHANGE: a strap pin changes after the latch (15 R422). -/
def execStrapChange (half : Nat) (s : State) : Host.Outcome State Fault Refusal :=
  .next (s.modFf half fun h => if h.strapValid then { h with strapChg := true } else h)

/-- PERST_L: one half's link and configuration space reset, and the link trains again; staging accesses in flight end with no effect on the
host side, and the sessions of its mailbox close, with the chunks they hold (15 R414, R428; log 160, DEDUCED). -/
def execPerstL (half : Nat) (s : State) : Host.Outcome State Fault Refusal :=
  .next ((s.modLink fun l => { l with host := l.host.filter fun e => e.1 != half }).closeSessions fun k => k.via == .pcie half)

/-! ### Clocks (14 R398 to R400, R408) -/

/-- AO_REFCLK_LOSS: the domain continues on its internal oscillator (14 Table 14-7). -/
def execAoRefclkLoss (half : Nat) (freq : W32) (s : State) : Host.Outcome State Fault Refusal :=
  .next (if (s.ff half).up then
      ((s.modFf half fun h => { h with clkInt := true }).pwrEv half 0x25 (freq.setWidth 64)).alert 13
    else s)

/-- AO_REFCLK_RETURN: the domain leaves its internal oscillator (15 R429). -/
def execAoRefclkReturn (half : Nat) (s : State) : Host.Outcome State Fault Refusal :=
  .next (s.modFf half fun h => { h with clkInt := false })

/-- PLL_LOCK: a die's PLL locks while its fabric is on (14 R398). -/
def execPllLock (die : Nat) (s : State) : Host.Outcome State Fault Refusal :=
  .next (if s.opticsOn then s.modDie die fun d => { d with pll := true } else s)

/-- The partitions with cores on a die. -/
def State.partsOnDie (s : State) (die : Nat) : List Nat :=
  (s.parts.filter fun x => x.2.loaded && x.2.cores.any fun k => k / 128 == die).map (·.1)

/-- PLL_FAIL: not locked within 100 µs: the steps of the partitions on the die are retracted (14 Table 14-7). -/
def execPllFail (die : Nat) (s : State) : Host.Outcome State Fault Refusal :=
  let ps := s.partsOnDie die
  .next ((if ps.isEmpty then [0xFF] else ps).foldl (fun s p =>
    s.post (s.unitEv (unitDie 5 die) 0x2A 0 p (BitVec.ofNat 64 die))) (s.modDie die fun d => { d with pll := false }))

/-- The cap in force: values above TDP act as TDP. -/
def State.capW (s : State) : Nat := min s.pwr.cap.toNat s.tdp

/-- The highest operating point that every limit allows (14 R400). -/
def Die.limit (d : Die) : BitVec 2 := BitVec.ofNat 2 (min d.oppMax.toNat (min d.capLim.toNat d.thLim.toNat))

/-- A die moves to the point its limits allow: 1 for the cap, 2 for the temperature, 3 for management (14 R399, Table 14-9). -/
def Die.moved (d : Die) (cause : Nat) : Die :=
  { d with oppCur := d.limit, oppCause := if d.limit = d.oppCur then d.oppCause else BitVec.ofNat 2 cause }

/-- A die's limits change: where that moves it, the change counts as a throttle of its half when it lowers the die, and is posted: a Cap event
for the cap, a Throttle event for temperature and management (14 R400, R410; log 156, DESIGN CHOICE). -/
def State.moveDie (s : State) (die cause watts : Nat) (f : Die → Die) : State :=
  let old := (s.die die).oppCur
  let s1 := s.modDie die fun d => (f d).moved cause
  let new := (s1.die die).oppCur
  if new = old then s1
  else
    let s2 := if new < old ∧ cause ≠ 3 then s1.modFf (halfOfDie die) fun h => { h with throttles := satAdd h.throttles 1 } else s1
    let base := die + new.toNat * 256
    if cause = 1 then (s2.pwrEv (halfOfDie die) 0x21 (BitVec.ofNat 64 (base + watts * 65536))).alert 9
    else (s2.pwrEv (halfOfDie die) 0x20 (BitVec.ofNat 64 base)).alert 8

/-- The die that the controller raises when the power allows: the lowest-numbered one that the cap holds down (14 R400; log 155, DESIGN
CHOICE). -/
def State.capRaise (s : State) : Option Nat :=
  (List.range 12).find? fun d => decide ((s.die d).capLim.toNat < min (s.die d).oppMax.toNat (s.die d).thLim.toNat)

/-- CAP_THROTTLE: the power average of 10 ms against the cap: the hottest die above the lowest point steps down, unless the temperature has
lowered it in this period, or one die that the cap holds down steps up after 100 ms below 95 % (14 R400, R409). -/
def execCapThrottle (avg : InputPower) (hottest : Nat) (under : Bool) (s : State) : Host.Outcome State Fault Refusal :=
  let s0 := (s.modFf 0 fun h => { h with pwrW := avg.west }).modFf 1 fun h => { h with pwrW := avg.east }
  let w := avg.west.toNat + avg.east.toNat
  let d := s.die hottest
  let s1 := if s.capW < w then
      (if hottest < 12 ∧ d.oppCur ≠ 0 ∧ d.lowered ≠ 2 then
        s0.moveDie hottest 1 w fun d => { d with capLim := d.oppCur - 1, lowered := 1 }
       else s0)
    else if under && decide (w * 100 < 95 * s.capW) then
      (match s.capRaise with
       | some k => s0.moveDie k 1 w fun d => { d with capLim := d.capLim + 1 }
       | none => s0)
    else s0
  .next ((List.range 12).foldl (fun s k => if (s.die k).lowered = 2 then s.modDie k fun d => { d with lowered := 0 } else s) s1)

/-- The samples of a die enter the sensor table (14 R401). -/
def State.takeTemps (s : State) (die : Nat) (t : DieTemps) : State :=
  s.modPwr fun p =>
    let rows := t.rows.zipIdx.foldl (fun m x => tset 0 m (9 * die + x.2 % 9) x.1) p.temps
    { p with temps := t.hbm.zipIdx.foldl (fun m x => tset 0 m (108 + 2 * die + x.2 % 2) x.1) rows }

/-- THERMAL_THROTTLE: a die's sensors every 10 ms: with one at 100 °C or more a step down, unless the cap has lowered the die in this period;
after 1 s with all below 90 °C a step up (14 R400, R409; log 83, DEDUCED). -/
def execThermalThrottle (die : Nat) (temps : DieTemps) (cool1s : Bool) (s : State) : Host.Outcome State Fault Refusal :=
  let s0 := s.takeTemps die temps
  let d := s.die die
  let all := temps.rows ++ temps.hbm
  let rest := fun (d : Die) => { d with lowered := if d.lowered = 1 then 0 else d.lowered }
  .next (if all.any fun t => decide (800 ≤ t.toInt) then
      (if d.oppCur ≠ 0 ∧ d.lowered ≠ 1 then
        s0.moveDie die 2 0 fun d => { d with thLim := d.oppCur - 1, lowered := 2 }
       else s0.modDie die rest)
    else if cool1s && (all.all fun t => decide (t.toInt < 720)) && decide (d.thLim < 2) then
      s0.moveDie die 2 0 fun d => rest { d with thLim := d.thLim + 1 }
    else s0.modDie die rest)

/-! ### Loss of cooling and supply (14 R406, R407) -/

/-- Whether an address lies in a memory that a shutdown loses: every SRAM (14 Table 14-6). -/
def lostAt (a : Nat) : Bool := decide (24 * 2 ^ 37 ≤ a)

/-- The cores, dies and ports of a module that goes to Dark: HBM in self-refresh keeps its bytes (14 R393, Table 14-6). -/
def State.goDark (s : State) : State :=
  let s1 := (List.range 24).foldl (fun s p => if (s.port p).en then s.portDown p .down else s) s
  { s1.keepMem (fun a => !lostAt a) (fun a => !lostAt a) with
    cores := s1.cores.filterMap fun c =>
      let k : Core := { pos := c.2.pos, part := c.2.part, epoch := c.2.epoch }
      if k = {} then none else some (c.1, k)
    dies := s1.freshDies, upds := []
    pwr := { s1.pwr with state := .dark } }

/-- COOLANT_SHUTDOWN: 100 ms without coolant: posted and latched, streams frozen, the module drained and the event reported to the acting
manager, then Dark; in a split without a ruling each half posts it (14 R406, R409). -/
def execCoolantShutdown (s : State) : Host.Outcome State Fault Refusal :=
  .next (if s.pwr.coolTimer && !(s.ff s.leadHalf).coolOk && s.pwr.state != .standby && s.pwr.rails && !s.pwr.inReset then
      let halves := if s.managing then [s.leadHalf] else [0, 1]
      let s1 := (halves.foldl (fun s h => s.pwrEv h 0x22 s.pwr.coolTime)
        (s.modPwr fun p => { p with coolLat := true, coolTimer := false })).alert 10
      ((s1.freezeAll.drainModule 16 0x22).mgmt s1.mgrRank (.report 0x22 s.pwr.coolTime)).goDark
    else s)

/-- SUPPLY_FAULT: the input above 62 V, or between 38 V and 40 V, for its time; the latter waits for PWR_EN to be asserted (14 R407, 15
R428). -/
def execSupplyFault (mv : W16) (s : State) : Host.Outcome State Fault Refusal :=
  let low := decide (38000 ≤ mv.toNat) && decide (mv.toNat < 40000)
  .next (if s.pwr.supply && (decide (62000 < mv.toNat) || low) then
      (if low && !(s.ff s.leadHalf).pwrEn then (s.setVin mv).modPwr fun p => { p with supDue := some mv }
       else (s.setVin mv).railTrip 0x24 12 (mv.setWidth 64) fun p => { p with supLat := true })
    else s)

/-- THERM_TRIP: a sensor at 115 °C or more (14 R407). -/
def execThermTrip (sensor : Byte) (reading : W16) (s : State) : Host.Outcome State Fault Refusal :=
  .next (if s.pwr.supply && decide (920 ≤ reading.toInt) then
      (s.modPwr fun p => { p with temps := tset 0 p.temps sensor.toNat reading }).railTrip 0x23 11 (BitVec.ofNat 64 (sensor.toNat + reading.toNat * 256)) fun p =>
        { p with tripLat := true, thermPin := true }
    else s)

/-! ### Twin arbitration (14 R405) -/

/-- A half leads; a change of lead closes every session, and the other half becomes shadow. -/
def State.setLead (s : State) (h : Nat) : State :=
  let s1 := s.modPwr fun p => { p with lead := leadOf h }
  if leadOf h = s.pwr.lead then s1 else s1.closeSessions fun _ => true

/-- A half learns who leads: it leads or steps down (14 R405). -/
def State.learnLead (s : State) (half lead : Nat) : State :=
  (s.setLead lead).modFf half fun h => { h with claim := half == lead, fenced := half != lead, ruled := true, lead := leadOf lead }

/-- Management work that waited for the end of a split goes on (14 R405; log 159, DEDUCED). -/
def State.resumeWork (s : State) : State :=
  if !s.managing then s
  else s.mgr.deferred.foldl (fun s d => match d with
    | .gate job value ls => s.gateApply job value ls
    | .retract m parity => s.hearRetract m parity
    | .report m => s.managerHear m) (s.modMgr fun g => { g with deferred := [] })

/-- Start-up goes on once arbitration is decided (14 Table 14-4). -/
def State.resumeStart (s : State) : State :=
  if s.pwr.start ∧ !s.pwr.stopped ∧ s.pwr.step = 5 ∧ s.pwr.lead ≠ .undecided then
    let s1 := (s.modPwr fun p => { p with step := 6 }).startSessions
    if s.lcs = 2 then s1.startIdle else s1
  else s

/-- The Split event, once the split is ruled: half, ruling and ms to the ruling (Table 14-7; log 82, DEDUCED). -/
def State.splitEv (s : State) (half lead : Nat) : State :=
  let ms := (s.pwr.ffTime - (s.ff half).splitAt).toNat / 1000000
  s.pwrEv half 0x26 (BitVec.ofNat 64 (half + lead * 256 + ms * 65536))

/-- TWIN_HEARTBEAT: a heartbeat on a path: the path is up, a split ends, and a half whose claim disagrees with the lead steps
down. Paths: 0 sideband, 1 pin loop. -/
def execTwinHeartbeat (half path : Nat) (selfOk claimsLead : Bool) (s : State) : Host.Outcome State Fault Refusal :=
  let s1 := s.modFf half fun h => if path = 0 then { h with sbOk := true } else { h with pinOk := true }
  let s2 := s1.modPwr fun p => if half = 0 then { p with eFail := p.eFail || !selfOk } else { p with wFail := p.wFail || !selfOk }
  let lead := leadIx s.pwr.lead
  .next (if !(s.ff half).up then s
    else if s.pwr.lead = .undecided then
      (if (s.ff half).split then
        let end_ := fun (h : FfHalf) => { h with split := false, ruled := false }
        ((((s1.modFf 0 end_).modFf 1 end_).decideLead s.pwr.wFail).resumeWork).resumeStart
       else s1)
    else
      (s2.modFf half fun h =>
        { h with
          split := false, ruled := false, lead := s.pwr.lead
          claim := if half != lead && claimsLead then false else h.claim && half == lead
          fenced := half != lead }).resumeWork.resumeStart)

/-- HEARTBEAT_PATH_LOSS: 100 ms without a heartbeat on a path: posted while the other carries them, else the halves are split:
this half claims lead and sends a Lead-query (14 R405). -/
def execHeartbeatPathLoss (half path : Nat) (s : State) : Host.Outcome State Fault Refusal :=
  let h := s.ff half
  let other := if path = 0 then h.pinOk else h.sbOk
  .next (if !h.up || !(if path = 0 then h.sbOk else h.pinOk) then s
    else
      let s1 := s.modFf half fun h =>
        { (if path = 0 then { h with sbOk := false } else { h with pinOk := false } : FfHalf) with hbLoss := satAdd h.hbLoss 1 }
      if other then s1.pwrEv half 0x27 (BitVec.ofNat 64 path)
      else s1.splitHalf half)

/-- LEAD_QUERY: the manager hears a half's query. -/
def execLeadQuery (rank half : Nat) (s : State) : Host.Outcome State Fault Refusal :=
  .next (if s.mgr.acting && !s.mgr.queries.contains (rank, half) then
      s.modMgr fun g => { g with queries := g.queries ++ [(rank, half)] }
    else s)

/-- LEAD_RULING: 500 ms after the first query the manager rules West when West has asked, else East. -/
def execLeadRuling (rank : Nat) (s : State) : Host.Outcome State Fault Refusal :=
  .next (if s.mgr.acting && s.mgr.queries.any fun q => q.1 == rank then
      let h := if s.mgr.queries.contains (rank, 0) then 0 else 1
      (s.modMgr fun g =>
        { g with queries := g.queries.filter fun q => q.1 != rank, rulings := g.rulings ++ [(rank, h)] }).mgmt rank (.leadRuling h)
    else s)

/-- LEAD_RULING_RECEIPT: a split half receives the ruling, and leads or becomes shadow. -/
def execLeadRulingReceipt (half lead : Nat) (s : State) : Host.Outcome State Fault Refusal :=
  .next (if (s.ff half).split ∧ !(s.ff half).ruled then
      ((if half = lead then (s.learnLead half lead).splitEv half lead else s.learnLead half lead).resumeWork).resumeStart
    else s)

/-- SPLIT_DEFAULT: no ruling within 2 s: West leads. -/
def execSplitDefault (half : Nat) (s : State) : Host.Outcome State Fault Refusal :=
  .next (if (s.ff half).split ∧ !(s.ff half).ruled then
      ((if half = 0 then (s.learnLead half 0).splitEv half 0 else s.learnLead half 0).resumeWork).resumeStart
    else s)

/-- FIREFLY_WATCHDOG: a domain restarts: its registers and its event queue are lost, its firmware starts again, and it comes up
shadow if the other half leads or claims lead; its inputs take their pins' levels, with the effects of Table 15-6; the data plane is untouched
(14 R404, R405, 15 R419; log 86, DEDUCED). -/
def execFireflyWatchdog (half : Nat) (s : State) : Host.Outcome State Fault Refusal :=
  let h := s.ff half
  let o := s.ff (1 - half)
  .next (if !h.up then s
    else
      let shadow := leadIx s.pwr.lead != half || (o.up && o.claim)
      let s1 := match s.bootImage with | some k => s.boot k | none => s
      let s2 := s1.inputs half
        { h with
          split := false, ruled := false, hbLoss := 0, sbOk := false, pinOk := false, claim := !shadow, fenced := shadow
          clkInt := false, chgS := [], chgP := [], chgC := [], rstF := false, pwrF := false, coolF := false
          resetIn := h.pinReset, pwrEn := h.pinPwr, coolOk := h.pinCool, lead := s.pwr.lead, pwrW := 0, throttles := 0 }
      let s3 := s2.modEv fun v => if half = 0 then { v with q0 := [] } else { v with q1 := [] }
      if leadIx s.pwr.lead = half then s3.closeSessions fun _ => true else s3)

/-! ### The midline bridge (01 R25) -/

/-- BRIDGE_SEGMENT_FAILURE: one segment fails, and the other carries all traffic between the halves, or none is left (01 R25). The
record's UNIT index and DETAIL are the segment number, 0 for N and 1 for S, and its mailbox that of West for N and of East for S
(log 118, DESIGN CHOICE). -/
def execBridgeSegmentFailure (k : Nat) (s : State) : Host.Outcome State Fault Refusal :=
  let s1 := s.modLink fun l => if k = 0 then { l with bridgeN := false } else { l with bridgeS := false }
  .next (s1.post (s1.unitEv (unitIndex 0xB k) 0x12 0 0xFF (BitVec.ofNat 64 k)))

end Sys2Proof.Machine
end

