-- ==== Sys2Proof/Machine/Registers.lean ====
section
/-! DEFINITION. The unit register region (Table 7-2, R199): what each register reads, word by word of 64 bits, and what a
session may write (R16 to R18, 13 Table 13-5). The register tables are 4-9 to 4-13, 5-7 to 5-14, 7-8 to 7-14, 9-8 to 9-18,
10-6 to 10-9, 11-7 and 11-8, 12-7 and 12-8, 13-6 to 13-9, 14-8 and 14-9, 15-10 and 15-11. -/

namespace Sys2Proof.Machine

/-- A word from its fields: pairs of lowest bit and value. -/
def pk (fs : List (Nat × Nat)) : W64 := BitVec.ofNat 64 (fs.foldl (fun a f => a + f.2 * 2 ^ f.1) 0)

def bn (b : Bool) : Nat := if b then 1 else 0

/-- Word `k` of a register wider than 64 bits. -/
def wordOf {n : Nat} (v : BitVec n) (k : Nat) : W64 := (v >>> (64 * k)).setWidth 64

/-! ### Core blocks -/

/-- Code of a stream state (Table 5-1). -/
def SState.code (x : SState) : Nat := match x with | .stopped => 0 | .running => 1 | .held => 2 | .halted => 3 | .frozen => 4

/-- A loop stack entry as two words (05 R166). The 12-bit length field shows a body of 4,096 as 0 (log 119, DESIGN CHOICE). -/
def loopWord (e : Option LoopEnt) (k : Nat) : W64 :=
  match e with
  | none => 0
  | some e => if k = 0 then e.start >>> 4 else pk [(0, e.len % 2 ^ 12), (32, e.count.toNat)]

/-- A stream's registers (Tables 5-7 to 5-14). Entry 0 of the loop stack is the oldest (log 119, DESIGN CHOICE). -/
def seqWord (st : Stream) (o : Nat) : W64 :=
  let dep := fun (e : Engine) => min 31 (st.queue e).length
  match o with
  | 0x000 => pk [(12, st.stall), (11, bn st.inop), (8, st.loops.length), (0, st.state.code)]
  | 0x008 => st.pc >>> 4 <<< 4
  | 0x010 => pk [(30, dep .syn), (25, dep .upd), (20, dep .xch), (15, dep .pack), (10, dep .vec), (5, dep .mx), (0, dep .str)]
  | 0x018 => st.stime
  | 0x020 => st.stalls
  | 0x028 => pk [(0, st.shape[0].toNat), (32, st.shape[1].toNat)]
  | 0x030 => pk [(0, st.shape[2].toNat), (32, st.shape[3].toNat)]
  | 0x038 => st.step
  | 0x040 => pk [(24, st.opid.toNat), (16, st.attempt.toNat), (12, st.rung.toNat), (11, bn st.wide), (10, bn st.chained)
                 , (8, bn st.ckhold), (0, st.wbuf.length)]
  | 0x048 => pk [(12, st.faultQ), (0, st.fault)]
  | 0x050 => st.fpc >>> 4 <<< 4
  | _ =>
    if 0x100 ≤ o ∧ o < 0x180 then (st.a.toList[(o - 0x100) / 8]?).getD 0
    else if 0x180 ≤ o ∧ o < 0x200 then (st.s.toList[(o - 0x180) / 8]?).getD 0
    else if 0x200 ≤ o ∧ o < 0x240 then ((st.c.toList[(o - 0x200) / 8]?).getD 0).setWidth 64
    else if 0x240 ≤ o ∧ o < 0x280 then
      loopWord (st.loops.reverse[(o - 0x240) / 16]?) ((o - 0x240) / 8 % 2)
    else 0

/-- Bank state and owner codes (Table 4-10). -/
def BankState.code (x : BankState) : Nat := match x with | .empty => 0 | .opened => 1 | .closed => 2 | .draining => 3
def ownerCode (o : Option Pass) : Nat := match o with | some p => passIx p | none => 3

/-- Whether an engine of a core runs an instruction. -/
def Core.runs (c : Core) (e : Engine) : Bool := [c.fwd, c.bwd, c.upd].any fun st => st.run.any fun r => r.q.eng == e

/-- The matrix engine's registers (Tables 4-9 to 4-13). -/
def mxWord (c : Core) (o : Nat) : W64 :=
  match o with
  | 0x000 => pk [(8, c.ckRate.toNat), (0, c.ckPhase.toNat)]
  | 0x008 => pk [(22, ownerCode c.b1.owner), (20, ownerCode c.b0.owner), (18, c.b1.state.code), (16, c.b0.state.code)
                 , (3, bn c.mxWide), (2, bn c.ckf), (1, bn c.bankf)
                 , (0, bn (c.runs .mx || !c.drains.isEmpty || c.b0.state == .draining || c.b1.state == .draining))]
  | 0x010 => pk [(48, c.ckFail.toNat), (32, c.ckSkip.toNat), (0, c.ckDone.toNat)]
  | 0x018 => c.lastDig
  | 0x020 => c.ckLoc.setWidth 64
  | _ => 0

/-- An error counter register (Table 7-10). -/
def eccWord (e : EccCnt) : W64 := pk [(32, e.ce.toNat), (16, e.ue.toNat), (0, e.par.toNat)]

/-- A window's two registers (Table 7-12). -/
def winWord (w : Win) (k : Nat) : W64 :=
  if k = 0 then w.base >>> 12 <<< 12
  else (w.last >>> 12 <<< 12) ||| pk [(2, bn w.v), (1, bn w.wr), (0, bn w.rd)]

/-- The stream engine's registers (Tables 7-8 to 7-12). -/
def strWord (c : Core) (o : Nat) : W64 :=
  match o with
  | 0x000 => pk [(16, c.ctxs.length), (3, bn c.strUe), (2, bn c.strPar), (1, bn c.strBnd), (0, bn (c.runs .str))]
  | 0x008 => pk [(0, c.mergeWin.toNat)]
  | 0x010 => c.baddr
  | 0x018 => pk [(16, c.bcount.toNat), (14, c.bstream.toNat), (12, c.bcause.toNat), (0, c.bctx.toNat)]
  | 0x020 => eccWord c.ecc
  | _ => if 0x100 ≤ o ∧ o < 0x200 then winWord (tget {} c.wins ((o - 0x100) / 16)) ((o - 0x100) / 8 % 2) else 0

/-- A core block. The vector engine has no register (log 34, DEDUCED). -/
def coreWord (c : Core) (o : Nat) : W64 :=
  if o < 0x1000 then
    (if o / 0x400 < 3 then seqWord (match o / 0x400 with | 0 => c.fwd | 1 => c.bwd | _ => c.upd) (o % 0x400) else 0)
  else if o < 0x2000 then mxWord c (o - 0x1000)
  else if o < 0x3000 then strWord c (o - 0x2000)
  else 0

/-! ### Die blocks -/

/-- The die registers of a stream engine (Tables 7-13, 7-14). -/
def dieStrWord (d : Die) (o : Nat) : W64 :=
  match o with
  | 0x000 => eccWord d.decc
  | 0x008 => eccWord d.hecc0
  | 0x010 => eccWord d.hecc1
  | 0x020 => pk [(8, d.scrubPeriod.toNat), (0, bn d.scrubEn)]
  | _ =>
    if 0x100 ≤ o ∧ o < 0x200 then
      let c := tget {} d.chans ((o - 0x100) / 8)
      pk [(48, c.tail.toNat), (32, c.head.toNat), (0, c.cache.length)]
    else 0

/-- Collective entries with work in progress on a die: chunks that are not finished, transfers, waiters, and receptions that are not
acknowledged (Table 9-14). -/
def Die.open (d : Die) : Nat :=
  (((d.chunks.filter fun c => !c.finished).map fun c => (c.part, c.coll)) ++ (d.swarms.map fun c => (c.part, c.coll))
    ++ (d.gathers.map fun c => (c.part, c.coll)) ++ (d.rx.filter fun c => !c.acked).map fun c => (c.part, c.coll)).eraseDups.length

/-- Whether a channel holds a descriptor that is still to be served. -/
def Chan.works (c : Chan) : Bool := (c.ring ++ c.cache ++ c.wait).any fun x => x.act != .void

/-- Whether an exchange engine holds work. -/
def Die.busy (d : Die) : Bool := decide (0 < d.open) || d.chans.any fun c => decide (c.1 < 16) && c.2.works

/-- The exchange engine's registers (Tables 9-13 to 9-18). -/
def State.xchWord (s : State) (die o : Nat) : W64 :=
  let d := s.die die
  match o with
  | 0x000 => pk [(8, min 255 d.open), (4, bn d.cf), (3, bn d.csumF), (2, bn d.lag), (1, bn d.stale), (0, bn d.busy)]
  | 0x008 => pk [(0, d.lagUs.toNat)]
  | 0x010 => pk [(0, d.ctoMs.toNat)]
  | 0x018 => pk [(48, d.cntLag.toNat), (32, d.cntCsum.toNat), (0, d.cntStale.toNat)]
  | 0x020 => d.cfault
  | _ =>
    if 0x100 ≤ o ∧ o < 0x180 then
      let p := s.part ((o - 0x100) / 8)
      pk [(32, p.retry.toNat), (0, fld p.openStep 31 0)]
    else 0

/-- Whether an update unit runs an UPD (10 R300, R313). -/
def State.updBusy (s : State) (u : Nat) : Bool := !(s.unit u).run.isEmpty

/-- An update unit's registers (Tables 10-6 to 10-8). -/
def State.updWord (s : State) (u o : Nat) : W64 :=
  let x := s.unit u
  match o with
  | 0x000 => pk [(3, bn x.smiss), (2, bn x.spec), (1, bn x.range), (0, bn (s.updBusy u))]
  | 0x008 => pk [(32, x.done.toNat), (16, x.nowrite.toNat), (0, x.rangec.toNat)]
  | 0x010 => pk [(32, x.clip.toNat), (0, x.sexp.toNat)]
  | _ =>
    if 0x100 ≤ o ∧ o < 0x180 then
      let a := tget (0, 0) x.tabA ((o - 0x100) / 8)
      let b := tget (0, 0) x.tabB ((o - 0x100) / 8)
      pk [(40, a.1.toNat), (32, a.2.toNat), (8, b.1.toNat), (0, b.2.toNat)]
    else 0

/-! ### Control-die blocks -/

def ObjType.code (x : ObjType) : Nat := match x with | .flag => 0 | .count => 1 | .work => 2 | .gate => 3

/-- A sync object's register (Table 9-12). -/
def objWord (o : SyncObj) : W64 :=
  pk [(62, o.type.code), (58, o.part), (57, bn o.alloc), (56, bn o.mirr), (32, o.fence.toNat), (0, o.value.toNat)]

/-- The SYN registers of a control die (Tables 9-8 to 9-12). -/
def State.synWord (s : State) (half o : Nat) : W64 :=
  let h := s.syn half
  match o with
  | 0x000 => pk [(2, bn h.sde), (1, bn h.zmb), (0, bn (h.mirr.any s.awaits))]
  | 0x008 => pk [(32, h.zEpoch.toNat), (0, h.zMask.toNat)]
  | 0x010 => h.zLast
  | 0x018 => pk [(48, h.dupSde.toNat), (32, h.dupUn.toNat), (0, h.dupBen.toNat)]
  | _ =>
    if 0x100 ≤ o ∧ o < 0x180 then pk [(0, (s.part ((o - 0x100) / 8)).epoch.toNat)]
    else if 0x80000 ≤ o ∧ o < 0x100000 then objWord (s.obj (65536 * half + (o - 0x80000) / 8))
    else 0

/-- Code of a port state (Table 11-3). -/
def PState.code (x : PState) : Nat :=
  match x with
  | .disabled => 0 | .down => 1 | .train => 2 | .discover => 3 | .active => 4 | .miswired => 5 | .quarantine => 6 | .failed => 7

/-- A port's registers (Tables 11-7, 11-8). -/
def State.lnkWord (s : State) (p o : Nat) : W64 :=
  let x := s.port p
  match o with
  | 0x000 => pk [(24, x.lport.toNat), (16, x.lanes.toNat), (8, x.fails.toNat), (5, bn x.msw), (4, bn x.qrn), (0, x.state.code)]
  | 0x008 => x.peer
  | 0x010 => pk [(48, x.peerVlow.toNat), (40, x.peerVmin.toNat), (32, x.peerVmaj.toNat), (16, x.peerRank.toNat)
                 , (8, x.peerPort.toNat), (0, x.peerRole.toNat)]
  | 0x018 => pk [(16, x.rto.toNat), (8, x.btag.toNat), (0, bn x.en)]
  | 0x020 => pk [(32, x.fecce.toNat), (16, x.hcrc.toNat), (0, x.auth.toNat)]
  | 0x028 => pk [(32, x.resent.toNat), (16, x.downs.toNat), (0, x.ttld.toNat)]
  | 0x030 => pk [(16, s.link.vlow.toNat), (8, s.link.vmin.toNat), (0, s.link.vmaj.toNat)]
  | _ => 0

/-- The image that runs, and one of the two (13 R390). -/
def State.fw (s : State) (k : Nat) : Fw := if k = 0 then s.sec.fw0 else s.sec.fw1
def State.fwNow (s : State) : Fw := s.fw s.sec.running

/-- Whether a half leads. -/
def State.leads (s : State) (half : Nat) : Bool :=
  match s.pwr.lead with | .west => half == 0 | .east => half == 1 | .undecided => false

/-- Units of a half that hold a record (Table 12-8). -/
def State.holding (s : State) (half : Nat) : Nat :=
  (s.ev.slots.filter fun x => unitHalf (BitVec.ofNat 32 x.1) == half && (x.2.ret.isSome || x.2.ord.isSome)).length

/-- Whether ALERT_L is driven (13 R389). -/
def State.alertOn (s : State) : Bool := s.sec.alert &&& s.sec.alertMask != 0

/-- The FF registers that describe a half or stand in both halves (Tables 13-6, 13-7, 12-8, 15-10, 15-11). -/
def State.ffOwnWord (s : State) (half o : Nat) : W64 :=
  let h := s.ff half
  let w := s.ldr
  match o with
  | 0x0000 => s.fuse.serial
  | 0x0008 => pk [(16, s.fwNow.svn.toNat), (8, s.sec.running), (4, bn (s.leads half)), (3, half), (0, bn s.fuse.gradeB)]
  | 0x0010 => s.pwr.ffTime
  | 0x0018 => pk [(16, w.wipeMs.toNat), (8, w.wipeCause.toNat), (3, bn w.wipeRing), (2, bn w.wipeHbm), (1, bn w.wipeSram)]
  | 0x0020 => pk [(16, h.ldr.count.toNat), (8, h.ldr.code.toNat), (1, bn h.ldr.scrub), (0, bn (!w.queue.isEmpty))]
  | 0x1000 => pk [(16, (if half = 0 then s.ev.q0 else s.ev.q1).length), (8, min 255 (s.holding half)), (3, bn s.ev.drain)
                  , (2, bn s.ev.degr), (1, bn (if half = 0 then s.ev.lostF else s.ev.lostF1))
                  , (0, bn (s.parts.any (fun x => x.2.handling.any fun u => unitHalf u == half)
                           || s.ev.handling.any fun x => unitHalf x.1 == half))]
  | 0x2000 => pk [(6, bn h.clkInt), (5, bn s.pwr.thermPin), (4, bn s.alertOn), (3, bn h.coolOk), (2, bn h.pwrEn)
                  , (1, bn h.resetIn)]
  | 0x2008 => pk [(24, min 255 (h.recent s.pwr.ffTime 2).length), (16, min 255 (h.recent s.pwr.ffTime 1).length)
                  , (8, min 255 (h.recent s.pwr.ffTime 0).length), (2, bn h.coolF), (1, bn h.pwrF), (0, bn h.rstF)]
  | 0x2010 => pk [(31, bn h.strapValid), (30, bn h.strapChg), (29, bn h.badRole), (28, bn h.mism), (7, h.rack.toNat)
                  , (2, h.slot.toNat), (0, h.role.toNat)]
  | _ => if 0x40 ≤ o ∧ o < 0x60 then BitVec.ofNat 64 (recNat h.ldr.report (o - 0x40) 8) else 0

/-- The FF registers of the module, which the lead's block holds (12 R366, 10 R313). -/
def State.ffLeadWord (s : State) (o : Nat) : W64 :=
  let v := s.ev
  match o with
  | 0x1008 => v.seq
  | 0x1010 => pk [(32, v.folded.toNat), (0, v.lost.toNat)]
  | 0x1018 => pk [(0, v.dwMs.toNat)]
  | 0x1020 => pk [(48, v.dwFires.toNat), (32, v.dwStops.toNat), (0, v.dwPart.toNat)]
  | 0x1028 => pk [(24, v.scanDie.toNat), (16, v.scanPos.toNat), (8, v.scanPeriod.toNat)]
  | 0x1030 => pk [(48, v.scanPattern.toNat), (36, v.scanLast / 72), (29, v.scanLast % 72), (1, v.scanResult.toNat)
                  , (0, bn (!v.scanning.isEmpty))]
  | 0x1038 => pk [(48, v.pinnedMiB.toNat), (0, v.overrun.toNat)]
  | _ =>
    if 0x1100 ≤ o ∧ o < 0x1180 then
      let c := tget {} v.capCfg ((o - 0x1100) / 8)
      pk [(24, c.opid.toNat), (2, bn c.data), (1, bn c.tile), (0, bn c.en)]
    else if 0x4000 ≤ o ∧ o < 0x4080 then
      let l := (s.part ((o - 0x4000) / 8)).ls
      pk [(48, l.clean.toNat), (40, l.sexp.toNat), (16, l.disc.toNat), (0, l.floor.toNat)]
    else 0

/-- Whether JTAG is enabled (Table 13-1). -/
def State.jtag (s : State) : Bool := decide (s.lcs < 2) || (s.lcs == 3 && s.sec.jtagUnlocked)

/-- Seconds of a slot's lockout that remain. -/
def State.lockLeft (s : State) (o : OpSlot) : Nat :=
  if o.locked then o.lockSecs.toNat - (s.pwr.ffTime - o.lockAt).toNat / 1000000000 else 0

/-- The MGT registers (Tables 13-8, 13-9), in the block of the lead. -/
def State.mgtWord (s : State) (o : Nat) : W64 :=
  let x := s.sec
  match o with
  | 0x000 => pk [(3, bn s.jtag), (0, s.lcs)]
  | 0x008 => pk [(16, x.sessions.length), (0, x.authf.toNat)]
  | 0x010 => x.alert.setWidth 64
  | 0x018 => x.alertMask.setWidth 64
  | 0x020 => pk [(48, x.fw1.version.toNat), (32, x.fw0.version.toNat), (24, s.fuse.svnFloor.toNat), (3, bn x.fallbk)
                 , (2, bn x.fw1.valid), (1, bn x.fw0.valid), (0, x.active)]
  | 0x028 => pk [(32, x.addr4.toNat), (24, x.netPfx.toNat), (16, bn x.dhcp), (0, x.port.toNat)]
  | _ =>
    if 0x100 ≤ o ∧ o < 0x140 then
      let k := tget {} x.slots ((o - 0x100) / 8)
      pk [(20, s.lockLeft k), (12, k.fails.toNat), (2, k.role), (1, bn k.locked), (0, bn k.set)]
    else 0

def PowState.code (x : PowState) : Nat := match x with | .standby => 0 | .dark => 1 | .idle => 2 | .run => 3
def Lead.code (x : Lead) : Nat := match x with | .west => 0 | .east => 1 | .undecided => 2

/-- The sensors of a half: those of its dies and its control die, and those of its stacks (14 R401, R410). -/
def dieSensors (half : Nat) : List Nat := (List.range 54).map (54 * half + ·) ++ [132 + 2 * half, 133 + 2 * half]
def stackSensors (half : Nat) : List Nat := (List.range 12).map (108 + 12 * half + ·)

/-- The hottest last sample of some sensors; 0 before any has been taken (14 Table 14-9). -/
def State.hottest (s : State) (keys : List Nat) : W16 :=
  match (s.pwr.temps.filter fun e => keys.contains e.1).map fun e => e.2.toInt with
  | [] => 0
  | t :: ts => BitVec.ofInt 16 (ts.foldl max t)

/-- The PWR registers of a half (Tables 14-8, 14-9); PWR_STATE and PWR_CAP stand in the lead's block. -/
def State.pwrWord (s : State) (half o : Nat) : W64 :=
  let p := s.pwr
  let h := s.ff half
  match o with
  | 0x000 =>
    if half = s.leadHalf then
      pk [(16, (s.cores.filter fun c => c.2.pow == .on).length), (10, bn p.supLat), (9, bn p.tripLat), (8, bn p.coolLat)
          , (4, p.step.toNat), (3, bn p.start), (0, p.state.code)]
    else 0
  | 0x008 => if half = s.leadHalf then p.cap.setWidth 64 else 0
  | 0x010 => pk [(48, h.pwrW.toNat), (16, h.vin.toNat)]
  | 0x018 => pk [(48, h.throttles.toNat), (16, (s.hottest (dieSensors half)).toNat), (0, (s.hottest (stackSensors half)).toNat)]
  | 0x020 => pk [(16, h.hbLoss.toNat), (7, bn h.split), (6, bn h.fenced), (5, bn h.pinOk), (4, bn h.sbOk)
                 , (3, bn p.eFail), (2, bn p.wFail), (0, h.lead.code)]
  | _ =>
    if 0x100 ≤ o ∧ o < 0x130 then
      let d := s.die (6 * half + (o - 0x100) / 8)
      pk [(6, d.oppMax.toNat), (4, d.oppCur.toNat), (2, d.oppCause.toNat), (1, bn d.pll)]
    else 0

/-- Registers of the FF block that the lead alone holds. -/
def leadOnly (o : Nat) : Bool := (decide (0x1008 ≤ o) && decide (o < 0x2000)) || decide (0x4000 ≤ o)

/-- A control-die block. -/
def State.ctlWord (s : State) (half o : Nat) : W64 :=
  match o / 0x100000 with
  | 0 => s.synWord half o
  | 1 => if (o - 0x100000) / 0x10000 < 12 then s.lnkWord (12 * half + (o - 0x100000) / 0x10000) (o % 0x10000) else 0
  | 2 => if leadOnly (o % 0x100000) then (if half = s.leadHalf then s.ffLeadWord (o % 0x100000) else 0)
         else s.ffOwnWord half (o % 0x100000)
  | 3 => if half = s.leadHalf then s.mgtWord (o % 0x100000) else 0
  | 4 => s.pwrWord half (o % 0x100000)
  | _ => 0

/-! ### The region -/

def coreRegs : Nat := 0x7F0000000000
def dieRegs : Nat := 0x7F4000000000
def ctlRegs : Nat := 0x7F8000000000

/-- A block of the register region and the offset in it. -/
inductive RegAt where
  | core (key o : Nat)
  | die (d o : Nat)
  | ctl (half o : Nat)
  deriving DecidableEq, Repr

/-- The block an address lies in; none where no block answers (Table 7-2). -/
def State.regAt (s : State) (a : Nat) : Option RegAt :=
  if coreRegs ≤ a ∧ a < coreRegs + 12 * 128 * 0x10000 then
    let k := (a - coreRegs) / 0x10000
    if k % 128 < (if s.fuse.gradeB then 56 else 64) then some (.core k ((a - coreRegs) % 0x10000)) else none
  else if dieRegs ≤ a ∧ a < dieRegs + 12 * 0x1000000 then some (.die ((a - dieRegs) / 0x1000000) ((a - dieRegs) % 0x1000000))
  else if ctlRegs ≤ a ∧ a < ctlRegs + 2 * 0x10000000 then some (.ctl ((a - ctlRegs) / 0x10000000) ((a - ctlRegs) % 0x10000000))
  else none

/-- What a register word reads. -/
def State.regWord (s : State) (r : RegAt) : W64 :=
  match r with
  | .core k o => coreWord (s.core k) o
  | .die d o =>
    (match o / 0x10000 with
     | 0 => dieStrWord (s.die d) o
     | 1 => s.xchWord d (o % 0x10000)
     | 2 => s.updWord (2 * d) (o % 0x10000)
     | 3 => s.updWord (2 * d + 1) (o % 0x10000)
     | _ => 0)
  | .ctl h o => s.ctlWord h o

/-- A read of an error counter lets the next corrected error be posted (07 R218). -/
def State.regRead (s : State) (r : RegAt) : State :=
  match r with
  | .core k o => if o = 0x2020 then s.modCore k fun c => { c with ecc := { c.ecc with seen := 0 } } else s
  | .die d o =>
    (match o with
     | 0x000 => s.modDie d fun x => { x with decc := { x.decc with seen := 0 } }
     | 0x008 => s.modDie d fun x => { x with hecc0 := { x.hecc0 with seen := 0 } }
     | 0x010 => s.modDie d fun x => { x with hecc1 := { x.hecc1 with seen := 0 } }
     | _ => s)
  | .ctl _ _ => s

/-! ### Scans (12 R359) -/

/-- Whether a position is dark: it exists, is not fused off and holds no logical index of a resident partition. -/
def State.dark (s : State) (die pos : Nat) : Bool :=
  decide (die < 12) && decide (pos < 72) && tget PosKind.exposed s.fuse.kinds (die * 72 + pos) != .fusedOff
    && !((List.range 64).any fun l =>
      s.corePos (coreKey die l) == some pos
        && (match (s.core (coreKey die l)).part with | some p => (s.part p).resident | none => false))

/-- Whether a scan may start: a dark position that no scan holds, with fewer than two scans on its die. -/
def State.canScan (s : State) (die pos : Nat) : Bool :=
  s.dark die pos && !s.ev.scanning.contains (die * 72 + pos)
    && decide ((s.ev.scanning.filter fun k => k / 72 == die).length < 2)

/-- A scan starts, or is shown as aborted where it may not (log 35, DEDUCED). -/
def State.startScan (s : State) (die pos : Nat) : State :=
  s.modEv fun v =>
    if s.canScan die pos then { v with scanning := v.scanning ++ [die * 72 + pos] }
    else { v with scanLast := die * 72 + pos, scanResult := 3, scanPattern := 0 }

/-! ### Writes by sessions (13 Table 13-5, R392) -/

/-- PWR_OPP.MAX of a die: the operating point moves to the highest one the limits allow (14 R400). -/
def State.setMax (s : State) (die max_ : Nat) : State := s.moveDie die 3 0 fun d => { d with oppMax := BitVec.ofNat 2 max_ }

/-- FF_SCANCTL: its fields, and GO. -/
def State.writeScanctl (s : State) (v : W64) : State :=
  let s1 := s.modEv fun x =>
    { x with scanDie := BitVec.ofNat 4 (fld v 27 24), scanPos := BitVec.ofNat 7 (fld v 22 16), scanPeriod := BitVec.ofNat 8 (fld v 15 8) }
  if v.getLsbD 31 then s1.startScan (fld v 27 24) (fld v 22 16) else s1

/-- The statuses of R385. -/
def stOk : Byte := 0
def stAuth : Byte := 1
def stRole : Byte := 2
def stBusy : Byte := 3
def stRefused : Byte := 4
def stMalformed : Byte := 5
def stNotlead : Byte := 6

/-- What a session writes in a core or die block: the W1C bits, and the fields that management firmware writes through the
load port for it (07 R229, 09 R295, 10 R313, 04 R135; log 36, DEDUCED). -/
def State.writeUnit (s : State) (r : RegAt) (v : W64) : Byte × State :=
  match r with
  | .core k 0x1008 =>
    (stOk, s.modCore k fun c => { c with ckf := c.ckf && !v.getLsbD 2, bankf := c.bankf && !v.getLsbD 1 })
  | .core k 0x2000 =>
    (stOk, s.modCore k fun c =>
      { c with strUe := c.strUe && !v.getLsbD 3, strPar := c.strPar && !v.getLsbD 2, strBnd := c.strBnd && !v.getLsbD 1 })
  | .core k 0x2008 => (stOk, s.modCore k fun c => { c with mergeWin := v.setWidth 8 })
  | .die d 0x00020 =>
    (stOk, s.modDie d fun x => { x with scrubPeriod := BitVec.ofNat 16 (fld v 23 8), scrubEn := v.getLsbD 0 })
  | .die d 0x10000 =>
    (stOk, s.modDie d fun x =>
      { x with cf := x.cf && !v.getLsbD 4, csumF := x.csumF && !v.getLsbD 3, lag := x.lag && !v.getLsbD 2
               stale := x.stale && !v.getLsbD 1 })
  | .die d 0x10008 => (stOk, s.modDie d fun x => { x with lagUs := v.setWidth 20 })
  | .die d 0x10010 => (stOk, s.modDie d fun x => { x with ctoMs := v.setWidth 16 })
  | .die d 0x20000 =>
    (stOk, s.modUnit (2 * d) fun x =>
      { x with smiss := x.smiss && !v.getLsbD 3, spec := x.spec && !v.getLsbD 2, range := x.range && !v.getLsbD 1 })
  | .die d 0x30000 =>
    (stOk, s.modUnit (2 * d + 1) fun x =>
      { x with smiss := x.smiss && !v.getLsbD 3, spec := x.spec && !v.getLsbD 2, range := x.range && !v.getLsbD 1 })
  | _ => (stRefused, s)

/-- What a session writes in a port's block. -/
def State.writeLnk (s : State) (p o : Nat) (v : W64) : Byte × State :=
  match o with
  | 0x000 => (stOk, s.modPort p fun x => { x with msw := x.msw && !v.getLsbD 5, qrn := x.qrn && !v.getLsbD 4 })
  | 0x018 => (stOk, s.writeLnkCfg p (v.setWidth 32))
  | _ => (stRefused, s)

/-- What a session writes in the FF block of a half (12 R366, 15 R429). -/
def State.writeFf (s : State) (half o : Nat) (v : W64) : Byte × State :=
  if leadOnly o && half != s.leadHalf then (stRefused, s)
  else match o with
  | 0x1000 => (stOk, s.modEv fun x =>
      { x with degr := x.degr && !v.getLsbD 2, lostF := x.lostF && !(v.getLsbD 1 && half == 0)
               lostF1 := x.lostF1 && !(v.getLsbD 1 && half != 0) })
  | 0x1018 => (stOk, s.modEv fun x => { x with dwMs := v.setWidth 16 })
  | 0x1028 => (stOk, s.writeScanctl v)
  | 0x2008 => (stOk, s.clearLatches half (v.setWidth 32))
  | 0x2010 => (stOk, s.modFf half fun h => { h with strapChg := h.strapChg && !v.getLsbD 30 })
  | _ =>
    if 0x1100 ≤ o ∧ o < 0x1180 then
      (stOk, s.modEv fun x =>
        { x with capCfg := tset {} x.capCfg ((o - 0x1100) / 8)
                   { opid := BitVec.ofNat 8 (fld v 31 24), data := v.getLsbD 2, tile := v.getLsbD 1, en := v.getLsbD 0 } })
    else (stRefused, s)

/-- What a session of a role writes in the MGT block: FWFAIL and MGT_NET need OWNER (Table 13-9). -/
def State.writeMgt (s : State) (role o : Nat) (v : W64) : Byte × State :=
  match o with
  | 0x010 =>
    if v.getLsbD 7 ∧ role ≠ 0 then (stRole, s)
    else (stOk, s.modSec fun x => { x with alert := x.alert &&& ~~~(v.setWidth 16) })
  | 0x018 => (stOk, s.modSec fun x => { x with alertMask := v.setWidth 16 })
  | 0x028 =>
    if role ≠ 0 then (stRole, s)
    else (stOk, s.modSec fun x =>
      { x with addr4 := BitVec.ofNat 32 (fld v 63 32), netPfx := BitVec.ofNat 8 (fld v 31 24), dhcp := v.getLsbD 16
               port := v.setWidth 16 })
  | _ => (stRefused, s)

/-- What a session writes in the PWR block of a half (14 R410). -/
def State.writePwr (s : State) (half o : Nat) (v : W64) : Byte × State :=
  if o = 0x008 ∧ half = s.leadHalf then (stOk, s.modPwr fun p => { p with cap := v.setWidth 16 })
  else if 0x100 ≤ o ∧ o < 0x130 then
    (if fld v 7 6 = 3 then (stRefused, s) else (stOk, s.setMax (6 * half + (o - 0x100) / 8) (fld v 7 6)))
  else (stRefused, s)

/-- A session's write of a register word: the status of the reply, and the state. -/
def State.writeReg (s : State) (role : Nat) (r : RegAt) (v : W64) : Byte × State :=
  match r with
  | .ctl h o =>
    (match o / 0x100000 with
     | 0 => if o = 0 then
         (stOk, s.modSyn h fun x => { x with sde := x.sde && !v.getLsbD 2, zmb := x.zmb && !v.getLsbD 1 })
       else (stRefused, s)
     | 1 => if (o - 0x100000) / 0x10000 < 12 then s.writeLnk (12 * h + (o - 0x100000) / 0x10000) (o % 0x10000) v else (stRefused, s)
     | 2 => s.writeFf h (o % 0x100000) v
     | 3 => if h = s.leadHalf then s.writeMgt role (o % 0x100000) v else (stRefused, s)
     | 4 => s.writePwr h (o % 0x100000) v
     | _ => (stRefused, s))
  | r => s.writeUnit r v

end Sys2Proof.Machine
end

