-- ==== Sys2Proof/Machine/Sessions.lean ====
section
/-! DEFINITION. Management sessions and their commands, event delivery, firmware images and the life cycle (13 R367 to R369,
R376 to R391, 14 R395, R404). -/

namespace Sys2Proof.Machine

/-! ### Bytes -/

/-- The `n` bytes of a number, most significant first. -/
def beBytes (n v : Nat) : List Byte := (leBytes n v).reverse

/-! ### Event delivery (13 R388, R389) -/

/-- The event log holds the last 4,194,304 records. -/
def logMax : Nat := 4194304

/-- An EVENT message with a GAP entry: the missing SEQ range. -/
def State.sayGap (s : State) (sid : W32) (a b : W64) : State :=
  (s.say { sid := sid, type := 6, data := leBytes 8 a.toNat ++ leBytes 8 b.toNat }).alert 1

/-- EVENT messages of up to 64 records. -/
def State.sayEvents (s : State) (sid : W32) (es : List EvRec) : State :=
  (splitEvery 64 es.length es).foldl (fun s g => s.say { sid := sid, type := 6, events := g }) s

/-- Deliver to one subscribed session: what the log has overwritten is a gap; records go out while no more than 4,096 that were sent are
unacknowledged, and what lies beyond is a gap too (13 R388; log 37, DEDUCED). -/
def State.deliverTo (s : State) (k : Session) : State :=
  match k.sub with
  | none => s
  | some (next, due) =>
    let oldest := (s.ev.log.head?.map (·.seq)).getD s.ev.seq
    let s1 := if next < oldest then s.sayGap k.sid next (oldest - 1) else s
    let n1 := if next < oldest then oldest else next
    let room := 4096 - due.length
    let es := (s.ev.log.filter fun e => decide (n1 ≤ e.seq)).take room
    let n2 := match es.getLast? with | some e => e.seq + 1 | none => n1
    let s2 := s1.sayEvents k.sid es
    let more := s.ev.log.any fun e => decide (n2 ≤ e.seq)
    let top := (s.ev.log.getLast?.map (·.seq)).getD 0
    let s3 := if more then s2.sayGap k.sid n2 top else s2
    s3.modSec fun x =>
      { x with sessions := x.sessions.map fun y => if y.sid = k.sid then { y with sub := some (if more then top + 1 else n2, due ++ es.map (·.seq)) } else y }

/-- Deliver to every subscribed session. -/
def State.deliverEvents (s : State) : State := s.sec.sessions.foldl (fun s k => s.deliverTo k) s

/-- UNREAD clears once every subscribed session has acknowledged the last record that set it (13 R389). -/
def State.unreadCheck (s : State) : State :=
  let subs := s.sec.sessions.filterMap (·.sub)
  if !subs.isEmpty && subs.all fun x => decide (s.sec.unreadSeq < x.1) && x.2.all fun q => decide (s.sec.unreadSeq < q) then
    s.modSec fun x => { x with alert := x.alert &&& 0xFFFE }
  else s

/-! ### The command shell (13 R383, R385, Tables 13-1 and 13-5, 14 R403, R404) -/

/-- Both self-checks failed: only the service UART, with IDENT and EVREAD (14 R403). -/
def State.bothFailed (s : State) : Bool := s.pwr.wFail && s.pwr.eFail

/-- The session of the service UART that needs no authentication: outside FIELD and PROVISIONED (Table 13-1; log 32, DEDUCED). -/
def uartSession : Session :=
  { sid := 0, via := .uart, slot := 254, role := 0, accepted := true, nc := 0, nm := 0, ks := 0, lastIn := 0, lastOut := 0
    sub := none, eph := none }

/-- Whether the fixed fields of a header are as Table 13-4 has them; a message with others is discarded (13 R383; log 13, DESIGN CHOICE). -/
def headGood (h : MsgHead) : Bool := h.magic == 0x4D475431 && h.resv == 0 && decide (h.len.toNat ≤ 2 ^ 20)

/-- The session a command comes over, when the module takes the message: an accepted session whose TAG verifies and whose SEQ
rises, the slot-initialisation session before it has a key, or the UART in BLANK, RETURN and SCRAPPED. -/
def State.sessionOf (s : State) (m : CmdHdr) : Option Session :=
  if !(s.ff0.up || s.ff1.up) then none
  else if m.sid = 0 then (if s.lcs = 1 ∨ s.lcs = 2 ∨ !headGood m.head then none else some uartSession)
  else match s.sec.sessions.find? fun k => k.sid == m.sid with
    | some k =>
      if !headGood m.head then none
      else if k.slot = 255 then (if k.lastIn < m.seq then some k else none)
      else if k.accepted && m.authentic && decide (k.lastIn < m.seq) then some k else none
    | none => none

/-- A command's place in the tables: the least role, the life-cycle states that serve it, and whether it is served while
RESET_L is held and with both halves failed. -/
structure CmdKind where
  role : Nat
  states : List Nat
  held : Bool := false
  failed : Bool := false

/-- The status that turns a command away before its own checks (log 51, DEDUCED). -/
def State.gateCmd (s : State) (k : Session) (c : CmdKind) : Option Byte :=
  if (s.ff0.split && !s.ff0.ruled) || (s.ff1.split && !s.ff1.ruled) then some stNotlead
  else if !c.states.contains s.lcs then some stRefused
  else if s.bothFailed && !c.failed then some stRefused
  else if s.pwr.inReset && !c.held then some stBusy
  else if c.role < k.role then some stRole
  else none

/-- The codes of Table 13-5, and whether a message names another one, which is MALFORMED (13 R387). -/
def cmdCodes : List Nat :=
  [0x10, 0x11, 0x20, 0x21, 0x30, 0x31, 0x40, 0x41, 0x42, 0x43, 0x50, 0x51, 0x52, 0x60, 0x61, 0x70, 0x71, 0x72, 0x73, 0x74, 0x80, 0x81, 0x82]
def codeUnlisted (m : CmdHdr) : Bool := m.code.any fun c => !cmdCodes.contains c.toNat

/-- A reply with a status and nothing more. -/
def rep (st : Byte) : SessOut := { sid := 0, type := 5, status := st }

/-- Take a command: the message number, the shell's checks, the command's own effect, its one REPLY, and what follows the
reply. A message that the session does not take is discarded (13 R385). -/
def State.command (s : State) (m : CmdHdr) (c : CmdKind) (go : Session → State → SessOut × State)
    (after : Session → Byte → State → State) : State :=
  match s.sessionOf m with
  | none => s
  | some k =>
    let s1 := s.modSec fun x => { x with sessions := x.sessions.map fun y => if y.sid = m.sid then { y with lastIn := m.seq } else y }
    match if codeUnlisted m then some stMalformed else s1.gateCmd k c with
    | some st => s1.say { rep st with sid := m.sid, seq := m.seq }
    | none =>
      let r2 := go k s1
      let r := r2.1; let s2 := r2.2
      after k r.status (s2.say { r with sid := m.sid, seq := m.seq })

/-- A command with nothing after its reply. -/
def State.cmd (s : State) (m : CmdHdr) (c : CmdKind) (go : Session → State → SessOut × State) : State :=
  s.command m c go fun _ _ s => s

/-- Commands of FIELD by least role. -/
def fieldCmd (role : Nat) : CmdKind := { role := role, states := [2] }
/-- Commands of FIELD that are served while RESET_L is held. -/
def heldCmd (role : Nat) : CmdKind := { role := role, states := [2], held := true }

/-! ### Opening a session (13 R384, R386, R387) -/

/-- Whether a slot is locked: its lockout has begun and FF_TIME has not reached its end (13 R386). -/
def State.lockedNow (s : State) (o : OpSlot) : Bool := o.locked && s.lockLeft o != 0

/-- Whether a HELLO may open a session: the module accepts sessions, the life-cycle state and the slot allow it, and fewer
than eight are open (log 47, DEDUCED). -/
def State.helloOk (s : State) (t : Transport) (slot : Nat) : Bool :=
  let time :=
    if s.bothFailed then t == .uart
    else if s.pwr.inReset then (match t with | .pcie _ => false | _ => true)
    else decide (7 ≤ s.pwr.step.toNat) && (match t with | .pcie h => (s.ff h).pcieUp | _ => true)
  let k := tget {} s.sec.slots slot
  let who := if slot = 255 then s.lcs == 1 else s.lcs == 2 && decide (slot < 8) && k.set && !s.lockedNow k
  (s.ff0.up || s.ff1.up) && time && who && decide (s.sec.sessions.length < 8)

/-- HELLO: the module answers with a signed CHALLENGE, which carries an ephemeral key for slot initialisation; or with CLOSE. -/
def execHello (t : Transport) (slot : Nat) (hello : Body32) (s : State) : Host.Outcome State Fault Refusal :=
  let nc := hello.bytes
  .next (if !(s.ff0.up || s.ff1.up) || !headGood hello.head then s
    else if !s.helloOk t slot then s.say { sid := 0, type := 7 }
    else
      let sid := s.sec.nextSid
      let r1 := s.draw 256
      let nm := r1.1; let s1 := r1.2
      let r2 := if slot = 255 then (let d := s1.draw 384; (some d.1, d.2)) else (none, s1)
      let eph := r2.1; let s2 := r2.2
      let qm := match eph with | some e => Config.ecPublic e | none => []
      let r3 := s2.sign (leBytes 32 nc.toNat ++ leBytes 32 nm.toNat ++ leBytes 4 sid.toNat ++ leBytes 8 s.fuse.serial.toNat ++ qm)
      let sig := r3.1; let s3 := r3.2
      let k : Session :=
        { sid := sid, via := t, slot := slot, role := (tget {} s.sec.slots slot).role, accepted := false, nc := nc, nm := nm
          ks := 0, lastIn := 0, lastOut := 0, sub := none, eph := eph }
      (s3.modSec fun x => { x with nextSid := x.nextSid + 1, sessions := x.sessions ++ [k] }).say
        { sid := sid, type := 1
          data := leBytes 32 nm.toNat ++ leBytes 8 s.fuse.serial.toNat ++ beBytes 96 sig.toNat ++ qm })

/-- The MAC a client sends, and the key of the session it opens. -/
def State.authMac (s : State) (k : Session) (key : W256) : W256 :=
  Config.hmac256 key (ascii "TALHAN-AUTH" ++ leBytes 32 k.nc.toNat ++ leBytes 32 k.nm.toNat ++ leBytes 4 k.sid.toNat
    ++ [BitVec.ofNat 8 k.slot] ++ leBytes 8 s.fuse.serial.toNat)
def sessKey (k : Session) (key : W256) : W256 :=
  Config.hmac256 key (kdfInput "TALHAN-MGT" (leBytes 32 k.nc.toNat ++ leBytes 32 k.nm.toNat ++ leBytes 4 k.sid.toNat
    ++ [BitVec.ofNat 8 k.slot]))

/-- A slot after a failed RESPONSE: the fourth in a row locks it for 2^(f − 4) s, at most 3,600 s (13 R386). -/
def OpSlot.failed (o : OpSlot) (now : W64) : OpSlot :=
  let f := satAdd o.fails 1
  if 4 ≤ f.toNat then { o with fails := f, locked := true, lockSecs := BitVec.ofNat 12 (min 3600 (2 ^ (f.toNat - 4))), lockAt := now }
  else { o with fails := f }

/-- RESPONSE: the MAC is compared; on success the session is accepted, on failure the slot counts it, unless it is locked, and
the session closes (13 R384, R386, R391). -/
def execResponse (sid : W32) (mac : Body32) (s : State) : Host.Outcome State Fault Refusal :=
  .next (match s.sec.sessions.find? fun k => k.sid == sid && !k.accepted && k.slot != 255 && headGood mac.head with
    | none => s
    | some k =>
      let o := tget {} s.sec.slots k.slot
      if mac.bytes = s.authMac k o.key then
        (s.modSec fun x =>
          { x with
            slots := tset {} x.slots k.slot { o with fails := 0, locked := false, lockSecs := 0, lockAt := 0 }
            sessions := x.sessions.map fun y =>
              if y.sid = sid then { y with accepted := true, role := o.role, ks := sessKey k o.key } else y }).say
          { sid := sid, type := 3, data := [BitVec.ofNat 8 o.role] }
      else
        let s1 := s.modSec fun x => { x with authf := satAdd x.authf 1 }
        let s2 := if s.lockedNow o then s1
          else
            let o' := o.failed s.pwr.ffTime
            let s' := s1.modSec fun x => { x with slots := tset {} x.slots k.slot o' }
            if o'.locked then s'.alert 6 else s'
        s2.closeSessions fun y => y.sid == sid)

/-- Drop sessions without a message to them. -/
def State.dropSessions (s : State) (f : Session → Bool) : State :=
  s.modSec fun x => { x with sessions := x.sessions.filter fun k => !f k }

/-- CLOSE: the client closes its session; once the session is accepted, a CLOSE whose TAG fails or whose SEQ does not rise is discarded
(13 R385). -/
def execClose (m : CmdHdr) (s : State) : Host.Outcome State Fault Refusal :=
  .next (match s.sec.sessions.find? fun k => k.sid == m.sid with
    | some k =>
      if headGood m.head && (!k.accepted || (m.authentic && decide (k.lastIn < m.seq))) then s.dropSessions fun k => k.sid == m.sid else s
    | none => s)

/-- SESSION_TIMEOUT: 600 s without a message (13 R385). -/
def execSessionTimeout (sid : W32) (s : State) : Host.Outcome State Fault Refusal := .next (s.closeSessions fun k => k.sid == sid)

/-- TRANSPORT_LOSS: the sessions of a lost transport close (13 R385). -/
def execTransportLoss (t : Transport) (s : State) : Host.Outcome State Fault Refusal := .next (s.dropSessions fun k => k.via == t)

/-- SLOT_LOCKOUT_EXPIRY: a locked slot becomes usable once FF_TIME has reached the end of its lockout (13 R386). -/
def execSlotLockoutExpiry (slot : Nat) (s : State) : Host.Outcome State Fault Refusal :=
  let o := tget {} s.sec.slots slot
  .next (if s.lockLeft o ≠ 0 then s else s.modSec fun x => { x with slots := tset {} x.slots slot { o with locked := false, lockSecs := 0, lockAt := 0 } })

/-- NOP: a client acknowledges the records up to a SEQ; UNREAD may clear, and delivery goes on (13 R388, R389). -/
def execNop (m : CmdHdr) (upto : W64) (s : State) : Host.Outcome State Fault Refusal :=
  .next (match s.sessionOf m with
    | none => s
    | some k =>
      ((s.modSec fun x =>
        { x with sessions := x.sessions.map fun y =>
            if y.sid = k.sid then
              { y with lastIn := m.seq, sub := y.sub.map fun e => (e.1, if upto < e.1 then e.2.filter fun q => decide (upto < q) else e.2) }
            else y }).unreadCheck).deliverEvents)

/-! ### Identity and attestation (13 R378, Table 13-3) -/

/-- The bytes of a hive map that HMAPDIG hashes, and of a die fuse map that FUSEDIG hashes (log 30, DESIGN CHOICE). -/
def hiveMapBytes (m : HiveMap) : List Byte :=
  leBytes 8 m.hive.toNat ++ m.entries.flatMap fun e =>
    leBytes 2 e.rank ++ leBytes 2 e.pos ++ leBytes 8 e.serial.toNat ++ leBytes 48 e.keyDig.toNat ++ e.peers.flatMap fun q =>
      match q with | some (a, b) => [1] ++ leBytes 2 a ++ leBytes 1 b | none => [0, 0, 0, 0]

def kindByte (k : PosKind) : Byte := match k with | .exposed => 0 | .spare => 1 | .fusedOff => 2
def Fuses.mapBytes (f : Fuses) : List Byte := (List.range (12 * 72)).map fun k => kindByte (tget .exposed f.kinds k)

/-- Entry `p` of the report. -/
def partEntry (x : Part) : List Byte :=
  if x.loaded then leBytes 48 x.digest.toNat ++ leBytes 4 x.tenant.toNat ++ leBytes 2 x.epoch.toNat ++ List.replicate 10 0
  else List.replicate 64 0

/-- Bytes 0x000 to 0x4CF of the report. -/
def State.reportBytes (s : State) (nonce : W256) : List Byte :=
  leBytes 4 0x41545354 ++ leBytes 2 1 ++ leBytes 1 s.lcs ++ leBytes 1 (if s.fuse.gradeB then 1 else 0)
    ++ leBytes 8 s.fuse.serial.toNat ++ leBytes 32 nonce.toNat ++ leBytes 48 (Config.sha384 s.fwNow.image).toNat
    ++ leBytes 4 s.fwNow.version.toNat ++ leBytes 4 s.fwNow.svn.toNat ++ leBytes 48 (Config.sha384 s.fuse.mapBytes).toNat
    ++ leBytes 48 (match s.mgr.map with | some m => (Config.sha384 (hiveMapBytes m)).toNat | none => 0)
    ++ leBytes 2 ((List.range 16).foldl (fun a p => if (s.part p).loaded then a + 2 ^ p else a) 0)
    ++ List.replicate 6 0 ++ (List.range 16).flatMap fun p => partEntry (s.part p)

/-- The signed report; a SCRAPPED module signs nothing (13 R369). -/
def State.report (s : State) (nonce : W256) : List Byte × State :=
  let b := s.reportBytes nonce
  if s.lcs = 4 then (b ++ List.replicate 96 0, s)
  else
    let r1 := s.sign b
    let sig := r1.1; let s1 := r1.2
    (b ++ beBytes 96 sig.toNat, s1)

/-- IDENT: the report under a zero nonce, and the certificate. -/
def execIdent (m : CmdHdr) (s : State) : Host.Outcome State Fault Refusal :=
  .next (s.cmd m { role := 2, states := [1, 2, 3, 4], held := true, failed := true } fun _ s =>
    let r1 := s.report 0
    let b := r1.1; let s1 := r1.2
    ({ rep stOk with data := b ++ s.fuse.cert }, s1))

/-- ATTEST: the report over the given nonce (log 52, DEDUCED). -/
def execAttest (m : CmdHdr) (nonce : W256) (s : State) : Host.Outcome State Fault Refusal :=
  .next (s.cmd m { role := 2, states := [1, 2, 3], held := true } fun _ s =>
    let r1 := s.report nonce
    let b := r1.1; let s1 := r1.2
    ({ rep stOk with data := b }, s1))

/-! ### Registers -/

/-- Whether a block is served while RESET_L is held: FF, MGT and PWR (14 R404). -/
def RegAt.held (r : RegAt) : Bool := match r with | .ctl _ o => decide (0x200000 ≤ o) | _ => false

/-- RDREG: 64 bits at a multiple of 8 in the unit register region (07 R199; log 39, DEDUCED). -/
def execRdreg (m : CmdHdr) (addr : W64) (s : State) : Host.Outcome State Fault Refusal :=
  .next (s.cmd m (heldCmd 2) fun _ s =>
    if addr.toNat % 8 ≠ 0 then (rep stMalformed, s)
    else match s.regAt addr.toNat with
      | none => (rep stRefused, s)
      | some r =>
        if s.pwr.inReset && !r.held then (rep stBusy, s)
        else ({ rep stOk with data := leBytes 8 (s.regWord r).toNat }, s.regRead r))

/-- The place of a clear of the latches in the tables: it is served in the reset that a latched RESET_L brings about (15 R419; log 158,
DEDUCED). -/
def State.latchKind (s : State) : CmdKind := { role := 1, states := [2], held := (s.ff s.leadHalf).rstF }

/-- The place of WRREG in the tables: that of a clear of the latches where it writes FF_SVCLAT (15 R419; log 158, DEDUCED). -/
def State.wrregKind (s : State) (addr : W64) : CmdKind :=
  match s.regAt addr.toNat with
  | some (.ctl _ 0x202008) => s.latchKind
  | _ => fieldCmd 1

/-- WRREG: what the session may write in a register word; any other is refused (13 R387). -/
def execWrreg (m : CmdHdr) (addr value : W64) (s : State) : Host.Outcome State Fault Refusal :=
  .next (s.cmd m (s.wrregKind addr) fun k s =>
    if addr.toNat % 8 ≠ 0 then (rep stMalformed, s)
    else match s.regAt addr.toNat with
      | none => (rep stRefused, s)
      | some r =>
        let r1 := s.writeReg k.role r value
        let st := r1.1; let s1 := r1.2
        (rep st, s1))

/-- SCANCTL_GO: a write of FF_SCANCTL with GO (12 R366). -/
def execScanctlGo (m : CmdHdr) (value : W32) (s : State) : Host.Outcome State Fault Refusal :=
  .next (s.cmd m (fieldCmd 1) fun _ s => (rep stOk, s.writeScanctl ((value ||| 0x80000000).setWidth 64)))

/-- SVCLAT_CLEAR: latched inputs of a half are cleared (15 R419). -/
def execSvclatClear (m : CmdHdr) (half : Nat) (bits : W32) (s : State) : Host.Outcome State Fault Refusal :=
  .next (s.cmd m s.latchKind fun _ s => (rep stOk, s.clearLatches half bits))

/-! ### Events and the Capsule -/

/-- SUBSCRIBE: every record from a SEQ onward goes to the session (13 R388). -/
def execSubscribe (m : CmdHdr) (from_ : W64) (s : State) : Host.Outcome State Fault Refusal :=
  .next (s.command m (heldCmd 2) (fun k s =>
      (rep stOk, s.modSec fun x =>
        { x with sessions := x.sessions.map fun y => if y.sid = k.sid then { y with sub := some (from_, []) } else y }))
    fun k _ s => match s.sec.sessions.find? fun y => y.sid == k.sid with | some y => s.deliverTo y | none => s)

/-- EVREAD: the log's records in a range of SEQ (13 Table 13-5). -/
def execEvread (m : CmdHdr) (from_ upto : W64) (s : State) : Host.Outcome State Fault Refusal :=
  .next (s.cmd m { role := 2, states := [2], held := true, failed := true } fun _ s =>
    ({ rep stOk with events := s.ev.log.filter fun e => decide (from_ ≤ e.seq) && decide (e.seq ≤ upto) }, s))

/-- Whether a Capsule record is of a partition and a range of steps. -/
def capWithin (r : CapRec) (p : Nat) (a b : W64) : Bool := r.part.toNat == p && decide (a ≤ r.step) && decide (r.step ≤ b)

/-- CAPREAD: the ring's records of a partition and a range of steps (13 Table 13-5). -/
def execCapread (m : CmdHdr) (part : Nat) (from_ upto : W64) (s : State) : Host.Outcome State Fault Refusal :=
  .next (s.cmd m (fieldCmd 2) fun _ s =>
    ({ rep stOk with caps := (s.ev.ring.map (·.1)).filter fun r => capWithin r part from_ upto }, s))

/-- Pinned space in MiB, rounded up (Table 12-8). -/
def pinnedSpace (ring : List (CapRec × Bool)) : Nat :=
  (((ring.filter (·.2)).map fun x => capSize x.1).sum + 2 ^ 20 - 1) / 2 ^ 20

/-- CAPUNPIN: the records of a step are unpinned (12 R362). -/
def execCapunpin (m : CmdHdr) (part : Nat) (step : W64) (s : State) : Host.Outcome State Fault Refusal :=
  .next (s.cmd m (fieldCmd 1) fun _ s =>
    (rep stOk, s.modEv fun v =>
      let ring := v.ring.map fun x => if x.1.part.toNat = part ∧ x.1.step = step then (x.1, false) else x
      { v with ring := ring, pins := v.pins.filter fun e => e != (part, step), pinnedMiB := BitVec.ofNat 16 (pinnedSpace ring) }))

/-- HEALTH: the failed bits of each die's 72 positions, and the bad-granule list (12 R360; log 30, DESIGN CHOICE). -/
def execHealth (m : CmdHdr) (s : State) : Host.Outcome State Fault Refusal :=
  .next (s.cmd m (heldCmd 2) fun _ s =>
    ({ rep stOk with
        data := ((List.range 12).flatMap fun d => leBytes 9
            ((List.range 72).foldl (fun a p => if s.ev.failed.contains (d * 72 + p) then a + 2 ^ p else a) 0))
          ++ s.ev.badGran.flatMap fun g => leBytes 8 (g * 4096) }, s))

/-! ### Hive map and admission list (11 R329, 13 R379) -/

/-- A hive map is well formed: at most 1,024 entries with distinct ranks and positions, ports paired symmetrically, no serial
twice, and a zero digest beside a zero serial. -/
def hiveMapOk (m : HiveMap) : Bool :=
  decide (m.entries.length ≤ 1024) && decide (m.entries.map (·.rank)).Nodup && decide (m.entries.map (·.pos)).Nodup
    && decide ((m.entries.map (·.serial)).filter (· != 0)).Nodup
    && m.entries.all fun e =>
      decide (e.rank < 1024) && decide (e.pos < 2048) && decide (e.peers.length = 24) && (e.serial != 0 || e.keyDig == 0)
        && (List.range 24).all fun p => match (e.peers[p]?).bind id with
          | none => true
          | some (pos, port) => (match mapAt m pos with | some f => (f.peers[port]?).bind id == some (e.pos, p) | none => false)

/-- HIVEMAP: the map is stored and placement runs; an acceptance already applied lapses (11 R329, R342). -/
def execHivemap (m : CmdHdr) (map : HiveMap) (s : State) : Host.Outcome State Fault Refusal :=
  .next (s.cmd m (fieldCmd 0) fun _ s =>
    if !hiveMapOk map then (rep stMalformed, s)
    else
      let s1 := (s.modMgr fun g => { g with map := some map }).modLink fun l =>
        { l with ports := (l.ports.map fun e => (e.1, { e.2 with accepted := none })).filter fun e => decide (e.2 ≠ {}) }
      (rep stOk, (s1.rehive map.hive).runPlacement))

/-- HIVEJOIN: the admission list of a candidate: a HIVE and up to four key digests (13 R379). -/
def execHivejoin (m : CmdHdr) (hive : W64) (keys : List W384) (s : State) : Host.Outcome State Fault Refusal :=
  .next (s.cmd m (fieldCmd 0) fun _ s =>
    if 4 < keys.length then (rep stMalformed, s)
    else (rep stOk, s.modMgr fun g => { g with admission := some (hive, keys) }))

/-! ### Slots (13 R386, R387) -/

/-- Slots that hold an OWNER key. -/
def Sec.owners (x : Sec) : List Nat := (x.slots.filter fun e => e.2.set && e.2.role == 0).map (·.1)

/-- The key that wraps key material in a session's payloads (13 R385). -/
def payloadKey (k : Session) : W256 := Config.hmac256 k.ks (kdfInput "TALHAN-KW" [])

/-- The storage key, and what flash holds under it of the operator slots and of the admission list: key material wrapped with AES Key Wrap.
State keeps these unwrapped, and nothing reads the wrapped bytes (13 R377; log 153, DESIGN CHOICE). -/
def State.storageKey (s : State) : W256 := Config.hmac256 s.fuse.wrapKey (kdfInput "TALHAN-STORE" [])
def State.flashSlots (s : State) : List (Nat × List Byte) :=
  (s.sec.slots.filter fun e => e.2.set).map fun e => (e.1, Config.keyWrapBytes s.storageKey (leBytes 32 e.2.key.toNat ++ leBytes 8 e.2.role))
def State.flashAdmission (s : State) : Option (List Byte) :=
  s.mgr.admission.map fun a => Config.keyWrapBytes s.storageKey (leBytes 8 a.1.toNat ++ a.2.flatMap fun d => leBytes 48 d.toNat)

/-- The sessions of a slot close once its command has been answered (13 R385, R391). -/
def State.closeSlot (slot : Nat) (_ : Session) (st : Byte) (s : State) : State :=
  if st = stOk then s.closeSessions fun y => y.slot == slot else s

/-- SLOTSET: a slot's key and role; the last OWNER slot is not demoted. -/
def execSlotset (m : CmdHdr) (slot : Nat) (wrapped : BitVec 320) (role : Nat) (s : State) : Host.Outcome State Fault Refusal :=
  .next (s.command m (fieldCmd 0) (fun k s =>
      match Config.keyUnwrap (payloadKey k) wrapped with
      | none => (rep stMalformed, s)
      | some key =>
        if 2 < role then (rep stMalformed, s)
        else if s.sec.owners = [slot] ∧ role ≠ 0 then (rep stRefused, s)
        else (rep stOk, s.modSec fun x => { x with slots := tset {} x.slots slot { set := true, key := key, role := role } }))
    (State.closeSlot slot))

/-- SLOTCLEAR: a slot is cleared, never the last OWNER. -/
def execSlotclear (m : CmdHdr) (slot : Nat) (s : State) : Host.Outcome State Fault Refusal :=
  .next (s.command m (fieldCmd 0) (fun _ s =>
      if s.sec.owners = [slot] then (rep stRefused, s)
      else (rep stOk, s.modSec fun x => { x with slots := tset {} x.slots slot {} }))
    (State.closeSlot slot))

/-! ### Life cycle (13 R367 to R369) -/

/-- Both fuse counts advance. -/
def State.advanceLcs (s : State) (target : Nat) : State :=
  s.modFuse fun f => { f with lcsW := BitVec.ofNat 3 target, lcsE := BitVec.ofNat 3 target }

/-- A reset of the functional logic by management, as by a pulse of RESET_L: the rails stay as they are (14 Table 14-5). -/
def State.softReset (s : State) : State :=
  s.funcReset.modPwr fun p => { p with state := .standby }

/-- A transition: the fuse count first, then what the new state erases, then the wipe and the restart (13 R368, R369). -/
def State.transition (s : State) (target : Nat) : State :=
  let s1 := s.advanceLcs target
  let s2 := if 3 ≤ target then
      (s1.modSec fun x => { x with slots := [] }).modMgr fun g => { g with map := none, admission := none }
    else s1
  let s3 := if target = 4 then s2.modFuse fun f => { f with idKey := 0, wrapKey := 0, keysBlown := true } else s2
  s3.softReset.wipe.modLdr fun l => { l with wipeCause := 1 }

/-- What a Zelgus authorisation signs: the serial and the state it permits (log 30, DESIGN CHOICE). -/
def State.authBytes (s : State) (target : Nat) : List Byte := leBytes 8 s.fuse.serial.toNat ++ [BitVec.ofNat 8 target]

/-- The status of a LIFECYCLE command (Table 13-2). -/
def State.lifecycleStatus (s : State) (target : Nat) (auth : BitVec 768) : Byte :=
  let ok := Config.ecdsaVerify Config.zelgusKey (s.authBytes target) auth
  if s.parts.any fun x => x.2.loaded then stBusy
  else match s.lcs, target with
    | 2, 3 => if ok then stOk else stAuth
    | 2, 4 => stOk
    | 3, 4 => if ok then stOk else stAuth
    | _, _ => stRefused

/-- LIFECYCLE: FIELD to RETURN or SCRAPPED by an OWNER, RETURN to SCRAPPED on the service UART. -/
def execLifecycle (m : CmdHdr) (target : Nat) (auth : BitVec 768) (s : State) : Host.Outcome State Fault Refusal :=
  .next (s.command m { role := 0, states := [2, 3] } (fun _ s => (rep (s.lifecycleStatus target auth), s)) fun _ st s =>
    if st = stOk then s.transition target else s)

/-- SLOTINIT: the owner key of slot 0, and the transition to FIELD (13 R387). -/
def execSlotinit (m : CmdHdr) (qc : List Byte) (wrapped : BitVec 320) (s : State) : Host.Outcome State Fault Refusal :=
  .next (s.command m { role := 0, states := [1] } (fun k s =>
      match k.eph with
      | none => (rep stRefused, s)
      | some e =>
        match Config.keyUnwrap
            (Config.hmacZ (Config.ecdh e qc) (kdfInput "TALHAN-INIT" (leBytes 32 k.nc.toNat ++ leBytes 32 k.nm.toNat))) wrapped with
        | none => (rep stAuth, s)
        | some key => (rep stOk, s.modSec fun x => { x with slots := tset {} x.slots 0 { set := true, key := key, role := 0 } }))
    fun _ st s => if st = stOk then s.transition 2 else s)

/-- PROVISION: the factory station fuses the identity key, the wrap key and the serial, and writes the certificate (13 R376). -/
def execProvision (idKey : W384) (wrapKey : W256) (serial : W64) (cert : List Byte) (s : State) : Host.Outcome State Fault Refusal :=
  .next (if s.lcs = 0 ∧ (s.ff0.up || s.ff1.up) then
      (s.modFuse fun f => { f with idKey := idKey, wrapKey := wrapKey, serial := serial, cert := cert }).transition 1
    else s)

/-- SIGNED_UNLOCK: in RETURN a Zelgus signature enables JTAG (13 R367; log 30, DESIGN CHOICE). -/
def execSignedUnlock (challenge : W256) (sig : BitVec 768) (s : State) : Host.Outcome State Fault Refusal :=
  .next (if s.lcs = 3 ∧ (s.ff0.up || s.ff1.up) ∧ Config.ecdsaVerify Config.zelgusKey (leBytes 8 s.fuse.serial.toNat ++ leBytes 32 challenge.toNat) sig then
      s.modSec fun x => { x with jtagUnlocked := true }
    else s)

/-- RESET: the reply, then the functional logic is reset (14 R404). -/
def execReset (m : CmdHdr) (s : State) : Host.Outcome State Fault Refusal :=
  .next (s.command m (fieldCmd 1) (fun _ s => (rep stOk, s)) fun _ _ s => s.softReset)

/-! ### Firmware (13 R390) -/

/-- What a firmware image's signature covers (log 30, DESIGN CHOICE). -/
def fwSigned (i : FwImage) : List Byte := leBytes 2 i.version.toNat ++ [i.svn] ++ i.image

/-- Whether an image verifies under a certified Zelgus signing key (13 R390). -/
def fwVerifies (i : FwImage) : Bool :=
  match Config.signerKey i.cert with | some pub => Config.ecdsaVerify pub (fwSigned i) i.sig | none => false

/-- FWWRITE: the image that does not run is written, if it verifies and its SVN is not below the floor (log 50, DEDUCED). -/
def execFwwrite (m : CmdHdr) (img : FwImage) (s : State) : Host.Outcome State Fault Refusal :=
  .next (s.cmd m (fieldCmd 0) fun _ s =>
    if !fwVerifies img || decide (img.svn < s.fuse.svnFloor) then (rep stRefused, s)
    else
      let f : Fw := { version := img.version, svn := img.svn, valid := true, image := img.image }
      (rep stOk, s.modSec fun x => if x.running = 0 then { x with fw1 := f } else { x with fw0 := f }))

/-- FWACTIVATE: an image is marked active for the next reset. -/
def execFwactivate (m : CmdHdr) (image : Nat) (s : State) : Host.Outcome State Fault Refusal :=
  .next (s.cmd m (fieldCmd 0) fun _ s => (rep stOk, s.modSec fun x => { x with active := image, ownerActivated := true }))

/-- SVN_FLOOR_RAISE: 24 h of an image that an OWNER activated, without a fallback. -/
def execSvnFloorRaise (s : State) : Host.Outcome State Fault Refusal :=
  .next (if s.sec.ownerActivated && s.sec.running == s.sec.active && !s.sec.fallbk then
      s.modFuse fun f => { f with svnFloor := if f.svnFloor < s.fwNow.svn then s.fwNow.svn else f.svnFloor }
    else s)

/-! ### Power, scans, replay, unfreeze -/

/-- The status of a POWER command (14 R395). -/
def State.powerStatus (s : State) (target opp : Byte) : Byte :=
  if 2 ≤ target.toNat ∨ (opp ≠ 0xFF ∧ 3 ≤ opp.toNat) then stMalformed
  else if target = 0 then
    (if (s.parts.any fun x => x.2.loaded) || !s.ldr.queue.isEmpty || !s.ldr.held.isEmpty then stBusy else stOk)
  else if s.lcs ≠ 2 ∨ s.pwr.supLat ∨ s.pwr.tripLat ∨ s.pwr.coolLat then stRefused
  else stOk

/-- POWER: the target state, the cap, and the highest operating point of every die. -/
def execPower (m : CmdHdr) (target : Byte) (cap : W16) (opp : Byte) (s : State) : Host.Outcome State Fault Refusal :=
  .next (s.cmd m { role := 1, states := [2] } fun _ s =>
    let st := s.powerStatus target opp
    if st ≠ stOk then (rep st, s)
    else
      let s1 := if target = 0 then (if s.fabricOn then s.goDark else s)
        else if s.pwr.state = .dark then s.modPwr fun p => { p with state := .idle } else s
      let s2 := if cap = 0 then s1 else s1.modPwr fun p => { p with cap := cap }
      (rep stOk, if opp = 0xFF then s2 else (List.range 12).foldl (fun s d => s.setMax d opp.toNat) s2))

/-- SCAN: a dark position is scanned; two of a die at a time (12 R359). -/
def execScan (m : CmdHdr) (die pos : Nat) (s : State) : Host.Outcome State Fault Refusal :=
  .next (s.cmd m (fieldCmd 1) fun _ s =>
    if !s.dark die pos then (rep stRefused, s)
    else if !s.canScan die pos then (rep stBusy, s)
    else (rep stOk, s.startScan die pos))

/-- REPLAY: a replay of recorded steps of a job starts (12 R363). -/
def execReplay (m : CmdHdr) (job s0 s1 : W64) (records : List CapRec) (s : State) : Host.Outcome State Fault Refusal :=
  .next (s.cmd m (fieldCmd 1) fun k s =>
    if s1 < s0 then (rep stMalformed, s)
    else if (match s.ev.replay with | some r => !r.ended | none => false) then (rep stBusy, s)
    else (rep stOk, s.modEv fun v =>
      { v with replay := some { job := job, s0 := s0, s1 := s1, records := records, divergence := none, sid := k.sid, ended := false } }))

/-- UNFREEZE: after a job stop the FROZEN streams of a partition run; a drained module runs none (12 R354, R356). -/
def execUnfreeze (m : CmdHdr) (part : Nat) (s : State) : Host.Outcome State Fault Refusal :=
  .next (s.cmd m (fieldCmd 1) fun _ s =>
    let x := s.part part
    if !x.loaded || !x.jobStop || s.ev.drain then (rep stRefused, s)
    else
      let s1 := s.eachStream part Stream.unfrozen
      (rep stOk, x.cores.foldl (fun s k => s.wakeCore k) s1))

end Sys2Proof.Machine
end

