-- ==== Sys2Proof/Machine/Faults.lean ====
section
/-! DEFINITION. The event mailboxes and the handling of records, the Capsule recorder, scans and the patrol (12 R342 to R348,
R354, R355, R359 to R362, 07 R222). -/

namespace Sys2Proof.Machine

/-! ### Acceptance (12 R345, R346) -/

/-- EVENT_RECORD_ACCEPT: the first ready record whose queue has room is accepted. TEMP and VOLT are the samples of its unit. -/
def execEventRecordAccept (temp volt : W16) (s : State) : Host.Outcome State Fault Refusal :=
  .next (match s.ready.find? fun x => s.roomFor x with
    | none => s
    | some x => s.acceptRec x temp volt)

/-! ### The log and the Capsule (12 R345, R361, R362) -/

/-- A record enters the log, which keeps the last 4,194,304, and the Capsule of its partition. -/
def State.logRecord (s : State) (half : Nat) (e : EvRec) : State :=
  let s1 := s.modEv fun v => { v with log := (v.log ++ [e]).drop (v.log.length + 1 - logMax) }
  if e.part.toNat < 16 then s1.record half 0x0B e.part.toNat e.step (evBytes e) else s1

/-- The records of a step are pinned, those in the ring as far as 1 GiB allows. -/
def State.pin (s : State) (p : Nat) (step : W64) : State :=
  s.modEv fun v =>
    let ring := v.ring.foldl (fun (acc : List (CapRec × Bool) × Nat) x =>
      let n := acc.2 + capSize x.1
      if x.2 then (acc.1 ++ [x], acc.2)
      else if x.1.part.toNat = p ∧ x.1.step = step ∧ n ≤ 2 ^ 30 then (acc.1 ++ [(x.1, true)], n)
      else (acc.1 ++ [x], acc.2)) ([], ((v.ring.filter (·.2)).map fun x => capSize x.1).sum)
    { v with
      pins := if v.pins.contains (p, step) then v.pins else v.pins ++ [(p, step)]
      ring := ring.1, pinnedMiB := BitVec.ofNat 16 (pinnedSpace ring.1) }

/-! ### Escalation (12 R348, Table 12-4) -/

/-- The die of a unit that Table 12-4 fences with its die: exchange engine, update unit, die hub. -/
def hubDie (u : W32) : Option Nat :=
  match fld u 31 28 with
  | 3 => some (fld u 23 20)
  | 5 => some (fld u 23 20)
  | 4 => some (fld u 6 0 / 2)
  | _ => none

/-- A partition that uses a die has no twin on the other half. -/
def State.noTwin (s : State) (die : Nat) : Bool :=
  (s.partsOnDie die).any fun p => !((s.part p).twins.any fun t => t.1 != halfOfDie die)

/-- The manager is asked to switch every partition that uses a die to its twin on the other half (12 Table 12-4; log 117, DEDUCED). -/
def State.askTwins (s : State) (die : Nat) : State :=
  (s.partsOnDie die).foldl (fun s p => s.mgmt s.mgrRank (.twin p (1 - halfOfDie die))) s

/-- The Retract handling of a partition, in progress or the next, makes the escalation of a unit. -/
def State.noteEscal (s : State) (u : W32) (p : Nat) : State :=
  match (s.part p).retracting with
  | some _ => (s.modPart p fun x =>
      { x with retracting := x.retracting.map fun r =>
          { r with escalation := if r.escalation.contains u then r.escalation else r.escalation ++ [u] } }).tryRewind p
  | none => s.modPart p fun x => { x with escal := if x.escal.contains u then x.escal else x.escal ++ [u] }

/-- A core escalates: inside the Retract handling of the partition it belongs to, that of the record or else the one that holds it; at once,
with the spare map, for one that is saved out, and for a core of none (12 R348, R365, 08 R258; log 149, DEDUCED). -/
def State.escalateCore (s : State) (p : Nat) (u : W32) : State :=
  match if p < 16 then some p else (s.core (coreKey (fld u 23 20) (fld u 12 7))).part with
  | some q =>
    if (s.part q).saved.isNone then s.noteEscal u q
    else if (s.part q).epoch = 0xFFFF then s
    else
      let r := (s.fence q u).substituteNow q u
      if r.1 then r.2.noteEscal u q else r.2
  | none => ((s.mask u).substituteNow 0xFF u).2

/-- An exchange engine, update unit or die hub escalates: with a twin for every partition that uses the die it is fenced in their Retract
handling or twin switch, whichever comes first; without, the module is drained, and with no partition on the die nothing runs there, and
it is fenced at once (12 Table 12-4; log 150, DEDUCED). -/
def State.escalateHub (s : State) (p cls : Nat) (u : W32) (die : Nat) : State :=
  let on := s.partsOnDie die
  let ps := if p < 16 ∧ ¬on.contains p then p :: on else on
  if s.noTwin die ∨ ps.isEmpty then
    let s1 := if ps.isEmpty then s else s.drainModule p cls
    if ps.isEmpty then s1.mask u else ps.foldl (fun s q => s.fence q u) s1
  else (ps.foldl (fun s q => s.noteEscal u q) s).askTwins die

/-- The action of Table 12-4 for a unit. A unit that is fenced escalates no second time. -/
def State.escalateUnit (s : State) (e : EvRec) (p : Nat) (u : W32) : State :=
  let cls := e.cls.toNat
  if s.fenced u then s
  else match fld u 31 28 with
    | 0 => s.escalateCore p u
    | 1 | 2 =>
      (s.modEv fun v =>
        let g := e.detail.toNat / 4096
        { v with badGran := if v.badGran.contains g ∨ 4096 ≤ v.badGran.length then v.badGran else v.badGran ++ [g] }).drainModule p cls
    | 3 | 4 | 5 => (match hubDie u with
        | some d => s.escalateHub p cls u d
        | none => s)
    | 7 => s.writeLnkCfg (fld u 6 0) ((s.lnkWord (fld u 6 0) 0x18).setWidth 32 &&& 0xFFFFFFFE)
    | _ => s.drainModule p cls

/-- An E-class record of one unit: one that arrived while an earlier one was handled, or one in two consecutive retries of a step, escalates. -/
def State.handleE (s : State) (e : EvRec) (u : W32) : State :=
  let p := e.part.toNat
  let x := if p < 16 then s.part p else {}
  let again := s.ev.nested.contains (u, e.seq)
    || x.ehist.any fun h => h.unit == u && h.step == x.openStep && h.retry + 1 == e.retry
  let s1 := if p < 16 then
      s.modPart p fun x =>
        { x with
          ehist := (x.ehist.filter fun h => h.step == x.openStep) ++ [{ unit := u, step := x.openStep, retry := e.retry }] }
    else s
  if again && !s.fenced u then s1.escalateUnit e p u else s1

/-- A Bounds event: the same core, stream and address in the next retry stop the job (12 R354). -/
def State.handleBounds (s : State) (e : EvRec) : State :=
  let p := e.part.toNat
  let u := escUnit e.unit
  let x := s.part p
  let again := x.bounds.any fun b => b == (u, e.stream, e.iaddr, x.openStep, e.retry - 1)
  let s1 := s.modPart p fun x => { x with bounds := (x.bounds.filter fun b => b.2.2.2.1 == x.openStep) ++ [(u, e.stream, e.iaddr, x.openStep, e.retry)] }
  if again && e.retry != 0 then s1.stopJob p false 5 else s1

/-- What the lead domain does about a record of a partition (12 R344, R348, R354, R355). -/
def State.stepAction (s : State) (e : EvRec) : State :=
  let p := e.part.toNat
  let bad := e.cls = 3 && s.ev.badGran.contains (e.detail.toNat / 4096)
  let s1 := if s.isE e then (s.unitsOf e).foldl (fun s u => s.handleE e u) s else s
  let s2 := if bad then s1.drainModule p 3 else s1
  if 16 ≤ p then s2
  else
    let own := (s2.heldRecs p).any fun x => x.retry == (s2.part p).retry
    let s3 := if (stepClass e ∨ e.cls = 0x14) ∧ (e.retry = (s2.part p).retry ∨ own = false) then s2.abortDue p (some e) else s2
    let s4 := if e.cls = 5 then s3.handleBounds e else s3
    if e.cls = 6 ∧ e.cause ≠ 7 then s4.stopJob p false 6 else s4

/-- RECORD_HANDLING: a Firefly domain takes the head of its queue: the log, the Capsule, the subscribers, and the step-level
actions of the lead, to which the shadow half forwards its records; the shadow half of a split cannot (01 R47, 12 R345). During a split
without a ruling, records stay (14 R405). -/
def execRecordHandling (half : Nat) (s : State) : Host.Outcome State Fault Refusal :=
  let h := s.ff half
  .next (if !h.up || (h.split && !h.ruled) then s
    else match s.ev.queueOf half with
      | [] => s
      | e :: q =>
        let s1 := (s.modEv fun v => if half = 0 then { v with q0 := q } else { v with q1 := q }).logRecord half e
        let s2 := if e.part.toNat < 16 ∧ (stepClass e ∨ e.cls = 0x19) then s1.pin e.part.toNat e.step else s1
        let s3 := if h.split && h.fenced && half != s.leadHalf then s2 else s2.stepAction e
        (s3.modEv fun v =>
          { v with handling := v.handling.filter fun x => x.2 != e.seq
                   nested := v.nested.filter fun x => x.2 != e.seq }).deliverEvents)

/-! ### The recorder (12 R361, R362) -/

/-- The ring's size: 6 GiB. -/
def ringMax : Nat := 6 * 2 ^ 30

/-- Overwrite the oldest records that are not pinned, until `n` bytes are free. -/
def evict : Nat → List (CapRec × Bool) → List (CapRec × Bool)
  | _, [] => []
  | n, x :: t => if n = 0 then x :: t else if x.2 then x :: evict n t else evict (n - capSize x.1) t

/-- A record enters the ring, in blocks that have been erased: old blocks that it needs are erased before (13 R372; log 87, DESIGN CHOICE);
a record of a pinned step is pinned while 1 GiB holds it (log 94, DESIGN CHOICE). -/
def State.ringPut (s : State) (r : CapRec) : State :=
  let want := s.ev.pins.contains (r.part.toNat, r.step)
  let used := ((s.ev.ring.filter (·.2)).map fun x => capSize x.1).sum
  let pin := want && decide (used + capSize r ≤ 2 ^ 30)
  let total := (s.ev.ring.map fun x => capSize x.1).sum + capSize r
  let s1 := s.modEv fun v =>
    let ring := evict (total - ringMax) v.ring ++ [(r, pin)]
    let used := (ring.map fun x => capSize x.1).sum
    { v with ring := ring, unerased := min v.unerased (ringMax - used), pinnedMiB := BitVec.ofNat 16 (pinnedSpace ring) }
  if want && !pin then s1.capsuleEv 1 r.part.toNat else s1

/-- CAPSULE_RECORD: the recorder writes the oldest record of a half's buffer to the ring; when the buffer cannot drain, the
step's remaining records are dropped and the step is marked incomplete. -/
def execCapsuleRecord (half : Nat) (drained : Bool) (s : State) : Host.Outcome State Fault Refusal :=
  let buf := if half = 0 then s.ev.cap0 else s.ev.cap1
  .next (match buf with
    | [] => s
    | r :: t =>
      if drained then (s.modEv fun v => if half = 0 then { v with cap0 := t } else { v with cap1 := t }).ringPut r
      else s.dropStep r.part.toNat r.step)

/-! ### Scans (12 R359, R360) -/

/-- SPARE_SCAN_TIMER: a spare's scan period elapses. -/
def execSpareScanTimer (die pos : Nat) (s : State) : Host.Outcome State Fault Refusal :=
  .next (if s.ev.scanPeriod ≠ 0 ∧ !s.posUsed die pos ∧ s.canScan die pos then s.startScan die pos else s)

/-- Partitions whose escalation waits for a scan go on. -/
def State.resumeEscalations (s : State) : State :=
  (s.parts.map (·.1)).foldl (fun s p =>
    match (s.part p).retracting with
    | some r => if r.rewound && !r.escalation.isEmpty then s.runEscalations p else s
    | none => s) s

/-- SCAN_COMPLETE: a failed scan marks the position and is posted; a passed one frees a fenced position, which becomes a
spare. -/
def execScanComplete (die pos : Nat) (pass : Bool) (pattern : W16) (s : State) : Host.Outcome State Fault Refusal :=
  let k := die * 72 + pos
  .next (if !s.ev.scanning.contains k then s
    else
      let s1 := s.modEv fun v =>
        { v with
          scanning := v.scanning.filter (· != k), scanLast := k, scanResult := if pass then 1 else 2
          scanPattern := if pass then 0 else pattern }
      let s2 := if pass then
          (if s.posFenced die pos then
            (s1.modSyn (halfOfDie die) fun h =>
              { h with fence := h.fence.filter fun u => !(fld u 31 28 == 0 && fld u 23 20 == die && fld u 19 13 == pos) }).modEv fun v =>
                { v with failed := v.failed.filter (· != k) }
           else s1)
        else
          let s' := s1.modEv fun v => { v with failed := if v.failed.contains k then v.failed else v.failed ++ [k] }
          s'.post (s'.unitEv (unitWord 0 15 die pos 63 127) 0x16 0 0xFF (s'.ffLeadWord 0x1030))
      s2.resumeEscalations)

/-! ### The patrol (07 R222) -/

/-- Whether a plain address lies in the memories that a die's patrol covers. -/
def patrolled (gradeB : Bool) (die a : Nat) : Bool :=
  match memUnit gradeB a with
  | some (.hbm st) => st / 2 == die
  | some (.dieStore d) => d == die
  | _ => false

/-- PATROL_SCRUB: every codeword of a die's store and stacks is read, corrected and counted. -/
def execPatrolScrub (die : Nat) (faults : List PhysFault) (s : State) : Host.Outcome State Fault Refusal :=
  let s0 := s.upset faults
  .next (if !(s.die die).scrubEn || !s.fabricOn then s0
    else (s0.errs.map (·.1)).foldl (fun s a =>
      if patrolled s.fuse.gradeB die a then (s.readCw a { part := s.streamOwner a }).2 else s) s0)

end Sys2Proof.Machine
end

