-- ==== Sys2Proof/Machine/Image.lean ====
section
/-! DEFINITION. The structure image as the loader reads it: header, directory, sections and records, the static walk of its
stream images, and ranges of device memory in granules (08 R230 to R242, 07 R204; log 40, DEDUCED). -/

namespace Sys2Proof.Machine

/-! ### Header, directory, sections (Tables 8-1 to 8-3) -/

/-- A directory entry. -/
structure Sect where
  type : Nat
  flags : Nat
  len : Nat
  off : Nat
  deriving DecidableEq, Repr

def tPART : Nat := 1
def tSPARE : Nat := 2
def tCHAIN : Nat := 3
def tWIN : Nat := 4
def tSYNC : Nat := 5
def tPOLICY : Nat := 6
def tTENS : Nat := 7
def tOPS : Nat := 8
def tSTRM : Nat := 9
def tROUTE : Nat := 0xA
def tCOLL : Nat := 0xB
def tKEYS : Nat := 0xC
def tSCALE : Nat := 0xD
def tTWIN : Nat := 0xE
def tCHRY : Nat := 0xF

/-- Record sizes of Table 8-3, 09 R276, 10 R306 and 11 R333; none for an unknown type. -/
def recSize (t : Nat) : Option Nat :=
  match t with
  | 1 => some 128 | 2 => some 80 | 3 => some 8 | 4 => some 24 | 5 => some 24 | 6 => some 8 | 7 => some 64 | 8 => some 96
  | 9 => some 384 | 10 => some 16 | 11 => some 256 | 12 => some 24 | 13 => some 16 | 14 => some 24 | 15 => some 32
  | _ => none

def imgMagic (b : List Byte) : Nat := recNat b 0 4
def imgVmaj (b : List Byte) : Nat := recNat b 4 2
def imgLength (b : List Byte) : Nat := recNat b 8 8
def imgParts (b : List Byte) : List Nat := (List.range 16).filter fun p => (recNat b 0x10 2).testBit p
def imgFlags (b : List Byte) : Nat := recNat b 0x12 2
def imgSpan (b : List Byte) : Bool := imgFlags b % 2 == 1
def imgTwin (b : List Byte) : Bool := imgFlags b / 2 % 2 == 1
def imgNsec (b : List Byte) : Nat := recNat b 0x14 4
def imgJob (b : List Byte) : W64 := BitVec.ofNat 64 (recNat b 0x18 8)

/-- The 48 bytes of DIGEST, in address order, as a number whose most significant byte comes first (FIPS 180-4). -/
def imgDigest (b : List Byte) : W384 :=
  BitVec.ofNat 384 (((b.drop 0x20).take 48).foldl (fun a x => a * 256 + x.toNat) 0)

/-- The digest of an image: SHA-384 over its bytes with the DIGEST field zero. -/
def digestOf (b : List Byte) : W384 := Config.sha384 (b.take 0x20 ++ List.replicate 48 0 ++ b.drop 0x50)

def dirEntry (b : List Byte) (k : Nat) : Sect :=
  let o := 0x80 + 16 * k
  { type := recNat b o 2, flags := recNat b (o + 2) 2, len := recNat b (o + 4) 4, off := recNat b (o + 8) 8 }

/-- The records of a section whose records point to data behind them: records run up to the lowest offset they give. -/
def leadRecs (size at_ n : Nat) (sec : List Byte) : Nat → Nat → Nat → List (List Byte)
  | 0, _, _ => []
  | f + 1, pos, lim =>
    if lim < pos + size then []
    else
      let r := (sec.drop pos).take size
      r :: leadRecs size at_ n sec f (pos + size) (min lim (recNat r at_ n))

/-- The records of a section. -/
def sectRecs (t : Nat) (sec : List Byte) : List (List Byte) :=
  match recSize t with
  | none => []
  | some n =>
    if t = tSTRM then leadRecs n 4 4 sec (sec.length / n) 0 sec.length
    else if t = tTWIN then leadRecs n 8 8 sec (sec.length / n) 0 sec.length
    else splitEvery n sec.length sec

/-! ### Ranges of memory, in plain granules (07 R195, R196) -/

/-- The plain 4 KiB granules from the granule of `base` to the granule of `last`, as intervals; none where the range leaves
the populated memory of one unit or one interleaved view. -/
def granules (gradeB : Bool) (base last : Nat) : Option (List (Nat × Nat)) :=
  let b := base / 4096 * 4096
  let e := last / 4096 * 4096 + 4095
  if e < b then none
  else if viewBase ≤ b ∧ b < viewBase + 2 * 2 ^ 41 then
    let h := (b - viewBase) / 2 ^ 41
    let g0 := (b - viewBase) % 2 ^ 41 / 4096
    let g1 := g0 + (e - b) / 4096
    if g1 * 4096 < 1152 * 2 ^ 30 then
      some ((List.range 12).filterMap fun r =>
        let f := g0 + (r + 12 - g0 % 12) % 12
        if f ≤ g1 then
          let s0 := (12 * h + r) * 2 ^ 25
          some (s0 + f / 12, s0 + (g1 - (g1 + 12 - r) % 12) / 12)
        else none)
    else none
  else if (memUnit gradeB b).isSome && memUnit gradeB b == memUnit gradeB e then some [(b / 4096, e / 4096)]
  else none

/-- Intervals meet. -/
def meets (x y : List (Nat × Nat)) : Bool := x.any fun a => y.any fun b => decide (a.1 ≤ b.2) && decide (b.1 ≤ a.2)

/-- Granules of an interval left over when others are taken out of it, in ascending order of the others. -/
def uncovered (ws : List (Nat × Nat)) (lo hi : Nat) : Bool :=
  let lo' := (sortBy ws fun a b => decide (a.1 ≤ b.1)).foldl (fun lo w => if w.1 ≤ lo ∧ lo ≤ w.2 then w.2 + 1 else lo) lo
  decide (lo' ≤ hi)

/-- Every granule of `x` lies in some interval of `ws`. -/
def covered (x ws : List (Nat × Nat)) : Bool := x.all fun a => !uncovered ws a.1 a.2

def isHbm (a : Nat) : Bool := decide (a < 24 * 2 ^ 37) || (decide (viewBase ≤ a) && decide (a < viewBase + 2 * 2 ^ 41))
def isDieStore (a : Nat) : Bool := decide (dieBase ≤ a) && decide (a < dieBase + 12 * 2 ^ 32)

/-! ### Records -/

def rPart (r : List Byte) : Nat := recNat r 0 1

/-- The cores of a PART record, by key, in order of die and logical core (08 R232). -/
def partCores (r : List Byte) : List Nat :=
  (List.range 12).flatMap fun d =>
    ((List.range 64).filter fun l => (recNat r (8 + 8 * d) 8).testBit l).map fun l => coreKey d l

def winKind (r : List Byte) : Nat := recNat r 1 1
def winIdx (r : List Byte) : Nat := recNat r 2 1
def winPerm (r : List Byte) : Nat := recNat r 3 1
def winBase (r : List Byte) : Nat := recNat r 8 8
def winLast (r : List Byte) : Nat := recNat r 0x10 8

/-- The window register of a WIN record (07 R223, 08 R235). -/
def winOf (r : List Byte) : Win :=
  { base := BitVec.ofNat 64 (winBase r / 4096 * 4096), last := BitVec.ofNat 64 (winLast r / 4096 * 4096), v := true
    rd := (winPerm r).testBit 0, wr := (winPerm r).testBit 1 }

def syncFirst (r : List Byte) : Nat := recNat r 4 4
def syncCount (r : List Byte) : Nat := recNat r 8 4
def syncInit (r : List Byte) : Nat := recNat r 0xC 4
def syncLimit (r : List Byte) : Nat := recNat r 0x10 4
def syncNpart (r : List Byte) : Nat := recNat r 0x14 4
def syncType (r : List Byte) : Nat := recNat r 1 1
def syncObjs (r : List Byte) : List Nat := (List.range (syncCount r)).map (syncFirst r + ·)

def tensPart (r : List Byte) : Nat := recNat r 2 1
def tensCeil (r : List Byte) : Nat := recNat r 4 1 / 16
def tensBind (r : List Byte) : Nat := recNat r 5 1
def tensAnchor (r : List Byte) : Int := recInt r 6 2

def opsKind (r : List Byte) : Nat := recNat r 2 1 / 4 % 4
def opsSplit (r : List Byte) : Nat := recNat r 3 1 % 4
def opsAnchor (r : List Byte) : Int := recInt r 6 2
def opsTout (r : List Byte) : Nat := recNat r 8 2
def opsTa (r : List Byte) : Nat := recNat r 0xA 2
def opsTb (r : List Byte) : Nat := recNat r 0xC 2
def opsKdim (r : List Byte) : Nat := recNat r 0xE 2
def opsG (r : List Byte) : Nat := recNat r 0x10 4
def opsN (r : List Byte) : Nat := recNat r 0x14 4
def opsWork (r : List Byte) : Nat := recNat r 0x18 4
def opsKmax (r : List Byte) : Nat := recNat r 0x1C 4
def opsTm (r : List Byte) (lv : Nat) : Nat := recNat r (0x20 + 16 * lv) 4
def opsTn (r : List Byte) (lv : Nat) : Nat := recNat r (0x24 + 16 * lv) 4
def opsTk (r : List Byte) (lv : Nat) : Nat := recNat r (0x28 + 16 * lv) 4
def opsLoop (r : List Byte) (lv : Nat) : Nat := recNat r (0x2C + 16 * lv) 1

def strmDie (r : List Byte) : Nat := recNat r 0 1
def strmCore (r : List Byte) : Nat := recNat r 1 1
def strmPass (r : List Byte) : Nat := recNat r 2 1
def strmOff (r : List Byte) : Nat := recNat r 4 4
def strmLen (r : List Byte) : Nat := recNat r 8 4
def strmLoad (r : List Byte) : Nat := recNat r 0xC 4
def strmPc (r : List Byte) : Nat := recNat r 0x10 4
def strmStep (r : List Byte) : W64 := BitVec.ofNat 64 (recNat r 0x18 8)
def strmA (r : List Byte) (k : Nat) : W64 := BitVec.ofNat 64 (recNat r (0x20 + 8 * k) 8)
def strmS (r : List Byte) (k : Nat) : W64 := BitVec.ofNat 64 (recNat r (0xA0 + 8 * k) 8)
def strmC (r : List Byte) (k : Nat) : W32 := BitVec.ofNat 32 (recNat r (0x120 + 4 * k) 4)
def strmSmax (r : List Byte) (k : Nat) : W32 := BitVec.ofNat 32 (recNat r (0x140 + 4 * k) 4)
def strmCtx (r : List Byte) : List Nat := (List.range 384).filter fun x => (recNat r 0x150 48).testBit x
def strmKey (r : List Byte) : Nat := coreKey (strmDie r) (strmCore r)
def passOf (k : Nat) : Pass := match k with | 0 => .fwd | 1 => .bwd | _ => .upd

def chryDie (r : List Byte) : Nat := recNat r 1 1
def chryGroup (r : List Byte) : Nat := recNat r 2 1
def chryMode (r : List Byte) : Nat := recNat r 3 1
def chryQuantum (r : List Byte) : Nat := recNat r 4 2
def chryBase (r : List Byte) : Nat := recNat r 8 8
def chryLast (r : List Byte) : Nat := recNat r 0x10 8

def twinOff (r : List Byte) : Nat := recNat r 8 8
def twinLen (r : List Byte) : Nat := recNat r 0x10 8

def scaleOf (r : List Byte) : ScaleRec :=
  let byte := fun k => BitVec.ofNat 8 (recNat r k 1)
  { s0 := byte 1, smin := byte 2, smax := byte 3, up := byte 4, window := BitVec.ofNat 16 (recNat r 6 2) }

/-! ### The image -/

/-- An operation of a stream image by address order: from CTL.OPBEGIN at `lo` to CTL.OPEND at `hi` (05 R153). -/
structure OpSpan where
  lo : Nat
  hi : Nat
  id : Nat
  n : Nat
  g : Nat
  deriving DecidableEq, Repr

/-- The static walk of a stream image: record index and record, owner, first and last byte, reachable instructions by
core-store offset, places it leaves the image, operations, and delimiter faults. -/
structure Walk where
  idx : Nat
  rec_ : List Byte
  part : Nat
  lo : Nat
  hi : Nat
  img : List Byte
  ins : List (Nat × W128)
  out : List Nat
  ops : List OpSpan
  bad : List Nat
  deriving DecidableEq, Repr

/-- The parsed image. -/
structure Img where
  bytes : List Byte
  dir : List Sect
  recs : List (Nat × List (List Byte))
  strm : List Byte
  twin : List Byte
  parts : List Nat
  walks : List Walk
  deriving DecidableEq, Repr

def Img.sec (m : Img) (t : Nat) : List (List Byte) := ((m.recs.find? fun x => x.1 == t).map (·.2)).getD []
def Img.has (m : Img) (t : Nat) : Bool := m.dir.any fun d => d.type == t
/-- Records with their indices. -/
def Img.num (m : Img) (t : Nat) : List (Nat × List Byte) := (m.sec t).zipIdx.map fun x => (x.2, x.1)

/-- The cores of a partition of the image. -/
def coresIn (rs : List (List Byte)) (p : Nat) : List Nat := ((rs.find? fun r => rPart r == p).map partCores).getD []
def Img.cores (m : Img) (p : Nat) : List Nat := coresIn (m.sec tPART) p

/-! #### The walk -/

def wordAt (img : List Byte) (o : Nat) : W128 := BitVec.ofNat 128 (recNat img o 16)

def isCtl (w : W128) (op : Nat) : Bool := hFam w == 7 && hOp w == op
def isBranch (w : W128) : Bool := hFam w == 7 && decide (8 ≤ hOp w) && decide (hOp w ≤ 10)
def loopEnd (a : Nat) (w : W128) : Nat := a + 16 * (fld w 75 64 + 1)
def brTarget (a : Nat) (w : W128) : Int := (a : Int) + 16 * sfld w 23 0

/-- Where control may go after an instruction: the next one, a branch target, past an empty loop. A target below 0 is kept
as 2^32, outside every image. -/
def succs (a : Nat) (w : W128) : List Nat :=
  if isCtl w 15 then []
  else
    let t := brTarget a w
    let tn := if t < 0 then 2 ^ 32 else t.toNat
    (if isCtl w 8 then [] else [a + 16]) ++ (if isBranch w then [tn] else [])
      ++ (if isCtl w 7 then [loopEnd a w + 16] else [])

/-- Reachable instructions of an image that lies at `lo`, and the places where control leaves it. -/
def reach (img : List Byte) (lo : Nat) : Nat → List Nat → List (Nat × W128) → List Nat → List (Nat × W128) × List Nat
  | 0, _, ins, out => (ins, out)
  | _, [], ins, out => (ins, out)
  | f + 1, a :: todo, ins, out =>
    if ins.any (fun x => x.1 == a) || out.contains a then reach img lo f todo ins out
    else if a < lo ∨ lo + img.length < a + 16 ∨ (a - lo) % 16 ≠ 0 then reach img lo f todo ins (out ++ [a])
    else
      let w := wordAt img (a - lo)
      reach img lo f (succs a w ++ todo) (ins ++ [(a, w)]) out

/-- Operations by address order, with the addresses that break R153 within one: nesting, an OPEND without OPBEGIN, XCH, UPD,
LDSHAPE and STEP. -/
def spans (hi : Nat) : List (Nat × W128) → Option OpSpan → List OpSpan × List Nat
  | [], none => ([], [])
  | [], some o => ([{ o with hi := hi }], [])
  | (a, w) :: t, cur =>
    if isCtl w 13 then
      let n : OpSpan := { lo := a, hi := hi, id := fld w 79 72, n := fld w 54 35, g := fld w 71 55 }
      let (os, bad) := spans hi t (some n)
      match cur with
      | some o => ({ o with hi := a } :: os, a :: bad)
      | none => (os, bad)
    else if isCtl w 14 then
      let (os, bad) := spans hi t none
      match cur with
      | some o => ({ o with hi := a } :: os, bad)
      | none => (os, a :: bad)
    else
      let (os, bad) := spans hi t cur
      if cur.isSome && (hFam w == 4 || hFam w == 5 || isCtl w 11 || isCtl w 12) then (os, a :: bad) else (os, bad)

/-- The operation that is open when an address is reached: after its OPBEGIN, up to its OPEND. -/
def spanAt (os : List OpSpan) (a : Nat) : Option Nat := (os.find? fun o => decide (o.lo < a) && decide (a ≤ o.hi)).map (·.lo)

/-- Branches and loops that cross a delimiter (05 R153): of a loop, its body's first instruction and the place after its last one lie in
one operation, or in none. -/
def crossings (os : List OpSpan) (ins : List (Nat × W128)) : List Nat :=
  (ins.filter fun (a, w) =>
    (isBranch w && spanAt os a != spanAt os (brTarget a w).toNat)
      || (isCtl w 7 && spanAt os a != spanAt os (loopEnd a w + 16))).map (·.1)

def walkOf (parts : List (List Byte)) (strm : List Byte) (k : Nat) (r : List Byte) : Walk :=
  let img := (strm.drop (strmOff r)).take (strmLen r)
  let lo := strmLoad r
  let n := img.length / 16
  let (ins0, out) := reach img lo (4 * n + 4) [lo + strmPc r] [] []
  let ins := sortBy ins0 fun a b => decide (a.1 ≤ b.1)
  let (os, bad) := spans (lo + img.length) ins none
  { idx := k, rec_ := r
    part := ((parts.find? fun p => (partCores p).contains (strmKey r)).map rPart).getD 16
    lo := lo, hi := lo + img.length, img := img, ins := ins, out := out, ops := os, bad := bad ++ crossings os ins }

/-- Read an image whose header and directory have passed their checks. -/
def parseImg (b : List Byte) : Img :=
  let dir := (List.range (imgNsec b)).map (dirEntry b)
  let body := fun (d : Sect) => (b.drop d.off).take d.len
  let recs := dir.map fun d => (d.type, sectRecs d.type (body d))
  let of := fun t => ((dir.find? fun d => d.type == t).map body).getD []
  let sec := fun t => ((recs.find? fun x => x.1 == t).map (·.2)).getD []
  { bytes := b, dir := dir, recs := recs, strm := of tSTRM, twin := of tTWIN, parts := imgParts b
    walks := (sec tSTRM).zipIdx.map fun x => walkOf (sec tPART) (of tSTRM) x.2 x.1 }

/-- Sub-image of a TWIN record. -/
def Img.sub (m : Img) (r : List Byte) : List Byte := (m.twin.drop (twinOff r)).take (twinLen r)

def Walk.key (k : Walk) : Nat := strmKey k.rec_
def Walk.pass (k : Walk) : Nat := strmPass k.rec_
/-- Core-store address of an instruction, the DETAIL of a failed check (08 R252). -/
def Walk.addr (k : Walk) (a : Nat) : Nat := coreStore k.key + a
def Walk.inside (k : Walk) (o : OpSpan) : List (Nat × W128) := k.ins.filter fun x => decide (o.lo < x.1) && decide (x.1 < o.hi)

/-- The operation record of an operation of a stream; else that of another stream of the partition with the number. -/
def Img.ops (m : Img) (p pass id : Nat) : Option (List Byte) :=
  (m.sec tOPS).find? fun r => rPart r == p && opsId r == id && opsStream r == pass
def Img.opsAny (m : Img) (p pass id : Nat) : Option (List Byte) :=
  (m.ops p pass id).orElse fun _ => (m.sec tOPS).find? fun r => rPart r == p && opsId r == id

def Img.tens (m : Img) (p tid : Nat) : Option (List Byte) := (m.sec tTENS).find? fun r => tensPart r == p && tensTid r == tid
def Img.coll (m : Img) (p e : Nat) : Option (List Byte) := (m.sec tCOLL).find? fun r => rPart r == p && collEntry r == e

/-! ### Static register values (07 R204) -/

/-- Address registers an engine instruction advances (05 R149). -/
def incRegs (w : W128) : List Nat :=
  match hFam w with
  | 0 => (if bit w 58 then [tAsrc w] else []) ++ (if bit w 57 then [tAdst w] else [])
  | 1 => (if bit w 22 then [fld w 30 27] else []) ++ (if bit w 21 then [fld w 26 23] else [])
  | 2 => if vInc w && (decide (hOp w ≤ 13) || hOp w == 24) then vecRegs (hOp w) (hOp w == 5) w else []
  | 3 => if bit w 53 then [fld w 61 58, fld w 57 54] else []
  | 4 => (if bit w 59 then [xAsrc w] else []) ++ (if bit w 58 then [xAdst w] else [])
  | 5 => updIncs w
  | _ => []

/-- Where control may go after an instruction in a run: as `succs`, without the side of a LOOP that its immediate count excludes. -/
def flowSuccs (a : Nat) (w : W128) : List Nat :=
  if isCtl w 7 && !bit w 79 then (if fld w 31 0 = 0 then [loopEnd a w + 16] else [a + 16]) else succs a w

/-- One round over the instructions of a stream: what holds before each one flows, through it, to its successors, where it is joined
with what holds there. -/
def flowRound {α : Type} (k : Walk) (after : Nat → W128 → α → α) (join : α → α → α) (t : List (Nat × α)) : List (Nat × α) :=
  let back := (k.ins.filter fun x => isCtl x.2 7).map fun x => (loopEnd x.1 x.2, x.1 + 16)
  k.ins.foldl (fun t (a, w) =>
    match t.find? fun x => x.1 == a with
    | none => t
    | some (_, v) =>
      let v' := after a w v
      (flowSuccs a w ++ (back.filter fun e => e.1 == a).map (·.2)).foldl (fun t b =>
        if t.any fun x => x.1 == b then t.map fun x => if x.1 = b then (b, join x.2 v') else x
        else t ++ [(b, v')]) t) t

/-- What holds before each instruction over every path to it: the rounds, of which there are at most as many as the number says, end
when nothing changes. -/
def flowFix {α : Type} [DecidableEq α] (k : Walk) (after : Nat → W128 → α → α) (join : α → α → α) :
    Nat → List (Nat × α) → List (Nat × α)
  | 0, t => t
  | f + 1, t => let t' := flowRound k after join t; if t' = t then t else flowFix k after join f t'

/-- What is known of A0 to A15, C0 to C7 and S0 to S15, in this order: none for a register whose value is not known. -/
abbrev Known := List (Option Nat)

def Known.reg (v : Known) (k : Nat) : Option Nat := (v.getD k none)

/-- The effect of an instruction on what is known. -/
def knownAfter (w : W128) (v : Known) : Known :=
  if hFam w ≠ 7 then (incRegs w).foldl (fun v r => lset v r none) v
  else
    let src := fld w 79 78
    let reg := fld w 77 74
    let c := v.reg (16 + fld w 69 67)
    let immA := if src = 0 then some (fld w 63 0) else c.map (· * fld w 63 0)
    let immC := match src with | 0 => some (fld w 31 0) | 2 => c.map (· * fld w 31 0) | _ => none
    let add := fun (x y : Option Nat) => x.bind fun a => y.map fun b => a + b
    match hOp w with
    | 2 => lset v reg (immA.map (· % 2 ^ 64))
    | 3 => lset v reg ((add (v.reg reg) immA).map (· % 2 ^ 64))
    | 4 => lset v (24 + reg) (some (fld w 63 0))
    | 5 => lset v (16 + reg % 8) (immC.map (· % 2 ^ 32))
    | 6 => lset v (16 + reg % 8) ((add (v.reg (16 + reg % 8)) immC).map (· % 2 ^ 32))
    | _ => v

/-- Two paths meet: a register that differs is not known. -/
def Known.join (x y : Known) : Known := x.zipWith (fun a b => if a = b then a else none) y

def Walk.known (k : Walk) : List (Nat × Known) :=
  let v0 : Known := (List.range 16).map (fun j => some (strmA k.rec_ j).toNat) ++ (List.range 8).map (fun j => some (strmC k.rec_ j).toNat)
    ++ (List.range 16).map fun j => some (strmS k.rec_ j).toNat
  flowFix k (fun _ => knownAfter) Known.join (42 * (k.ins.length + 1)) [(k.lo + strmPc k.rec_, v0)]

/-- A register's value at an instruction, when it is known. -/
def regAtIns (t : List (Nat × Known)) (a r : Nat) : Option Nat := (t.find? fun x => x.1 == a).bind fun x => x.2.reg r

end Sys2Proof.Machine
end

