-- ==== Sys2Proof/Machine/Checks.lean ====
section
/-! DEFINITION. The loader checks of Table 8-8 (08 R251), with the clauses that 01 R43, 02 R50, R69, 04 R107, 05 R153, 07 R204,
09 R263, R278, 10 R306 and 11 R334 give them (log 40, DEDUCED). -/

namespace Sys2Proof.Machine

/-- A failing check within its code: check number, section type, record index, and DETAIL (08 R252). -/
structure Fail where
  check : Nat
  type : Nat
  idx : Nat
  detail : Nat
  deriving DecidableEq, Repr

/-- A failed code and its first failing check. -/
structure Reject where
  code : Nat
  fail : Fail
  deriving DecidableEq, Repr

/-- What a check sees: the image, the module, and whether the image is a sub-image, whose partition the load port stops itself (01 R42,
R49). -/
structure Chk where
  m : Img
  s : State
  sub : Bool := false
  deriving DecidableEq, Repr

def Chk.gb (c : Chk) : Bool := c.s.fuse.gradeB

/-- Place of a section in the directory. -/
def dirPlace (dir : List Sect) (t : Nat) : Nat := dir.findIdx fun d => d.type == t

/-- The order of R251: check number, directory order, record order. -/
def Fail.before (dir : List Sect) (a b : Fail) : Bool :=
  decide (a.check < b.check)
    || (a.check == b.check && (decide (dirPlace dir a.type < dirPlace dir b.type)
        || (dirPlace dir a.type == dirPlace dir b.type && decide (a.idx < b.idx))))

def firstFail (dir : List Sect) : List Fail → Option Fail
  | [] => none
  | f :: t => match firstFail dir t with
    | some g => some (if g.before dir f then g else f)
    | none => some f

/-- Records of a section that fail a test. -/
def Chk.each (c : Chk) (check t : Nat) (ok : List Byte → Bool) (detail : List Byte → Nat) : List Fail :=
  (c.m.num t).filterMap fun (k, r) => if ok r then none else some ⟨check, t, k, detail r⟩

/-- Instructions of the image that fail a test. -/
def Chk.eachIns (c : Chk) (check : Nat) (bad : Walk → Nat → W128 → Bool) : List Fail :=
  c.m.walks.flatMap fun k => (k.ins.filter fun x => bad k x.1 x.2).map fun x => ⟨check, tSTRM, k.idx, k.addr x.1⟩

/-- Instructions inside an operation with a record that fail a test. -/
def Chk.eachOp (c : Chk) (check : Nat) (bad : Walk → OpSpan → List Byte → W128 → Bool) : List Fail :=
  c.m.walks.flatMap fun k => k.ops.flatMap fun o =>
    match c.m.ops k.part k.pass o.id with
    | some r => ((k.inside o).filter fun x => bad k o r x.2).map fun x => ⟨check, tSTRM, k.idx, k.addr x.1⟩
    | none => []

/-- Partitions loaded on the module that the image does not define. -/
def Chk.others (c : Chk) : List (Nat × Part) := c.s.parts.filter fun x => x.2.loaded && !c.m.parts.contains x.1

/-- Slice group of a partition of the image or the module. -/
def Chk.group (c : Chk) (p : Nat) : Nat :=
  match (c.m.sec tPART).find? fun r => rPart r == p with
  | some r => recNat r 1 1
  | none => (c.s.part p).sgrp

/-- Two partitions of one slice group. -/
def Chk.sliced (c : Chk) (p q : Nat) : Bool := c.group p != 0 && c.group p == c.group q

/-! ### 0x01 to 0x03 -/

def check01 (b : List Byte) (sub : Bool) : List Fail :=
  let f := fun (bad : Bool) (n : Nat) => if bad then [(⟨n, 0, 0, 0⟩ : Fail)] else []
  let len := imgLength b
  f (imgMagic b != 0x54434150) 1 ++ f (imgVmaj b != 1) 2
    ++ f (len % 64 != 0 || decide (2 ^ 32 < len) || decide (len < 0x80 + 16 * imgNsec b) || len != b.length) 3
    ++ f (imgNsec b == 0 || decide (256 < imgNsec b)) 4
    ++ f (imgFlags b / 4 != 0 || (if sub then !imgTwin b || imgSpan b else imgTwin b)) 5

def check02 (b : List Byte) : List Fail := if digestOf b = imgDigest b then [] else [⟨1, 0, 0, 0⟩]

def Sect.known (d : Sect) : Bool := (recSize d.type).isSome

/-- A section with records that are whole (log 40 for STRM and TWIN). -/
def sectWhole (d : Sect) (sec : List Byte) : Bool :=
  match recSize d.type with
  | none => true
  | some n =>
    if d.type = tSTRM then
      !(sectRecs d.type sec).isEmpty && (sectRecs d.type sec).all fun r => decide (strmOff r + strmLen r ≤ sec.length)
    else if d.type = tTWIN then !(sectRecs d.type sec).isEmpty
    else d.len % n == 0

def check03 (b : List Byte) : List Fail :=
  let dir := ((List.range (imgNsec b)).map (dirEntry b)).zipIdx
  let bad := fun (n : Nat) (p : Sect × Nat → Bool) => (dir.filter p).map fun x => (⟨n, x.1.type, 0, x.2⟩ : Fail)
  bad 1 (fun x => !x.1.known && x.1.flags % 2 == 0)
    ++ bad 2 (fun x => dir.any fun y => decide (y.2 < x.2) && y.1.type == x.1.type)
    ++ ([tPART, tWIN, tSYNC, tSTRM].filter fun t => !dir.any fun x => x.1.type == t).map (fun t => (⟨3, t, 0, t⟩ : Fail))
    ++ bad 4 (fun x =>
        x.1.off % 64 != 0 || decide (x.1.off < 0x80 + 16 * imgNsec b) || decide (b.length < x.1.off + x.1.len)
          || dir.any fun y => decide (y.2 < x.2) && decide (x.1.off < y.1.off + y.1.len) && decide (y.1.off < x.1.off + x.1.len))
    ++ bad 5 (fun x => !sectWhole x.1 ((b.drop x.1.off).take x.1.len))

/-! ### 0x04 RESERVED -/

/-- Reserved fields of a record are zero. -/
def resvOk (t : Nat) (r : List Byte) : Bool :=
  let z := fun (o n : Nat) => recNat r o n == 0
  match t with
  | 1 => z 2 2 && z 0x68 24
  | 2 => z 1 15
  | 3 => z 4 4
  | 4 => z 4 4
  | 5 => z 2 2
  | 6 => z 3 5
  | 7 => recNat r 3 1 / 2 == 0 && !(tensBind r).testBit 3 && !(tensBind r).testBit 7 && recNat r 0x28 1 / 2 == 0 && z 0x29 23
  | 8 =>
    recNat r 2 1 / 16 == 0 && recNat r 3 1 / 4 == 0 && opsKdim r / 8 == 0 && opsG r / 2 ^ 17 == 0 && opsWork r / 2 ^ 17 == 0
      && (List.range 4).all fun lv => z (0x2D + 16 * lv) 3
  | 9 => z 3 1 && z 0x14 4
  | 10 => match recNat r 0 1 with
    | 0 => z 3 13
    | 1 => (List.range 6).all fun k => recNat r (4 + 2 * k) 2 / 32 % 512 == 0
    | 2 => z 2 2 && z 0xD 3
    | _ => true
  | 11 =>
    z 0x25 3 && z 0x44 60 && (List.range 8).all (fun k => recNat r (0x28 + 2 * k) 2 / 4096 == 0 && recNat r (0x28 + 2 * k) 2 / 64 % 4 == 0)
      && recNat r 0x40 4 / 2 ^ 17 % 2 ^ 14 == 0
  | 12 => z 2 6
  | 13 => z 5 1 && z 8 8
  | 14 => z 2 6
  | 15 => z 6 2 && z 0x18 8
  | _ => true

/-- Format codes of a record are not reserved (02 R50). -/
def codesOk (t : Nat) (r : List Byte) : Bool :=
  let ok := fun (c : Nat) => decide (c ≤ 9)
  match t with
  | 7 => ok (tensFmt r) && ok (tensCeil r)
  | 8 => ok (ccwFmt (opsCcw r)) && ok (ccwCeil (opsCcw r))
  | 11 => collKind r == 2 || (ok (ccwFmt (collCcw r)) && ok (ccwCeil (collCcw r)))
  | _ => true

/-- The rest of a collective entry against Table 9-5 (09 R278). -/
def collOk (rank : Nat) (r : List Byte) : Bool :=
  let f := ccwFmt (collCcw r)
  let mem := collMembers r
  let el := collElems r
  let sh := collShard r
  decide (2 ≤ mem.length) && mem.contains rank && decide (collEntry r ≤ 4095)
    && match collKind r with
      | 0 =>
        decide (6 ≤ f) && decide (f ≤ 9) && ccwOk (collCcw r) && ccwCeil (collCcw r) == f && el % 64 == 0 && sh != 0 && sh % 64 == 0
          && el % sh == 0 && decide (2 ≤ collStgn r) && decide (collStgn r ≤ 4096) && decide (1 ≤ collCredit r)
          && decide (collCredit r ≤ 4096) && decide (1 ≤ collNoc r) && decide (collNoc r ≤ 8)
      | 1 =>
        fld (collCcw r) 11 0 == 0 && sbBlock f == 0 && f != 9 && el % 64 == 0 && decide (1 ≤ collCredit r)
          && decide (collCredit r ≤ 4096) && collAnchor r == 0
      | 2 => collCcw r == 0 && collAnchor r == 0
      | _ => false

/-- Values of a record lie in their ranges. -/
def rangeOk (s : State) (t : Nat) (r : List Byte) : Bool :=
  match t with
  | 1 => decide (rPart r ≤ 15) && decide (recNat r 1 1 ≤ 7)
  | 2 => decide (recNat r 0 1 ≤ 11)
  | 3 => decide (recNat r 0 1 ≤ 11) && decide (recNat r 1 1 ≤ 63) && decide (recNat r 2 1 ≤ 63) && decide (recNat r 3 1 ≤ 15)
  | 4 => decide (rPart r ≤ 15) && decide (winKind r ≤ 1) && decide (winIdx r ≤ 15) && decide (winPerm r ≤ 3)
  | 5 =>
    decide (rPart r ≤ 15) && decide (syncType r ≤ 3) && decide (syncFirst r + syncCount r ≤ 131072)
      && (syncType r == 2 || (syncLimit r == 0 && syncNpart r == 0))
  | 6 => decide (rPart r ≤ 15) && decide (recNat r 2 1 ≤ 63)
  | 7 =>
    let f := tensFmt r
    let sb := sbBlock f != 0
    decide (tensPart r ≤ 15)
      && (if f = 9 then tensCeil r == 9 else ladderReaches f (tensCeil r) && tensAnchor r == 0)
      && (sb || (tensSpitch r == 0 && tensSbase r == 0 && tensAxis r == 0))
  | 8 =>
    decide (rPart r ≤ 15) && decide (opsStream r ≤ 2) && decide (opsKind r ≤ 2) && decide (opsSplit r ≤ 2) && ccwOk (opsCcw r)
      && (opsSplit r != 2 || ccwFmt (opsCcw r) == 9) && (List.range 4).all fun lv => decide (opsLoop r lv ≤ 5)
  | 9 =>
    decide (strmDie r ≤ 11) && decide (strmPass r ≤ 2) && strmOff r % 16 == 0 && strmLen r % 16 == 0 && strmLoad r % 16 == 0
  | 10 => match recNat r 0 1 with
    | 0 => decide (recNat r 1 1 ≤ 15)
    | 1 => (List.range 6).all fun k => decide (recNat r 2 2 + k ≤ 1023) || recNat r (4 + 2 * k) 2 == 0
    | 2 => decide (recNat r 1 1 ≤ 23)
    | _ => true
  | 11 => decide (rPart r ≤ 15) && collOk s.rank r
  | 12 => decide (rPart r ≤ 15) && decide (recNat r 1 1 ≤ 7)
  | 13 =>
    let x := scaleOf r
    decide (rPart r ≤ 15) && decide (-32 ≤ x.smin.toInt) && decide (x.smin.toInt ≤ x.s0.toInt) && decide (x.s0.toInt ≤ x.smax.toInt)
      && decide (x.smax.toInt ≤ 48) && decide (1 ≤ x.up.toNat) && decide (x.up.toNat ≤ 16) && x.window != 0
  | 14 => decide (rPart r ≤ 15) && decide (recNat r 1 1 ≤ 1)
  | 15 =>
    let stack := chryBase r / 2 ^ 37
    decide (rPart r ≤ 15) && decide (chryDie r ≤ 11) && decide (chryMode r ≤ 1) && stack / 2 == chryDie r
      && chryLast r / 2 ^ 37 == stack && decide (chryBase r ≤ chryLast r)
      && decide (chryLast r / 4096 * 4096 + 4096 ≤ stack * 2 ^ 37 + 96 * 2 ^ 30)
  | _ => true

/-- A record that repeats the key of an earlier one: TID within a partition, collective entry number (08 R240, 09 R276). -/
def Chk.dups (c : Chk) (t : Nat) (key : List Byte → Nat × Nat) : List Fail :=
  (c.m.num t).filterMap fun (k, r) =>
    if (c.m.num t).any fun (j, q) => decide (j < k) && key q == key r then some ⟨3, t, k, (key r).2⟩ else none

def check04 (c : Chk) : List Fail :=
  let known := c.m.dir.filter Sect.known
  (if recNat c.m.bytes 0x50 48 = 0 then [] else [⟨1, 0, 0, 0⟩])
    ++ (c.m.dir.zipIdx.filterMap fun (d, k) => if d.flags / 2 = 0 then none else some ⟨1, d.type, 0, k⟩)
    ++ known.flatMap (fun d => c.each 1 d.type (resvOk d.type) fun _ => 0)
    ++ known.flatMap (fun d => c.each 2 d.type (codesOk d.type) fun _ => 0)
    ++ known.flatMap (fun d => c.each 3 d.type (rangeOk c.s d.type) fun _ => 0)
    ++ c.dups tTENS (fun r => (tensPart r, tensTid r)) ++ c.dups tCOLL (fun r => (0, collEntry r))
    ++ (c.each 3 tCHRY (fun r => chryGroup r == c.group (rPart r) && chryGroup r != 0) fun r => chryGroup r)

/-! ### 0x05 to 0x09 -/

/-- Whether a stream of a partition is RUNNING or HELD. -/
def State.partBusy (s : State) (p : Nat) : Bool :=
  (s.part p).loaded && (s.partStreams p).any fun i => (s.stream i).state == .running || (s.stream i).state == .held

/-- Whether the image uses units of a half. -/
def Chk.usesHalf (c : Chk) (h : Nat) : Bool :=
  imgSpan c.m.bytes || c.m.parts.any fun p => (c.m.cores p).any fun k => halfOfDie (k / 128) == h

/-- Whether the loader of a half has failed or cannot be reached from the lead: it is down, or both heartbeat paths are lost (01 R43, 14
R403; log 117, DEDUCED). -/
def State.loaderLost (s : State) (h : Nat) : Bool :=
  (if h = 0 then s.pwr.wFail else s.pwr.eFail)
    || (h != s.leadHalf && (!(s.ff h).up || (!(s.ff s.leadHalf).sbOk && !(s.ff s.leadHalf).pinOk)))

def check05 (c : Chk) : List Fail :=
  let at_ := fun p => (c.m.sec tPART).findIdx fun r => rPart r == p
  ((c.m.parts.filter fun p => !c.sub && c.s.partBusy p).map fun p => ⟨1, tPART, at_ p, p⟩)
    ++ (if [0, 1].any fun h => c.usesHalf h && c.s.loaderLost h then [⟨2, 0, 0, 0⟩] else [])

/-- The partition a record names, for the sections that name one. -/
def namedPart (t : Nat) (r : List Byte) : Option Nat :=
  match t with
  | 3 => some (recNat r 3 1)
  | 7 => some (tensPart r)
  | 10 => if recNat r 0 1 = 0 then some (recNat r 1 1) else none
  | 2 | 9 => none
  | _ => some (rPart r)

def check06 (c : Chk) : List Fail :=
  let at_ := fun p => ((c.m.sec tPART).findIdx? fun r => rPart r == p).getD 0
  let holders := fun (k : Nat) =>
    (c.m.parts.filter fun p => (c.m.cores p).contains k) ++ (c.others.filter fun x => x.2.cores.contains k).map (·.1)
  ((c.m.dir.filter Sect.known).flatMap fun d =>
      c.each 1 d.type (fun r => match namedPart d.type r with | some p => c.m.parts.contains p | none => true)
        fun r => (namedPart d.type r).getD 0)
    ++ c.each 1 tCOLL (fun r => collKind r != 0
          || (List.range (collNoc r)).all fun k => (c.m.cores (rPart r)).contains (collOcore r k)) collEntry
    ++ (c.m.walks.filterMap fun k => if k.part < 16 then none else some ⟨1, tSTRM, k.idx, strmCore k.rec_⟩)
    ++ (c.m.parts.filterMap fun p =>
          if (c.m.cores p).isEmpty || 1 < ((c.m.sec tPART).filter fun r => rPart r == p).length then some ⟨2, tPART, at_ p, p⟩
          else none)
    ++ (c.m.parts.flatMap fun p => (c.m.cores p).filterMap fun k =>
          if (holders k).any fun q => q != p && !c.sliced p q then some ⟨3, tPART, at_ p, k / 128 * 256 + k % 128⟩ else none)

/-- Formats an operand may have: as encoded, or with POPE up to the CEIL of its producer (06 R173). -/
def Chk.forms (c : Chk) (k : Walk) (pop : Bool) (id enc : Nat) : List Nat :=
  enc :: match (if pop then c.m.opsAny k.part k.pass id else none) with
    | some r => [ccwFmt (opsCcw r), ccwCeil (opsCcw r)]
    | none => []

def Chk.formsA (c : Chk) (k : Walk) (w : W128) : List Nat := c.forms k (bit w 20) (fld w 19 12) (fld w 72 69)
def Chk.formsB (c : Chk) (k : Walk) (w : W128) : List Nat := c.forms k (bit w 11) (fld w 10 3) (fld w 68 65)

/-- The update units that the parameters of an UPD reach, as far as its registers are known: its first repetition, and the further ones
where its repeat count and its stride are known (06 R189, R193). -/
def Chk.updReach (c : Chk) (k : Walk) (a : Nat) (w : W128) : List Nat :=
  let t := k.known
  let ap := fld w 76 73
  match regAtIns t a ap with
  | none => []
  | some x =>
    let n := if hRc w = 0 then hRep w + 1 else (regAtIns t a (16 + hRep w % 8)).getD 1
    let bases := if !bit w 52 then (if n = 0 then [] else [x])
      else match regAtIns t a (24 + ap) with
        | some d => (List.range n).map fun j => x + j * d
        | none => [x]
    (bases.flatMap fun b => (List.range (64 * uLen w)).map fun e =>
      (updUnitOf c.gb (strmDie k.rec_) ((b + e * fmtBytes (uFmtP w)) % 2 ^ 64)).1).eraseDups

/-- An XCH or UPD with a unit that the fuse record marks absent; the update units where its addresses are known (06 R193). -/
def Chk.absentUnit (c : Chk) (k : Walk) (a : Nat) (w : W128) : Bool :=
  if c.s.fuse.absent.isEmpty then false
  else if hFam w = 4 then c.s.fuse.absent.contains (xchUnit (strmDie k.rec_))
  else if hFam w = 5 then (c.updReach k a w).any fun u => c.s.fuse.absent.contains (updUnitWord u)
  else false

def check07 (c : Chk) : List Fail :=
  let lim := if c.gb then 56 else 64
  c.each 1 tPART (fun r => (partCores r).all fun k => decide (k % 128 < lim)) rPart
    ++ c.each 1 tSPARE (fun r => !c.gb || (List.range 8).all fun k => recNat r (0x10 + 56 + k) 1 == 0xFF) (fun r => recNat r 0 1)
    ++ c.each 1 tCHAIN (fun r => decide (recNat r 1 1 < lim) && decide (recNat r 2 1 < lim)) (fun r => recNat r 0 1)
    ++ c.each 1 tSTRM (fun r => decide (strmCore r < lim)) strmCore
    ++ c.eachIns 2 (fun k _ w => c.gb && hFam w == 1 && hOp w == 0 && ((c.formsA k w).contains 8 || (c.formsB k w).contains 8))
    ++ c.eachIns 3 (fun k a w => c.absentUnit k a w)

/-- The position of a logical core once the SPARE records apply (08 R233). -/
def Chk.newPos (c : Chk) (die l : Nat) : Option Nat :=
  match (((c.m.sec tSPARE).filter fun r => recNat r 0 1 == die && recNat r (0x10 + l) 1 != 0xFF).getLast?) with
  | some r => some (recNat r (0x10 + l) 1)
  | none => c.s.corePos (coreKey die l)

def check08 (c : Chk) : List Fail :=
  let entries := fun (r : List Byte) => ((List.range 64).map fun l => (l, recNat r (0x10 + l) 1)).filter fun e => e.2 != 0xFF
  let at_ := fun p => (c.m.sec tPART).findIdx fun r => rPart r == p
  let sp := fun (n : Nat) (ok : Nat → Nat × Nat → Bool) =>
    (c.m.num tSPARE).flatMap fun (k, r) =>
      ((entries r).filter fun e => !ok (recNat r 0 1) e).map fun e => (⟨n, tSPARE, k, e.1⟩ : Fail)
  sp 1 (fun d e => decide (e.2 ≤ 71) && tget PosKind.exposed c.s.fuse.kinds (d * 72 + e.2) != .fusedOff
          && !c.s.ev.failed.contains (d * 72 + e.2))
    ++ c.each 2 tSPARE (fun r => let ps := (List.range 64).filterMap fun l => c.newPos (recNat r 0 1) l
        decide (ps.eraseDups.length = ps.length)) (fun r => recNat r 0 1)
    ++ sp 3 (fun d e => !(c.others.any fun x => x.2.cores.contains (coreKey d e.1)) || c.s.corePos (coreKey d e.1) == some e.2)
    ++ (c.m.parts.flatMap fun p => (c.m.cores p).filterMap fun k =>
          if (c.newPos (k / 128) (k % 128)).isSome then none else some ⟨4, tPART, at_ p, k / 128 * 256 + k % 128⟩)

/-- Follow chains from a core: whether it comes back within as many steps as there are chains. -/
def chainBack (cs : List (Nat × Nat)) (start : Nat) : Nat → Nat → Bool
  | 0, _ => false
  | f + 1, k => match cs.find? fun x => x.1 == k with
    | some x => x.2 == start || chainBack cs start f x.2
    | none => false

/-- A chain: partition, producer and consumer core. -/
def chainOf (r : List Byte) : Nat × Nat × Nat :=
  (recNat r 3 1, coreKey (recNat r 0 1) (recNat r 1 1), coreKey (recNat r 0 1) (recNat r 2 1))
def Img.chains (m : Img) : List (Nat × Nat × Nat) := (m.sec tCHAIN).map chainOf

/-- Check 0x09: chains (08 R234). Two chains of a core count within one partition, so that the members of a slice group that share a core
may each have theirs (log 128, DEDUCED). -/
def check09 (c : Chk) : List Fail :=
  let cs := c.m.chains
  let bad := fun (n : Nat) (p : Nat → Nat × Nat × Nat → Bool) =>
    (c.m.num tCHAIN).filterMap fun (k, r) => if p k (chainOf r) then some (⟨n, tCHAIN, k, (chainOf r).2.1⟩ : Fail) else none
  let early := fun (k : Nat) (f : Nat × Nat × Nat → Bool) => (cs.take k).any f
  bad 2 (fun _ x => !(c.m.cores x.1).contains x.2.1 || !(c.m.cores x.1).contains x.2.2)
    ++ bad 3 (fun k x => early k fun y => y.1 == x.1 && (y.2.1 == x.2.1 || y.2.2 == x.2.2))
    ++ bad 4 (fun _ x => let mine := (cs.filter fun y => y.1 == x.1).map (·.2)
        chainBack mine x.2.1 mine.length x.2.1)
    ++ c.eachIns 5 (fun k _ w =>
        (hFam w == 1 && mChin w && !cs.any fun x => x.1 == k.part && x.2.2 == k.key)
          || (hFam w == 3 && pChout w && !cs.any fun x => x.1 == k.part && x.2.1 == k.key))

/-! ### 0x0A WINDOW -/

/-- The granules of the image's windows of a partition and kind; `hbm` keeps those of HBM. -/
def Chk.wins (c : Chk) (p kind : Nat) (hbm : Bool) : List (Nat × Nat) :=
  ((c.m.sec tWIN).filter fun r => rPart r == p && winKind r == kind && (!hbm || isHbm (winBase r))).flatMap fun r =>
    (granules c.gb (winBase r) (winLast r)).getD []

/-- Stream windows of partitions outside the image. -/
def Chk.otherWins (c : Chk) : List (Nat × List (Nat × Nat) × Bool) :=
  c.others.flatMap fun x => x.2.wins.filterMap fun w =>
    (granules c.gb w.2.base.toNat w.2.last.toNat).map fun g => (x.1, g, isHbm w.2.base.toNat)

/-- Check 0x0A: windows (08 R235). Core-store windows of the members of a slice group may meet, as their cores do (log 126, DEDUCED). -/
def check0A (c : Chk) : List Fail :=
  let key := fun (r : List Byte) => (rPart r, winKind r)
  let g := fun (r : List Byte) => granules c.gb (winBase r) (winLast r)
  let own := (c.m.sec tWIN).filterMap fun r =>
    if winKind r = 0 then (g r).map fun x => (rPart r, x, isHbm (winBase r)) else none
  ((c.m.num tWIN).filterMap fun (k, r) =>
      let before := (c.m.sec tWIN).take k
      if 16 ≤ (before.filter fun q => key q == key r).length || before.any (fun q => key q == key r && winIdx q == winIdx r)
      then some (⟨1, tWIN, k, rPart r⟩ : Fail) else none)
    ++ c.each 2 tWIN (fun r => decide (winBase r ≤ winLast r) && (g r).isSome) winBase
    ++ c.each 3 tWIN (fun r => !isDieStore (winBase r) || decide (winLast r % 2 ^ 32 / 4096 * 4096 + 4096 ≤ 0x3F00000)) winBase
    ++ c.each 4 tWIN (fun r => winKind r != 0 || !(own ++ c.otherWins).any fun x => x.1 != rPart r && x.2.2 == isHbm (winBase r) && meets ((g r).getD []) x.2.1
              && (isHbm (winBase r) || !c.sliced (rPart r) x.1)) winBase
    ++ c.each 5 tWIN (fun r => winKind r != 1
          || (isHbm (winBase r) && covered ((g r).getD []) (c.wins (rPart r) 0 true))) winBase

/-! ### 0x0B ROUTE (11 R334) -/

/-- The plane of a partition of the image. -/
def Img.plane (m : Img) (p : Nat) : Nat :=
  (((m.sec tROUTE).find? fun r => recNat r 0 1 == 0 && recNat r 1 1 == p).map fun r => recNat r 2 1).getD 0

/-- Whether the image writes a plane, and the entry of a rank once it applies: the last record that covers the rank gives it. -/
def Img.writesPlane (m : Img) (pl : Nat) : Bool := (m.sec tROUTE).any fun r => recNat r 0 1 == 1 && recNat r 1 1 == pl
def Chk.routeEntry (c : Chk) (pl rank : Nat) : W16 :=
  if c.m.writesPlane pl then
    match ((c.m.sec tROUTE).reverse.find? fun r =>
        recNat r 0 1 == 1 && recNat r 1 1 == pl && decide (recNat r 2 2 ≤ rank) && decide (rank < recNat r 2 2 + 6)) with
    | some r => BitVec.ofNat 16 (recNat r (4 + 2 * (rank - recNat r 2 2)) 2)
    | none => 0
  else tget 0 c.s.link.planes (pl * 1024 + rank)

/-- The entries a ROUTES record gives. -/
def routesOf (r : List Byte) : List (Nat × W16) :=
  if recNat r 0 1 = 1 then
    ((List.range 6).map fun k => (recNat r 2 2 + k, BitVec.ofNat 16 (recNat r (4 + 2 * k) 2))).filter fun e => decide (e.1 < 1024)
  else []

/-- Whether the partition streams, stands held, or is saved out. -/
def State.partLive (s : State) (p : Nat) : Bool := s.partBusy p || (s.part p).saved.isSome

def check0B (c : Chk) : List Fail :=
  if !c.m.has tROUTE then []
  else
    let at_ := fun p => (c.m.sec tPART).findIdx fun r => rPart r == p
    let needs := fun (p rank : Nat) => (c.routeEntry (c.m.plane p) rank).getLsbD 15
    c.each 1 tROUTE (fun r => match recNat r 0 1 with | 0 => decide (recNat r 2 1 ≤ 3) | 1 => decide (recNat r 1 1 ≤ 3) | k => k == 2)
          (fun r => recNat r 0 1)
      ++ ((c.m.parts.filter fun p => !(c.m.sec tROUTE).any fun r => recNat r 0 1 == 0 && recNat r 1 1 == p).map fun p =>
            ⟨1, tROUTE, at_ p, p⟩)
      ++ c.each 2 tROUTE (fun r =>
            let pl := recNat r 1 1
            recNat r 0 1 != 1 || !(c.others.any fun x => x.2.plane == pl && c.s.partLive x.1)
              || (List.range 1024).all fun k => c.routeEntry pl k == tget 0 c.s.link.planes (pl * 1024 + k)) (fun r => recNat r 1 1)
      ++ ((c.m.num tROUTE).filterMap fun (k, r) =>
            let lead := !((c.m.sec tROUTE).take k).any fun q => recNat q 0 1 == 1 && recNat q 1 1 == recNat r 1 1
            let me := c.routeEntry (recNat r 1 1) c.s.rank
            if recNat r 0 1 = 1 ∧ ((routesOf r).any (fun e => e.2.getLsbD 14 && e.1 != c.s.rank)
                || (lead && !(me.getLsbD 15 && me.getLsbD 14))) then some ⟨3, tROUTE, k, recNat r 2 2⟩ else none)
      ++ c.each 4 tROUTE (fun r => (routesOf r).all fun e =>
            !e.2.getLsbD 15 || e.2.getLsbD 14 || !(c.s.members (fld e.2 4 0)).isEmpty) (fun r => recNat r 2 2)
      ++ c.each 5 tCOLL (fun r => (collMembers r).all fun k => needs (rPart r) k) collEntry
      ++ c.eachIns 5 (fun k _ w => hFam w == 4 && hOp w == 0 && !needs k.part (xDrank w))
      ++ c.each 6 tROUTE (fun r => recNat r 0 1 != 2
            || (let p := c.s.port (recNat r 1 1)
                p.state == .miswired && p.peer.toNat == recNat r 4 8 && p.peerPort.toNat == recNat r 0xC 1)) (fun r => recNat r 1 1)

/-! ### The module as an image leaves it -/

/-- The key slots that a replay's KEYS record gives a partition (12 R363). -/
def Replay.keysOf (rp : Replay) (p : Nat) : Option (Tab W128) :=
  ((rp.records.filter fun r => r.type == 2 && r.part.toNat == p).getLast?).map fun r =>
    (List.range 8).foldl (fun t k => tset 0 t k (BitVec.ofNat 128 (recNat r.body (16 * k) 16))) []

/-- The partition an image defines (08 R232 to R242). A running module's loss-scale state starts from the SCALE record (10
R306), and the job slot is the one whose key carries the job (11 R335). -/
def Img.part (m : Img) (s : State) (p : Nat) : Part :=
  let mine := fun (t : Nat) => (m.sec t).filter fun r => rPart r == p
  let win := fun (kind : Nat) => (mine tWIN).foldl (fun t r => if winKind r = kind then tset {} t (winIdx r) (winOf r) else t) []
  let rec_ := (m.sec tPART).find? fun r => rPart r == p
  let chry := mine tCHRY
  let scale := match (mine tSCALE).head? with
    | some r => scaleOf r
    | none => { s0 := 0, smin := 0xE0, smax := 48, up := 1, window := 1000 }
  let walks := m.walks.filter fun k => k.part == p
  let job := imgJob m.bytes
  { loaded := true
    tenant := BitVec.ofNat 32 ((rec_.map fun r => recNat r 4 4).getD 0)
    job := job
    sgrp := (rec_.map fun r => recNat r 1 1).getD 0
    digest := imgDigest m.bytes
    cores := m.cores p
    wins := win 0
    swins := win 1
    tens := ((m.sec tTENS).filter fun r => tensPart r == p).foldl (fun t r => tset [] t (tensTid r) r) []
    ops := mine tOPS
    colls := (mine tCOLL).foldl (fun t r => tset [] t (collEntry r) r) []
    keys := ((s.replayOf job).bind fun rp => rp.keysOf p).getD
      ((mine tKEYS).foldl (fun t r => tset 0 t (recNat r 1 1) (BitVec.ofNat 128 (recNat r 8 16))) [])
    scale := scale
    chains := (m.chains.filter fun c => c.1 == p).map (·.2)
    chry := chry
    twins := (mine tTWIN).map fun r => (recNat r 1 1, m.sub r)
    plane := m.plane p
    jslot := (s.sec.jobKeys.find? fun k => k.2.job == job).map (·.1)
    openStep := (walks.head?.map fun k => strmStep k.rec_).getD 0
    ls := { clean := 0, sexp := scale.s0, disc := 0, floor := 0 }
    gate := ((mine tSYNC).find? fun r => syncType r == 3 && syncCount r != 0).map syncFirst
    waiters := (walks.filter fun k => k.ins.any fun x => (hFam x.2 == 6 && hOp x.2 == 5) || hFam x.2 == 5).map fun k =>
      ⟨strmDie k.rec_, strmCore k.rec_, passOf k.pass⟩
    mode1 := chry.any fun r => chryMode r == 1
    quantum := (chry.head?.map chryQuantum).getD 0 }

/-- Bytes from `lo` up to `hi` become zero under valid check bytes. -/
def State.zeroRange (s : State) (lo hi : Nat) : State :=
  s.keepMem (fun a => decide (a < lo) || decide (hi ≤ a)) (fun a => decide (a < lo) || decide (hi ≤ a))

/-- A core without any state but its power and position: everything a Chrysalis holds and every register is clear. -/
def Core.cleared (c : Core) : Core := { pow := c.pow, pos := c.pos }

def State.clearCore (s : State) (k : Nat) : State :=
  (s.zeroRange (coreStore k) (coreStore k + 2 ^ 21)).modCore k Core.cleared

/-- A logical core takes a position: another than its present one holds no state (01 R33). -/
def State.placeCore (s : State) (key pos : Nat) : State :=
  (if s.corePos key = some pos then s else s.clearCore key).modCore key fun c => { c with pos := some pos }

/-- SPARE records: logical cores take their positions (08 R233). -/
def State.applySpares (s : State) (m : Img) : State :=
  (m.sec tSPARE).foldl (fun s r => (List.range 64).foldl (fun s l =>
    let v := recNat r (0x10 + l) 1
    if v = 0xFF then s else s.placeCore (coreKey (recNat r 0 1) l) v) s) s

/-- The planes an image writes hold exactly its ROUTES records (11 R333). -/
def State.setPlanes (s : State) (m : Img) : State :=
  s.modLink fun l =>
    let kept := l.planes.filter fun e => !m.writesPlane (e.1 / 1024)
    let one := fun (t : Tab W16) (r : List Byte) => (routesOf r).foldl (fun t e => tset 0 t (recNat r 1 1 * 1024 + e.1) e.2) t
    { l with planes := (m.sec tROUTE).foldl one kept }

/-- Allocate the objects of a SYNC record; the GATE of a step that runs again keeps that step's number. -/
def State.allocSync (s : State) (x : Part) (mirrored : Nat → Bool) (again : Bool) (r : List Byte) : State :=
  (syncObjs r).foldl (fun s o =>
    let init : W32 := if again ∧ syncType r = 3 then gateWord x.openStep 0 0 else BitVec.ofNat 32 (syncInit r)
    s.modObj o fun _ =>
      { type := match syncType r with | 0 => .flag | 1 => .count | 2 => .work | _ => .gate
        part := rPart r, alloc := true, mirr := mirrored o, fence := x.epoch
        l0 := if init = 0 then none else some init
        limit := BitVec.ofNat 32 (syncLimit r), npart := BitVec.ofNat 32 (syncNpart r) }) s

/-- Objects of a partition that a MIRROR entry of the image mirrors. -/
def Img.mirrored (m : Img) (p o : Nat) : Bool :=
  (m.sec tCOLL).any fun r => rPart r == p && collKind r == 2 && decide (collFirst r ≤ o) && decide (o < collFirst r + collCount r)

/-- The objects of a partition as an image allocates them. -/
def State.allocPart (s : State) (m : Img) (p : Nat) (x : Part) (again : Bool) : State :=
  ((m.sec tSYNC).filter fun r => rPart r == p).foldl (fun s r => s.allocSync x (m.mirrored p) again r) s

/-- The structure of the module as it stands once an image applies: spare map, planes, partitions and objects. A sub-image is checked
against it (08 R242). -/
def State.preview (s : State) (m : Img) : State :=
  let s1 := m.parts.foldl (fun s p => (s.partObjs p).foldl (fun s o => s.modObj o fun _ => {}) s) s
  let s2 := (s1.applySpares m).setPlanes m
  m.parts.foldl (fun s p => let x := m.part s p; (s.allocPart m p x false).modPart p fun _ => x) s2

/-! ### 0x0C SYNC -/

/-- The object a number names once the image applies: partition, type and limit. -/
def Chk.obj (c : Chk) (o : Nat) : Option (Nat × Nat × Nat) :=
  match (c.m.sec tSYNC).find? fun r => decide (syncFirst r ≤ o) && decide (o < syncFirst r + syncCount r) with
  | some r => some (rPart r, syncType r, syncLimit r)
  | none => none

/-- Check 2 and a check on the type for an object that a record or an instruction of a partition names. -/
def Chk.ref (c : Chk) (check p o : Nat) (types : List Nat) (t k detail : Nat) : List Fail :=
  match c.obj o with
  | some (q, ty, _) => if q = p then (if types.contains ty then [] else [⟨check, t, k, detail⟩]) else [⟨2, t, k, detail⟩]
  | none => [⟨2, t, k, detail⟩]

/-- A verdict group: five COUNT and a FLAG, on one control die (05 R157). -/
def Chk.group6 (c : Chk) (p g t k detail : Nat) : List Fail :=
  (List.range 6).flatMap (fun j => c.ref 4 p (g + j) [if j < 5 then 1 else 0] t k detail)
    ++ (if halfOfObj g = halfOfObj (g + 5) then [] else [⟨4, t, k, detail⟩])

/-- Object types a SYN accepts (Table 6-16). -/
def synTypes (op : Nat) : List Nat :=
  match op with | 0 => [0, 1, 2] | 1 => [0] | 2 => [1] | 3 => [2] | 4 => [0] | _ => [3]

/-- The objects an instruction names; a reserved opcode has no fields that name any, and is left to code 0x10. -/
def Chk.insObjs (c : Chk) (k : Walk) (a : Nat) (w : W128) : List Fail :=
  if !opcodeOk (hFam w) (hOp w) then [] else
  let d := k.addr a
  let ref := fun n o ts => c.ref n k.part o ts tSTRM k.idx d
  (if hSig w && [0, 2, 3, 4, 5].contains (hFam w) then ref 3 (hSobj w) [0, 1] else [])
    ++ match hFam w with
      | 4 => if hOp w ≠ 0 ∧ xRse w then ref 3 (xRsig w) [0, 1] else []
      | 5 => ref 3 (updGate w) [3]
      | 6 =>
        ref 3 (synObj w) (synTypes (hOp w))
          ++ (if hOp w = 3 ∧ (((c.obj (synObj w)).map fun x => x.2.2 != 0) == some true) ∧ (fld w 55 24 ≠ 1 ∨ bit w 59) then
                [⟨5, tSTRM, k.idx, d⟩] else [])
      | 7 => if hOp w = 13 ∧ fld w 54 35 ≠ 0 then c.group6 k.part (fld w 71 55) tSTRM k.idx d else []
      | _ => []

def check0C (c : Chk) : List Fail :=
  let others := c.s.objs.filter fun o => o.2.alloc && !c.m.parts.contains o.2.part
  let steps := fun (p : Nat) => (c.m.walks.filter fun k => k.part == p).map fun k => strmStep k.rec_
  ((c.m.num tSYNC).flatMap fun (k, r) =>
      (if ((c.m.sec tSYNC).take k).any (fun q => decide (syncFirst q < syncFirst r + syncCount r)
            && decide (syncFirst r < syncFirst q + syncCount q))
          || others.any (fun o => decide (syncFirst r ≤ o.1) && decide (o.1 < syncFirst r + syncCount r)) then
        [(⟨1, tSYNC, k, syncFirst r⟩ : Fail)] else [])
      ++ (if syncType r = 2 ∧ 2 ^ 32 ≤ syncLimit r + syncNpart r then [⟨5, tSYNC, k, syncFirst r⟩] else [])
      ++ (if syncType r = 3 ∧ (1 < syncCount r ∨ ((c.m.sec tSYNC).take k).any (fun q => syncType q == 3 && rPart q == rPart r
            && syncCount q != 0)) then [⟨6, tSYNC, k, syncFirst r⟩] else [])
      ++ (if syncType r = 3 ∧ (syncInit r % 4096 ≠ 0
            ∨ (steps (rPart r)).any fun x => x.toNat % 2 ^ 20 != syncInit r / 4096) then [⟨7, tSYNC, k, syncFirst r⟩] else []))
    ++ (c.m.walks.flatMap fun k => k.ins.flatMap fun x => c.insObjs k x.1 x.2)
    ++ ((c.m.num tOPS).flatMap fun (k, r) =>
          (if opsN r = 0 then [] else c.group6 (rPart r) (opsG r) tOPS k (opsG r))
            ++ (if opsSplit r = 1 then c.ref 3 (rPart r) (opsWork r) [2] tOPS k (opsWork r) else []))
    ++ ((c.m.num tCOLL).flatMap fun (k, r) =>
          (match collKind r, collRobj r with | 1, some o => c.ref 3 (rPart r) o [1] tCOLL k o | _, _ => [])
            ++ (if collKind r = 2 then
                  (List.range (collCount r)).flatMap fun j => c.ref 3 (rPart r) (collFirst r + j) [0, 1] tCOLL k (collFirst r + j)
                else []))
    ++ (c.m.walks.filterMap fun k =>
          if (steps k.part).all fun x => x == strmStep k.rec_ then none else some ⟨7, tSTRM, k.idx, k.part⟩)

/-! ### 0x0D POLICY -/

/-- The conversion control word of a converting instruction. -/
def ccwOf (w : W128) : Option W16 :=
  if hFam w = 3 then some (pCcw w) else if hFam w = 2 ∧ vecConverts (hOp w) then some (vCcw w) else none

/-- FMT, CEIL and POL. -/
def convKey (c : W16) : Nat × Nat := (fld c 15 8, ccwPol c)

def check0D (c : Chk) : List Fail :=
  c.each 1 tPOLICY (fun r => decide (recNat r 1 1 ≤ 4)) (fun r => recNat r 1 1)
    ++ c.m.walks.flatMap fun k => k.ops.flatMap fun o =>
        let convs := (k.inside o).filterMap fun x => (ccwOf x.2).map fun w => (x.1, convKey w)
        let want := ((c.m.ops k.part k.pass o.id).map fun r => convKey (opsCcw r)).orElse fun _ => (convs.head?).map (·.2)
        (convs.filter fun x => some x.2 != want).map fun x => ⟨2, tSTRM, k.idx, k.addr x.1⟩

/-! ### 0x0F CHRY -/

/-- Bytes a Chrysalis area needs: 2.5 MiB for each core of the partition on the die, its die-store windows there, and 1 MiB
(08 R256). -/
def Chk.chryNeed (c : Chk) (p die : Nat) : Nat :=
  let ws := (c.m.sec tWIN).filter fun r => rPart r == p && winKind r == 0 && isDieStore (winBase r)
    && (winBase r - dieBase) / 2 ^ 32 == die
  5 * 2 ^ 19 * ((c.m.cores p).filter fun k => k / 128 == die).length
    + (ws.map fun r => winLast r / 4096 * 4096 + 4096 - winBase r / 4096 * 4096).foldl (· + ·) 0 + 2 ^ 20

def areaOf (r : List Byte) : Nat × Nat := (chryBase r / 4096, chryLast r / 4096)

/-- Check 0x0F: Chrysalis areas (08 R253). A window of the image that meets an area of a partition outside it fails as that area would (log
138, DEDUCED). -/
def check0F (c : Chk) : List Fail :=
  let wins := ((c.m.sec tWIN).flatMap fun r => (granules c.gb (winBase r) (winLast r)).getD []) ++ c.otherWins.flatMap (·.2.1)
  let areas := c.others.flatMap fun x => x.2.chry.map areaOf
  let sizeOf := fun (r : List Byte) => (chryLast r / 4096 + 1 - chryBase r / 4096) * 4096
  ((c.m.num tCHRY).filterMap fun (k, r) =>
      if meets [areaOf r] (wins ++ areas ++ ((c.m.sec tCHRY).take k).map areaOf) then some (⟨1, tCHRY, k, chryBase r⟩ : Fail)
      else none)
    ++ ((c.m.num tWIN).filterMap fun (k, r) =>
          if meets ((granules c.gb (winBase r) (winLast r)).getD []) areas then some (⟨1, tWIN, k, winBase r⟩ : Fail) else none)
    ++ c.each 2 tCHRY (fun r => decide (c.chryNeed (rPart r) (chryDie r) ≤ sizeOf r)) chryBase
    ++ ((c.m.num tPART).filterMap fun (k, r) =>
          if recNat r 1 1 = 0 then none
          else if (partCores r).all fun q => (c.m.sec tCHRY).any fun x => rPart x == rPart r && chryDie x == q / 128 then none
          else some ⟨2, tPART, k, rPart r⟩)
    ++ c.each 3 tCHRY (fun r => decide (20 ≤ chryQuantum r)
          && ((c.m.sec tCHRY).all fun x => chryGroup x != chryGroup r || chryQuantum x == chryQuantum r)
          && c.others.all fun x => x.2.sgrp != chryGroup r || x.2.quantum == chryQuantum r) chryQuantum

/-! ### 0x10 ENCODING -/

/-- Replace field [hi:lo]. -/
def setFld (w : W128) (hi lo v : Nat) : W128 := BitVec.ofNat 128 (w.toNat - fld w hi lo * 2 ^ lo + v % 2 ^ (hi + 1 - lo) * 2 ^ lo)

/-- The element format of a scaled-block code. -/
def plainCode (f : Nat) : Nat := if sbBlock f = 0 then f else f % 2

/-- An instruction with the fields that later codes judge made harmless: pairing and reduction length (0x16, 0x14), PACK PITCH
(0x13), SB formats in VEC (0x16) and the eps of FINISH (0x18). -/
def judged (w : W128) : W128 :=
  match hFam w with
  | 1 =>
    let f := if mFlow w then 2 else 0
    if fld w 72 69 ≤ 9 ∧ fld w 68 65 ≤ 9 ∧ mK w ≠ 0 then setFld (setFld (setFld w 72 69 f) 68 65 f) 48 31 128 else w
  | 2 =>
    let conv := vecConverts (hOp w)
    let w1 := if hOp w ≤ 10 ∧ hOp w ≠ 5 then setFld w 79 76 (plainCode (fld w 79 76)) else w
    let w2 := if conv ∧ hOp w ≠ 5 ∧ ccwOk (vCcw w) then
        setFld (setFld (setFld w1 75 72 (plainCode (ccwFmt (vCcw w)))) 71 68 (plainCode (ccwCeil (vCcw w)))) 63 63 0 else w1
    if hOp w = 24 then setFld w2 21 6 0 else w2
  | 3 => setFld w 52 37 (4096 + pPitch w % 16)
  | _ => w

/-- The stream images placed in a core store: first offset and bytes. -/
def Img.placed (m : Img) (key : Nat) : List (Nat × List Byte) := (m.walks.filter fun k => k.key == key).map fun k => (k.lo, k.img)

/-- A descriptor in the image whose address is known, and that breaks 07 R204. A STRM with POPE is judged by the descriptor's own EW,
since its rung is not known at load (07 R205; log 125, DESIGN CHOICE). -/
def Chk.descBad (c : Chk) (k : Walk) (t : List (Nat × Known)) (a : Nat) (w : W128) : Bool :=
  match regAtIns t a (tAdesc w) with
  | none => false
  | some x =>
    let o := x % 2 ^ 21 / 16 * 16
    match (c.m.placed k.key).find? fun e => decide (e.1 ≤ o) && decide (o + 128 ≤ e.1 + e.2.length) with
    | some e => let d := (e.2.drop (o - e.1)).take 128; !descOk d (ewBytes (dEw d)) (hOp w == 1)
    | none => false

def check10 (c : Chk) : List Fail :=
  c.eachIns 1 (fun _ _ w => !encOk (judged w))
    ++ c.m.walks.flatMap fun k =>
        let t := k.known
        (k.ins.filter fun x => hFam x.2 == 0 && c.descBad k t x.1 x.2).map fun x => ⟨2, tSTRM, k.idx, k.addr x.1⟩

/-! ### 0x11 SEQUENCE, 0x12 CONTEXT -/

/-- Completion writes one attempt can issue (05 R155): the most over the forward paths through the operation, each instruction once for
every turn of the loops around it. A count that is not known, and a branch back over the instruction, may give any number of turns (log
40, DEDUCED). -/
def Walk.writes (k : Walk) (o : OpSpan) : Nat :=
  let t := k.known
  let count := fun (l : Nat × W128) => if bit l.2 79 then (regAtIns t l.1 (16 + fld l.2 78 76)).getD (2 ^ 32) else fld l.2 31 0
  let around := fun (a : Nat) (l : Nat × W128) =>
    if isCtl l.2 7 then (if l.1 < a ∧ a ≤ loopEnd l.1 l.2 then count l else 1)
    else if isBranch l.2 ∧ brTarget l.1 l.2 ≤ a ∧ a ≤ l.1 then 2 ^ 32 else 1
  let turns := fun (a : Nat) => (k.inside o).foldl (fun n l => n * around a l) 1
  let makes := fun (w : W128) => (hSig w && [0, 2, 3].contains (hFam w)) || (hFam w == 6 && (hOp w == 1 || hOp w == 2))
  let most := (k.inside o).foldr (fun x (acc : List (Nat × Nat)) =>
    let onward := (flowSuccs x.1 x.2).filterMap fun b => (acc.find? fun y => y.1 == b).map (·.2)
    (x.1, (if makes x.2 then turns x.1 else 0) + onward.foldl max 0) :: acc) []
  (most.head?.map (·.2)).getD 0

/-- Branches inside a loop body that leave it (05 R150). -/
def Walk.loopOut (k : Walk) : List Nat :=
  ((k.ins.filter fun x => isCtl x.2 7).flatMap fun l =>
    (k.ins.filter fun x => isBranch x.2 && decide (l.1 < x.1) && decide (x.1 ≤ loopEnd l.1 l.2)
      && !(decide ((l.1 : Int) < brTarget x.1 x.2) && decide (brTarget x.1 x.2 ≤ (loopEnd l.1 l.2 : Int)))).map (·.1))

/-- Streams of the image that run an operation. -/
def Img.runners (m : Img) (r : List Byte) : List Walk :=
  m.walks.filter fun k => k.part == rPart r && k.pass == opsStream r && k.ops.any fun o => o.id == opsId r

/-- An operation with N = 0 whose output another stream reads, or a core that does not run the operation itself (05 R153; log 40,
DEDUCED). -/
def Chk.readElsewhere (c : Chk) (k : Walk) (o : OpSpan) : Bool :=
  match c.m.ops k.part k.pass o.id with
  | some r =>
    let makers := (c.m.runners r).map Walk.key
    o.n == 0 && (c.m.sec tOPS).any fun x =>
      rPart x == k.part && (opsTa x == opsTout r || opsTb x == opsTout r)
        && (opsStream x != k.pass || (c.m.runners x).any fun j => !makers.contains j.key)
  | none => false

def check11 (c : Chk) : List Fail :=
  let per := fun (n : Nat) (f : Walk → List Nat) =>
    c.m.walks.flatMap fun k => (f k).map fun a => (⟨n, tSTRM, k.idx, k.addr a⟩ : Fail)
  per 1 Walk.loopOut ++ per 2 (·.bad)
    ++ per 2 (fun k => (k.ops.filter fun o => decide (16 < k.writes o) || c.readElsewhere k o).map (·.lo))
    ++ per 3 (·.out)
    ++ c.m.walks.filterMap fun k =>
        if 2 ^ 21 < k.hi || c.m.walks.any (fun j => decide (j.idx < k.idx) && j.key == k.key && decide (j.lo < k.hi) && decide (k.lo < j.hi))
        then some ⟨4, tSTRM, k.idx, k.lo⟩ else none

def check12 (c : Chk) : List Fail :=
  (c.m.walks.filterMap fun k =>
      let earlier := c.m.walks.filter fun j => decide (j.idx < k.idx) && j.key == k.key && j.pass != k.pass
      ((strmCtx k.rec_).find? fun x => earlier.any fun j => (strmCtx j.rec_).contains x).map fun x => ⟨1, tSTRM, k.idx, x⟩)
    ++ c.eachIns 2 (fun k _ w => hFam w == 0 && !(strmCtx k.rec_).contains (tCtx w))

/-! ### 0x13 SIZE -/

/-- Bytes of a range lie in the stream windows of a partition. -/
def Chk.inWins (c : Chk) (p base n : Nat) : Bool :=
  n == 0 || match granules c.gb base (base + n - 1) with
    | some g => covered g (c.wins p 0 false)
    | none => false

/-- Bytes of an element at a format, in units of 1/32: an SB format counts 1 + 1/B (08 R244). -/
def foot32 (f : Nat) : Nat := if sbBlock f = 0 then 32 * fmtBytes f else 32 + 32 / sbBlock f

/-- Footprint of a level, in units of 1/32 byte. -/
def footprint (r : List Byte) (lv ea eb eo : Nat) : Nat :=
  2 * (opsTm r lv * opsTk r lv * ea + opsTk r lv * opsTn r lv * eb + opsTm r lv * opsTn r lv * eo)

/-- The footprint of a level fits: level 2 in the core store beside the images, level 1 in the die-store windows. -/
def Chk.footOk (c : Chk) (r : List Byte) : Bool :=
  let e := fun (tid : Nat) => match c.m.tens (rPart r) tid with | some t => foot32 (tensCeil t) | none => 0
  let ea := e (opsTa r)
  let eb := if opsTb r = 0xFFFF then 0 else e (opsTb r)
  let eo := foot32 (ccwCeil (opsCcw r))
  (c.m.runners r).all fun k =>
    let images := ((c.m.placed k.key).map fun x => x.2.length).foldl (· + ·) 0
    let die := strmDie k.rec_
    let room := ((c.m.sec tWIN).filter fun w => rPart w == rPart r && winKind w == 0 && isDieStore (winBase w)
      && (winBase w - dieBase) / 2 ^ 32 == die).map fun w => winLast w / 4096 * 4096 + 4096 - winBase w / 4096 * 4096
    decide (footprint r 2 ea eb eo + 32 * images ≤ 32 * 2 ^ 21) && decide (footprint r 1 ea eb eo ≤ 32 * room.foldl (· + ·) 0)

/-- Each extent is a whole multiple of the next level's; level 0 has the planned extents, and level 3 of a matrix operation the
array's (08 R243). -/
def Chk.nested (c : Chk) (r : List Byte) : Bool :=
  let mult := fun (a b : Nat) => b != 0 && a % b == 0
  let down := (List.range 3).all fun lv =>
    mult (opsTm r lv) (opsTm r (lv + 1)) && mult (opsTn r lv) (opsTn r (lv + 1)) && mult (opsTk r lv) (opsTk r (lv + 1))
  let top := match c.m.tens (rPart r) (opsTout r) with
    | some t => opsTm r 0 == tensRows t && opsTn r 0 == tensCols t && opsTk r 0 == opsKmax r
    | none => true
  let mmas := (c.m.runners r).flatMap fun k => (k.ops.filter fun o => o.id == opsId r).flatMap fun o =>
    (k.inside o).filter fun x => hFam x.2 == 1
  down && top && (opsKind r != 0 || mmas.all fun x =>
    opsTm r 3 == (if mFlow x.2 then 64 else 32) && opsTn r 3 == 32 && opsTk r 3 == mK x.2)

/-- The block length of a matrix operation's operands; 1 for another operation (03 R84). -/
def Chk.opBlock (c : Chk) (r : List Byte) : Nat :=
  let f := fun (tid : Nat) => ((c.m.tens (rPart r) tid).map tensFmt).getD 6
  if opsKind r = 0 then blockLen (f (opsTa r)) (if opsTb r = 0xFFFF then f (opsTa r) else f (opsTb r)) else 1

/-- The areas of a reduction on its owner cores: 32 x SHARD bytes for each shard and the staging area (09 R280). -/
def Chk.areasOk (c : Chk) (r : List Byte) : Bool :=
  let mem := collMembers r
  let me := mem.findIdx (· == c.s.rank)
  let shards := (List.range (collElems r / collShard r)).filter fun k => k % mem.length == me
  (List.range (collNoc r)).all fun j =>
    let n := (shards.filter fun k => k / mem.length % collNoc r == j).length
    [(recNat r 0x18 4, 32 * collShard r * n), (recNat r 0x1C 4, 2176 * collStgn r)].all fun x =>
      decide (x.1 + x.2 ≤ 2 ^ 21) && c.inWins (rPart r) (coreStore (collOcore r j) + x.1) x.2

def check13 (c : Chk) : List Fail :=
  c.each 1 tTENS (fun t =>
      let f := tensFmt t
      decide (tensCols t * fmtBytes (tensCeil t) ≤ tensPitch t) && c.inWins (tensPart t) (tensBase t) (tensPitch t * tensRows t)
        && (sbBlock f == 0 || c.inWins (tensPart t) (tensSbase t)
              (tensSpitch t * (if tensAxis t = 1 then (tensRows t + sbBlock f - 1) / sbBlock f else tensRows t)))) tensTid
    ++ c.each 1 tCOLL (fun r => collKind r == 2
          || (c.inWins (rPart r) (collBase r) (collElems r * fmtBytes (ccwFmt (collCcw r))) && (collKind r != 0 || c.areasOk r))) collEntry
    ++ c.eachIns 2 (fun _ _ w => hFam w == 3 && decide (pPitch w < rowBytes (ccwCeil (pCcw w))))
    ++ c.each 3 tOPS c.footOk opsId ++ c.each 4 tOPS c.nested opsId
    ++ c.each 5 tOPS (fun r => decide (opsKmax r / c.opBlock r ≤ 2 ^ 22)) opsKmax

/-! ### 0x14 BLOCK, 0x15 ANCHOR, 0x16 PAIRING -/

def check14 (c : Chk) : List Fail :=
  c.each 1 tOPS (fun r => (List.range 4).all fun lv => opsTk r lv % c.opBlock r == 0) opsId
    ++ c.each 2 tOPS (fun r =>
        let b := sbBlock (ccwFmt (opsCcw r))
        b == 0 || (List.range 4).all fun lv => (if ccwAxis (opsCcw r) = 1 then opsTm r lv else opsTn r lv) % b == 0) opsId
    ++ c.eachIns 3 (fun _ _ w => hFam w == 1
        && mK w % (if mFlow w then 128 else blockLen (fld w 72 69) (fld w 68 65)) != 0)

/-- t of Table 3-1: every finite element of a format lies below 2^t. -/
def boundT (f : Nat) : Int :=
  (match f with | 0 | 2 | 4 => 9 | 1 | 3 | 5 => 16 | 7 => 16 | _ => 128) + (if sbBlock f = 0 then 0 else 127)

/-- Bound exponent of a matrix addend (Table 3-2). -/
def mmaT (a b : Nat) : Int :=
  match pairClass a with
  | 0 => boundT a + boundT b + (Nat.log2 (blockLen a b) : Int)
  | 3 => 256
  | _ => boundT a + boundT b

/-- The accepted range of an anchor (03 R79). -/
def anchorOk (a t : Int) : Bool := decide (max (t - 511) (-382) ≤ a) && decide (a ≤ 127)

def maxOf (l : List Int) : Int := l.foldl max 0

/-- An accumulating instruction's anchor lies in its range (Table 3-2). -/
def Chk.anchorsOk (c : Chk) (k : Walk) (w : W128) : Bool :=
  if hFam w = 1 then
    let ts := (c.formsA k w).flatMap fun a => ((c.formsB k w).filter fun b => pairOk a b).map fun b => mmaT a b
    ts.isEmpty || anchorOk (mAnchor w) (maxOf ts)
  else if hFam w = 2 then
    let a := vAnchor w
    let t := maxOf (((c.forms k (bit w 21) (fld w 20 13) (fld w 79 76)).filter fun f => decide (f ≤ 8)).map boundT)
    match hOp w with
    | 8 => anchorOk a t
    | 9 => anchorOk a (2 * t)
    | 10 => anchorOk a t && anchorOk (2 * a) (2 * t + 1)
    | 11 | 12 | 13 => anchorOk a (a + 255)
    | 19 => anchorOk a (a + 255) && anchorOk (vAnchor2 w) (a + 255)
    | _ => true
  else true

/-- The anchor an instruction accumulates at. -/
def accAnchor (w : W128) : Option Int :=
  if hFam w = 1 then some (mAnchor w)
  else if hFam w = 2 ∧ 8 ≤ hOp w ∧ hOp w ≤ 13 then some (vAnchor w) else none

/-- What an instruction does to the anchors of the long words of a core (03 R80): the ones it continues and the ones it leaves, as key and
anchor, and the keys it empties. The key of a bank is its number, of a lane slot 8 + slot; `lw` gives the anchor of an LW tensor. -/
def anchorUse (lw : Nat → Option Int) (w : W128) : List (Nat × Int) × List (Nat × Int) × List Nat :=
  if hFam w = 1 then (if mOpn w then [] else [(bankOf w, mAnchor w)], [(bankOf w, mAnchor w)], [])
  else if hFam w = 3 then
    ((match if ccwFmt (pCcw w) = 9 then lw (pTid w) else none with | some v => [(bankOf w, v)] | none => []), [], [bankOf w])
  else if hFam w = 2 then
    let k := 8 + vSlot w
    match hOp w with
    | 8 | 9 | 11 => ([(k, vAnchor w)], [(k, vAnchor w)], [])
    | 10 => let l := [(k, vAnchor w), (k + 1, 2 * vAnchor w)]; (l, l, [])
    | 12 => ([], [(k, vAnchor w)], [])
    | 16 => ([], [], [k])
    | 19 => ([], [(8 + vSlotD w, vAnchor2 w)], [])
    | _ => ([], [], [])
  else ([], [], [])

/-- What the long words of a core may hold after an instruction, as keys and anchors, from what they may hold before it. -/
def anchorAfter (lw : Nat → Option Int) (w : W128) (v : List (Nat × Int)) : List (Nat × Int) :=
  let (_, set, drop) := anchorUse lw w
  set ++ v.filter fun x => !drop.contains x.1 && !set.any fun y => y.1 == x.1

/-- Instructions that continue the long words of a bank or a lane slot at another anchor than an instruction before them may have left
there, on some path of the stream's control flow (03 R80; log 139, DEDUCED). -/
def Walk.anchorBad (k : Walk) (lw : Nat → Option Int) : List Nat :=
  let t := flowFix k (fun _ => anchorAfter lw) (fun x y => x ++ y.filter fun e => !x.contains e)
    ((k.ins.length + 1) * (2 * k.ins.length + 2)) [(k.lo + strmPc k.rec_, [])]
  (k.ins.filter fun (a, w) => match t.find? fun x => x.1 == a with
    | some (_, v) => (anchorUse lw w).1.any fun x => v.any fun y => y.1 == x.1 && y.2 != x.2
    | none => false).map (·.1)

/-- The anchor of an LW tensor. -/
def Chk.lwAnchor (c : Chk) (p tid : Nat) : Option Int :=
  (c.m.tens p tid).bind fun t => if tensFmt t = 9 then some (tensAnchor t) else none

/-- LWADD and LWLD whose source, and LWST whose destination, is known to lie in an LW tensor of their core store with another anchor than
theirs (03 R80, 07 R198). -/
def Chk.wordAnchors (c : Chk) (k : Walk) : List Nat :=
  let t := k.known
  (k.ins.filter fun (a, w) => hFam w == 2 && (hOp w == 11 || hOp w == 12 || hOp w == 13)
    && match regAtIns t a (if hOp w = 13 then vAd w else vAx w) with
      | some x => (c.m.sec tTENS).any fun y =>
          tensPart y == k.part && tensFmt y == 9 && tensAnchor y != vAnchor w
            && memUnit c.gb (tensBase y) == some (.coreStore k.key)
            && decide (tensBase y % 2 ^ 21 ≤ x % 2 ^ 21) && decide (x % 2 ^ 21 < tensBase y % 2 ^ 21 + tensPitch y * tensRows y)
      | none => false).map (·.1)

/-- REDUCE and ALLRED whose source is known to lie in an LW tensor of another anchor than their entry's (09 R278). -/
def Chk.sentAnchors (c : Chk) (k : Walk) : List Nat :=
  let t := k.known
  (k.ins.filter fun (a, w) => hFam w == 4 && (hOp w == 2 || hOp w == 4)
    && match c.m.coll k.part (xColl w), regAtIns t a (xAsrc w) with
      | some r, some x => (c.m.sec tTENS).any fun y =>
          tensPart y == k.part && tensFmt y == 9 && tensAnchor y != collAnchor r && decide (tensBase y ≤ x)
            && decide (x < tensBase y + tensPitch y * tensRows y)
      | _, _ => false).map (·.1)

def check15 (c : Chk) : List Fail :=
  c.eachIns 1 (fun k _ w => !c.anchorsOk k w)
    ++ c.each 1 tCOLL (fun r => collKind r != 0 || anchorOk (collAnchor r) (collAnchor r + 255)) collEntry
    ++ c.each 1 tTENS (fun t => tensFmt t != 9 || anchorOk (tensAnchor t) (tensAnchor t + 255)) tensTid
    ++ c.eachOp 2 (fun _ _ r w => match accAnchor w with | some a => a != opsAnchor r | none => false)
    ++ (c.m.walks.flatMap fun k => (k.anchorBad (c.lwAnchor k.part) ++ c.wordAnchors k ++ c.sentAnchors k).map fun a => ⟨2, tSTRM, k.idx, k.addr a⟩)
    ++ c.each 2 tTENS (fun t => tensFmt t != 9
          || (((c.m.sec tOPS).all fun r => rPart r != tensPart t || opsTout r != tensTid t || ccwFmt (opsCcw r) != 9
                || opsAnchor r == tensAnchor t)
              && (c.m.sec tCOLL).all fun r => rPart r != tensPart t || collKind r != 0 || ccwFmt (collCcw r) != 9
                || collBase r != tensBase t || collAnchor r == tensAnchor t)) tensTid

/-- Whether a format stays in the pairing group of another (03 R83, 06 R173): FP8 forms of one block size, else the format itself. -/
def sameGroup (f g : Nat) : Bool := if f ≤ 5 then decide (g ≤ 5) && sbBlock g == sbBlock f else f != 9 && g == f

/-- The operands of an MMA: whether one takes its format from a producer, its encoded format, and the producer's control word. -/
def Chk.operands (c : Chk) (k : Walk) (w : W128) : List (Nat × Option W16) :=
  let of := fun (pop : Bool) (id enc : Nat) => (enc, if pop then (c.m.opsAny k.part k.pass id).map opsCcw else none)
  [of (bit w 20) (fld w 19 12) (fld w 72 69), of (bit w 11) (fld w 10 3) (fld w 68 65)]

def Chk.feeds (c : Chk) (k : Walk) (w : W128) : List (Nat × W16) :=
  (c.operands k w).filterMap fun x => x.2.map fun y => (x.1, y)

/-- A pair of operand formats: it may be paired, and Flow takes scaled blocks. -/
def pairBad (flow : Bool) (a b : Nat) : Bool := !pairOk a b || (flow && (sbBlock a == 0 || sbBlock b == 0))

/-- An operand pairing outside R83: as encoded, or at the formats that the producers give at first. -/
def Chk.pairsBad (c : Chk) (k : Walk) (w : W128) : Bool :=
  let now := (c.operands k w).map fun x => (x.2.map ccwFmt).getD x.1
  pairBad (mFlow w) (fld w 72 69) (fld w 68 65) || pairBad (mFlow w) (now.getD 0 0) (now.getD 1 0)

def check16 (c : Chk) : List Fail :=
  let mma := fun (n : Nat) (bad : Walk → W128 → Bool) => c.eachIns n fun k _ w => hFam w == 1 && bad k w
  mma 1 c.pairsBad
    ++ mma 2 (fun k w => (c.feeds k w).any fun x => !sameGroup (ccwFmt x.2) (ccwCeil x.2) || !sameGroup x.1 (ccwCeil x.2))
    ++ mma 3 (fun k w => c.gb && (c.feeds k w).any fun x => ccwCeil x.2 == 8)
    ++ c.eachIns 4 (fun _ _ w => hFam w == 2 && hOp w != 5
        && ((decide (hOp w ≤ 13) && sbBlock (fld w 79 76) != 0)
          || (vecConverts (hOp w) && (sbBlock (ccwFmt (vCcw w)) != 0 || sbBlock (ccwCeil (vCcw w)) != 0))))

/-! ### 0x17 SHAPE, 0x18 OPERAND -/

/-- Bound dimensions of an operation: its reduction's and its output's (08 R248). -/
def Chk.bound (c : Chk) (r : List Byte) : List Nat :=
  (if (opsKdim r).testBit 2 then [opsKdim r % 4] else [])
    ++ match c.m.tens (rPart r) (opsTout r) with
      | some t => (if (tensBind t).testBit 2 then [tensBind t % 4] else [])
          ++ (if (tensBind t).testBit 6 then [tensBind t / 16 % 4] else [])
      | none => []

/-- Streams that touch a tensor: through an operation record or a PACK. -/
def Img.touches (m : Img) (t : List Byte) : List Walk :=
  m.walks.filter fun k => k.part == tensPart t
    && ((k.ops.any fun o => match m.ops k.part k.pass o.id with
          | some r => [opsTout r, opsTa r, opsTb r].contains (tensTid t)
          | none => false)
        || k.ins.any fun x => hFam x.2 == 3 && pTid x.2 == tensTid t)

def check17 (c : Chk) : List Fail :=
  let smax := fun (k : Walk) (d : Nat) => (strmSmax k.rec_ d).toNat
  c.each 1 tTENS (fun t => (c.m.touches t).all fun k =>
      (!(tensBind t).testBit 2 || decide (smax k (tensBind t % 4) ≤ tensRows t))
        && (!(tensBind t).testBit 6 || decide (smax k (tensBind t / 16 % 4) ≤ tensCols t))) tensTid
    ++ c.each 1 tOPS (fun r => !(opsKdim r).testBit 2
          || (c.m.runners r).all fun k => decide (smax k (opsKdim r % 4) ≤ opsKmax r)) opsId
    ++ c.eachOp 2 (fun k _ r w => (hFam w == 1 || hFam w == 3) && !(c.bound r).isEmpty
          && (!hSke w || !(c.bound r).contains (hSkd w) || smax k (hSkd w) == 0))
    ++ c.eachIns 3 (fun k _ w => hFam w != 7 && hSke w && smax k (hSkd w) == 0)

def check18 (c : Chk) : List Fail :=
  c.eachIns 1 (fun _ _ w => hFam w == 2 && hOp w == 24 && !epsOk w)
    ++ c.eachIns 2 (fun k _ w =>
        (hFam w == 3 && (c.m.tens k.part (pTid w)).isNone) || (hFam w == 4 && hOp w != 0 && (c.m.coll k.part (xColl w)).isNone))
    ++ c.each 2 tOPS (fun r =>
        ([opsTout r, opsTa r] ++ (if opsTb r = 0xFFFF then [] else [opsTb r])).all fun t => (c.m.tens (rPart r) t).isSome) opsId

/-! ### The image -/

/-- The first failing code of a list. -/
def firstReject (dir : List Sect) : List (Nat × (Unit → List Fail)) → Option Reject
  | [] => none
  | (code, f) :: t => match firstFail dir (f ()) with
    | some x => some ⟨code, x⟩
    | none => firstReject dir t

/-- Codes 0x01 to 0x03, which the parse needs. -/
def headChecks (b : List Byte) (sub : Bool) : Option Reject :=
  let dir := if imgNsec b ≤ 256 then (List.range (imgNsec b)).map (dirEntry b) else []
  firstReject dir [(1, fun _ => check01 b sub), (2, fun _ => check02 b), (3, fun _ => check03 b)]

/-- Codes 0x04 to 0x0D and 0x0F to 0x18; `twin` runs in its place between them. -/
def bodyChecks (c : Chk) (twin : Unit → List Fail) : Option Reject :=
  firstReject c.m.dir
    [(4, fun _ => check04 c), (5, fun _ => check05 c), (6, fun _ => check06 c), (7, fun _ => check07 c), (8, fun _ => check08 c)
    , (9, fun _ => check09 c), (0xA, fun _ => check0A c), (0xB, fun _ => check0B c), (0xC, fun _ => check0C c)
    , (0xD, fun _ => check0D c), (0xE, twin), (0xF, fun _ => check0F c), (0x10, fun _ => check10 c), (0x11, fun _ => check11 c)
    , (0x12, fun _ => check12 c), (0x13, fun _ => check13 c), (0x14, fun _ => check14 c), (0x15, fun _ => check15 c)
    , (0x16, fun _ => check16 c), (0x17, fun _ => check17 c), (0x18, fun _ => check18 c)]

/-- The half a device address lies in, for memory of one half. -/
def halfOfAddr (a : Nat) : Nat :=
  if a < 24 * 2 ^ 37 then a / 2 ^ 37 / 12
  else if viewBase ≤ a ∧ a < viewBase + 2 * 2 ^ 41 then (a - viewBase) / 2 ^ 41
  else if isDieStore a then halfOfDie ((a - dieBase) / 2 ^ 32)
  else halfOfDie ((a - coreBase) / 2 ^ 24 / 128)

/-- A sub-image uses only dies, stacks and ports of its half (08 R242). -/
def subOnHalf (m : Img) (half : Nat) : Bool :=
  (m.parts.all fun p => (m.cores p).all fun k => halfOfDie (k / 128) == half)
    && ((m.sec tSTRM).all fun r => halfOfDie (strmDie r) == half)
    && ((m.sec tWIN).all fun r => halfOfAddr (winBase r) == half && halfOfAddr (winLast r) == half)
    && ((m.sec tSYNC).all fun r => syncCount r == 0
          || (halfOfObj (syncFirst r) == half && halfOfObj (syncFirst r + syncCount r - 1) == half))
    && ((m.sec tCHRY).all fun r => halfOfDie (chryDie r) == half)
    && ((m.sec tSPARE).all fun r => halfOfDie (recNat r 0 1) == half)
    && ((m.sec tROUTE).all fun r =>
          (recNat r 0 1 != 2 || recNat r 1 1 / 12 == half)
            && (routesOf r).all fun e => !e.2.getLsbD 15 || e.2.getLsbD 14 || fld e.2 4 0 / 12 == half)

/-- Records of a partition in a section that the sub-image repeats: all fields (08 R242). -/
def ofPart (rs : List (List Byte)) (part : List Byte → Nat) (p : Nat) : List (List Byte) := rs.filter fun r => part r == p

/-- 0x0E: the sub-images of the image (08 R242). -/
def check0E (c : Chk) : List Fail :=
  (c.m.num tTWIN).flatMap fun (k, r) =>
    let f := fun (n d : Nat) => [(⟨n, tTWIN, k, d⟩ : Fail)]
    let b := c.m.sub r
    if c.m.twin.length < twinOff r + twinLen r then f 1 (twinOff r)
    else match headChecks b true with
      | some x => f 4 (x.fail.check * 256 + x.code)
      | none =>
        let m := parseImg b
        let p := rPart r
        (if subOnHalf m (recNat r 1 1) then [] else f 2 0)
          ++ (if ofPart (c.m.sec tTENS) tensPart p = m.sec tTENS ∧ ofPart (c.m.sec tOPS) rPart p = m.sec tOPS then [] else f 3 0)
          ++ (if m.parts ≠ [p] then f 4 0
              else match bodyChecks { m := m, s := c.s.preview c.m, sub := true } (fun _ => []) with
                | some x => f 4 (x.fail.check * 256 + x.code)
                | none => [])

/-- Whether the replay of an image's job has recorded another digest than the image's (12 R363). -/
def State.replayDiffers (s : State) (b : List Byte) : Bool :=
  match s.replayOf (imgJob b) with
  | some rp =>
    let rs := rp.records.filter fun r => r.type == 1
    !rs.isEmpty && rs.all fun r => (r.body.drop 8).take 48 != (b.drop 0x20).take 48
  | none => false

/-- The first failing check of an image submitted to the load port; none when it may be applied (08 R251). An image that a replay has
recorded otherwise fails 0x02 (12 R363). -/
def checkImage (s : State) (b : List Byte) : Option Reject :=
  let other := if s.replayDiffers b then some ⟨2, ⟨1, 0, 0, 0⟩⟩ else none
  match headChecks b false with
  | some x => if x.code ≤ 2 then some x else some (other.getD x)
  | none => other.orElse fun _ =>
    let c : Chk := { m := parseImg b, s := s }
    bodyChecks c fun _ => check0E c

/-- The 32-byte load report (08 R252). -/
def loadReport (b : List Byte) (r : Option Reject) : List Byte :=
  let (res, code, chk, ty, idx, det) := match r with
    | some x => (1, x.code, x.fail.check, x.fail.type, x.fail.idx, x.fail.detail)
    | none => (0, 0, 0, 0, 0, 0)
  leBytes 1 res ++ leBytes 1 code ++ leBytes 1 chk ++ [0] ++ leBytes 2 ty ++ [0, 0] ++ leBytes 4 idx ++ [0, 0, 0, 0]
    ++ leBytes 8 det ++ leBytes 8 (imgJob b).toNat

end Sys2Proof.Machine
end

