-- ==== Sys2Proof/Machine/Load.lean ====
section
/-! DEFINITION. Applying a structure image, tenant scrubs and RELEASE, Chrysalis residency and twin switches (08 R232 to R239,
R251 to R258, 13 R373 to R375, 01 R42, R43, R49; log 41, 42). -/

namespace Sys2Proof.Machine

/-! ### Clearing and scrubbing (13 R373, 08 R255) -/

/-- The granules of a partition's windows and Chrysalis areas. -/
def Part.granules (gradeB : Bool) (x : Part) : List (Nat × Nat) :=
  (x.wins.flatMap fun w => (Machine.granules gradeB w.2.base.toNat w.2.last.toNat).getD []) ++ x.chry.map areaOf

/-- The granules of a list of intervals, each once, in ascending order. -/
def granList (g : List (Nat × Nat)) : List Nat :=
  (sortBy (g.flatMap fun a => (List.range (a.2 + 1 - a.1)).map (a.1 + ·)) fun a b => decide (a ≤ b)).eraseDups

/-- Whether the resident member of a partition's slice group holds a resource: the switch of turns clears it, and no load does. -/
def State.sharedWith (s : State) (p : Nat) (x : Part) (holds : Part → Bool) : Bool :=
  x.sgrp != 0 && s.parts.any fun y => y.1 != p && y.2.loaded && y.2.resident && y.2.sgrp == x.sgrp && holds y.2

/-- Tags of a core and of a granule: one more than the tenant that last held it, 0 for CLEAN (13 R373). -/
def State.tagCore (s : State) (k t : Nat) : State := s.modLdr fun l => { l with coreTag := tset 0 l.coreTag k t }
def State.tagGran (s : State) (g t : Nat) : State := s.modLdr fun l => { l with granTag := tset 0 l.granTag g t }

/-- Whether a granule lies in a list of intervals of granules. -/
def inGrans (gs : List (Nat × Nat)) (g : Nat) : Bool := gs.any fun a => decide (a.1 ≤ g) && decide (g ≤ a.2)

/-- A partition takes its turn on its cores and die-store granules, and their tags are its tenant's (13 R373). -/
def State.tagTurn (s : State) (p : Nat) : State :=
  let x := s.part p
  let t := x.tenant.toNat + 1
  ((granList (x.granules s.fuse.gradeB)).filter fun g => decide (24 * 2 ^ 25 ≤ g)).foldl (fun s g => s.tagGran g t)
    (x.cores.foldl (fun s k => s.tagCore k t) s)

/-- Scrub what the image assigns to another tenant than its tag's, and set the tags. What the resident member of the slice group holds is
left to it: the turn clears and tags it. -/
def State.scrubPart (s : State) (p : Nat) (x : Part) : State :=
  let t := x.tenant.toNat + 1
  let other := fun (g : Nat) => g != 0 && g != t
  let s1 := x.cores.foldl (fun s k =>
    if s.sharedWith p x (fun y => y.cores.contains k) then s
    else (if other (tget 0 s.ldr.coreTag k) then s.clearCore k else s).tagCore k t) s
  (granList (x.granules s.fuse.gradeB)).foldl (fun s g =>
    if decide (24 * 2 ^ 25 ≤ g) && s.sharedWith p x (fun y => inGrans (y.granules s.fuse.gradeB) g) then s
    else (if other (tget 0 s.ldr.granTag g) then s.zeroRange (g * 4096) (g * 4096 + 4096) else s).tagGran g t) s1

/-! ### What an image makes of a partition -/

/-- The stream a STRM record places, ready to run (08 R239; log 76, DEDUCED). -/
def strmStream (r : List Byte) : Stream :=
  let base := BitVec.ofNat 64 (coreStore (strmKey r) + strmLoad r)
  let pc := base + BitVec.ofNat 64 (strmPc r)
  let st : Stream :=
    { state := .running, pc := pc, imgBase := base, imgLen := BitVec.ofNat 64 (strmLen r)
      smax := Vector.ofFn fun k => strmSmax r k, ctx := strmCtx r, step := strmStep r
      a := Vector.ofFn fun k => strmA r k, s := Vector.ofFn fun k => strmS r k, c := Vector.ofFn fun k => strmC r k }
  { st with marks := [st.mark] }

/-- A core as the image leaves it for a partition: the partition's windows, its streams, the check rate and a clear MX_CKCNT; a
stream without a record is STOPPED. Banks and contexts of the old streams are free (log 41, DEDUCED). -/
def Img.coreFor (m : Img) (p : Nat) (x : Part) (key : Nat) (c : Core) : Core :=
  let st := fun (k : Nat) => ((m.walks.find? fun w => w.part == p && w.key == key && w.pass == k).map fun w => strmStream w.rec_).getD {}
  let pol := ((m.sec tPOLICY).filter fun r => rPart r == p).head?
  let c0 := c.rewound [.fwd, .bwd, .upd] (List.range 384)
  { c0 with
    part := some p, epoch := x.epoch, wins := x.wins, fwd := st 0, bwd := st 1, upd := st 2
    ckRate := BitVec.ofNat 3 ((pol.map fun r => recNat r 1 1).getD 0)
    ckPhase := BitVec.ofNat 6 ((pol.map fun r => recNat r 2 1).getD 0 + key % 64)
    ckDone := 0, ckSkip := 0, ckFail := 0 }

/-- The bytes of the stream images of a partition, at their core-store addresses. -/
def Img.imageBytes (m : Img) (p : Nat) : List (Nat × Byte) :=
  (m.walks.filter fun k => k.part == p).flatMap fun k => k.img.zipIdx.map fun b => (coreStore k.key + k.lo + b.2, b.1)

/-! ### Taking structure off and putting it on -/

/-- The descriptors of a partition in a channel, the fetched ones first. -/
def Chan.of (c : Chan) (p : Nat) : List PDesc := (c.cache ++ c.ring ++ c.wait).filter fun e => e.part == p && e.act != .void

/-- What an exchange engine holds of a partition, or of the others (08 Table 8-9). -/
def Die.exch (d : Die) (mine : Nat → Bool) : DieExch :=
  { chunks := d.chunks.filter fun c => mine c.part, swarms := d.swarms.filter fun c => mine c.part
    gathers := d.gathers.filter fun c => mine c.part, rx := d.rx.filter fun c => mine c.part
    collFlags := d.collFlags.filter fun f => mine f.1.1, owed := d.owed.filter fun e => mine e.1 }
def Die.setExch (d : Die) (e : DieExch) : Die :=
  { d with chunks := e.chunks, swarms := e.swarms, gathers := e.gathers, rx := e.rx, collFlags := e.collFlags, owed := e.owed }
def DieExch.append (a b : DieExch) : DieExch :=
  { chunks := a.chunks ++ b.chunks, swarms := a.swarms ++ b.swarms, gathers := a.gathers ++ b.gathers, rx := a.rx ++ b.rx
    collFlags := a.collFlags ++ b.collFlags, owed := a.owed ++ b.owed }

/-- The exchange and update state of a partition leaves every die: packets, receptions, descriptors and running UPDs; a unit goes on with
the UPD that waited. -/
def State.dropTransfers (s : State) (p : Nat) : State :=
  let s1 := (s.dies.map (·.1)).foldl (fun s d => s.modDie d fun x =>
    { x.setExch (x.exch fun q => q != p) with chans := x.chans.map fun c => (c.1, c.2.drop fun e => e.part == p) }) s
  (s1.upds.map (·.1)).foldl (fun s u => (s.modUnit u fun k => { k with run := k.run.filter fun r => r.part != p }).updNext u) s1

/-- A load gives a partition new structure: nothing of the old one moves on, and no unit keeps an old epoch of it. -/
def State.dropExchange (s : State) (p : Nat) : State :=
  let s1 := s.dropTransfers p
  let s2 := (s1.dies.map (·.1)).foldl (fun s d => s.modDie d fun x => { x with epochs := tset 0 x.epochs p 0 }) s1
  (s2.upds.map (·.1)).foldl (fun s u => s.modUnit u fun k => { k with epochs := tset 0 k.epochs p 0 }) s2

/-- The objects of a partition become unallocated; operations on their way to them are gone. -/
def State.freeObjs (s : State) (p : Nat) : State :=
  let s1 := (s.partObjs p).foldl (fun s o => s.modObj o fun _ => {}) s
  (s1.modSyn 0 fun h => { h with net := h.net.filter fun r => r.part != p }).modSyn 1 fun h =>
    { h with net := h.net.filter fun r => r.part != p }

/-- The cores a partition holds while it is resident. -/
def State.heldCores (s : State) (p : Nat) : List Nat :=
  (s.part p).cores.filter fun k => (s.core k).part == some p

/-- Take a partition's old structure off the module: its cores belong to none and their streams stand STOPPED. -/
def State.unload (s : State) (p : Nat) : State :=
  let s1 := (s.heldCores p).foldl (fun s k => s.modCore k fun c =>
    { c with part := none, wins := [], epoch := 0, fwd := { c.fwd with state := .stopped, stall := 0 }
             bwd := { c.bwd with state := .stopped, stall := 0 }, upd := { c.upd with state := .stopped, stall := 0 } }) s
  ((s1.dropExchange p).freeObjs p).modPart p fun _ => {}

/-- The module part of a ROUTE section: planes it writes hold its entries only, and ACCEPT admits a MISWIRED port (11 R333). -/
def State.applyRoutes (s : State) (m : Img) : State :=
  (m.sec tROUTE).foldl (fun s r => let p := recNat r 1 1
    if recNat r 0 1 = 2 ∧ (s.port p).state = .miswired then
      ((s.modPort p fun x => { x with accepted := some (x.peer, x.peerPort.toNat) }).activate p).reportNews
    else s)
    (s.setPlanes m)

/-- Both entries of every update unit's UPD_SCTAB for a partition (10 R306). -/
def State.seedScale (s : State) (p : Nat) (x : Part) : State :=
  (List.range 24).foldl (fun s u => s.modUnit u fun k =>
    { k with tabA := tset (0, 0) k.tabA p (x.openStep.setWidth 24, x.ls.sexp)
             tabB := tset (0, 0) k.tabB p ((x.openStep - 1).setWidth 24, x.ls.sexp) }) s

/-- The IMAGE and KEYS records of a load (12 Table 12-6; log 20, DESIGN CHOICE). -/
def State.loadRecords (s : State) (p : Nat) (x : Part) (b : List Byte) : State :=
  let s1 := s.record s.leadHalf 1 p x.openStep (leBytes 8 x.job.toNat ++ beBytes 48 x.digest.toNat ++ leBytes 8 b.length
    ++ (if b.length ≤ 256 * 2 ^ 20 then b else []))
  (s1.record s1.leadHalf 2 p x.openStep ((List.range 8).flatMap fun k => leBytes 16 (tget 0 x.keys k).toNat)).stepOpen p

/-- Whether another partition of a slice group holds the cores. -/
def State.groupTaken (s : State) (p g : Nat) : Bool := s.parts.any fun y => y.1 != p && y.2.sgrp == g && y.2.resident

/-- The cores of a partition with its streams at rest: the copy that a turn puts in place. -/
def Core.atRest (c : Core) : Core :=
  let stop := fun (st : Stream) => { st with state := if st.state = .halted then .halted else .stopped, stall := 0 }
  { c with fwd := stop c.fwd, bwd := stop c.bwd, upd := stop c.upd }

/-- Put a partition's structure on the module. A partition whose group is taken waits saved out with its loaded state. `again`
marks a twin switch: the open step, its retry and the loss-scale state stand, and the step runs again. -/
def State.install (s : State) (m : Img) (p : Nat) (x : Part) (again : Bool) : State :=
  let s1 := ((x.cores.map (· / 128)).eraseDups.foldl (fun s d => s.modDie d fun x => { x with pll := true }) s).allocPart m p x again
  let wait := x.sgrp != 0 && s.groupTaken p x.sgrp
  let stepOf := fun (st : Stream) => if again ∧ st.imgLen ≠ 0 then
      let st' := { st with step := x.openStep }
      { st' with marks := [st'.mark] }
    else st
  let cores := x.cores.map fun k =>
    let c := m.coreFor p x k (if wait then (s1.core k).cleared else s1.core k)
    (k, { c with fwd := stepOf c.fwd, bwd := stepOf c.bwd, upd := stepOf c.upd })
  if wait then
    x.cores.foldl (fun s k => s.modCore k fun c => { c with pow := if c.pow = .off then .gated else c.pow })
      (s1.modPart p fun _ => { x with
        saved := some { digest := x.digest, cores := cores, bytes := m.imageBytes p, errs := [], chans := [] } })
  else
    let s2 := cores.foldl (fun s c => s.setCore c.1 { c.2 with pow := .on }) s1
    (s2.writeMem { part := p } (m.imageBytes p)).modPart p fun _ => { x with resident := true }

/-! ### LOAD and LOAD_APPLY (08 R251, R252, 01 R42, R43) -/

/-- The module makes no job admission after a firmware fallback until an OWNER clears FWFAIL (13 R390). -/
def State.noAdmission (s : State) : Bool := s.sec.fallbk && s.sec.alert.getLsbD 7

/-- Ranks that an image names as members of a collective or as a destination (09 Table 9-5, 06 R188). -/
def Img.ranks (m : Img) : List Nat :=
  (((m.sec tCOLL).flatMap collMembers)
    ++ m.walks.flatMap fun k => (k.ins.filter fun x => hFam x.2 == 4 && hOp x.2 == 0).map fun x => xDrank x.2).eraseDups

/-- The job of an image gets its key before its load passes: the manager gives it, and a member of the Hive asks for it (11 R335; log 58,
DESIGN CHOICE). -/
def State.keyFirst (s : State) (b : List Byte) : State :=
  match headChecks b false with
  | some _ => s
  | none =>
    if s.hasKey (imgJob b) then s
    else if s.mgr.acting then s.giveKey (imgJob b) (parseImg b).ranks s.rank
    else if s.sec.hiveKey.isSome then s.mgmt s.mgrRank (.keyAsk (imgJob b) (parseImg b).ranks)
    else s

/-- Whether a load has to wait for its job's key: the module is of a Hive, the job spans others, and the key is not here. -/
def State.keyDue (s : State) (b : List Byte) : Bool :=
  (headChecks b false).isNone && s.sec.hiveKey.isSome && !s.hasKey (imgJob b) && (parseImg b).ranks.any fun r => r != s.rank

/-- A load joins the loader's queue, or waits for its job's key. -/
def State.submit (s : State) (sid : W32) (seq : W64) (b : List Byte) : State :=
  let s1 := s.keyFirst b
  s1.modLdr fun l =>
    if s1.keyDue b then { l with held := l.held ++ [(sid, seq, b)] } else { l with queue := l.queue ++ [(sid, seq, b)] }

/-- LOAD: a session submits an image in chunks, each of which is answered; with the last one the image is whole and joins the loader's queue; a drained module, one without a fabric and one that admits
no job refuse it (12 R356; log 40, DEDUCED). The reply is the report of LOAD_APPLY. -/
def execLoad (m : CmdHdr) (chunk : LoadChunk) (s : State) : Host.Outcome State Fault Refusal :=
  .next (match s.sessionOf m with
    | none => s
    | some k =>
      let put := fun (st : State) (image : List Byte) => st.modSec fun x =>
        { x with sessions := x.sessions.map fun y => if y.sid = m.sid then { y with lastIn := m.seq, image := image } else y }
      match if codeUnlisted m then some stMalformed else s.gateCmd k (fieldCmd 1) with
      | some st => (put s []).say { rep st with sid := m.sid, seq := m.seq }
      | none =>
        if s.ev.drain || !s.fabricOn || s.noAdmission then (put s []).say { rep stRefused with sid := m.sid, seq := m.seq }
        else if chunk.last then (put s []).submit m.sid m.seq (k.image ++ chunk.bytes)
        else (put s (k.image ++ chunk.bytes)).say { rep stOk with sid := m.sid, seq := m.seq })

/-- The partition runs: it goes on from its load, its job's messages leave first (10 R306), and its cores are clocked. -/
def State.announce (s : State) (p : Nat) (x : Part) : State := s.mgmt s.mgrRank (.scaleRec x.job s.rank p x.scale)

/-- The job slots of jobs that have no partition left on this module are free (13 R382). -/
def State.leaveJobs (s : State) (jobs : List W64) : State :=
  jobs.foldl (fun s j => if (s.jobParts j).isEmpty then s.leaveSlot j else s) s

/-- Apply an image that has passed its checks (08 R251): old structure off, spare map, scrubs, routes, objects, cores, scale
tables and records; the job slots that the old structure leaves are free; then the streams are released. -/
def State.applyImage (s : State) (b : List Byte) : State :=
  let m := parseImg b
  let old := ((m.parts.filter fun p => (s.part p).loaded).map fun p => (s.part p).job).eraseDups
  let s0 := m.parts.foldl (fun s p => s.unload p) s
  let s1 := s0.applySpares m
  let ps := m.parts.map fun p => (p, m.part s1 p)
  let s2 := ps.foldl (fun s x => s.scrubPart x.1 x.2) s1
  let s3 := s2.applyRoutes m
  let s4 := (ps.foldl (fun s x => s.install m x.1 x.2 false) s3).leaveJobs old
  let s5 := ps.foldl (fun s x => ((s.seedScale x.1 x.2).loadRecords x.1 x.2 b).announce x.1 x.2) s4
  let s6 := ps.foldl (fun s x => (s.replayStage x.1).openChunks x.1) s5
  s6.settlePower.modPwr fun w => { w with step := 10 }

/-- The loaders that take part in a load: the lead's alone for an image it cannot read, else those of the halves it uses (01 R26, R43). -/
def State.loadersOf (s : State) (b : List Byte) (sub : Bool) : List Nat :=
  match headChecks b sub with
  | some _ => [s.leadHalf]
  | none => [0, 1].filter fun h => ({ m := parseImg b, s := s } : Chk).usesHalf h

/-- The loader of every named half shows a report; `one` more load has been applied. -/
def State.showReport (s : State) (hs : List Nat) (rep32 : List Byte) (one : Bool) : State :=
  hs.foldl (fun s h => s.modFf h fun f =>
    { f with ldr := { f.ldr with report := rep32, code := BitVec.ofNat 8 (recNat rep32 1 1)
                                 count := if one then satAdd f.ldr.count 1 else f.ldr.count } }) s

/-- The report of a load: in the log as a Load event, in the loaders' registers, and to the session that submitted the image. -/
def State.report32 (s : State) (hs : List Nat) (sid : W32) (seq : W64) (rep32 : List Byte) (one : Bool) : State :=
  let s1 := s.showReport hs rep32 one
  let s2 := s1.post (s1.unitEv s1.ffUnit 0x18 0 0xFF (BitVec.ofNat 64 (recNat rep32 0 8)))
  if s2.sec.sessions.any fun k => k.sid == sid then s2.say { sid := sid, type := 5, seq := seq, data := rep32 } else s2

/-- Whether a channel holds fetched descriptors of a partition (07 R228). -/
def State.fetched (s : State) (p : Nat) : Bool := s.dies.any fun d => d.2.chans.any fun c => c.2.cache.any fun e => e.part == p

/-- Whether a load waits: the load port has an action of its own in progress for a partition the image names, or a channel has still to
complete the partition's fetched descriptors (08 R251, 07 R228). -/
def State.portBusy (s : State) (b : List Byte) : Bool :=
  !s.ev.drain && (imgParts b).any fun p => ((s.part p).retracting.isSome && !(s.part p).jobStop) || s.fetched p

/-- LOAD_APPLY: the oldest image that was accepted is checked against the module as it is now, and applied as a whole or not at
all; it waits while the load port acts for a partition it names, and during a split without a ruling (14 R405). -/
def execLoadApply (s : State) : Host.Outcome State Fault Refusal :=
  .next (match s.ldr.queue with
    | [] => s
    | (sid, seq, b) :: rest =>
      if s.portBusy b || !s.managing then s
      else
        let s1 := s.modLdr fun l => { l with queue := rest }
        if s1.ev.drain then
          (if s1.sec.sessions.any fun k => k.sid == sid then s1.say { rep stRefused with sid := sid, seq := seq } else s1)
        else match checkImage s1 b with
          | some r => s1.report32 (s1.loadersOf b false) sid seq (loadReport b (some r)) false
          | none => (s1.applyImage b).report32 (s1.loadersOf b false) sid seq (loadReport b none) true)

/-! ### RELEASE (13 R375) -/

/-- The granules that a RELEASE scrubs: those of the partition's windows and areas, and for one that is saved out every granule that its
tenant's tag marks and no other loaded partition's window or area holds (13 R375, R391; log 142, DEDUCED). -/
def State.releaseGrans (s : State) (p : Nat) : List Nat :=
  let x := s.part p
  let own := granList (x.granules s.fuse.gradeB)
  if x.saved.isNone then own
  else
    let others := (s.parts.filter fun y => y.1 != p && y.2.loaded).flatMap fun y => y.2.granules s.fuse.gradeB
    own ++ ((s.ldr.granTag.filter fun e => e.2 == x.tenant.toNat + 1 && !own.contains e.1 && !inGrans others e.1).map (·.1))

/-- The dies of some cores; their PLLs are locked while a core of theirs is GATED or ON, and stop with the last (14 R398; log 161, DEDUCED). -/
def diesOf (cores : List Nat) : List Nat := (cores.map (· / 128)).eraseDups
def State.pllsOff (s : State) (cores : List Nat) : State :=
  (diesOf cores).foldl (fun s d =>
    if s.cores.any fun c => c.1 / 128 == d && c.2.pow != .off then s else s.modDie d fun x => { x with pll := false }) s

/-- RELEASE: the partition stops, its Chrysalis is discarded, its cores, granules and areas are scrubbed and tagged CLEAN, its
objects, job slot and key slots are free. Cores and die-store granules that the resident member of its slice group holds are left
to that member (log 41, DEDUCED). -/
def execRelease (m : CmdHdr) (part : Nat) (s : State) : Host.Outcome State Fault Refusal :=
  .next (s.cmd m (fieldCmd 1) fun _ s =>
    let x := s.part part
    if !x.loaded then (rep stRefused, s)
    else
      let keep := fun (k : Nat) => s.sharedWith part x fun y => y.cores.contains k
      let s1 := s.unload part
      let s2 := x.cores.foldl (fun s k =>
        if keep k then s
        else
          let other := s.parts.any fun y => y.2.loaded && y.2.cores.contains k
          ((s.clearCore k).modCore k fun c => { c with pow := if other then .gated else .off }).tagCore k 0) s1
      let s3 := (s.releaseGrans part).foldl (fun s g =>
        if decide (24 * 2 ^ 25 ≤ g) && s.sharedWith part x (fun y => inGrans (y.granules s.fuse.gradeB) g) then s
        else (s.zeroRange (g * 4096) (g * 4096 + 4096)).tagGran g 0) s2
      let s4 := s3.leaveJobs [x.job]
      (rep stOk, (s4.pllsOff x.cores).settlePower))

/-! ### Residency (08 R253 to R258) -/

/-- Whether an address lies in a core store or die-store window that a partition's Chrysalis holds. -/
def State.inChrysalis (s : State) (p a : Nat) : Bool :=
  (s.part p).cores.any (fun k => decide (coreStore k ≤ a) && decide (a < coreStore k + 2 ^ 21))
    || (isDieStore a && (s.part p).wins.any fun w => w.2.covers a)

/-- Save a resident partition: its cores, stores, descriptors and the state of exchange and update units go to its Chrysalis, codewords read
on the way, and the cores and die-store windows are cleared. -/
def State.saveOut (s : State) (p : Nat) : State :=
  let x := s.part p
  let s1 := (s.errs.filter fun e => s.inChrysalis p e.1).foldl (fun s e => (s.readCw e.1 { part := p }).2) s
  let inn := fun (a : Nat) => s1.inChrysalis p a
  let ch : Chrysalis :=
    { digest := x.digest, cores := x.cores.map fun k => (k, s1.core k), bytes := s1.mem.filter fun c => inn c.1
      errs := s1.errs.filter fun e => inn e.1
      chans := s1.dies.flatMap fun d => d.2.chans.filterMap fun c =>
        if (c.2.of p).isEmpty then none else some (d.1 * 32 + c.1, c.2.of p)
      exch := s1.dies.map fun d => (d.1, d.2.exch fun q => q == p)
      upds := s1.upds.flatMap fun u => (u.2.run.filter fun r => r.part == p).map fun r => (u.1, r) }
  let area := fun (a : Nat) => x.chry.any fun r => decide ((areaOf r).1 ≤ a / 4096) && decide (a / 4096 ≤ (areaOf r).2)
  let s2 := (s1.keepMem (fun a => !inn a) fun a => !inn a && !area a).dropTransfers p
  let s3 := x.cores.foldl (fun s k => s.modCore k fun c => { c.cleared with pow := .gated }) s2
  s3.modPart p fun x => { x with resident := false, saved := some ch }

/-- The first codeword of a partition's Chrysalis areas that cannot be read. -/
def State.areaBad (s : State) (x : Part) : Option (Nat × CwState) :=
  ((s.errs.filter fun e => x.chry.any fun r => decide ((areaOf r).1 ≤ e.1 / 4096) && decide (e.1 / 4096 ≤ (areaOf r).2)).map
    fun e => (e.1, cwState e.1 e.2)).find? fun e => e.2 == .poisoned || e.2 == .beyond

/-- Peers send again to a partition that has come back: RESUME on every logical port in service (11 R321). -/
def State.sendResume (s : State) (p : Nat) : State :=
  match (s.part p).jslot with
  | some j => ((List.range 24).filter fun lp => !(s.members lp).isEmpty).foldl (fun s lp => s.emit (.resume lp j s.rank)) s
  | none => s

/-- The frames of a job slot that no peer has acknowledged leave once more, with the numbers they had (08 R257). -/
def State.sendAgain (s : State) (p : Nat) : State :=
  match (s.part p).jslot with
  | some j => s.link.lports.foldl (fun s l =>
      ((l.2.retry.map (·.1)).filter fun f => f.cls == 0 && f.jslot.toNat == j && f.srank.toNat == s.rank).foldl
        (fun s f => (s.emit (.frame l.1 f)).countResent l.1 1) s) s
  | none => s

/-- The descriptors of a Chrysalis for an update unit's channel. -/
def Chrysalis.updDescs (ch : Chrysalis) (u part : Nat) : List PDesc :=
  (ch.chans.filter fun c => c.1 == u / 2 * 32 + updChan u part).flatMap (·.2)

/-- The exchange and update state of a Chrysalis goes back to the dies. A unit that runs another partition's UPD meanwhile finishes that one
first (10 R300; log 143, DEDUCED). -/
def State.restoreTransfers (s : State) (ch : Chrysalis) : State :=
  let s1 := ch.exch.foldl (fun s e => s.modDie e.1 fun d => d.setExch ((d.exch fun _ => true).append e.2)) s
  let s2 := ch.upds.foldl (fun s u => (s.modUnit u.1 fun k =>
    { k with run := k.run ++ [{ u.2 with waiting := ch.updDescs u.1 u.2.part ++ u.2.waiting }] }).updNext u.1) s1
  (ch.chans.filter fun c => decide (c.1 % 32 < 16)).foldl (fun s c => s.pushDescs (c.1 / 32) (c.1 % 32) c.2) s2

/-- Restore a partition: its cores and die-store windows are cleared of every other state and tagged, and all its saved state goes back at
its cores' present positions; its streams take the states they were saved in. A Retract that it owes is handled first, an unreadable area holds its streams, and a Chrysalis of another image is
refused. -/
def State.restore (s : State) (p : Nat) : State :=
  let x := s.part p
  match x.saved with
  | none => (s.tagTurn p).modPart p fun x => { x with resident := true }
  | some ch =>
    if ch.digest ≠ x.digest then
      s.report32 ((x.cores.map fun k => halfOfDie (k / 128)).eraseDups) 0 0 (leBytes 4 (1 + 0xF * 256 + 4 * 65536) ++ leBytes 4 tCHRY ++ leBytes 8 0 ++ leBytes 8 p ++ leBytes 8 x.job.toNat) false
    else
      let clear := fun (a : Nat) => !s.inChrysalis p a
      let s0 := (s.keepMem clear clear).tagTurn p
      let s1 := ch.cores.foldl (fun s c =>
        s.setCore c.1 { c.2 with pow := .on, pos := (s.core c.1).pos, part := some p, epoch := x.epoch, wins := x.wins }) s0
      let s2 := ch.bytes.foldl (fun s c => s.wr8 c.1 c.2) s1
      let s3 := ch.errs.foldl (fun s e => s.setErr e.1 e.2) s2
      let s4 := s3.restoreTransfers ch
      let s5 := s4.modPart p fun x => { x with resident := true, saved := none }
      match s.areaBad x, x.owedRetract with
      | some (cw, st), _ =>
        (x.cores.foldl (fun s k => s.modCore k Core.atRest) s5).uncorrectable cw { part := p } (decide (st = .poisoned)) false true
      | none, some msg =>
        ((s5.handleRetract p msg []).sendAgain p).sendResume p
      | none, none => (s5.sendAgain p).sendResume p

/-- The resident member of a slice group. -/
def State.residentOf (s : State) (g : Nat) : Option Nat := (s.parts.find? fun y => y.2.sgrp == g && y.2.resident).map (·.1)

/-- A residency switch: the outgoing partition is saved, the incoming one restored (08 R257). -/
def State.switchTo (s : State) (p : Nat) : State :=
  match s.residentOf (s.part p).sgrp with
  | some q => if q = p then s else ((s.saveOut q).restore p).settlePower
  | none => (s.restore p).settlePower

/-- Whether a member of a slice group has a stream to run: one with an image that is neither HALTED nor FROZEN. -/
def Part.hasWork (x : Part) : Bool :=
  match x.saved with
  | some ch => ch.cores.any fun c => [c.2.fwd, c.2.bwd, c.2.upd].any fun st =>
      st.imgLen != 0 && st.state != .halted && st.state != .frozen
  | none => false

/-- Whether a switch waits: a load was accepted before it, or the load port acts for the resident partition (08 R251, R258). -/
def State.switchWaits (s : State) (g : Nat) : Bool :=
  !s.ldr.queue.isEmpty || match s.residentOf g with
  | some q => (s.part q).retracting.isSome && !(s.part q).jobStop
  | none => false

/-- QUANTUM_EXPIRY: under MODE 0 the next member with work, in ascending partition number and cyclically, takes the cores. -/
def execQuantumExpiry (group : Nat) (s : State) : Host.Outcome State Fault Refusal :=
  let r := (s.residentOf group).getD 15
  let order := (List.range 16).map fun k => (r + 1 + k) % 16
  .next (if group = 0 ∨ s.switchWaits group ∨ !s.managing then s
    else match order.find? fun q => (s.part q).loaded && (s.part q).sgrp == group && !(s.part q).mode1 && (s.part q).hasWork with
      | some q => s.switchTo q
      | none => s)

/-- SWITCH_COMMAND: the hive manager names the Firefly time of a MODE 1 switch to a partition. -/
def execSwitchCommand (part : Nat) (time : W64) (s : State) : Host.Outcome State Fault Refusal :=
  .next (if (s.part part).loaded && (s.part part).mode1 then s.modPart part fun x => { x with switchAt := some time } else s)

/-- SWITCH_TIME: the named time is reached. -/
def execSwitchTime (part : Nat) (s : State) : Host.Outcome State Fault Refusal :=
  let x := s.part part
  .next (if !x.loaded || x.switchAt.isNone || s.switchWaits x.sgrp || !s.managing then s
    else (s.modPart part fun x => { x with switchAt := none }).switchTo part)

/-! ### Twin switch (01 R49, 08 R242, R258) -/

/-- TWIN_SWITCH: the sub-image of a half replaces the partition's structure; its Chrysalis is discarded, and its open step runs
again from the sub-image's initial state (log 42, DEDUCED). A sub-image that fails a check against the module as it is now is not applied
(08 R251), and on a drained module no partition starts (12 R356). The units that escalated in the step are fenced first (12 R348). -/
def execTwinSwitch (part half : Nat) (s : State) : Host.Outcome State Fault Refusal :=
  let old := s.part part
  .next (if !old.loaded || s.ev.drain || !s.managing then s
    else match old.twins.find? fun t => t.1 == half with
      | none => s
      | some (_, b) =>
        let m := parseImg b
        match bodyChecks { m := m, s := s, sub := true } (fun _ => []) with
        | some r => s.report32 [half] 0 0 (loadReport b (some r)) false
        | none =>
        let due := (old.escal ++ (old.retracting.map fun r => r.escalation).getD []).eraseDups
        let s1 := ((due.foldl (fun s u => s.fence part u) s).unload part).applySpares m
        let x0 := m.part s1 part
        let x : Part := { x0 with openStep := old.openStep, retry := old.retry, ls := old.ls, scale := old.scale, twins := old.twins
                                  jslot := old.jslot, job := old.job }
        let s2 := (s1.scrubPart part x).applyRoutes m
        let s3 := (s2.install m part x true).stepOpen part
        ((s3.replayStage part).openChunks part).settlePower)

end Sys2Proof.Machine
end

