-- ==== Sys2Proof/Machine/Dispatch.lean ====
section
/-! DEFINITION. One arm for each command: the meaning it calls. -/

namespace Sys2Proof.Machine

def exec (i : Instr) (s : State) : Host.Outcome State Fault Refusal :=
  match i with
  | .ctlNop at_ w => Sys2Proof.Machine.execCtlNop at_ w s
  | .ctlIdle at_ w => Sys2Proof.Machine.execCtlIdle at_ w s
  | .ctlSeta at_ w => Sys2Proof.Machine.execCtlSeta at_ w s
  | .ctlAdda at_ w => Sys2Proof.Machine.execCtlAdda at_ w s
  | .ctlSets at_ w => Sys2Proof.Machine.execCtlSets at_ w s
  | .ctlSetc at_ w => Sys2Proof.Machine.execCtlSetc at_ w s
  | .ctlAddc at_ w => Sys2Proof.Machine.execCtlAddc at_ w s
  | .ctlLoop at_ w => Sys2Proof.Machine.execCtlLoop at_ w s
  | .ctlBr at_ w => Sys2Proof.Machine.execCtlBr at_ w s
  | .ctlBrc at_ w => Sys2Proof.Machine.execCtlBrc at_ w s
  | .ctlBrq at_ w => Sys2Proof.Machine.execCtlBrq at_ w s
  | .ctlLdshape at_ w => Sys2Proof.Machine.execCtlLdshape at_ w s
  | .ctlStep at_ w => Sys2Proof.Machine.execCtlStep at_ w s
  | .ctlOpbegin at_ w => Sys2Proof.Machine.execCtlOpbegin at_ w s
  | .ctlOpend at_ w => Sys2Proof.Machine.execCtlOpend at_ w s
  | .ctlHalt at_ w => Sys2Proof.Machine.execCtlHalt at_ w s
  | .strmCopy at_ w => Sys2Proof.Machine.execStrmCopy at_ w s
  | .strmFill at_ w => Sys2Proof.Machine.execStrmFill at_ w s
  | .mma at_ w => Sys2Proof.Machine.execMma at_ w s
  | .pack at_ w => Sys2Proof.Machine.execPack at_ w s
  | .vecFma at_ w => Sys2Proof.Machine.execVecFma at_ w s
  | .vecAdd at_ w => Sys2Proof.Machine.execVecAdd at_ w s
  | .vecMul at_ w => Sys2Proof.Machine.execVecMul at_ w s
  | .vecMax at_ w => Sys2Proof.Machine.execVecMax at_ w s
  | .vecMin at_ w => Sys2Proof.Machine.execVecMin at_ w s
  | .vecCvt at_ w => Sys2Proof.Machine.execVecCvt at_ w s
  | .vecNeg at_ w => Sys2Proof.Machine.execVecNeg at_ w s
  | .vecAbs at_ w => Sys2Proof.Machine.execVecAbs at_ w s
  | .vecAcc at_ w => Sys2Proof.Machine.execVecAcc at_ w s
  | .vecSumsq at_ w => Sys2Proof.Machine.execVecSumsq at_ w s
  | .vecMoments at_ w => Sys2Proof.Machine.execVecMoments at_ w s
  | .vecLwadd at_ w => Sys2Proof.Machine.execVecLwadd at_ w s
  | .vecLwld at_ w => Sys2Proof.Machine.execVecLwld at_ w s
  | .vecLwst at_ w => Sys2Proof.Machine.execVecLwst at_ w s
  | .vecLzero at_ w => Sys2Proof.Machine.execVecLzero at_ w s
  | .vecLneg at_ w => Sys2Proof.Machine.execVecLneg at_ w s
  | .vecLred at_ w => Sys2Proof.Machine.execVecLred at_ w s
  | .vecReanchor at_ w => Sys2Proof.Machine.execVecReanchor at_ w s
  | .vecFinish at_ w => Sys2Proof.Machine.execVecFinish at_ w s
  | .xchPut at_ w => Sys2Proof.Machine.execXchPut at_ w s
  | .xchMcast at_ w => Sys2Proof.Machine.execXchMcast at_ w s
  | .xchReduce at_ w => Sys2Proof.Machine.execXchReduce at_ w s
  | .xchGather at_ w => Sys2Proof.Machine.execXchGather at_ w s
  | .xchAllred at_ w => Sys2Proof.Machine.execXchAllred at_ w s
  | .upd at_ w => Sys2Proof.Machine.execUpd at_ w s
  | .synWait at_ w => Sys2Proof.Machine.execSynWait at_ w s
  | .synSet at_ w => Sys2Proof.Machine.execSynSet at_ w s
  | .synAdd at_ w => Sys2Proof.Machine.execSynAdd at_ w s
  | .synFadd at_ w => Sys2Proof.Machine.execSynFadd at_ w s
  | .synOpld at_ w => Sys2Proof.Machine.execSynOpld at_ w s
  | .synGwait at_ w => Sys2Proof.Machine.execSynGwait at_ w s
  | .instructionStart c e faults => Sys2Proof.Machine.execInstructionStart c e faults s
  | .instructionComplete at_ e => Sys2Proof.Machine.execInstructionComplete at_ e s
  | .drainStart c bank upsets => Sys2Proof.Machine.execDrainStart c bank upsets s
  | .tileVerdict c bank => Sys2Proof.Machine.execTileVerdict c bank s
  | .chainRow c row => Sys2Proof.Machine.execChainRow c row s
  | .chainVerdict at_ epoch again => Sys2Proof.Machine.execChainVerdict at_ epoch again s
  | .operationEvaluation at_ => Sys2Proof.Machine.execOperationEvaluation at_ s
  | .operationDecision at_ => Sys2Proof.Machine.execOperationDecision at_ s
  | .syncOperation half pick => Sys2Proof.Machine.execSyncOperation half pick s
  | .coreGate c => Sys2Proof.Machine.execCoreGate c s
  | .updStart c faults => Sys2Proof.Machine.execUpdStart c faults s
  | .mergeWindowExpiry c => Sys2Proof.Machine.execMergeWindowExpiry c s
  | .descriptorFetch die ch => Sys2Proof.Machine.execDescriptorFetch die ch s
  | .descriptorComplete die ch faults => Sys2Proof.Machine.execDescriptorComplete die ch faults s
  | .patrolScrub die faults => Sys2Proof.Machine.execPatrolScrub die faults s
  | .stagingAccess half write addr len data => Sys2Proof.Machine.execStagingAccess half write addr len data s
  | .putPacket die part p => Sys2Proof.Machine.execPutPacket die part p s
  | .contrib die part p => Sys2Proof.Machine.execContrib die part p s
  | .result die part p => Sys2Proof.Machine.execResult die part p s
  | .mcastPacket die part p => Sys2Proof.Machine.execMcastPacket die part p s
  | .mirror die part p => Sys2Proof.Machine.execMirror die part p s
  | .credit die part p => Sys2Proof.Machine.execCredit die part p s
  | .swarmAck die part p => Sys2Proof.Machine.execSwarmAck die part p s
  | .drop die part p => Sys2Proof.Machine.execDrop die part p s
  | .repairreq die part p => Sys2Proof.Machine.execRepairreq die part p s
  | .repairnak die part p => Sys2Proof.Machine.execRepairnak die part p s
  | .laggardTimeout die part coll rank => Sys2Proof.Machine.execLaggardTimeout die part coll rank s
  | .collectiveTimeout die part coll chunk => Sys2Proof.Machine.execCollectiveTimeout die part coll chunk s
  | .repairTimeout die part coll chunk => Sys2Proof.Machine.execRepairTimeout die part coll chunk s
  | .duplicateTile r => Sys2Proof.Machine.execDuplicateTile r s
  | .stepReport part => Sys2Proof.Machine.execStepReport part s
  | .stepReportArrival m => Sys2Proof.Machine.execStepReportArrival m s
  | .retractArrival m => Sys2Proof.Machine.execRetractArrival m s
  | .gateWrite job value ls => Sys2Proof.Machine.execGateWrite job value ls s
  | .retractHandling m markParity => Sys2Proof.Machine.execRetractHandling m markParity s
  | .retractRelease part => Sys2Proof.Machine.execRetractRelease part s
  | .eventRecordAccept temp volt => Sys2Proof.Machine.execEventRecordAccept temp volt s
  | .recordHandling half => Sys2Proof.Machine.execRecordHandling half s
  | .capsuleRecord half drained => Sys2Proof.Machine.execCapsuleRecord half drained s
  | .deathwatch part => Sys2Proof.Machine.execDeathwatch part s
  | .quantumExpiry group => Sys2Proof.Machine.execQuantumExpiry group s
  | .switchCommand part time => Sys2Proof.Machine.execSwitchCommand part time s
  | .twinSwitch part half => Sys2Proof.Machine.execTwinSwitch part half s
  | .load m image => Sys2Proof.Machine.execLoad m image s
  | .loadApply => Sys2Proof.Machine.execLoadApply s
  | .ident m => Sys2Proof.Machine.execIdent m s
  | .attest m nonce => Sys2Proof.Machine.execAttest m nonce s
  | .rdreg m addr => Sys2Proof.Machine.execRdreg m addr s
  | .wrreg m addr value => Sys2Proof.Machine.execWrreg m addr value s
  | .lnkCfgWrite port value => Sys2Proof.Machine.execLnkCfgWrite port value s
  | .scanctlGo m value => Sys2Proof.Machine.execScanctlGo m value s
  | .svclatClear m half bits => Sys2Proof.Machine.execSvclatClear m half bits s
  | .release m part => Sys2Proof.Machine.execRelease m part s
  | .subscribe m from_ => Sys2Proof.Machine.execSubscribe m from_ s
  | .evread m from_ upto => Sys2Proof.Machine.execEvread m from_ upto s
  | .capread m part from_ upto => Sys2Proof.Machine.execCapread m part from_ upto s
  | .capunpin m part step => Sys2Proof.Machine.execCapunpin m part step s
  | .hivemap m map => Sys2Proof.Machine.execHivemap m map s
  | .hivejoin m hive keys => Sys2Proof.Machine.execHivejoin m hive keys s
  | .health m => Sys2Proof.Machine.execHealth m s
  | .slotset m slot wrappedKey role => Sys2Proof.Machine.execSlotset m slot wrappedKey role s
  | .slotclear m slot => Sys2Proof.Machine.execSlotclear m slot s
  | .slotinit m qc wrappedKey => Sys2Proof.Machine.execSlotinit m qc wrappedKey s
  | .fwwrite m img => Sys2Proof.Machine.execFwwrite m img s
  | .fwactivate m image => Sys2Proof.Machine.execFwactivate m image s
  | .svnFloorRaise => Sys2Proof.Machine.execSvnFloorRaise s
  | .lifecycle m target auth => Sys2Proof.Machine.execLifecycle m target auth s
  | .provision idKey wrapKey serial cert => Sys2Proof.Machine.execProvision idKey wrapKey serial cert s
  | .reset m => Sys2Proof.Machine.execReset m s
  | .power m target cap opp => Sys2Proof.Machine.execPower m target cap opp s
  | .scan m die pos => Sys2Proof.Machine.execScan m die pos s
  | .spareScanTimer die pos => Sys2Proof.Machine.execSpareScanTimer die pos s
  | .scanComplete die pos pass pattern => Sys2Proof.Machine.execScanComplete die pos pass pattern s
  | .replay m job s0 s1 records => Sys2Proof.Machine.execReplay m job s0 s1 records s
  | .unfreeze m part => Sys2Proof.Machine.execUnfreeze m part s
  | .hello t slot nc => Sys2Proof.Machine.execHello t slot nc s
  | .response sid mac => Sys2Proof.Machine.execResponse sid mac s
  | .close m => Sys2Proof.Machine.execClose m s
  | .nop m upto => Sys2Proof.Machine.execNop m upto s
  | .sessionTimeout sid => Sys2Proof.Machine.execSessionTimeout sid s
  | .slotLockoutExpiry slot => Sys2Proof.Machine.execSlotLockoutExpiry slot s
  | .supplyRise fwVer => Sys2Proof.Machine.execSupplyRise fwVer s
  | .startUp west east => Sys2Proof.Machine.execStartUp west east s
  | .startTimeout late => Sys2Proof.Machine.execStartTimeout late s
  | .undervoltageReset => Sys2Proof.Machine.execUndervoltageReset s
  | .supplyFault mv => Sys2Proof.Machine.execSupplyFault mv s
  | .thermTrip sensor reading => Sys2Proof.Machine.execThermTrip sensor reading s
  | .resetLAssert half => Sys2Proof.Machine.execResetLAssert half s
  | .resetLRelease half => Sys2Proof.Machine.execResetLRelease half s
  | .pwrEnAssert half => Sys2Proof.Machine.execPwrEnAssert half s
  | .pwrEnDeassert half => Sys2Proof.Machine.execPwrEnDeassert half s
  | .coolantOkAssert half => Sys2Proof.Machine.execCoolantOkAssert half s
  | .coolantOkDeassert half => Sys2Proof.Machine.execCoolantOkDeassert half s
  | .coolantShutdown => Sys2Proof.Machine.execCoolantShutdown s
  | .fireflyWatchdog half => Sys2Proof.Machine.execFireflyWatchdog half s
  | .aoRefclkLoss half freq => Sys2Proof.Machine.execAoRefclkLoss half freq s
  | .strapChange half => Sys2Proof.Machine.execStrapChange half s
  | .perstL half => Sys2Proof.Machine.execPerstL half s
  | .capThrottle avg hottest under100ms => Sys2Proof.Machine.execCapThrottle avg hottest under100ms s
  | .thermalThrottle die temps cool1s => Sys2Proof.Machine.execThermalThrottle die temps cool1s s
  | .pllLock die => Sys2Proof.Machine.execPllLock die s
  | .pllFail die => Sys2Proof.Machine.execPllFail die s
  | .twinHeartbeat half path selfOk claimsLead => Sys2Proof.Machine.execTwinHeartbeat half path selfOk claimsLead s
  | .heartbeatPathLoss half path => Sys2Proof.Machine.execHeartbeatPathLoss half path s
  | .leadQuery rank half => Sys2Proof.Machine.execLeadQuery rank half s
  | .leadRuling rank => Sys2Proof.Machine.execLeadRuling rank s
  | .leadRulingReceipt half lead => Sys2Proof.Machine.execLeadRulingReceipt half lead s
  | .splitDefault half => Sys2Proof.Machine.execSplitDefault half s
  | .signalDetect port => Sys2Proof.Machine.execSignalDetect port s
  | .trainingComplete port lanes => Sys2Proof.Machine.execTrainingComplete port lanes s
  | .trainingTimeout port => Sys2Proof.Machine.execTrainingTimeout port s
  | .signalLoss port => Sys2Proof.Machine.execSignalLoss port s
  | .laneFailure port lane => Sys2Proof.Machine.execLaneFailure port lane s
  | .fecErrorBurst port => Sys2Proof.Machine.execFecErrorBurst port s
  | .linkSilence port => Sys2Proof.Machine.execLinkSilence port s
  | .failedRetryTimer port => Sys2Proof.Machine.execFailedRetryTimer port s
  | .beaconSend port => Sys2Proof.Machine.execBeaconSend port s
  | .beaconReceive port b => Sys2Proof.Machine.execBeaconReceive port b s
  | .frameReceive port f fec => Sys2Proof.Machine.execFrameReceive port f fec s
  | .linkAck lport lseq => Sys2Proof.Machine.execLinkAck lport lseq s
  | .linkNak lport lseq => Sys2Proof.Machine.execLinkNak lport lseq s
  | .linkCredit lport credits => Sys2Proof.Machine.execLinkCredit lport credits s
  | .ackTimer lport => Sys2Proof.Machine.execAckTimer lport s
  | .gapTimeout lport => Sys2Proof.Machine.execGapTimeout lport s
  | .resendTimeout lport => Sys2Proof.Machine.execResendTimeout lport s
  | .refuse lport lseq => Sys2Proof.Machine.execRefuse lport lseq s
  | .resume lport jslot drank => Sys2Proof.Machine.execResume lport jslot drank s
  | .managementResend id => Sys2Proof.Machine.execManagementResend id s
  | .neighbourReport r => Sys2Proof.Machine.execNeighbourReport r s
  | .placementVerdict place verdicts routes => Sys2Proof.Machine.execPlacementVerdict place verdicts routes s
  | .electStand => Sys2Proof.Machine.execElectStand s
  | .actingManager => Sys2Proof.Machine.execActingManager s
  | .offer hive mgrSerial qm cert sig => Sys2Proof.Machine.execOffer hive mgrSerial qm cert sig s
  | .admissionAccept serial qc cert wrapped sig => Sys2Proof.Machine.execAdmissionAccept serial qc cert wrapped sig s
  | .keyDelivery job jslot hiveKey wrapped => Sys2Proof.Machine.execKeyDelivery job jslot hiveKey wrapped s
  | .managerHeartbeat => Sys2Proof.Machine.execManagerHeartbeat s
  | .managerState jobs wrapped members => Sys2Proof.Machine.execManagerState jobs wrapped members s
  | .managerLoss => Sys2Proof.Machine.execManagerLoss s
  | .bridgeSegmentFailure segment => Sys2Proof.Machine.execBridgeSegmentFailure segment s
  | .aoRefclkReturn half => Sys2Proof.Machine.execAoRefclkReturn half s
  | .transportLoss t => Sys2Proof.Machine.execTransportLoss t s
  | .switchTime part => Sys2Proof.Machine.execSwitchTime part s
  | .scaleRecordArrival job rank part r => Sys2Proof.Machine.execScaleRecordArrival job rank part r s
  | .signedUnlock challenge sig => Sys2Proof.Machine.execSignedUnlock challenge sig s

end Sys2Proof.Machine
end

