-- ==== Sys2Proof/Safety.lean ====
section
/-! DEFINITION. What holds in every state a run reaches, in the terms the statements use. -/

namespace Sys2Proof.Machine

/-- Device memory is in its canonical form (log 3). -/
def State.memOk (s : State) : Prop := Memory.wf s.mem = true

/-- The one-time fuses only go forward: the life-cycle count of each control die and the SVN floor never decrease (13 R367,
R391), and the grade, the kinds of the physical positions and the absent units stay as manufactured (01 R31). -/
def Fuses.forward (f g : Fuses) : Prop :=
  f.lcsW ≤ g.lcsW ∧ f.lcsE ≤ g.lcsE ∧ f.svnFloor ≤ g.svnFloor ∧ g.gradeB = f.gradeB ∧ g.kinds = f.kinds ∧ g.absent = f.absent

/-- Nothing stands in the way of an access: no codeword of memory holds an error (07 R216), and no check point drops it as Zombie
traffic (09 R269, R270). -/
def State.clear (s : State) (who : Who) : Prop := s.errs = [] ∧ ∀ a, s.memDrop who a = none

/-- The stream takes core cycles (05 R140), is not idling or at CTL.OPEND (05 R156), and no stall cause of Table 5-3 holds before an
instruction for the queue of `eng` (none: a CTL instruction) that reads `need` bytes through the instruction port before it issues: in
this cycle the instruction at its program counter issues. -/
def State.turn (s : State) (i : StreamId) (eng : Option Engine) (need : Nat) : Prop :=
  s.runs i = true ∧ (s.stream i).idleLeft = 0 ∧ (s.stream i).phase = .none ∧ s.stallCause i eng need = 0

/-- The bytes a row's instruction reads through the instruction port before it issues: the descriptor of a STRM, and the word of SETC
and ADDC with SRC = 0b01 (05 R150). -/
def issueNeed (w : W128) (fam op : Nat) : Nat :=
  if ofRow w fam op = false then 0
  else match fam with
    | 0 => 128
    | 7 => if op = 5 ∨ op = 6 then opndNeed w else 0
    | _ => 0

/-- The program counter is in the stream image, and no loop back-edge past CTL.OPBEGIN would be taken (05 R162, R153). -/
def Stream.straight (st : Stream) : Prop := st.inImage st.pc = true ∧ st.edgeBad st.pc = false

/-! ### The rows that issue an instruction -/

/-- The CTL rows with their opcodes (06 Table 6-5). -/
def ctlRows : List ((StreamId → W128 → Instr) × Nat) :=
  [(.ctlNop, 0), (.ctlIdle, 1), (.ctlSeta, 2), (.ctlAdda, 3), (.ctlSets, 4), (.ctlSetc, 5), (.ctlAddc, 6), (.ctlLoop, 7), (.ctlBr, 8),
    (.ctlBrc, 9), (.ctlBrq, 10), (.ctlLdshape, 11), (.ctlStep, 12), (.ctlOpbegin, 13), (.ctlOpend, 14), (.ctlHalt, 15)]

/-- The rows of instructions that enter a queue, with family, opcode and engine (06 Tables 6-7 to 6-16). -/
def engineRows : List ((StreamId → W128 → Instr) × Nat × Nat × Engine) :=
  [(.strmCopy, 0, 0, .str), (.strmFill, 0, 1, .str), (.mma, 1, 0, .mx), (.vecFma, 2, 0, .vec), (.vecAdd, 2, 1, .vec),
    (.vecMul, 2, 2, .vec), (.vecMax, 2, 3, .vec), (.vecMin, 2, 4, .vec), (.vecCvt, 2, 5, .vec), (.vecNeg, 2, 6, .vec),
    (.vecAbs, 2, 7, .vec), (.vecAcc, 2, 8, .vec), (.vecSumsq, 2, 9, .vec), (.vecMoments, 2, 10, .vec), (.vecLwadd, 2, 11, .vec),
    (.vecLwld, 2, 12, .vec), (.vecLwst, 2, 13, .vec), (.vecLzero, 2, 16, .vec), (.vecLneg, 2, 17, .vec), (.vecLred, 2, 18, .vec),
    (.vecReanchor, 2, 19, .vec), (.vecFinish, 2, 24, .vec), (.pack, 3, 0, .pack), (.xchPut, 4, 0, .xch), (.xchMcast, 4, 1, .xch),
    (.xchReduce, 4, 2, .xch), (.xchGather, 4, 3, .xch), (.xchAllred, 4, 4, .xch), (.upd, 5, 0, .upd), (.synWait, 6, 0, .syn),
    (.synSet, 6, 1, .syn), (.synAdd, 6, 2, .syn), (.synFadd, 6, 3, .syn), (.synOpld, 6, 4, .syn), (.synGwait, 6, 5, .syn)]

/-- The 16-byte-aligned 128 bytes of a descriptor at an own-store address, as they are stored (06 R178, 07 R199). -/
def State.descAt (s : State) (key : Nat) (a : W64) : List Byte := (ownBytes key (a &&& ~~~(15 : W64)) 0 128).map s.rd8

/-- What a family asks of an instruction beyond its encoding: operand formats in force that pair (05 R160, 03 R83), a legal
descriptor (07 R202), a unit that is present and no open operation (06 R187, R189); formats in force that the opcode accepts (06 R172,
R180, R186). -/
def State.formOk (s : State) (i : StreamId) (w : W128) (fam op : Nat) : Prop :=
  let st := s.stream i
  match fam with
  | 0 =>
    let d := s.descAt (skey i) (st.areg (tAdesc w))
    ∃ f, st.operandFmt (bit w 56) (fld w 55 48) 0 = some f
      ∧ descOk d (if bit w 56 then fmtBytes f else ewBytes (dEw d)) (op == 1) = true
  | 1 =>
    ∃ a b, st.operandFmt (bit w 20) (fld w 19 12) (fld w 72 69) = some a ∧ st.operandFmt (bit w 11) (fld w 10 3) (fld w 68 65) = some b
      ∧ mmaForceBad w a b = false
      ∧ (s.fuse.gradeB = true → a ≠ 8 ∧ b ≠ 8 ∧ fld w 72 69 ≠ 8 ∧ fld w 68 65 ≠ 8)
  | 2 =>
    ∃ f, (if op ≤ 10 then st.operandFmt (bit w 21) (fld w 20 13) (fld w 79 76) else some (fld w 79 76)) = some f
      ∧ vecForceBad op f (if vecConverts op then st.outRung (vCcw w) else (0 : BitVec 4)).toNat = false
  | 4 => st.inop = false ∧ s.fuse.absent.contains (xchUnit i.die) = false
  | 5 =>
    st.inop = false ∧ ∀ u ∈ updUnits s.fuse.gradeB i.die (st.entry 0 0 w .upd { occ := 2 * uLen w * st.reps w, lat := 2 * uLen w * st.reps w + 400 }),
      s.fuse.absent.contains (updUnitWord u) = false
  | _ => True

/-- The address registers that an instruction with its increment flags advances (05 R149). -/
def Stream.incRegs (st : Stream) (w : W128) (fam op : Nat) : List Nat :=
  match fam with
  | 0 => (if bit w 58 then [tAsrc w] else []) ++ (if bit w 57 then [tAdst w] else [])
  | 1 => (if bit w 22 then [fld w 30 27] else []) ++ (if bit w 21 then [fld w 26 23] else [])
  | 2 =>
    let f := if op ≤ 10 then (st.operandFmt (bit w 21) (fld w 20 13) (fld w 79 76)).getD 0 else fld w 79 76
    let rung : BitVec 4 := if vecConverts op then st.outRung (vCcw w) else 0
    if vInc w && (decide (op ≤ 13) || op == 24) then vecRegs op (sbBlock f != 0 || sbBlock rung.toNat != 0) w else []
  | 3 => if bit w 53 then [fld w 61 58, fld w 57 54] else []
  | 4 => (if bit w 59 then [xAsrc w] else []) ++ (if bit w 58 then [xAdst w] else [])
  | 5 => updIncs w
  | _ => []

/-- An instruction issues: its turn has come, its word is one of the row's, it lies in the image, no further completion write is
the 17th (05 R155), its shape is within the planned maximum (08 R250), and its family's conditions hold. -/
def State.issues (s : State) (i : StreamId) (w : W128) (fam op : Nat) (eng : Engine) : Prop :=
  s.turn i (some eng) (issueNeed w fam op) ∧ ofRow w fam op = true ∧ (s.stream i).straight ∧ (s.stream i).shapeBad w = false
    ∧ ((s.stream i).inop = true → (hSig w && (s.stream i).reps w != 0 || fam == 6 && (op == 1 || op == 2) && !(s.stream i).skips w) = true →
        (s.stream i).writesFull = false)
    ∧ s.formOk i w fam op

/-- An instruction has entered its queue: an entry at the tail with everything captured at issue (05 R140), the incremented
registers advanced by n x S (05 R149), one cycle of stream time, the next address by the loop stack (05 R150), and nothing else
changed but the stream's timing and operation bookkeeping. The core cycle that the entry carries is the model's (log 17, DESIGN CHOICE). -/
def State.Entered (s t : State) (i : StreamId) (w : W128) (eng : Engine) (incs : List Nat) : Prop :=
  let st := s.stream i
  let st' := t.stream i
  (∃ e : QEntry, st'.queue eng = st.queue eng ++ [e] ∧ e.w = w ∧ e.eng = eng ∧ e.pc = st.pc ∧ e.cyc = (s.core (skey i)).cycleFor i.pass ∧ e.n = st.reps w ∧ e.skip = st.skips w
      ∧ e.a = st.a ∧ e.s = st.s ∧ e.c = st.c ∧ e.shape = st.shape ∧ e.step = st.step ∧ e.inop = st.inop ∧ e.opid = st.opid)
    ∧ (∀ x, x ≠ eng → st'.queue x = st.queue x)
    ∧ (∀ r, r < 16 → st'.areg r = if r ∈ incs then st.areg r + BitVec.ofNat 64 (st.reps w) * st.sreg r else st.areg r)
    ∧ st'.s = st.s ∧ st'.c = st.c ∧ st'.shape = st.shape ∧ st'.step = st.step ∧ st'.state = st.state
    ∧ (st'.pc, st'.loops) = loopNext st.pc st.loops ∧ st'.stime = st.stime + 1
    ∧ (∀ j, j.wf = true → j ≠ i → t.stream j = s.stream j) ∧ t = { s with cores := t.cores }

/-- A stream changes, and with it the cycle in which its core's instruction port is free again (05 R150). -/
def State.ported (s : State) (i : StreamId) (st : Stream) (port : Nat) : State :=
  (s.setStream i st).modCore (skey i) fun c => { c with portEnd := port }

/-- After an instruction that the sequencer itself executes: the stream goes on at `pc` with the loop stack `loops`, one cycle of
stream time later and not stalled, with what `f` changed; the instruction buffer and what is still to be read through the instruction
port may change (05 R150), and nothing else of the module does. -/
def State.Moves (s t : State) (i : StreamId) (pc : W64) (loops : List LoopEnt) (f : Stream → Stream) : Prop :=
  ∃ buf late left port, t = s.ported i
    { f (s.stream i) with
      pc := pc, loops := loops, stime := (s.stream i).stime + 1, cyc := (s.stream i).cyc + 1, stall := 0, asked := false, buf := buf
      portLate := late, portLeft := left } port

/-- The instruction falls through: the next address and the loop stack are those of 05 R150. -/
def State.Falls (s t : State) (i : StreamId) (f : Stream → Stream) : Prop :=
  s.Moves t i (loopNext (s.stream i).pc (s.stream i).loops).1 (loopNext (s.stream i).pc (s.stream i).loops).2 f

/-- `q` heads the queue of an engine in the one stream of its core that waits for it, and may start (05 R141, R145). -/
def State.soleHead (s : State) (i : StreamId) (e : Engine) (q : QEntry) (rest : List QEntry) : Prop :=
  (s.stream i).queue e = q :: rest ∧ (∀ p, p ≠ i.pass → (s.stream ⟨i.die, i.core, p⟩).queue e = []) ∧ s.canStart i q = true

/-- The stream after its queue's head has started. -/
def Stream.started (st : Stream) (e : Engine) (q : QEntry) (rest : List QEntry) (flags : Flags) (ready : Bool) : Stream :=
  { st with queues := st.queues.setIfInBounds (engIx e) rest, run := st.run ++ [{ q := q, flags := flags, ready := ready }] }

/-! ### Exact values as rational numbers (02 R63, 03 R88, R99) -/

/-- The number that an exact value is. -/
def Exact.rat (v : Exact) : ℚ := (if v.neg then -1 else 1) * v.mag * (2 : ℚ) ^ v.exp

/-- `k` is the nearest whole number to `x`, the even one of two (02 R63). -/
def nearestEven (k : Nat) (x : ℚ) : Prop := 2 * |(k : ℚ) - x| < 1 ∨ (2 * |(k : ℚ) - x| = 1 ∧ k % 2 = 0)

/-- An exact value holds the number `x`: 64 bits of it or more, and in its last bit whether anything lies below them (03 R99). -/
def Exact.holds (v : Exact) (x : ℚ) : Prop :=
  (x = 0 → v.mag = 0) ∧ (v.neg = true ↔ x < 0)
    ∧ (x ≠ 0 → 2 ^ 64 ≤ v.mag
      ∧ (v.mag % 2 = 0 → v.rat = x)
      ∧ (v.mag % 2 = 1 → ((v.mag : ℚ) - 1) * (2 : ℚ) ^ v.exp < |x| ∧ |x| < ((v.mag : ℚ) + 1) * (2 : ℚ) ^ v.exp))

/-- An exact value holds the square root of `x` in the same way (03 R99). -/
def Exact.holdsRoot (v : Exact) (x : ℚ) : Prop :=
  v.neg = false ∧ (x = 0 → v.mag = 0)
    ∧ (x ≠ 0 → 2 ^ 64 ≤ v.mag
      ∧ (v.mag % 2 = 0 → v.rat ^ 2 = x)
      ∧ (v.mag % 2 = 1 → (((v.mag : ℚ) - 1) * (2 : ℚ) ^ v.exp) ^ 2 < x ∧ x < (((v.mag : ℚ) + 1) * (2 : ℚ) ^ v.exp) ^ 2))

/-- An addend enters a long word: its value over the weight of the anchor, rounded down, modulo the adder's width, and Over where it
alone is too big; a NaN sets the tag (02 R60, 03 R78, R88). -/
def LW.takes (w : LW) (wide : Bool) (anchor : Int) (x : Option ℚ) : LW :=
  match x with
  | none => { w with nan := true }
  | some v =>
    let n := ⌊v / (2 : ℚ) ^ anchor⌋
    { n := (w.n + n).bmod (if wide then 2 ^ 536 else 2 ^ 280), nan := w.nan
      ovf := w.ovf || decide (n.natAbs > if wide then 2 ^ 511 - 1 else 2 ^ 255 - 1) }

/-- A product of two elements as a matrix addend: none for a NaN or an infinity; under FP32 the magnitude keeps its 32 leading bits (02
R59, 03 R86). -/
def pairRat (fp32 : Bool) (p : Elem × Elem) : Option ℚ :=
  match p with
  | (.fin x, .fin y) =>
    let m := x.mag * y.mag
    let t := Nat.log2 m - 31
    some ((if x.neg != y.neg then -1 else 1) * ((if fp32 then m / 2 ^ t * 2 ^ t else m : Nat) : ℚ) * (2 : ℚ) ^ (x.exp + y.exp))
  | _ => none

/-- The addend of a block of pairs: the sum of their products (03 R85). -/
def blockRat (fp32 : Bool) (ps : List (Elem × Elem)) : Option ℚ :=
  ps.foldr (fun p acc => (pairRat fp32 p).bind fun a => acc.map fun b => a + b) (some 0)

/-! ### What the vector engine computes (06 R185, R186) -/

/-- Bytes after writes; the last one to an address stands. -/
def overlay (rd : Nat → Byte) (ws : List (Nat × Byte)) : Nat → Byte := ws.foldl (fun m x a => if a = x.1 then x.2 else m a) rd

/-- The element of format `f` at byte `off` from an own-store address. -/
def elemAt (rd : Nat → Byte) (key f : Nat) (a : W64) (off : Nat) : Elem :=
  decodeElem (fmtP f) (leNat ((ownBytes key a off (fmtBytes f)).map rd))

/-- Lane `l` of the operand x of repetition `j`; CVT reads a scaled block with its scale byte (06 R186). -/
def laneX (rd : Nat → Byte) (key : Nat) (q : QEntry) (j l : Nat) : Elem :=
  let b := sbBlock q.fmtA
  let e := elemAt rd key q.fmtA (q.addr (vAx q.w) (vInc q.w) j) (l * fmtBytes q.fmtA)
  if b = 0 then e else scaleElem (rd (ownByte key (q.addr (vAy q.w) (vInc q.w) j) (l / b : Nat))).toNat e

/-- The value of lane `l` of repetition `j` (Table 6-9). -/
def laneVal (rd : Nat → Byte) (key : Nat) (q : QEntry) (j l : Nat) : OutVal :=
  let w := fmtBytes q.fmtA
  vecElem q.op (laneX rd key q j l)
    (elemAt rd key q.fmtA (q.addr (vAy q.w) (vInc q.w) j) (if bit q.w 42 then 0 else l * w))
    (elemAt rd key q.fmtA (q.addr (vAz q.w) (vInc q.w) j) (if bit q.w 41 then 0 else l * w))

/-- The word u of lane `l` of repetition `j` (02 R65, 06 R186). -/
def State.laneU (s : State) (key : Nat) (q : QEntry) (j l : Nat) : Nat :=
  if ccwRnd (vCcw q.w) = 1 then cicadaU (s.kslot key (ccwKslot (vCcw q.w))) 1 q.step (vIndexBase q + 64 * j + l) else 0

/-- What a repetition of an element opcode writes, and its flags: each lane's value, converted (02 R64, R74). -/
def State.laneOut (s : State) (key : Nat) (q : QEntry) (rd : Nat → Byte) (j : Nat) : List (Nat × Byte) × Flags :=
  let f := q.rung.toNat
  let nb := fmtBytes f
  let b := sbBlock f
  let sr := ccwRnd (vCcw q.w) == 1
  let v := laneVal rd key q j
  let u := s.laneU key q j
  let at_ := fun (l c : Nat) => (ownBytes key (q.addr (vAd q.w) (vInc q.w) j) (l * nb) nb).zip (leBytes nb c)
  if b = 0 then
    let o := fun l => convertOut (fmtP f) (v l) sr (u l)
    ((List.range 64).flatMap fun l => at_ l (o l).1, (List.range 64).foldl (fun acc l => acc.or (o l).2) {})
  else
    let o := fun g => convertBlock (fmtP f) ((List.range b).map fun t => v (b * g + t)) sr ((List.range b).map fun t => u (b * g + t))
    (((List.range 64).flatMap fun l => at_ l ((o (l / b)).2.1.getD (l % b) 0))
        ++ (List.range (64 / b)).map fun (g : Nat) => (ownByte key (q.addr (vAz q.w) (vInc q.w) j) g, BitVec.ofNat 8 (o g).1),
      (List.range (64 / b)).foldl (fun acc g => acc.or (o g).2.2) {})

/-- The bytes of memory and the flags after `n` repetitions of an element opcode. -/
def State.laneRun (s : State) (key : Nat) (q : QEntry) : Nat → (Nat → Byte) × Flags
  | 0 => (s.rd8, {})
  | n + 1 =>
    let m := s.laneRun key q n
    let o := s.laneOut key q m.1 n
    (overlay m.1 o.1, m.2.or o.2)

/-- A stored long word: its signed integer, or the NaN pattern (03 R77). -/
def storedAt (rd : Nat → Byte) (key : Nat) (a : W64) (l : Nat) : Option Int :=
  let v : W256 := BitVec.ofNat 256 (leNat ((ownBytes key a (32 * l) 32).map rd))
  if v = BitVec.ofNat 256 (2 ^ 255) then none else some v.toInt

/-- What FINISH makes of lane `l` (03 R98, R99). -/
def State.laneFin (s : State) (key : Nat) (q : QEntry) (l : Nat) : Nat × Flags :=
  let w := q.w
  let mode := fld w 79 76
  let n := if bit w 59 then leNat ((ownBytes key (q.areg (fld w 55 52)) 0 8).map s.rd8) else (q.creg (fld w 58 56)).toNat
  let s1 := (s.core key).slot (vSlot w) l
  let s2 := if mode = 1 then s1 else (s.core key).slot (vSlot w + 1) l
  let see := fun (x : LW) => { x with n := if q.wide then x.n else (BitVec.ofInt 256 x.n).toInt }
  let r := finish mode (see s1) (see s2) (vAnchor w) (if mode = 1 then vAnchor w else 2 * vAnchor w) n (finEps w)
  let o := finOut (fmtP q.rung.toNat) r (ccwRnd (vCcw w) == 1) (s.laneU key q 0 l)
  (o.1, o.2.or (wideFlag (if mode = 1 then [s2] else [s1, s2]) q.wide))

/-! ### The elements of a tile (02 R64, R74, 06 R184) -/

/-- The value of a tile's element, its word u and its code at the format in force; blocks of a scaled format lie along AXIS. -/
def tileVal (bk : Bank) (r c : Nat) : OutVal := (tget {} bk.lw (32 * r + c)).out bk.anchor bk.wide
def State.tileU (s : State) (key : Nat) (q : QEntry) (r c : Nat) : Nat :=
  if ccwRnd (pCcw q.w) = 1 then
    packDraw (s.kslot key (ccwKslot (pCcw q.w))) q.step ((s.part ((s.core key).part.getD 0xFF)).cols (pTid q.w)) (pRow q + r) (pCol q + c)
  else 0
/-- Block `g` of line `k` of a tile: its scale byte, its codes and its flags. -/
def State.tileBlock (s : State) (key : Nat) (q : QEntry) (bk : Bank) (k g : Nat) : Nat × List Nat × Flags :=
  let b := sbBlock q.rung.toNat
  let at_ := fun {α : Type} (f : Nat → Nat → α) (t : Nat) => if ccwAxis (pCcw q.w) = 0 then f k (b * g + t) else f (b * g + t) k
  convertBlock (fmtP q.rung.toNat) ((List.range b).map (at_ (tileVal bk))) (ccwRnd (pCcw q.w) == 1) ((List.range b).map (at_ (s.tileU key q)))
def State.tileCode (s : State) (key : Nat) (q : QEntry) (bk : Bank) (r c : Nat) : Nat :=
  let f := q.rung.toNat
  let b := sbBlock f
  if f = 9 then ((tget {} bk.lw (32 * r + c)).store bk.wide ((Config.freeValue (s.free + 32 * r + c)).setWidth 256)).1.toNat
  else if b = 0 then (convertOut (fmtP f) (tileVal bk r c) (ccwRnd (pCcw q.w) == 1) (s.tileU key q r c)).1
  else if ccwAxis (pCcw q.w) = 0 then (s.tileBlock key q bk r (c / b)).2.1.getD (c % b) 0
  else (s.tileBlock key q bk c (r / b)).2.1.getD (r % b) 0
/-- The scale byte at an offset from A[ASO]: along rows in the order of the rows, along columns 32 to each run of rows. -/
def State.tileScale (s : State) (key : Nat) (q : QEntry) (bk : Bank) (o : Nat) : Byte :=
  let b := sbBlock q.rung.toNat
  BitVec.ofNat 8 (if ccwAxis (pCcw q.w) = 0 then (s.tileBlock key q bk (o / (32 / b)) (o % (32 / b))).1
    else (s.tileBlock key q bk (o % 32) (o / 32)).1)

/-- The bytes of the core store that the tile of a PACK covers: its elements at A[AO] with its pitch, and the scale bytes of a
scaled-block format at A[ASO] (06 R184). -/
def tileBytes (key : Nat) (q : QEntry) (flow : Bool) : List Nat :=
  let rows := if flow then 64 else 32
  let nb := fmtBytes q.rung.toNat
  let b := sbBlock q.rung.toNat
  ((List.range rows).flatMap fun r => (List.range 32).flatMap fun c =>
      ownBytes key (q.areg (fld q.w 61 58)) (r * pPitch q.w + c * nb) nb)
    ++ if b = 0 then [] else (List.range (rows * 32 / b)).map fun o => ownByte key (q.areg (fld q.w 57 54)) o

/-- The rows of packets that the engine checks against the signature of their collective entry as they arrive, and all the rows of packets
that reach a die's exchange engine (09 Table 9-4, R277). -/
def signedRows (fs : List PhysFault) : List (Nat → Nat → XPkt → Instr) :=
  [fun d p x => .result d p ⟨x, fs⟩, fun d p x => .mcastPacket d p ⟨x, fs⟩, .mirror, .credit, .swarmAck, .drop, .repairreq, .repairnak]
def packetRows (fs : List PhysFault) : List (Nat → Nat → XPkt → Instr) :=
  [fun d p x => .putPacket d p ⟨x, fs⟩, fun d p x => .contrib d p ⟨x, fs⟩] ++ signedRows fs

/-- A packet may arrive at a die: none that has to come before it waits (01 R24, 09 R272, R275), the midline on its way has a bridge segment
(01 R25), and its partition is not saved out, but for a mirrored write (08 R255, 09 R294). -/
def State.nextPacket (s : State) (die part : Nat) (p : XPkt) : Prop :=
  s.mayTake die part p = true ∧ ((s.part part).saved = none ∨ p.kind = 4)

/-- A packet of a partition's open step and retry, with the signature of its collective entry (09 R274, R277). -/
def State.inStep (s : State) (part : Nat) (p : XPkt) : Prop :=
  p.step = (s.part part).openStep.setWidth 32 ∧ p.retry = (s.part part).retry
    ∧ (p.kind ≤ 1 ∨ p.sig = collSig ((s.coll part p.coll).getD []))

/-- The in-window bytes of a write at a device address: plain address and value. -/
def State.admitted (s : State) (part addr : Nat) (bs : List Byte) : List (Nat × Byte) :=
  ((s.dmaBytes part true addr bs.length).zip bs).filterMap fun x => match x.1.2 with | .inl p => some (p, x.2) | .inr _ => none

/-- The message number of a session moves to that of the message it takes (13 R385). -/
def State.noted (s : State) (m : CmdHdr) : State :=
  s.modSec fun x => { x with sessions := x.sessions.map fun y => if y.sid = m.sid then { y with lastIn := m.seq } else y }

/-- A session takes a command that the shell turns away: the message number moves, and nothing of an image that a LOAD brings is kept. -/
def State.turnedAway (s : State) (c : Instr) (m : CmdHdr) : State :=
  (s.noted m).modSec fun x => { x with sessions := x.sessions.map fun y =>
    if y.sid = m.sid then { y with image := match c with | .load _ _ => [] | _ => y.image } else y }

/-- A command's REPLY with a status and bytes (13 R385). -/
def State.reply (s : State) (m : CmdHdr) (st : Byte) (data : List Byte := []) : State :=
  s.say { sid := m.sid, type := 5, seq := m.seq, status := st, data := data }

/-- A session takes a command and the shell lets it through (13 R385). -/
def State.admits (s : State) (m : CmdHdr) (c : CmdKind) (k : Session) : Prop :=
  s.sessionOf m = some k ∧ codeUnlisted m = false ∧ s.gateCmd k c = none

/-- A switch has put `p` on the module in the place of `q` (08 R257). -/
def State.Switched (t : State) (p q : Nat) : Prop :=
  (t.part p).resident = true ∧ (t.part p).saved = none ∧ (t.part q).resident = false ∧ (t.part q).saved.isSome = true

/-- The session commands, each with its header and its place in the tables: least role, the life-cycle states that serve it, and
whether it is served while RESET_L is held and with both halves failed (13 Tables 13-1 and 13-5, 14 R403, R404; 15 R419 and log 158,
DEDUCED, for a clear of the latches). -/
def State.sessionKind (s : State) (c : Instr) : Option (CmdHdr × CmdKind) :=
  match c with
  | .ident m => some (m, { role := 2, states := [1, 2, 3, 4], held := true, failed := true })
  | .attest m _ => some (m, { role := 2, states := [1, 2, 3], held := true })
  | .evread m _ _ => some (m, { role := 2, states := [2], held := true, failed := true })
  | .rdreg m _ | .subscribe m _ | .health m => some (m, heldCmd 2)
  | .capread m _ _ _ => some (m, fieldCmd 2)
  | .wrreg m a _ => some (m, s.wrregKind a)
  | .svclatClear m _ _ => some (m, s.latchKind)
  | .scanctlGo m _ | .capunpin m _ _ | .load m _ | .release m _ | .reset m | .scan m _ _
  | .replay m _ _ _ _ | .unfreeze m _ => some (m, fieldCmd 1)
  | .power m _ _ _ => some (m, { role := 1, states := [2] })
  | .hivemap m _ | .hivejoin m _ _ | .slotset m _ _ _ | .slotclear m _ | .fwwrite m _ | .fwactivate m _ => some (m, fieldCmd 0)
  | .lifecycle m _ _ => some (m, { role := 0, states := [2, 3] })
  | .slotinit m _ _ => some (m, { role := 0, states := [1] })
  | _ => none

/-- The messages of a session, in the order of its queue, that a run adds. -/
def State.says (s t : State) (os : List SessOut) : Prop := t.sec.out = (os.foldl (fun (s : State) o => s.say o) s).sec.out

/-- The bytes of the descriptor rings of the die stores (07 R211). -/
def inRing (a : Nat) : Prop := ∃ die ch slot k, ch < 32 ∧ slot < 512 ∧ k < 64 ∧ a = slotAddr die ch slot + k

/-- The in-window bytes of the tensors that an UPD writes for some of its elements: parameter, moments and residual (06 R189, R190). -/
def State.updBytes (s : State) (part : Nat) (q : QEntry) (es : List (Nat × Nat × Nat)) : List Nat :=
  let w := q.w
  let dst := fun (a n : Nat) => inWindow (s.dmaBytes part true a n)
  es.flatMap fun x =>
    let at_ := fun (r n : Nat) => ((q.addr r (bit w 52) x.1).toNat + x.2.1 * n) % 2 ^ 64
    let wm := fmtBytes (uFmtM w)
    dst x.2.2 (fmtBytes (uFmtP w)) ++ (if uHasM w then dst (at_ (fld w 68 65) wm) wm else [])
      ++ (if uHasV w then dst (at_ (fld w 64 61) wm) wm else []) ++ (if uHasR w then dst (at_ (fld w 60 57) 2) 2 else [])

/-- The positions of a register word that a session writes; a write takes every other position as zero (00 R18, 04 Table 4-10, 07
Tables 7-8 and 7-14, 09 Tables 9-8 and 9-13 to 9-15, 10 Table 10-6, 11 Table 11-7, 12 Table 12-8, 13 Table 13-9, 14 Tables 14-8 and
14-9, 15 Tables 15-10 and 15-11; log 36). -/
def writableBits (r : RegAt) : W64 :=
  match r with
  | .core _ 0x1008 => 0x6
  | .core _ 0x2000 => 0xE
  | .core _ 0x2008 => 0xFF
  | .die _ 0x00020 => 0xFFFF01
  | .die _ 0x10000 => 0x1E
  | .die _ 0x10008 => 0xFFFFF
  | .die _ 0x10010 => 0xFFFF
  | .die _ 0x20000 => 0xE
  | .die _ 0x30000 => 0xE
  | .ctl _ o =>
    match o / 0x100000 with
    | 0 => 0x6
    | 1 => if o % 0x10000 = 0 then 0x30 else 0xFFFFFF01
    | 2 =>
      match o % 0x100000 with
      | 0x1000 => 0x6
      | 0x1018 => 0xFFFF
      | 0x1028 => 0x8F7FFF00
      | 0x2008 => 0x7
      | 0x2010 => 0x40000000
      | _ => 0xFF000007
    | 3 => if o % 0x100000 = 0x028 then 0xFFFFFFFFFF01FFFF else 0xFFFF
    | _ => if o % 0x100000 = 0x008 then 0xFFFF else 0xC0
  | _ => 0

end Sys2Proof.Machine
end

