-- ==== Sys2Proof/Certificates/Slice0/Obligations.lean ====
section
/-! DEFINITION. What is stated about the model for the provers. A docstring names the rules of spec/ that a statement formalises, or the
log entry (log n) of a choice of the model that it rests on. -/

open Sys2Proof Sys2Proof.Machine

/-- A step takes the command at the front of the queue and runs it on the state with the queue's rest (log 1). On an empty queue
one cycle of 20 ns of the Firefly domain passes, while one is up, and nothing else changes (log 2; 14 R410). -/
def Obligations.StepRunsTheFrontCommand : Prop :=
  (∀ (s : State) (c : Instr) (rest : List Instr), s.pending = c :: rest → step s = exec c { s with pending := rest })
  ∧ ∀ s : State, s.pending = [] →
      step s = .next (if s.ff0.up || s.ff1.up then { s with pwr := { s.pwr with ffTime := s.pwr.ffTime + 20 } } else s)

/-- Every command is answered with a next state: nothing stops the module (05 R162; log 12). A command changes nothing of the
queue of commands: step alone takes one off (log 1). -/
def Obligations.EveryCommandIsAnswered : Prop :=
  (∀ (c : Instr) (s : State), ∃ t, exec c s = .next t)
  ∧ ∀ (c : Instr) (s t : State), exec c s = .next t → t.pending = s.pending

/-- Every step keeps the canonical form of device memory, in which equal memories are equal data (log 3). -/
def Obligations.StepKeepsMemoryCanonical : Prop :=
  ∀ s t : State, s.memOk → step s = .next t → t.memOk

/-- Reset leaves device memory canonical, with nothing listed, and no command waiting. That an unlisted byte reads as zero, and which reset
this is, are logs 3 and 5. -/
def Obligations.ResetMemoryIsCanonical : Prop :=
  State.reset.memOk ∧ State.reset.mem = [] ∧ State.reset.pending = []

/-- The fuse counts of the life cycle and the SVN floor only increase over a step, and the grade, the kinds of the physical
positions and the absent units stay as they are (13 R367, R390; 01 R31). -/
def Obligations.FusesOnlyGoForward : Prop :=
  ∀ s t : State, step s = .next t → s.fuse.forward t.fuse

/-- A stream that is not RUNNING, or whose core is not ON, takes no core cycle: an issue command leaves the state as it is (05 R140, 14
R396). While a stall cause holds, the instruction does not issue: SEQ_STALL shows the lowest cause and SEQ_STALLS counts the cycle, in
which the reads at the instruction port go on (05 R142, R150, R165); when the port serves which stream is the model's choice (log 134).
What SYNC and FETCH stalls are is read as logs 74, 75 and 102 say. -/
def Obligations.StreamsIssueOnlyInTheirTurn : Prop :=
  (∀ (s : State) (i : StreamId) (w : W128), s.runs i = false →
     (∀ r ∈ engineRows, exec (r.1 i w) s = .next s) ∧ (∀ r ∈ ctlRows, exec (r.1 i w) s = .next s))
  ∧ ∀ (s : State) (i : StreamId) (w : W128), s.runs i = true → (s.stream i).idleLeft = 0 → (s.stream i).phase = .none →
      let stalls := fun (c : Instr) (cause : Nat) => cause ≠ 0 →
        let st := s.stream i
        ∃ asked late left port, exec c s = .next (s.ported i
          { st with stall := cause, stalls := st.stalls + 1, cyc := st.cyc + 1, asked := asked, portLate := late, portLeft := left } port)
      (∀ r ∈ engineRows, stalls (r.1 i w) (s.stallCause i (some r.2.2.2) (issueNeed w r.2.1 r.2.2.1)))
        ∧ (∀ r ∈ ctlRows, stalls (r.1 i w) (s.stallCause i none (issueNeed w 7 r.2)))

/-- An engine instruction that meets no fault enters its queue with every register operand captured (05 R140, R149). That its entry carries
the core cycle of the stream's turn as the model numbers it is the model's choice (log 17). Fields that a form does not use are not
checked (log 18). -/
def Obligations.EngineInstructionsEnterTheirQueue : Prop :=
  ∀ (s : State) (i : StreamId) (w : W128), i.wf = true → s.clear (s.whoNow i) → ∀ r ∈ engineRows, s.issues i w r.2.1 r.2.2.1 r.2.2.2 →
    ∃ t, exec (r.1 i w) s = .next t ∧ s.Entered t i w r.2.2.2 ((s.stream i).incRegs w r.2.1 r.2.2.1)

/-- A word that is no instruction of the row is an Encoding fault: the stream becomes HALTED with the cause, the queue of the family in the
word and the address in its registers, its withheld writes are discarded, and it posts a Stream-fault record; nothing is queued and no
register changes (05 R162, 06 R172). A word picks its row by family and opcode, and picks no other (06 R168). That a word which a
command gives under another row than its own is such a fault is the model's choice (log 1). Which combinations of fields are no
instruction follows log 18 where the rules give none. -/
def Obligations.EncodingFaultHaltsTheStream : Prop :=
  (∀ (i : StreamId) (w : W128),
     (∀ r ∈ engineRows, ofRow w r.2.1 r.2.2.1 = true → issueRow i w = some (r.1 i w))
       ∧ (∀ r ∈ ctlRows, ofRow w 7 r.2 = true → issueRow i w = some (r.1 i w))
       ∧ ∀ c, issueRow i w = some c → (∃ r ∈ engineRows, c = r.1 i w ∧ hFam w = r.2.1 ∧ hOp w = r.2.2.1)
           ∨ ∃ r ∈ ctlRows, c = r.1 i w ∧ hFam w = 7 ∧ hOp w = r.2)
  ∧ ∀ (s : State) (i : StreamId) (w : W128),
    let st := s.stream i
    let s1 := s.setStream i
      { st with state := .halted, stall := 0, fault := 1, faultQ := if hFam w = 7 then 0xF else hFam w, fpc := st.pc, wbuf := [] }
    let t := s1.post (s1.coreEv i 0 0x06 1 st.step st.pc (if st.inop then st.attempt else 0) 0)
    (∀ r ∈ engineRows, s.turn i (some r.2.2.2) 0 → ofRow w r.2.1 r.2.2.1 = false → exec (r.1 i w) s = .next t)
      ∧ (∀ r ∈ ctlRows, s.turn i none 0 → ofRow w 7 r.2 = false → exec (r.1 i w) s = .next t)

/-- NOP changes no register; SETA, ADDA and SETS write the named register alone, with IMM or, where SRC asks for it, C[CM] x IMM,
added modulo 2^64 by ADDA (06 R176, R177). SETC writes, and ADDC adds modulo 2^32, the operand of the three sources: IMM, the
aligned little-endian word of the own core store at A[AN] + IMM (where the access is clear), or C[CM] x IMM; no other register
changes (06 R177). -/
def Obligations.RegisterInstructionsWriteOneRegister : Prop :=
  (∀ (s : State) (i : StreamId) (w : W128), s.turn i none 0 → (s.stream i).straight →
     let n := fld w 77 74
     let imm : W64 := BitVec.ofNat 64 (fld w 63 0)
     let v := fun (x : Stream) => if fld w 79 78 = 0 then imm else (x.creg (fld w 69 67)).setWidth 64 * imm
     (ofRow w 7 0 = true → ∃ t, exec (.ctlNop i w) s = .next t ∧ s.Falls t i id)
       ∧ (ofRow w 7 2 = true → ∃ t, exec (.ctlSeta i w) s = .next t ∧ s.Falls t i fun x => { x with a := x.a.setIfInBounds n (v x) })
       ∧ (ofRow w 7 3 = true →
           ∃ t, exec (.ctlAdda i w) s = .next t ∧ s.Falls t i fun x => { x with a := x.a.setIfInBounds n (x.areg n + v x) })
       ∧ (ofRow w 7 4 = true → ∃ t, exec (.ctlSets i w) s = .next t ∧ s.Falls t i fun x => { x with s := x.s.setIfInBounds n imm }))
  ∧ ∀ (s : State) (i : StreamId) (w : W128), s.turn i none (opndNeed w) → (s.stream i).straight →
      (fld w 79 78 = 1 → s.clear (s.whoNow i)) →
      let n := fld w 77 74
      let imm : W32 := BitVec.ofNat 32 (fld w 31 0)
      let v := fun (x : Stream) => match fld w 79 78 with
        | 0 => imm
        | 1 => BitVec.ofNat 32 (leNat ((ownBytes (skey i) ((x.areg (fld w 73 70) + imm.signExtend 64) &&& ~~~(3 : W64)) 0 4).map s.rd8))
        | _ => x.creg (fld w 69 67) * imm
      (ofRow w 7 5 = true → ∃ t, exec (.ctlSetc i w) s = .next t ∧ s.Falls t i fun x => { x with c := x.c.setIfInBounds n (v x) })
        ∧ (ofRow w 7 6 = true →
            ∃ t, exec (.ctlAddc i w) s = .next t ∧ s.Falls t i fun x => { x with c := x.c.setIfInBounds n (x.creg n + v x) })

/-- Between instructions: without a loop that ends at `last` the next address is the next word, and at the last instruction of the
innermost loop its count decides whether the stream goes back to the body's start or on, with the entry popped (05 R150). LOOP at
count 0 goes on after the body of L words; otherwise it pushes the body, its length and its count and goes on at the next word, or
faults with cause Loop where four entries lie on the stack (05 R150, 06 R177). A branch that is taken goes to its own address + 16
x OFF with the loop stack as it is, where it is the last body instruction too, which is the model's choice (log 101), and one that is
not taken falls through: BR is always taken, BRC by its comparison of C[CN] with IMM, BRQ while the queue holds at least N instructions. A taken branch out of the image or the innermost loop body, or back past
CTL.OPBEGIN, and a loop back-edge past CTL.OPBEGIN are Sequence faults (05 R150, R153, 06 R177). -/
def Obligations.LoopsAndBranchesDecideTheNextAddress : Prop :=
  (∀ (last : W64) (e : LoopEnt) (rest : List LoopEnt),
     loopNext last [] = (last + 16, [])
       ∧ (last ≠ e.start + BitVec.ofNat 64 (16 * (e.len - 1)) → loopNext last (e :: rest) = (last + 16, e :: rest))
       ∧ (last = e.start + BitVec.ofNat 64 (16 * (e.len - 1)) → 1 < e.count.toNat →
           loopNext last (e :: rest) = (e.start, { e with count := e.count - 1 } :: rest))
       ∧ (last = e.start + BitVec.ofNat 64 (16 * (e.len - 1)) → e.count.toNat ≤ 1 → loopNext last (e :: rest) = loopNext last rest))
  ∧ (∀ (s : State) (i : StreamId) (w : W128), s.turn i none 0 → ofRow w 7 7 = true → (s.stream i).inImage (s.stream i).pc = true →
       let st := s.stream i
       let count : W32 := if bit w 79 then st.creg (fld w 78 76) else BitVec.ofNat 32 (fld w 31 0)
       let len := fld w 75 64 + 1
       let last := st.pc + BitVec.ofNat 64 (16 * len)
       (count = 0 → st.edgeBad last = false →
           ∃ t, exec (.ctlLoop i w) s = .next t ∧ s.Moves t i (loopNext last st.loops).1 (loopNext last st.loops).2 id)
         ∧ (count = 0 → st.edgeBad last = true → exec (.ctlLoop i w) s = .next (s.streamFault i 2 0xF st.pc none))
         ∧ (count ≠ 0 → st.loops.length < 4 →
             ∃ t, exec (.ctlLoop i w) s = .next t ∧ s.Moves t i (st.pc + 16) (⟨st.pc + 16, len, count⟩ :: st.loops) id)
         ∧ (count ≠ 0 → 4 ≤ st.loops.length → exec (.ctlLoop i w) s = .next (s.streamFault i 3 0xF st.pc none)))
  ∧ ∀ (s : State) (i : StreamId) (w : W128), s.turn i none 0 → (s.stream i).inImage (s.stream i).pc = true →
      let st := s.stream i
      let target := st.pc + BitVec.ofInt 64 (16 * (BitVec.ofNat 24 (fld w 23 0)).toInt)
      let does := fun (c : Instr) (taken : Bool) =>
        (taken = true → st.branchBad target = false → ∃ t, exec c s = .next t ∧ s.Moves t i target st.loops id)
          ∧ (taken = true → st.branchBad target = true → exec c s = .next (s.streamFault i 2 0xF st.pc none))
          ∧ (taken = false → st.edgeBad st.pc = false → ∃ t, exec c s = .next t ∧ s.Falls t i id)
          ∧ (taken = false → st.edgeBad st.pc = true → exec c s = .next (s.streamFault i 2 0xF st.pc none))
      let c := st.creg (fld w 78 76)
      let u : W32 := BitVec.ofNat 32 (fld w 55 24)
      (ofRow w 7 8 = true → does (.ctlBr i w) true)
        ∧ (ofRow w 7 9 = true → does (.ctlBrc i w)
            (match fld w 75 73 with | 0 => c == u | 1 => c != u | 2 => decide (c.toNat < u.toNat) | _ => decide (u.toNat ≤ c.toNat)))
        ∧ (ofRow w 7 10 = true → does (.ctlBrq i w) (decide (fld w 75 71 ≤ (st.queues.getD (fld w 78 76) []).length)))

/-- IDLE takes IMM + 1 cycles: stream time advances up to the next due point of the stream, or by all of them where none comes before;
then the instruction goes on with the rest, and after the last cycle to the next instruction (05 R140, R142, 06 Table 6-5; one command for
the cycles up to a due point is the model's choice, log 19).
LDSHAPE reads four little-endian lengths of the own core store into SEQ_SHAPE and a SHAPE record of its partition shows them, whose
layout is the model's choice (log 20); a length beyond its planned maximum is a Shape fault that leaves SEQ_SHAPE (05 R151, 08 R250). STEP adds one to SEQ_STEP, clears the
operation table and saves a mark of the registers, the loop stack, the next address, the step and the verdict groups, of which the
newest two stay (05 R152, 12 R350). OPBEGIN opens attempt 0 of an operation with its verdict group, its participants and the rung of its
OPS record, takes the snapshot of the registers, the loop stack and the next address, and starts with no flags, no withheld writes and no
converting instruction seen (05 R153 to R155; that the record gives the rung is the model's reading, log 108). LDSHAPE, STEP and OPBEGIN inside an operation, and OPEND outside one, are
Sequence faults. OPEND closes the attempt, and the stream stays there: it stalls with cause OPEND once every instruction of the attempt
has retired, or with a cause of a lower code that holds too (05 R142, R165). HALT ends the stream in HALTED with cause none (05 R153,
R156, Table 5-4) at the next address, which is the model's reading (log 88). -/
def Obligations.StreamControlChangesItsStream : Prop :=
  (∀ (s : State) (i : StreamId) (w : W128), s.runs i = true → (s.stream i).phase = .none → s.stallCause i none 0 = 0 →
     ((s.stream i).idleLeft = 0 → ofRow w 7 1 = true ∧ (s.stream i).straight) →
     let st := s.stream i
     let n := if st.idleLeft = 0 then fld w 15 0 + 1 else st.idleLeft
     let k := match st.nextDue with
       | some d => min n (d - st.stime.toNat)
       | none => n
     ∃ u port, exec (.ctlIdle i w) s = .next (s.ported i u port)
       ∧ u.stime = st.stime + BitVec.ofNat 64 k ∧ u.idleLeft = n - k
       ∧ (u.pc, u.loops) = (if k = n then loopNext st.pc st.loops else (st.pc, st.loops))
       ∧ u = { st with
           pc := u.pc, loops := u.loops, stime := u.stime, cyc := u.cyc, idleLeft := u.idleLeft, stall := 0, asked := u.asked, buf := u.buf
           portLate := u.portLate, portLeft := u.portLeft })
  ∧ (∀ (s : State) (i : StreamId) (w : W128), s.turn i none 0 → (s.stream i).straight → ofRow w 7 11 = true →
       s.clear (s.whoNow i) →
       let st := s.stream i
       let bytes := (ownBytes (skey i) ((st.areg (fld w 73 70) + (BitVec.ofNat 32 (fld w 31 0) : W32).signExtend 64) &&& ~~~(15 : W64)) 0 16).map s.rd8
       let d : Vector W32 4 := Vector.ofFn fun k => BitVec.ofNat 32 (recNat bytes (4 * k) 4)
       let fits := ∀ k, k < 4 → d.getD k 0 ≤ st.smax.getD k 0
       (st.inop = false → fits → ∃ t, s.Falls t i (fun x => { x with shape := d }) ∧
           exec (.ctlLdshape i w) s = .next ((match (s.core (skey i)).part with
             | some p => t.record (halfOfDie i.die) 6 p st.step (shapeBody i st.pc d)
             | none => t).portJump i))
         ∧ (st.inop = false → ¬ fits → exec (.ctlLdshape i w) s = .next (s.streamFault i 5 0xF st.pc none))
         ∧ (st.inop = true → exec (.ctlLdshape i w) s = .next (s.streamFault i 2 0xF st.pc none)))
  ∧ (∀ (s : State) (i : StreamId) (w : W128), s.turn i none 0 → (s.stream i).straight → ofRow w 7 12 = true →
       let st := s.stream i
       let next := loopNext st.pc st.loops
       let m : Mark := { a := st.a, s := st.s, c := st.c, loops := next.2, pc := next.1, step := st.step + 1, groups := st.groups }
       (st.inop = false → ∃ t, exec (.ctlStep i w) s = .next t
           ∧ s.Falls t i fun x => { x with step := x.step + 1, optab := [], marks := (m :: x.marks).take 2 })
         ∧ (st.inop = true → exec (.ctlStep i w) s = .next (s.streamFault i 2 0xF st.pc none)))
  ∧ (∀ (s : State) (i : StreamId) (w : W128), s.turn i none 0 → (s.stream i).straight → ofRow w 7 13 = true →
       let st := s.stream i
       let next := loopNext st.pc st.loops
       (st.inop = true → exec (.ctlOpbegin i w) s = .next (s.streamFault i 2 0xF st.pc none))
         ∧ (st.inop = false → ∃ t, exec (.ctlOpbegin i w) s = .next t ∧ s.Falls t i fun x =>
             { x with
               inop := true, opid := BitVec.ofNat 8 (fld w 79 72), opG := fld w 71 55, opN := fld w 54 35, attempt := 0
               rung := BitVec.ofNat 4 (((s.opCcw i (fld w 79 72)).map ccwFmt).getD 0), wide := false, chained := false, chout := false
               opFlags := {}, opPol := 0, opCeil := 0, opConv := false, opLadder := 0, opScale := 0, mismatch := false, wbuf := [], tileOrd := 0
               snap := some ⟨st.a, st.s, st.c, next.2, next.1⟩ }))
  ∧ ∀ (s : State) (i : StreamId) (w : W128), (s.stream i).inImage (s.stream i).pc = true →
      let st := s.stream i
      (s.turn i none 0 → ofRow w 7 14 = true → st.inop = true →
          exec (.ctlOpend i w) s = .next (s.setStream i { st with phase := .ended, stime := st.stime + 1, cyc := st.cyc + 1, stall := 0 }))
        ∧ (s.turn i none 0 → ofRow w 7 14 = true → st.inop = false → exec (.ctlOpend i w) s = .next (s.streamFault i 2 0xF st.pc none))
        ∧ (s.runs i = true → st.phase ≠ .none → st.attemptDue = false → st.attemptLeft = [] → ∃ asked late left,
            exec (.ctlOpend i w) s = .next (s.setStream i
              { st with stall := (if s.stallCause i none 0 = 0 then 6 else s.stallCause i none 0), stalls := st.stalls + 1, cyc := st.cyc + 1, asked := asked, portLate := late, portLeft := left }))
        ∧ (s.turn i none 0 → ofRow w 7 15 = true →
            ∃ t, exec (.ctlHalt i w) s = .next t ∧ s.Falls t i fun x => { x with state := .halted, fault := 0 })

/-- A SYN.SET or SYN.ADD that starts sends its operation, with the step it was issued under and the core's epoch, to the control die of its
object; inside an operation the write is withheld in issue order instead. Nothing else changes but that it leaves its queue (05 R155, 06
R191, 09 R260, R269). A completing instruction of the stream, sync, matrix or update engine leaves the running instructions, frees its
context, and where SIG is set and it has repetitions makes its completion write of 1: a SET to a FLAG and an ADD to a COUNT, withheld
inside an operation (05 R155, R163, 06 R170, 07 R207). A completing instruction of any engine leaves the running instructions and
changes no memory. The other starts of the sync engine: WAIT and GWAIT at the head of their queue start once satisfied and not before,
and GWAIT gives the value that satisfied it at A[AOUT], little-endian; FADD sends its request with the address of its answer, inside an
operation too; OPLD enters the object's value into the operation table (06 R191, R192, 09 R261, R263), where no access of the core to
the object is dropped. An XCH that starts forms its descriptors, in order, behind those of its core's channel: those of a PUT have its
source, destination and rank, those of an MCAST 64 elements each, those of REDUCE and ALLRED 64 long words for the owner of their chunk,
GATHER has none; a skipped one sends the same packets, a PUT or MCAST a single one, without data (07 R213, 09 R275, R279, R285, R289,
R290; channel, packet length and the numbers of an MCAST are the model's choice, log 22); no byte of memory outside the rings changes. A
range outside the collective's elements is a Collective fault of code 9 and forms none (09 R279, R292; log 61). Start and completion are
commands of their own (log 9). -/
def Obligations.WritesGoToTheirControlDie : Prop :=
  (∀ (s : State) (i : StreamId) (q : QEntry) (rest : List QEntry), i.wf = true → s.soleHead i .syn q rest → q.skip = false →
     (q.op = 1 ∨ q.op = 2) → q.eng = .syn →
     let c := s.core (skey i)
     let r : SyncReq :=
       { obj := fld q.w 79 63, kind := if q.op = 1 then .set else .add, value := synValue q, step := q.step, epoch := c.epoch
         part := c.part.getD 0xFF, unit := s.unitCore (skey i) 0, src := some i, srcId := q.id, link := false }
     let st := (s.stream i).started .syn q rest {} true
     let half := if fld q.w 79 63 < 65536 then 0 else 1
     (q.inop = false → exec (.instructionStart ⟨i.die, i.core⟩ .syn []) s
         = .next ((s.setStream i { st with sat := none }).modSyn half fun h => { h with net := h.net ++ [r] }))
       ∧ (q.inop = true → (s.stream i).inop = true → (s.stream i).state ≠ .halted →
           exec (.instructionStart ⟨i.die, i.core⟩ .syn []) s = .next (s.setStream i { st with sat := none, wbuf := withhold r (s.stream i).wbuf })))
  ∧ (∀ (s : State) (i : StreamId) (e : Engine) (r : Running) (rest : List Running), i.wf = true → (s.stream i).run = r :: rest →
      r.q.eng = e → r.ready = true → s.engineRuns i = true → (e = .pack → (s.core (skey i)).writeFree r.q = true) →
      (e = .str ∨ e = .mx → ∀ x ∈ rest, x.q.eng = e → x.ready = true) →
      let c := s.core (skey i)
      let w : SyncReq :=
        { obj := hSobj r.q.w, kind := if (s.obj (hSobj r.q.w)).type = .flag then .set else .add, value := 1, step := r.q.step, epoch := c.epoch
          part := c.part.getD 0xFF, unit := s.unitCore (skey i) 0, src := some i, srcId := r.q.id, link := false }
      let s1 := (s.setStream i { s.stream i with run := rest }).modCore (skey i) fun c =>
        { c with ctxs := c.ctxs.filter fun x => !(e == .str && x.2 == r.q.id) }
      let signals := hSig r.q.w = true ∧ r.q.n ≠ 0
      (∃ t, exec (.instructionComplete i e) s = .next t ∧ (t.stream i).run = rest ∧ t.mem = s.mem)
        ∧ (e = .str ∨ e = .syn ∨ e = .mx ∨ e = .upd →
          (¬ signals → exec (.instructionComplete i e) s = .next s1)
            ∧ (signals → r.q.inop = false →
                exec (.instructionComplete i e) s = .next (s1.modSyn (halfOfObj (hSobj r.q.w)) fun h => { h with net := h.net ++ [w] }))
            ∧ (signals → r.q.inop = true → (s.stream i).inop = true → (s.stream i).state ≠ .halted →
                exec (.instructionComplete i e) s = .next (s1.modStream i fun st => { st with wbuf := withhold w st.wbuf }))))
  ∧ (∀ (s : State) (i : StreamId) (q : QEntry) (rest : List QEntry), i.wf = true → s.soleHead i .syn q rest → q.eng = .syn → q.skip = false →
      s.synDenied (skey i) (fld q.w 79 63) = false → s.objReached i (fld q.w 79 63) = true →
      let x := fld q.w 79 63
      let o := s.obj x
      let c := s.core (skey i)
      let st := fun (ready : Bool) => { (s.stream i).started .syn q rest {} ready with sat := none }
      let start := exec (.instructionStart ⟨i.die, i.core⟩ .syn []) s
      let met := (s.stream i).sat.map (·.1) = some q.id ∨ (if q.op = 5 then gateRules o.value q.step else waitCond (fld q.w 62 60) o.value (synValue q)) = true
      ((q.op = 0 ∨ q.op = 5) → ¬ met → start = .next s)
        ∧ (q.op = 0 → met → start = .next (s.setStream i (st true)))
        ∧ (q.op = 5 → met → s.clear (s.whoOf i q) → s.memOk →
            let v := match (s.stream i).sat with | some (id, v) => if id = q.id then v else o.value | none => o.value
            let out := ownByte (skey i) (q.areg (fld q.w 23 20)) 0
            ∃ t, start = .next t ∧ t.stream i = st true ∧ t.objs = s.objs
              ∧ (∀ b, b < 4 → t.rd8 (out + b) = BitVec.ofNat 8 (v.toNat / 256 ^ b)) ∧ (∀ a, a < out ∨ out + 4 ≤ a → t.rd8 a = s.rd8 a))
        ∧ (q.op = 3 → start = .next ((s.setStream i (st false)).modSyn (halfOfObj x) fun h =>
            { h with net := h.net ++ [{ obj := x, kind := .fadd (ownByte (skey i) (q.areg (fld q.w 23 20)) 0), value := synValue q, step := q.step
                                        epoch := c.epoch, part := c.part.getD 0xFF, unit := s.unitCore (skey i) 0, src := some i, srcId := q.id
                                        link := false }] }))
        ∧ (q.op = 4 → start = .next (s.setStream i { st true with optab := tset 0 (s.stream i).optab (fld q.w 19 12) o.value })))
  ∧ ∀ (s : State) (i : StreamId) (q : QEntry) (rest : List QEntry), i.wf = true → s.soleHead i .xch q rest → s.xchReady i = true →
      q.eng = .xch → q.op ≤ 4 → q.n ≠ 0 → s.errs = [] →
      let part := (s.core (skey i)).part.getD 0xFF
      let coll := fld q.w 79 68
      let len := fld q.w 39 24
      let r := (s.coll part coll).getD []
      let w := collW r
      let from_ := fun (j : Nat) => (q.addr (fld q.w 67 64) (bit q.w 59) j).toNat
      let dst := fun (j : Nat) => (q.addr (fld q.w 63 60) (bit q.w 58) j).toNat
      let off := fun (j : Nat) => (dst j - collBase r) / w
      let good := fun (j : Nat) => collBase r ≤ dst j ∧ (dst j - collBase r) % w = 0 ∧ off j + 64 * len ≤ collElems r
        ∧ (q.op = 2 ∨ q.op = 4 → off j % 64 = 0)
      let addr := fun (a : Nat) => (BitVec.ofNat 64 a : W64)
      let pieces := (64 * len + 4031) / 4032
      let packets := fun (k : Nat) (f : Nat → Nat → W64 × Nat × Nat × W64 × Nat) => (List.range q.n).flatMap fun j => (List.range k).map (f j)
      let ds : List (W64 × Nat × Nat × W64 × Nat) :=
        match q.op with
        | 0 =>
          if q.skip then [(0, 32, 0, addr (dst 0), fld q.w 23 14)]
          else packets pieces fun j k =>
            (addr (from_ j + 4032 * k), min 4032 (64 * len - 4032 * k), 0, addr (dst j + 4032 * k), fld q.w 23 14)
        | 1 =>
          if q.skip then [(0, 32, 3, posWord (off 0) 0 0xFFFF, 0)]
          else packets len fun j k => (addr (from_ j + 64 * w * k), 64 * w, 3, posWord (off j + 64 * k) 64 (len * j + k), 0)
        | 3 => []
        | _ => packets len fun j k =>
            (addr (from_ j + 2048 * k), if q.skip then 32 else 2048, 1, posWord (off j + 64 * k) (if q.skip then 0 else 64) (len * j + k),
              (collOwner r (off j + 64 * k)).1)
      let queue := fun (t : State) => (((t.die i.die).chan (i.core % 16)).ring ++ ((t.die i.die).chan (i.core % 16)).wait).map
        fun x => (x.src, x.len0.toNat, x.hdr.kind, x.hdr.pos, x.drank)
      let start := exec (.instructionStart ⟨i.die, i.core⟩ .xch []) s
      ((q.op = 0 ∨ ∀ j, j < q.n → good j) → ∃ t, start = .next t ∧ queue t = queue s ++ ds ∧ (∀ a, ¬ inRing a → t.rd8 a = s.rd8 a) ∧ t.objs = s.objs)
        ∧ (q.op ≠ 0 → (∃ j, j < q.n ∧ ¬ good j) → ∃ t, start = .next t ∧ queue t = queue s ∧ t.mem = s.mem ∧ t.objs = s.objs
            ∧ (t.die i.die).cf = true ∧ (t.die i.die).cfault = cfaultWord 9 s.rank coll (s.part part).openStep)

/-- A FILL that starts writes its pattern at every in-window byte of its destinations and to no other byte of memory (06 R179, 07 R204,
R206). A COPY that starts and shares no byte between its sources and destinations leaves in each in-window destination byte what its
source byte held before, and zero where the source lies out of window; no other byte of memory changes (06 R179, 07 R203, R204). Both
where the access is clear, the floors of all its repetitions are reached (07 R208), and no other STRM of the core runs. A STRM moves
nothing before the floor of its first repetition; one that is skipped or has no repetition to run moves nothing at all. That a STRM
moves by repetitions, each at its floor, is the model's reading (log 9). -/
def Obligations.StreamEngineMovesItsBytes : Prop :=
  ∀ (s : State) (i : StreamId) (q : QEntry) (rest : List QEntry), i.wf = true → s.soleHead i .str q rest →
    (s.core (skey i)).ctxFree q = true → (∀ p, ∀ r ∈ (s.stream ⟨i.die, i.core, p⟩).run, r.q.eng ≠ .str) →
    let starts := fun (t : State) => exec (.instructionStart ⟨i.die, i.core⟩ .str []) s = .next t
    let all := ∀ j, j < q.n → s.floorMet i q j = true ∧ s.repReaches i q j = true
    let es := movedElems s.fuse.gradeB (s.core (skey i)).wins q
    let dst := es.flatMap fun e => inWindow e.dst
    ((q.n = 0 ∨ q.skip = true) → starts (s.setStream i ((s.stream i).started .str q rest {} true)))
      ∧ (q.n ≠ 0 → q.skip = false → s.floorMet i q 0 = false → ∃ t, starts t ∧ t.mem = s.mem)
      ∧ (q.eng = .str → q.n ≠ 0 → q.skip = false → s.memOk → s.clear (s.whoOf i q) → all → q.op = 1 → ∃ t, starts t
        ∧ (∀ a, a ∉ dst → t.rd8 a = s.rd8 a)
        ∧ (∀ a, a ∈ dst → ∃ k, k < q.fmtA ∧ t.rd8 a = (BitVec.ofNat 32 (fld q.w 31 0) : W32).extractLsb' (8 * (k % 4)) 8))
      ∧ (q.eng = .str → q.n ≠ 0 → q.skip = false → s.memOk → s.clear (s.whoOf i q) → all → q.op = 0 → overlaps es = false →
        let pairs := es.flatMap fun e => elemWrites e (e.src.map fun x => match x.2 with | .inl p => s.rd8 p | .inr _ => 0)
        ∃ t, starts t ∧ (∀ a, a ∉ dst → t.rd8 a = s.rd8 a) ∧ (∀ a, a ∈ dst → (a, t.rd8 a) ∈ pairs))

/-- A long-word instruction of the vector engine that starts changes its slot in every lane and nothing else: LZERO makes it zero with no
tag, LNEG negates it and keeps its tags, LRED leaves the sum of the 64 lanes in lane 0 and zero in the others (03 R96, 06 R185);
REANCHOR moves the words of a slot to another anchor, exactly or rounded down (03 R96; that the guard bits go along, and that a word of
wide mode wraps, is the model's reading, log 121 and 122). A VEC that is skipped or has no repetition to run changes nothing (06 R170,
R171). The words of a slot: a change of one slot in every lane gives that lane's new word, and leaves every other slot and lane. An
element opcode (FMA, ADD, MUL, MAX, MIN, CVT, NEG, ABS) writes, repetition by repetition, each lane's value of Table 6-9 converted to
the format in force, with its scale bytes, and nothing else (02 R64, R65, R74, 06 R185, R186); the values are exact: a sum, a product,
the larger, the smaller, the operand, its negation, its magnitude, NaN where an operand is NaN or, for a sum or product, infinite, with
the sign of a zero (02 R59, R61, R62). ACC, SUMSQ and MOMENTS add each element, or its square, at the anchor to the words of their slot,
and MOMENTS the square of what it added to the next slot (03 R88, R96, R97). LWADD adds, and LWLD puts, stored words; LWST stores the
words of a slot (03 R77, R95, R96), where a word of normal mode that meets the Wide condition is a free value (log 14). FINISH writes
each lane's result, converted (03 R98); its results are the value, quotient or root of Table 3-3 to 64 bits or more, with a last bit
that tells what lies below, and the limit cases of 03 R100 (03 R99; that a tag of S2 prevails in SUM too is the model's reading, log
100). All where the accesses are clear. What a lane's word holds in wide mode, and that flags are raised at the start and reported at
the completion, is the model's choice (log 120, 9). A long word of normal mode out of range converts by its 256 bits (log 99). -/
def Obligations.LaneInstructionsChangeTheirSlot : Prop :=
  (∀ (s : State) (i : StreamId) (q : QEntry) (rest : List QEntry), i.wf = true → s.soleHead i .vec q rest →
     let does := fun (f : Core → Nat → LW → LW) =>
       exec (.instructionStart ⟨i.die, i.core⟩ .vec []) s
         = .next ((s.modCore (skey i) fun c => c.eachLane (vSlot q.w) (f c)).modStream i fun st => st.started .vec q rest {} true)
     ((q.n = 0 ∨ q.skip = true) →
         exec (.instructionStart ⟨i.die, i.core⟩ .vec []) s = .next (s.setStream i ((s.stream i).started .vec q rest {} true)))
       ∧ (q.n ≠ 0 → q.skip = false → q.op = 16 → does fun _ _ _ => {})
       ∧ (q.n ≠ 0 → q.skip = false → q.op = 17 → does fun _ _ x => { n := -x.n, nan := x.nan, ovf := x.ovf })
       ∧ (q.n ≠ 0 → q.skip = false → q.op = 18 →
           does fun c l _ => if l = 0 then lredWord ((List.range 64).map fun l => tget {} c.vec (8 * l + vSlot q.w)) q.wide else {}))
  ∧ (∀ (c : Core) (k j l : Nat) (f : Nat → LW → LW), k < 8 → j < 8 →
      ((c.eachLane k f).slot j l = if j = k ∧ l < 64 then f l (c.slot k l) else c.slot j l)
        ∧ (twf {} c.vec = true → twf {} (c.eachLane k f).vec = true)
        ∧ c.eachLane k f = { c with vec := (c.eachLane k f).vec })
  ∧ (∀ (s : State) (i : StreamId) (q : QEntry) (rest : List QEntry), i.wf = true → s.soleHead i .vec q rest → q.n ≠ 0 → q.skip = false →
      s.clear (s.whoOf i q) → s.memOk →
      let key := skey i
      let c := s.core key
      let k := vSlot q.w
      let starts := fun (F : Flags) (rd : Nat → Byte) (slots : Nat → Nat → LW) => ∃ t, exec (.instructionStart ⟨i.die, i.core⟩ .vec []) s = .next t
        ∧ t.stream i = (s.stream i).started .vec q rest F true ∧ (∀ a, t.rd8 a = rd a)
        ∧ (∀ j l, j < 8 → l < 64 → (t.core key).slot j l = slots j l) ∧ t.objs = s.objs
      let put := fun (v : Nat → LW) (j l : Nat) => if j = k then v l else c.slot j l
      let reads := fun (l : Nat) => (List.range q.n).map fun j => laneX s.rd8 key q j l
      let words := fun (l : Nat) => (List.range q.n).map fun j => storedAt s.rd8 key (q.addr (vAx q.w) (vInc q.w) j) l
      let rat := fun (e : Elem) => match e with | .fin v => some v.rat | _ => none
      (q.op ≤ 7 → (q.op ≠ 5 → sbBlock q.fmtA = 0) → starts (s.laneRun key q q.n).2 (s.laneRun key q q.n).1 c.slot)
        ∧ (q.op = 8 ∨ q.op = 9 → sbBlock q.fmtA = 0 → starts {} s.rd8 (put fun l => (reads l).foldl (fun w e =>
            w.takes q.wide (vAnchor q.w) ((rat e).map fun v => if q.op = 8 then v else v * v)) (c.slot k l)))
        ∧ (q.op = 10 → sbBlock q.fmtA = 0 → k ≤ 6 → starts {} s.rd8 fun j l =>
            if j = k then (reads l).foldl (fun w e => w.takes q.wide (vAnchor q.w) (rat e)) (c.slot k l)
            else if j = k + 1 then (reads l).foldl (fun w e =>
              w.takes q.wide 0 ((rat e).map fun v => ((⌊v / (2 : ℚ) ^ vAnchor q.w⌋ ^ 2 : Int) : ℚ))) (c.slot (k + 1) l)
            else c.slot j l)
        ∧ (q.op = 11 → starts {} s.rd8 (put fun l => (words l).foldl (fun (w : LW) (x : Option Int) =>
            { n := (w.n + x.getD 0).bmod (if q.wide then 2 ^ 536 else 2 ^ 280), nan := w.nan || x.isNone, ovf := w.ovf }) (c.slot k l)))
        ∧ (q.op = 12 → q.n = 1 → starts {} s.rd8 (put fun l => match storedAt s.rd8 key (q.areg (vAx q.w)) l with
            | some n => { n := n } | none => { nan := true }))
        ∧ (q.op = 13 → q.n = 1 → ∃ F rd, starts F rd c.slot
          ∧ (∀ a, a ∉ ownBytes key (q.areg (vAd q.w)) 0 2048 → rd a = s.rd8 a) ∧ ∀ l, l < 64 →
            let w := c.slot k l
            let v := storedAt rd key (q.areg (vAd q.w)) l
            (w.nan = true → v = none ∧ F.special = true)
              ∧ (w.nan = false → w.n.natAbs ≤ 2 ^ 255 - 1 → (q.wide = true ∨ w.ovf = false) → v = some w.n)
              ∧ (w.nan = false → q.wide = true → 2 ^ 255 - 1 < w.n.natAbs → v = none ∧ F.lwRange = true)
              ∧ (w.nan = false → q.wide = false → (w.ovf = true ∨ 2 ^ 255 - 1 < w.n.natAbs) → F.wide = true))
        ∧ (q.op = 19 → starts {} s.rd8 fun j l =>
            if j = vSlotD q.w then
              let w := c.slot k l
              let up := vAnchor2 q.w - vAnchor q.w
              let x : Int := if up ≤ 0 then w.n * 2 ^ (-up).toNat else w.n / 2 ^ up.toNat
              { n := x.bmod (if q.wide then 2 ^ 536 else 2 ^ 280), nan := w.nan
                ovf := w.ovf || decide (x.natAbs > if q.wide then 2 ^ 511 - 1 else 2 ^ 255 - 1) }
            else c.slot j l)
        ∧ (q.op = 24 →
            let nb := fmtBytes q.rung.toNat
            starts ((List.range 64).foldl (fun acc l => acc.or (s.laneFin key q l).2) {})
              (overlay s.rd8 ((List.range 64).flatMap fun l =>
                (ownBytes key (q.areg (vAd q.w)) (l * nb) nb).zip (leBytes nb (s.laneFin key q l).1))) c.slot))
  ∧ (∀ (x y z : Exact), let fin := fun (op : Nat) (P : Exact → Prop) => ∃ r, vecElem op (.fin x) (.fin y) (.fin z) = .fin r ∧ P r
      let zeros := fun (a : ℚ) (an : Bool) (b : ℚ) (bn : Bool) (r : Exact) => a + b = 0 → (r.neg = true ↔ a = 0 ∧ b = 0 ∧ an = true ∧ bn = true)
      fin 0 (fun r => r.rat = x.rat * y.rat + z.rat ∧ zeros (x.rat * y.rat) (x.neg != y.neg) z.rat z.neg r)
        ∧ fin 1 (fun r => r.rat = x.rat + y.rat ∧ zeros x.rat x.neg y.rat y.neg r)
        ∧ fin 2 (fun r => r.rat = x.rat * y.rat ∧ r.neg = (x.neg != y.neg))
        ∧ fin 3 (fun r => r.rat = max x.rat y.rat ∧ (r = x ∨ r = y)) ∧ fin 4 (fun r => r.rat = min x.rat y.rat ∧ (r = x ∨ r = y))
        ∧ fin 5 (fun r => r = x) ∧ fin 6 (fun r => r = { x with neg := !x.neg }) ∧ fin 7 (fun r => r = { x with neg := false }))
  ∧ (∀ (op : Nat) (x y z : Elem), (op ≤ 7 → x = .nan → vecElem op x y z = .nan) ∧ (op ≤ 4 → y = .nan → vecElem op x y z = .nan)
      ∧ (z = .nan → vecElem 0 x y z = .nan) ∧ (∀ n, op ≤ 2 → (x = .inf n ∨ y = .inf n ∨ (op = 0 ∧ z = .inf n)) → vecElem op x y z = .nan)
      ∧ (∀ n, vecElem 5 (.inf n) y z = .inf n ∧ vecElem 6 (.inf n) y z = .inf (!n) ∧ vecElem 7 (.inf n) y z = .inf false))
  ∧ ∀ (s1 s2 : LW) (a a2 : Int) (n : Nat) (eps : Exact), eps.neg = false →
      let g := (2 : ℚ) ^ a
      let d : Int := n * s2.n - s1.n * s1.n
      let var : ℚ := d * (2 : ℚ) ^ (2 * a) / n ^ 2
      let vars : ℚ := d * (2 : ℚ) ^ (2 * a) / (n * (n - 1))
      let f := fun mode => finish mode s1 s2 a a2 n eps
      (∀ mode, s2.nan = true ∨ (mode ≠ 1 ∧ s1.nan = true) → f mode = .nanSpecial)
        ∧ (s1.nan = false → s2.nan = false →
          (∃ v, f 0 = .val v ∧ v.rat = s1.n * g)
            ∧ (s2.n < 0 → f 1 = .nanSpecial) ∧ (0 ≤ s2.n → ∃ v, f 1 = .val v ∧ v.holdsRoot (s2.n * (2 : ℚ) ^ a2))
            ∧ (∀ mode, 2 ≤ mode → n = 0 → f mode = .nanEmpty) ∧ (n = 1 → f 4 = .nanEmpty ∧ f 6 = .nanEmpty)
            ∧ (n ≠ 0 → (∃ v, f 2 = .val v ∧ v.holds (s1.n * g / n)) ∧ (∃ v, f 3 = .val v ∧ v.holds var)
              ∧ (d < 0 → f 5 = .nanSpecial) ∧ (0 ≤ d → ∃ v, f 5 = .val v ∧ v.holdsRoot var)
              ∧ (var + eps.rat < 0 → f 7 = .nanSpecial) ∧ (var + eps.rat = 0 → f 7 = .unbounded)
              ∧ (0 < var + eps.rat → ∃ v, f 7 = .val v ∧ v.holdsRoot (1 / (var + eps.rat))))
            ∧ (2 ≤ n → (∃ v, f 4 = .val v ∧ v.holds vars) ∧ (d < 0 → f 6 = .nanSpecial) ∧ (0 ≤ d → ∃ v, f 6 = .val v ∧ v.holdsRoot vars)))

/-- An MMA that starts with no repetition to run, or skipped, reads and writes no memory: it opens its banks with the formats, block length
and anchor it captured where OPEN is set, and closes them where CLOSE is set (04 R116, R117, 06 R171, R180). No MMA changes memory,
where its reads are clear. The exact sum of a beat: the long word of a row and a column takes, for each block of B coordinates of its
row and column in order, the exact sum of their products over the weight of the anchor, rounded down, modulo the adder's width; a
product of FP32 keeps its 32 leading bits, a block with a NaN or an infinity sets the tag, and an addend that is too big alone sets Over
(02 R59, R60, 03 R78, R84, R85, R86, R88). That an MMA takes effect whole at its start is the model's reading (log 9). -/
def Obligations.MatrixBanksTakeTheirBeats : Prop :=
  (∀ (s : State) (i : StreamId) (q : QEntry) (rest : List QEntry), i.wf = true → s.soleHead i .mx q rest →
     q.eng = .mx → (s.core (skey i)).bankTurn i.pass q = .start → (s.core (skey i)).chainReady q = true →
     ((q.n = 0 ∨ q.skip = true) → ∃ t, exec (.instructionStart ⟨i.die, i.core⟩ .mx []) s = .next t
       ∧ t.stream i = (s.stream i).started .mx q rest {} true
       ∧ (∀ b, b ∈ banksOf q.w q.wide →
           (t.core (skey i)).bank b =
             let k := if mOpn q.w then openedBank i.pass q else (s.core (skey i)).bank b
             if mCls q.w then { k with state := .closed } else k)
       ∧ t = { s with cores := t.cores })
     ∧ (s.clear (s.whoOf i q) → ∃ t, exec (.instructionStart ⟨i.die, i.core⟩ .mx []) s = .next t ∧ t.mem = s.mem ∧ t.objs = s.objs))
  ∧ ∀ (bk : Bank) (fp32 : Bool) (a b : List (List Elem)) (kk i j : Nat), i < a.length → j < b.length → b.length ≤ 32 →
      (∀ r ∈ a ++ b, r.length = kk) → bk.blk ≠ 0 → kk % bk.blk = 0 → (fp32 = true → bk.blk = 1) →
      let pairs := (a.getD i []).zip (b.getD j [])
      tget {} (bk.beat fp32 a b).lw (32 * i + j) =
        (List.range (kk / bk.blk)).foldl (fun w g => w.takes bk.wide bk.anchor (blockRat fp32 ((pairs.drop (bk.blk * g)).take bk.blk)))
          (tget {} bk.lw (32 * i + j))

/-- A PACK that starts to drain takes its banks to DRAINING, leaves the verdict of its tile to deliver, and writes no byte of memory but
those of its tile; a chained one writes none and sends rows to its consumer (04 R118, R133, 06 R184), where the access is clear. The
bytes of the tile hold, in row-major order at its pitch, the codes of its elements at the format in force, and at A[ASO] the scale bytes
of its blocks, which stand where the two meet: each element is the value of its long word converted with its own word u, or with its
block, or is its long word as it is stored (02 R64, R65, R74, 03 R77, 06 R184; a long word of normal mode that meets the Wide condition
is stored as a free value, log 14, and rows and columns count from the tile's origin, log 73), where no upset meets the drain and no two
rows share a byte. The conversion: to nearest, ties to even, or by the dropped fraction and u, on the grid of the value's binade, to
subnormals below the least normal value, saturated with Range beyond the largest (02 R58, R63, R64, R66); NaN and infinity give their
encodings with Special (02 R61). A verdict shows its tile's digest, adds the digest record and frees the bank it drains; a checked tile
without NaN or Over counts a finished check, or with a mismatch a failed one, with its flag and location, and one with NaN or Over a
skipped check; without a mismatch, and where the Capsule does not record the partition, nothing is posted (04 R130, R132, Table 4-5).
The drain takes effect whole at its start (log 9); a long word out of range converts by its 256 bits (log 99); the location of a failed
tile shows bank and ordinal as logs 105 and 107 say. -/
def Obligations.TilesDrainAndAreChecked : Prop :=
  (∀ (s : State) (c : CoreId) (bank : Nat) (us : List Upset) (p : Pass) (q : QEntry) (rest : List QEntry),
     let i : StreamId := ⟨c.die, c.core, p⟩
     i.wf = true → s.clear (s.whoOf i q) → s.soleHead i .pack q rest → q.skip = false → bank ∈ banksOf q.w q.wide →
     (s.core (ckey c)).bankTurn p q = .start → (s.core (ckey c)).writeFree q = true →
     ∃ t, exec (.drainStart c bank us) s = .next t
       ∧ (∀ b, b ∈ banksOf q.w q.wide → ((t.core (ckey c)).bank b).state = .draining)
       ∧ (∃ d : Drain, (t.core (ckey c)).drains = (s.core (ckey c)).drains ++ [d] ∧ d.id = q.id ∧ d.pass = p ∧ d.rung = q.rung
           ∧ d.iaddr = q.pc ∧ d.dig.tid.toNat = fld q.w 36 21 % 65536 ∧ d.dig.step = q.step)
       ∧ t.stream i = (s.stream i).started .pack q rest {} true
       ∧ (pChout q.w = true → t.mem = s.mem)
       ∧ (pChout q.w = false → ∀ a, a ∉ tileBytes (ckey c) q ((s.core (ckey c)).bank ((banksOf q.w q.wide).headD 0)).flow → t.rd8 a = s.rd8 a)
       ∧ (∃ rows, (t.core (ckey c)).chainOut = (s.core (ckey c)).chainOut ++ rows ∧ (∀ r ∈ rows, r.epoch = (s.core (ckey c)).epoch)
         ∧ (pChout q.w = false → rows = []))
       ∧ (pChout q.w = false → us = [] → (s.core (ckey c)).lam = [] → s.memOk → q.rung.toNat ≤ 9 →
         let key := ckey c
         let bk := (s.core key).bank ((banksOf q.w q.wide).headD 0)
         let rows := if bk.flow then 64 else 32
         let f := q.rung.toNat
         let nb := fmtBytes f
         let scales := if sbBlock f = 0 then 0 else rows * 32 / sbBlock f
         let at_ := fun (r x k : Nat) => ownByte key (q.areg (fld q.w 61 58)) (r * pPitch q.w + x * nb + k : Nat)
         let sat_ := fun (o : Nat) => ownByte key (q.areg (fld q.w 57 54)) o
         32 * nb ≤ pPitch q.w → (rows - 1) * pPitch q.w + 32 * nb ≤ 2 ^ 21 →
         (∀ r x k, r < rows → x < 32 → k < nb → (∀ o, o < scales → at_ r x k ≠ sat_ o) →
             t.rd8 (at_ r x k) = BitVec.ofNat 8 (s.tileCode key q bk r x / 256 ^ k))
           ∧ (∀ o, o < scales → t.rd8 (sat_ o) = s.tileScale key q bk o)))
  ∧ (∀ (f : FmtP) (v : Exact) (u : Nat), f ∈ [fE4M3, fE5M2, fBF16, fFP16, fFP32] → v.mag ≠ 0 → u < 2 ^ 32 →
      let q : Int := max ((Nat.log2 v.mag : Int) + v.exp) f.emin - ((f.p : Int) - 1)
      let x : ℚ := v.mag * (2 : ℚ) ^ (v.exp - q)
      let top : ℚ := f.maxsig * (2 : ℚ) ^ (f.emax - ((f.p : Int) - 1) - q)
      let gives := fun (sr : Bool) (k : ℚ) (fl : Flags) => (convertOut f (.fin v) sr u).2 = fl
        ∧ ∃ w, decodeElem f (convertOut f (.fin v) sr u).1 = .fin w ∧ w.neg = v.neg ∧ w.mag * (2 : ℚ) ^ (w.exp - q) = k
      (∀ k, nearestEven k x → ((k : ℚ) ≤ top → gives false k {}) ∧ (top < (k : ℚ) → gives false top { sat := true }))
        ∧ (x ≤ top → gives true (⌊x⌋ + if (u : Int) < ⌊(x - ⌊x⌋) * 2 ^ 32⌋ then 1 else 0) {}) ∧ (top < x → gives true top { sat := true }))
  ∧ (∀ (f : FmtP) (n sr : Bool) (u : Nat) (e : Int), f ∈ [fE4M3, fE5M2, fBF16, fFP16, fFP32] →
      convertOut f .nan sr u = (f.qnan, { special := true }) ∧ decodeElem f f.qnan = .nan
        ∧ (convertOut f (.inf n) sr u).2 = { special := true }
        ∧ decodeElem f (convertOut f (.inf n) sr u).1 = (if f.hasInf then .inf n else .nan)
        ∧ (convertOut f (.fin ⟨n, 0, e⟩) sr u).2 = {} ∧ ∃ w, decodeElem f (convertOut f (.fin ⟨n, 0, e⟩) sr u).1 = .fin ⟨n, 0, w⟩)
  ∧ ∀ (s : State) (c : CoreId) (bank : Nat) (d : Drain), (⟨c.die, c.core, d.pass⟩ : StreamId).wf = true → (s.core (ckey c)).pow = .on →
      (s.core (ckey c)).drains = [d] → d.bank = bank → d.flags = {} →
      ∃ t, exec (.tileVerdict c bank) s = .next t ∧
        let k := t.core (ckey c)
        let k0 := s.core (ckey c)
        let bad := d.badRow.isSome || d.badCol.isSome
        k.drains = [] ∧ k.lastDig = d.dig.digest
          ∧ k.ckDone = (if d.checked && !d.skip && !bad then satAdd k0.ckDone 1 else k0.ckDone)
          ∧ k.ckSkip = (if d.checked && d.skip then satAdd k0.ckSkip 1 else k0.ckSkip)
          ∧ k.ckFail = (if d.checked && !d.skip && bad then satAdd k0.ckFail 1 else k0.ckFail)
          ∧ (d.checked = true → d.skip = false → bad = true → k.ckf = true ∧ k.ckLoc = ckLoc d)
          ∧ (∀ b, b ∈ (if d.dig.wide then [0, 1] else [d.bank]) → b = 0 ∨ b = 1 → (k0.bank b).state = .draining → k.bank b = {})
          ∧ t.ev.digRecs = s.ev.digRecs ++ [{ d.dig with failed := bad }]
          ∧ (bad = false → (tget {} s.ev.capCfg d.dig.part).en = false → t.ev.slots = s.ev.slots) ∧ t.mem = s.mem

/-- A chained row that its producer has sent joins the consumer's chain buffer while the 8 KiB hold it, and waits otherwise, and while a
repeat that the producer has told of has not emptied the buffer; a row of another epoch is dropped and counted (04 R133, 09 R269; when
the buffer is emptied is the model's reading, log 132). A chain verdict of the consumer's epoch is held for its stream's decision, after
those it holds already: complete, or a repeat with a rung and a wide state (05 R159). That a row or a verdict wakes a gated core is the
model's choice (log 67): 14 R397 names only a change of an object, an action of the load port and a residency switch. The size of a row
in the buffer follows the model's layout (log 21). -/
def Obligations.ChainsReachTheirConsumer : Prop :=
  (∀ (s : State) (c : CoreId) (row : ChainRow) (p : Nat) (more : List ChainRow), s.producer (ckey c) = some p → p ≠ ckey c →
     (s.core p).chainOut = row :: more →
     let k := s.core (ckey c)
     let used := (k.chainBuf.map fun r => r.bytes.length + r.scales.length).foldl (· + ·) 0
     let fits := used + (row.bytes.length + row.scales.length) ≤ 8192 ∧ s.repeatOpen (ckey c) = false
     let woken := fun (t : State) => t = { s with cores := t.cores, pwr := if k.pow = .gated then s.pwr.toRun else s.pwr }
     let sent := fun (t : State) => t.core p = { s.core p with chainOut := more }
     (row.epoch = k.epoch → fits → ∃ t, exec (.chainRow c row) s = .next t ∧ sent t
         ∧ t.core (ckey c) = { k with chainBuf := k.chainBuf ++ [row], pow := if k.pow = .gated then .on else k.pow }
         ∧ (∀ j, j ≠ p → j ≠ ckey c → t.core j = s.core j) ∧ woken t)
       ∧ (row.epoch = k.epoch → ¬ fits → exec (.chainRow c row) s = .next s)
       ∧ (row.epoch ≠ k.epoch → ∃ t, exec (.chainRow c row) s = .next t ∧ sent t ∧ (∀ j, j ≠ p → t.core j = s.core j)
           ∧ (t.syn (halfOfDie c.die)).zmb = true
           ∧ (t.syn (halfOfDie c.die)).zEpoch = satAdd (s.syn (halfOfDie c.die)).zEpoch 1))
  ∧ ∀ (s : State) (i : StreamId) (again : Option (BitVec 4 × Bool)) (p : Nat) (more : List (W16 × Option (BitVec 4 × Bool))),
      s.producer (skey i) = some p → p ≠ skey i →
      (s.core p).chainVs = ((s.core (skey i)).epoch, again) :: more →
      let k := s.core (skey i)
      let st := s.stream i
      ∃ t, exec (.chainVerdict i k.epoch again) s = .next t ∧ t.core p = { s.core p with chainVs := more }
        ∧ t.core (skey i) = { k.setStream i.pass { st with chainV := st.chainV ++ [again] } with pow := if k.pow = .gated then .on else k.pow }
        ∧ (∀ j, j ≠ p → j ≠ skey i → t.core j = s.core j)
        ∧ t = { s with cores := t.cores, pwr := if k.pow = .gated then s.pwr.toRun else s.pwr }

/-- The evaluation of an attempt that is over, in an operation without a verdict group: the stream holds the attempt's Wide and
Range outcome for its decision, Range only from saturation under REPLAY below CEIL (05 R156), and stalls with cause OPEND or a cause of a
lower code that holds too (05 R142, R165); that a gated core wakes at its own evaluation is the model's choice (log 162); an attempt
with a mismatched tile makes the stream HELD for a checksum instead, its withheld writes dropped (05 R156, R161). In a verdict group an
evaluation adds one to the group's arrivals and, for its parity, to the objects of its Wide and Range outcomes; one of a mismatched
attempt adds the arrival alone (05 R156, R157, R161). -/
def Obligations.EvaluationHoldsItsOutcome : Prop :=
  ∀ (s : State) (i : StreamId), s.attemptOver i = true →
    let st := s.stream i
    let range := (st.opFlags.sat || st.opFlags.wideTop) && st.opPol == 0 && st.rung != st.opCeil
    let cause := s.stallCause i none 0
    let evaluated : Stream := { st with phase := .evaluated st.opFlags.wide range, stall := if cause = 0 then 6 else cause }
    let held : Stream := { st with state := .held, ckhold := true, wbuf := [], stall := 0 }
    let odd := if st.attempt.toNat % 2 = 0 then 0 else 2
    let add := fun (o : Nat) => s.syncReq i st.step 0 o .add 1
    let reqs := if st.opN = 0 then []
      else if st.mismatch = true then [add st.opG]
      else (if st.opFlags.wide then [add (st.opG + 1 + odd)] else []) ++ (if range then [add (st.opG + 2 + odd)] else []) ++ [add st.opG]
    ∃ t, exec (.operationEvaluation i) s = .next t
      ∧ t.stream i = (if st.mismatch = true then held else evaluated)
      ∧ t.syn0.net = s.syn0.net ++ reqs.filter (fun r => decide (r.obj < 65536))
      ∧ t.syn1.net = s.syn1.net ++ reqs.filter (fun r => !decide (r.obj < 65536))
      ∧ (st.mismatch = false → (s.core (skey i)).pow = .gated → (t.core (skey i)).pow = .on)
      ∧ (∀ j, j ≠ skey i → t.core j = s.core j) ∧ t.mem = s.mem ∧ t.objs = s.objs

/-- A decision without a verdict group: a chain's repeat verdict repeats the operation at its own rung and wide state, or in wide mode at
the producer's rung where its own outcome is Wide; else Wide repeats it from its snapshot in wide mode, and Range at the next rung of
the ladder. A repeat is the next attempt, drops the withheld writes and clears the flags and the count of its SCALE saturations (02 R70
to R72, 05 R154, R158, R159, R165); the one that a chain's verdict asks for empties the chain buffer first (04 R133; log 132). Any other
decision completes the operation: its table entry becomes valid with the rung and wide state, the withheld writes go to their control
dies in issue order, and the stream leaves the operation for the next address (05 R158). In a verdict group the decision waits for every
participant's arrival (05 R158). Which SCALE events count, when Ladder-top is posted and when the write to G + 5 arrives are logs 133,
68 and 66. -/
def Obligations.DecisionRepeatsOrCompletes : Prop :=
  (∀ (s : State) (i : StreamId) (w g : Bool) (sn : Snap), (s.stream i).phase = .evaluated w g → (s.stream i).state = .running →
     (s.stream i).opN = 0 → (s.stream i).snap = some sn →
     let st := s.stream i
     let chain := if st.chained then st.chainV.head?.join else none
     let repeats := fun (rung : BitVec 4) (wide : Bool) (ladder : Nat) => ∃ t, exec (.operationDecision i) s = .next t
       ∧ t.stream i = { st with
           a := sn.a, s := sn.s, c := sn.c, loops := sn.loops, pc := sn.pc, attempt := st.attempt + 1, rung := rung, wide := wide
           phase := .none, opFlags := {}, opScale := 0, mismatch := false, wbuf := [], tileOrd := 0, stall := 0, asked := false, opLadder := ladder
           chainV := if chain.isSome then st.chainV.drop 1 else st.chainV }
       ∧ (t.core (skey i)).chainBuf = (if chain.isSome then [] else (s.core (skey i)).chainBuf)
       ∧ t.mem = s.mem ∧ t.objs = s.objs ∧ t.syn0 = s.syn0 ∧ t.syn1 = s.syn1
     (∀ r wide, chain = some (r, wide) → repeats (if w then r else st.rung) (if w then true else st.wide) st.opLadder)
       ∧ (chain = none → w = true → repeats st.rung true st.opLadder)
       ∧ (chain = none → w = false → g = true →
           repeats (BitVec.ofNat 4 ((nextRung st.rung.toNat).getD st.rung.toNat)) st.wide (st.opLadder + 1)))
  ∧ (∀ (s : State) (i : StreamId), (s.stream i).phase = .evaluated false false → (s.stream i).state = .running →
      (s.stream i).opN = 0 → ((s.stream i).chained = true → (s.stream i).chainV.head?.join = none) →
      let st := s.stream i
      ∃ t, exec (.operationDecision i) s = .next t
        ∧ (t.stream i).optab = tset 0 st.optab st.opid.toNat (BitVec.ofNat 32 (st.rung.toNat + (if st.wide then 16 else 0) + 2 ^ 31))
        ∧ (t.stream i).inop = false ∧ (t.stream i).wbuf = [] ∧ (t.stream i).snap = none ∧ (t.stream i).phase = .none
        ∧ ((t.stream i).pc, (t.stream i).loops) = loopNext st.pc st.loops
        ∧ (t.stream i).a = st.a ∧ (t.stream i).s = st.s ∧ (t.stream i).c = st.c ∧ (t.stream i).stime = st.stime
        ∧ t.syn0.net = s.syn0.net ++ st.wbuf.filter (fun r => decide (r.obj < 65536))
        ∧ t.syn1.net = s.syn1.net ++ st.wbuf.filter (fun r => !decide (r.obj < 65536))
        ∧ t.mem = s.mem ∧ t.objs = s.objs)
  ∧ ∀ (s : State) (i : StreamId) (w g : Bool), (s.stream i).phase = .evaluated w g → (s.stream i).opN ≠ 0 →
      s.readGroup i (s.stream i) = none → exec (.operationDecision i) s = .next s

/-- An operation at the front of a half's list that its object accepts takes effect in the layer of its step: SET replaces the
FLAG's value there, ADD adds modulo 2^32 to the COUNT's; no other object and no byte of memory changes (09 R260, 12 R351). An
operation that carries another epoch than its object's fence, or comes from a fenced unit, is dropped: the object and memory keep
their values and the half counts it (09 R269, R270). -/
def Obligations.SyncOperationsApplyAtTheirObject : Prop :=
  (∀ (s : State) (half : Nat) (r : SyncReq) (rest : List SyncReq), (s.syn half).net = r :: rest → half = halfOfObj r.obj →
     s.crosses (unitHalf r.unit) half = true → s.synDrop r.obj r.unit r.epoch = none → (s.obj r.obj).alloc = true →
     let o := s.obj r.obj
     let k := if r.step < (s.part o.part).openStep then 0 else if r.step = (s.part o.part).openStep then 1 else 2
     let becomes := fun (o' : SyncObj) => ∃ t, exec (.syncOperation half ⟨0, []⟩) s = .next t ∧ t.obj r.obj = o'
       ∧ (∀ x, x ≠ r.obj → t.obj x = s.obj x) ∧ t.mem = s.mem ∧ (t.syn half).net = rest
     (r.kind = .set → o.type = .flag → becomes (o.setLayer k (some r.value)))
       ∧ (r.kind = .add → o.type = .count → becomes (o.setLayer k (some ((o.layer k).getD 0 + r.value)))))
  ∧ ∀ (s : State) (half : Nat) (r : SyncReq) (rest : List SyncReq), (s.syn half).net = r :: rest → half = halfOfObj r.obj →
      s.crosses (unitHalf r.unit) half = true → (r.kind = .set ∨ r.kind = .add) →
      let masked := s.masked r.unit
      (masked = true ∨ (s.obj r.obj).fence ≠ r.epoch) →
      ∃ t, exec (.syncOperation half ⟨0, []⟩) s = .next t ∧ t.objs = s.objs ∧ t.mem = s.mem ∧ t.cores = s.cores
        ∧ (t.syn half).net = rest ∧ (t.syn half).zmb = true
        ∧ (t.syn half).zMask = (if masked then satAdd (s.syn half).zMask 1 else (s.syn half).zMask)
        ∧ (t.syn half).zEpoch = (if masked then (s.syn half).zEpoch else satAdd (s.syn half).zEpoch 1)

/-- FADD on a WORK object gives the old value to its issuer at the address it named, little-endian, and changes the layer of its step: by
its operand where the object is no ticket counter (06 R191, 09 R262, 12 R351), and by 1 whatever its operand on a ticket counter, which
returns to 0 at LIMIT + NPART (08 R246; that the operand has no part in it is the model's reading, log 77). Where the write of the old value
is clear. -/
def Obligations.FaddReturnsTheOldValue : Prop :=
  ∀ (s : State) (half ret : Nat) (i : StreamId) (r : SyncReq) (rest : List SyncReq), (s.syn half).net = r :: rest →
    half = halfOfObj r.obj → s.crosses (unitHalf r.unit) half = true → s.synDrop r.obj r.unit r.epoch = none →
    (s.obj r.obj).alloc = true → (s.obj r.obj).type = .work → r.kind = .fadd ret → r.src = some i →
    s.clear { part := r.part, src := some (r.unit, r.epoch) } → s.memOk →
    let o := s.obj r.obj
    let k := layerOf (s.part o.part).openStep r.step
    let delta : W32 := if o.limit = 0 then r.value else if o.value + 1 = o.limit + o.npart then 0 - o.value else 1
    ∃ t, exec (.syncOperation half ⟨0, []⟩) s = .next t
      ∧ t.obj r.obj = o.setLayer k (some ((o.layer k).getD 0 + delta))
      ∧ (o.limit = 0 → (t.obj r.obj).value = o.value + r.value)
      ∧ (∀ b, b < 4 → t.rd8 (ret + b) = BitVec.ofNat 8 (o.value.toNat / 256 ^ b))
      ∧ (∀ a, a < ret ∨ ret + 4 ≤ a → t.rd8 a = s.rd8 a)
      ∧ (t.syn half).net = rest

/-- A core with no stream that runs, or whose streams stall on WAIT or OPEND, and with every engine idle and no bank draining, is GATED
after its idle cycles; a core with a stream that runs stays ON (14 R397). The module is in Run while a core is ON, and in Idle otherwise
(14 R394, R395). The end of a core's merge window issues its open group; what memory holds does not change (07 R210). The commands
assert that the cycles have passed (log 8). -/
def Obligations.CoreTimersExpire : Prop :=
  (∀ (s : State) (c : CoreId), (s.core (ckey c)).pow = .on →
     let k := s.core (ckey c)
     let idle := fun (st : Stream) => (st.state ≠ .running ∨ st.stall = 5 ∨ st.stall = 6) ∧ st.run = []
     let drained := k.drains = [] ∧ k.b0.state ≠ .draining ∧ k.b1.state ≠ .draining
     let becomes := fun (k' : Core) => ∃ t, exec (.coreGate c) s = .next t ∧ t.core (ckey c) = k' ∧ (∀ j, j ≠ ckey c → t.core j = s.core j)
       ∧ (s.pwr.state = .idle ∨ s.pwr.state = .run → t.pwr = { s.pwr with state := if ∃ x ∈ t.cores, x.2.pow = .on then .run else .idle })
       ∧ (s.pwr.state ≠ .idle → s.pwr.state ≠ .run → t.pwr = s.pwr) ∧ t = { s with cores := t.cores, pwr := t.pwr }
     (idle k.fwd → idle k.bwd → idle k.upd → drained → becomes { k with pow := .gated })
       ∧ ((k.fwd.state = .running ∧ k.fwd.stall = 0) → becomes k))
  ∧ ∀ (s : State) (c : CoreId), exec (.mergeWindowExpiry c) s = .next (s.setCore (ckey c) { s.core (ckey c) with merge := none })

/-- An UPD that starts runs on its update units: under another verdict of its GATE than COMMIT each of them counts it in UPD_NOWRITE and no
memory changes; under COMMIT, where every unit has the exponent of its step, each takes its share of the elements and asks for the
hyperparameter record by a descriptor, so that no byte of memory outside the descriptor rings changes (06 R189, R190, 10 R299, R306, 07
R211). An update unit that serves a descriptor of the UPD that it runs, the first in its list (10 R300), changes no byte outside the
rings for the record and for the squared norm; one that serves a granule changes no byte but those of the parameter, moment and residual
tensors that the UPD names for the granule's elements, and the descriptors of the unit's next UPD, and counts the UPD in UPD_DONE with
the last (06 R189, 10 R300, R307, R313), where its accesses are clear and cross no dead midline. Which channel and which descriptors a
unit uses, and that it forms them by granules, is the model's choice (logs 23 and 124). That an UPD which a residency switch brings back
stands behind the one in progress is log 143. -/
def Obligations.UpdWritesUnderCommit : Prop :=
  (∀ (s : State) (c : CoreId) (p : Pass) (q : QEntry) (rest : List QEntry),
    let i : StreamId := ⟨c.die, c.core, p⟩
    i.wf = true → s.soleHead i .upd q rest → s.updReady i q = true → q.n ≠ 0 → q.skip = false →
    (∀ r ∈ (s.stream i).run, r.q.id ≠ q.id) → (∀ u ∈ s.upds, ∀ r ∈ u.2.run, r.at_ ≠ i ∨ r.q.id ≠ q.id) →
    let commit := fld (s.obj (fld q.w 39 23)).value 11 10 = 1
    let units := updUnits s.fuse.gradeB i.die q
    let part := (s.core (skey i)).part.getD 0xFF
    (¬ commit → ∃ t, exec (.updStart c []) s = .next t ∧ t.stream i = (s.stream i).started .upd q rest {} true
        ∧ (∀ u ∈ units, t.unit u = { s.unit u with nowrite := satAdd (s.unit u).nowrite 1 })
        ∧ (∀ u, u ∉ units → t.unit u = s.unit u) ∧ t.mem = s.mem ∧ t.objs = s.objs)
      ∧ (commit → s.errs = [] → (∀ u ∈ units, ((s.unit u).entry part q.step).isSome = true) →
        ∃ t ready, exec (.updStart c []) s = .next t ∧ t.stream i = (s.stream i).started .upd q rest {} ready
          ∧ (∀ u ∈ units, ∃ r : UpdRun, t.unit u = { s.unit u with run := [r] } ∧ r.at_ = i ∧ r.q = q ∧ r.part = part
              ∧ r.elems = (updElems q).filter (fun e => (updUnitOf s.fuse.gradeB i.die e.2.2).1 == u)
              ∧ (s.unit u).entry part q.step = some r.sexp)
          ∧ (∀ u, u ∉ units → t.unit u = s.unit u) ∧ (∀ a, ¬ inRing a → t.rd8 a = s.rd8 a) ∧ t.objs = s.objs))
  ∧ ∀ (s : State) (die ch u : Nat) (x : PDesc) (more : List PDesc) (r : UpdRun), ((s.die die).chan ch).cache = x :: more →
      u = 2 * die + (if ch < 24 then 0 else 1) →
      (s.unit u).run.head? = some r → r.at_ = x.at_ → r.q.id = x.id → s.clear (s.updWho u r.part) →
      ((x.act = .record ∨ x.act = .norm) → s.dmaReaches die x.part false x.src.toNat x.len0.toNat = true →
        ∃ t, exec (.descriptorComplete die ch []) s = .next t ∧ (∀ a, ¬ inRing a → t.rd8 a = s.rd8 a) ∧ t.objs = s.objs)
      ∧ ∀ last, x.act = .granule last →
        let es := r.elems.filter fun e => decide (x.src.toNat ≤ e.2.2) && decide (e.2.2 < x.src.toNat + x.len0.toNat)
        (∀ e ∈ es, s.updReaches die r.part r.q e = true) →
        ∃ t, exec (.descriptorComplete die ch []) s = .next t ∧ (∀ a, a ∉ s.updBytes r.part r.q es → ¬ inRing a → t.rd8 a = s.rd8 a)
          ∧ t.objs = s.objs
          ∧ (t.unit u).done = (if last then satAdd (s.unit u).done 1 else (s.unit u).done)
          ∧ (t.unit u).nowrite = (s.unit u).nowrite

/-- A packet of no step the partition accepts, neither its open step and retry nor retry 0 of the next step, is Stale: dropped, counted, and
without effect on memory, sync objects and cores (09 R274). A packet of an accepted step with another signature than its collective
entry's is a Collective fault of code 5 at the engine: no memory or sync object changes, and the step of its partition retracts (09
R277, R292, R266); so is a contribution of another signature that this module's entry does not expect: for a chunk of another owner, or
from a rank that is no member. The packets come from the model's inbox in their sender's order (log 91). -/
def Obligations.PacketsAreCheckedAtTheEngine : Prop :=
  (∀ (s : State) (die part : Nat) (p : XPkt) (fs : List PhysFault), s.nextPacket die part p →
     ¬ (p.step = (s.part part).openStep.setWidth 32 ∧ p.retry = (s.part part).retry) →
     ¬ (p.step = ((s.part part).openStep + 1).setWidth 32 ∧ p.retry = 0) → ∀ row ∈ packetRows fs,
     ∃ t, exec (row die part p) s = .next t ∧ t.mem = s.mem ∧ t.objs = s.objs ∧ t.cores = s.cores
       ∧ (t.die die).stale = true ∧ (t.die die).cntStale = satAdd (s.die die).cntStale 1)
  ∧ ∀ (s : State) (die part : Nat) (p : XPkt) (fs : List PhysFault), s.nextPacket die part p → part < 16 →
      p.step = (s.part part).openStep.setWidth 32 → p.retry = (s.part part).retry →
      let r := (s.coll part p.coll).getD []
      let faults := fun (c : Instr) => ∃ t, exec c s = .next t ∧ t.mem = s.mem ∧ t.objs = s.objs
        ∧ (t.die die).cf = true ∧ (t.die die).cfault = cfaultWord 5 p.srank p.coll (s.part part).openStep
        ∧ (t.part part).stepEvent = true ∧ (t.part part).retractSent = true
      p.sig ≠ collSig r →
        (2 ≤ p.kind → ∀ row ∈ signedRows fs, faults (row die part p))
          ∧ (p.kind = 1 → (collOwner r (posFirst p)).1 ≠ s.rank ∨ p.srank ∉ collMembers r → faults (.contrib die part ⟨p, fs⟩))

/-- A PUT packet of the open step writes the bytes after its lead word at its destination address, where the partition's windows admit them,
then sends the RSIG write its lead word asks for, to a FLAG or COUNT of the partition (09 R275; log 113). A RESULT or MCAST packet of
the open step whose CSUM is the sum of its elements writes them at their place in the collective's buffer, where the partition's windows
admit them, and no other byte outside the descriptor rings changes; with a wrong CSUM it writes nothing and is a Collective fault of
code 3 (09 R285, R286, R292). All of these where the accesses are clear; across a dead midline nothing is written, and NOPATH is raised
(01 R25; log 43). A MIRROR packet of the open step takes effect on the local copy of its object: SET replaces a FLAG's value and ADD
adds to a COUNT, in the layer of the open step; memory does not change (09 R271, R272). Across a dead midline it has no effect on its
object, and NOPATH is raised (01 R25, 09 R292). That the CSUM of an MCAST is checked is log 64, and the packets come from the model's
inbox (log 91). -/
def Obligations.PacketsLandAtTheirPlace : Prop :=
  (∀ (s : State) (die part : Nat) (p : XPkt), s.inStep part p → s.nextPacket die part p → p.kind = 0 → s.clear (s.xchWho die part) →
     let lead := recNat p.body 0 8
     let obj := lead % 2 ^ 17
     let o := s.obj obj
     let half := halfOfObj obj
     let r : SyncReq :=
       { obj := obj, kind := if o.type = .flag then .set else .add, value := 1, step := (s.part part).openStep
         epoch := tget 0 (s.die die).epochs part, part := part, unit := xchUnit die, src := none, srcId := 0, link := false }
     let signals := lead / 2 ^ 31 % 2 = 1 ∧ o.alloc = true ∧ o.part = part ∧ (o.type = .flag ∨ o.type = .count)
     let reaches := s.dmaReaches die part true p.pos.toNat (p.body.drop 8).length
     ∃ t, exec (.putPacket die part ⟨p, []⟩) s = .next t ∧ t.objs = s.objs
       ∧ (reaches = true → t.mem = ((s.admitted part p.pos.toNat (p.body.drop 8)).foldl (fun (s : State) x => s.wr8 x.1 x.2) s).mem
         ∧ (t.syn half).net = (s.syn half).net ++ (if signals then [r] else []))
       ∧ (reaches = false → t.mem = s.mem ∧ (t.die die).cf = true
         ∧ (t.die die).cfault = cfaultWord 1 s.rank p.coll (s.part part).openStep))
  ∧ (∀ (s : State) (die part : Nat) (p : XPkt), s.inStep part p → s.nextPacket die part p → 2 ≤ p.kind → s.clear (s.xchWho die part) →
       let r := (s.coll part p.coll).getD []
       let w := collW r
       let at_ := collBase r + posFirst p * w
       let does := fun (c : Instr) (data : List Byte) =>
         let ok := codesSum (elemCodes w data) = p.csum
         let reaches := s.dmaReaches die part true at_ data.length = true
         let faults := fun (t : State) (code who : Nat) => t.mem = s.mem ∧ t.syn0 = s.syn0 ∧ t.syn1 = s.syn1 ∧ (t.die die).cf = true
           ∧ (t.die die).cfault = cfaultWord code who p.coll (s.part part).openStep
         let landed := (s.admitted part at_ data).foldl (fun (s : State) x => s.wr8 x.1 x.2) s
         ∃ t, exec c s = .next t ∧ t.objs = s.objs ∧ (ok → reaches → ∀ a, ¬ inRing a → t.rd8 a = landed.rd8 a)
           ∧ (ok → ¬ reaches → faults t 1 s.rank) ∧ (¬ ok → faults t 3 p.srank)
       does (.result die part ⟨p, []⟩) (p.body.take (w * 64)) ∧ does (.mcastPacket die part ⟨p, []⟩) ((p.body.drop 8).take (posCount p * w)))
  ∧ ∀ (s : State) (die part : Nat) (p : XPkt), s.inStep part p → s.nextPacket die part p → p.kind = 4 →
      let r := (s.coll part p.coll).getD []
      let x := collFirst r + fld p.pos 16 0
      let o := s.obj x
      let k := layerOf (s.part o.part).openStep (s.part part).openStep
      let reaches := s.crosses (halfOfDie die) (halfOfObj x) = true
      collKind r = 2 → fld p.pos 16 0 < collCount r →
      (¬ reaches → ∃ t, exec (.mirror die part p) s = .next t ∧ t.mem = s.mem ∧ t.objs = s.objs ∧ (t.die die).cf = true
          ∧ (t.die die).cfault = cfaultWord 1 s.rank p.coll (s.part part).openStep) ∧
      (reaches → s.synDrop x (xchUnit die) (tget 0 (s.die die).epochs part) = none → o.alloc = true →
      (fld p.pos 33 32 = 0 → o.type = .flag →
          ∃ t, exec (.mirror die part p) s = .next t ∧ t.mem = s.mem ∧ t.obj x = o.setLayer k (some (p.csum.setWidth 32)))
        ∧ (fld p.pos 33 32 ≠ 0 → o.type = .count →
          ∃ t, exec (.mirror die part p) s = .next t ∧ t.mem = s.mem ∧ t.obj x = o.setLayer k (some ((o.layer k).getD 0 + p.csum.setWidth 32))))

/-- A contribution this owner has already is discarded and counted when it is the same packet, and a Collective fault of code 7 when it is
not. One whose turn has not come waits in a staging slot of the owner core's store, and no other byte of memory changes. The
contribution of the lowest member rank, at the right signature, anchor and checksum, is added first: the sums in the accumulation area
are its elements, modulo 2^256, with its tags kept (09 R280, R283, R291), where the accesses are clear. Where the owner core lies across
a dead midline none of this happens, and NOPATH is raised (01 R25, 09 R292). The exchange engine that keeps the chunk is that of the
entry's first owner core's die (log 22), and the transfer whose credit comes back is told by its chunks (logs 62 and 63). An access
across a dead midline is log 43's. -/
def Obligations.ContributionsAreAddedInRankOrder : Prop :=
  ∀ (s : State) (die part : Nat) (p : XPkt) (es : List (Int × Bool)), s.inStep part p → s.nextPacket die part p → p.kind = 1 →
    let r := (s.coll part p.coll).getD []
    let ms := collMembers r
    let reached := s.ownerReached die r (posFirst p / 64) = true
    (collOwner r (posFirst p)).1 = s.rank → ms.contains p.srank = true → contribElems p = some es →
    let c := s.chunkOf part r p
    let cd := collDie r
    let taken := s.takePkt part p
    let who := s.ownerWho part (chunkCore r c.chunk)
    let seen := c.seen ++ [(p.srank, p)]
    (¬ reached → (s.contribFits part p = true) → exec (.contrib die part ⟨p, []⟩) s = .next (taken.cfault die part 1 s.rank p.coll))
      ∧ (reached → (∀ q, c.seen.find? (fun x => x.1 == p.srank) = some (p.srank, q) →
        (q = p → exec (.contrib die part ⟨p, []⟩) s = .next (taken.modSyn (halfOfDie die) fun h => { h with dupBen := satAdd h.dupBen 1 }))
          ∧ (q ≠ p → exec (.contrib die part ⟨p, []⟩) s = .next (taken.cfault die part 7 p.srank p.coll)))
      ∧ (∀ k, c.seen.find? (fun x => x.1 == p.srank) = none → c.finished = false → c.next < ms.length → ms[c.next]? ≠ some p.srank →
          (∀ x ∈ c.staged, some x.rank ≠ ms[c.next]?) → s.freeSlot r c false = some k → s.clear who → s.memOk →
          ∃ t, exec (.contrib die part ⟨p, []⟩) s = .next t
            ∧ { c with seen := seen, staged := c.staged ++ [{ rank := p.srank, slot := k, hdr := { p with body := [] }, len := p.body.length }] }
                ∈ (t.die cd).chunks
            ∧ (∀ j, j < p.body.length → t.rd8 (stgAddr r c.chunk k + j) = p.body.getD j 0)
            ∧ (∀ a, a < stgAddr r c.chunk k ∨ stgAddr r c.chunk k + p.body.length ≤ a → t.rd8 a = s.rd8 a) ∧ t.objs = s.objs)
      ∧ (∀ k, c.seen.find? (fun x => x.1 == p.srank) = none → c.finished = false → c.next = 0 → 2 ≤ ms.length → ms[0]? = some p.srank →
          (∀ x ∈ c.staged, some x.rank ≠ ms[0]? ∧ some x.rank ≠ ms[1]?) → s.freeSlot r c true = some k → s.clear who → s.memOk →
          p.sig = collSig r → p.anchor.toInt = collAnchor r → low64sum (es.map fun e => if e.2 then 0 else e.1) = p.csum →
          let acc := (List.replicate 64 (0 : Int)).zipWith (fun a e => a + (if e.2 then 0 else e.1)) es
          ∃ t, exec (.contrib die part ⟨p, []⟩) s = .next t
            ∧ { c with
                seen := seen, high := acc.map fun n => n / 2 ^ 256, tag := c.tag.zipWith (fun t e => t || e.2) es
                expect := c.expect + p.csum, next := 1 } ∈ (t.die cd).chunks
            ∧ (∀ l b, l < 64 → b < 32 → ¬ inRing (accAddr r c.chunk + (32 * l + b)) →
                t.rd8 (accAddr r c.chunk + (32 * l + b)) = BitVec.ofNat 8 ((BitVec.ofInt 256 (acc.getD l 0)).toNat / 256 ^ b))
            ∧ t.objs = s.objs))

/-- A CREDIT takes one chunk of its receiver off what is outstanding of its transfer, and an ACK adds the receiver to those that hold the
whole transfer (09 R286), where the transfer has nothing unsent and is not over by it. DROP tells a receiver that its sender has dropped
it: the transfer is marked so, and chunks it lacks are asked of other holders. A REPAIRREQ is answered with the chunk under this
module's rank; an owner that has not finished it owes it until then, and another holder answers with REPAIRNAK; a REPAIRNAK is followed
by a request to the next holder (09 R287, R288). Which chunk a CREDIT counts is log 62, and the order of holders uses a free value for
the hops (log 23). -/
def Obligations.TransfersAreCreditedAndRepaired : Prop :=
  (∀ (s : State) (die part : Nat) (p : XPkt) (d k : Nat) (w : Swarm), s.inStep part p → s.nextPacket die part p → 2 ≤ p.kind → w.unsent = [] →
     let step := (s.part part).openStep
     let r := (s.coll part p.coll).getD []
     let put := fun (w' : Swarm) => (s.takePkt part p).modDie d fun x => { x with swarms := lset x.swarms k w' }
     let wc := { w with outstanding := tset 0 w.outstanding p.srank (tget 0 w.outstanding p.srank - 1) }
     let wa := { w with acked := w.acked ++ [p.srank] }
     let kind := if collKind r = 1 then 3 else 2
     (s.anySwarm (s.creditFor part r step p) = some (d, k, w) → wc.over = false → exec (.credit die part p) s = .next (put wc))
       ∧ ((s.anySwarm fun x => x.part == part && x.coll == p.coll && x.step == step && x.kind == kind && (kind == 2 || x.tid == leadTid p))
             = some (d, k, w) → w.acked.contains p.srank = false → wa.over = false → exec (.swarmAck die part p) s = .next (put wa)))
  ∧ ∀ (s : State) (die part : Nat) (p : XPkt), s.inStep part p → s.nextPacket die part p → 2 ≤ p.kind →
      let r := (s.coll part p.coll).getD []
      let step := (s.part part).openStep
      let taken := s.takePkt part p
      let x0 := newRx r part (dataKind r) p
      let x := s.getRx die x0
      let missing := x.dropped = true ∧ (x.missing r).contains (chunkId x.kind p) = true
      (s.errs = [] → ∃ t, exec (.drop die part p) s = .next t ∧ (∀ a, ¬ inRing a → t.rd8 a = s.rd8 a) ∧ t.objs = s.objs
          ∧ ∃ y ∈ (t.die die).rx, y.is x0 = true ∧ y.dropped = true)
        ∧ (∀ q, s.heldChunk x0 (chunkId x0.kind p) = some q →
            exec (.repairreq die part p) s = .next (taken.sendHeld die part p.srank (taken.heldAt x0 r q) r q))
        ∧ (s.heldChunk x0 (chunkId x0.kind p) = none → dataKind r = 2 ∧ x0.tid = s.rank →
            exec (.repairreq die part p) s = .next (taken.modDie (collDie r) fun d => { d with owed := d.owed ++ [(part, p)] }))
        ∧ (s.heldChunk x0 (chunkId x0.kind p) = none → ¬ (dataKind r = 2 ∧ x0.tid = s.rank) →
            exec (.repairreq die part p) s = .next (taken.queueX die part p.srank
              { (s.mkPkt part 9 p.coll step p.pos 0 []) with body := p.body }))
        ∧ (missing → exec (.repairnak die part p) s = .next (taken.askRepair die part r step x (chunkId x.kind p)))
        ∧ (¬ missing → exec (.repairnak die part p) s = .next taken)

/-- The timeouts of a collective: a receiver whose credits alone hold a sender, with another one left, is dropped with XCH_LAG's flag and
count, by which no byte outside the descriptor rings changes; an owner that lacks a rank's chunk, and a receiver that no holder
supplies, raise a Collective fault of code 2 and 8 that retracts the step (09 R287, R288, R292, Table 9-7). The commands assert that the
time has passed (log 8); what credits count is log 62. -/
def Obligations.TimeoutsDropOrRetract : Prop :=
  ∀ (s : State) (die part coll chunk rank : Nat), part < 16 →
    let r := (s.coll part coll).getD []
    let faults := fun (c : Instr) (code who : Nat) => ∃ t, exec c s = .next t ∧ t.mem = s.mem ∧ (t.die die).cf = true
      ∧ (t.die die).cfault = cfaultWord code who coll (s.part part).openStep
      ∧ (t.part part).stepEvent = true ∧ (t.part part).retractSent = true
    (∀ k w, s.findSwarm die (fun w => w.part == part && w.coll == coll && w.kind != 1 && !w.unsent.isEmpty
          && (w.live.filter (w.blocked (max 1 (collCredit r)))) == [rank] && decide (1 < w.live.length)) = some (k, w) → s.errs = [] →
        ∃ t, exec (.laggardTimeout die part coll rank) s = .next t ∧ (∀ a, ¬ inRing a → t.rd8 a = s.rd8 a) ∧ (t.die die).lag = true
          ∧ (t.die die).cntLag = satAdd (s.die die).cntLag 1)
      ∧ (∀ c m, ((s.die (collDie r)).chunks.find? fun c => c.part == part && c.coll == coll && c.chunk == chunk
            && c.step == (s.part part).openStep.setWidth 32 && !c.finished) = some c →
          ((collMembers r).find? fun m => !(c.seen.any fun x => x.1 == m)) = some m → faults (.collectiveTimeout die part coll chunk) 2 m)
      ∧ (∀ x, ((s.die die).rx.find? fun x => x.part == part && x.coll == coll && x.dropped && (x.missing r).contains chunk) = some x →
          faults (.repairTimeout die part coll chunk) 8 x.src)

/-- A fetch takes up to 32 descriptors from the front of a channel's ring when its cache holds 32 or fewer: what it takes are the 64 bytes
of each slot in the die store, and a slot whose descriptor was discarded moves nothing; memory does not change (07 R211, R212, 09 R293),
where none waits for a slot and no codeword holds an error. A completed descriptor of a PUT leaves the front of its channel's cache, and
its packet carries the bytes at its source (07 R212, R226, 09 R275), where the access is clear, in window and crosses no dead midline.
The patrol of a die reads each codeword of its memories: a correctable error is written back and counted, and memory keeps its bytes;
with the patrol off, or the compute dies unpowered, nothing happens (07 R218, R222). Discarded descriptors and channels follow log 22,
accesses across a dead midline log 43. -/
def Obligations.ChannelsAndPatrolServeMemory : Prop :=
  (∀ (s : State) (die ch : Nat), let c := (s.die die).chan ch
     (c.wait = [] → c.cache.length ≤ 32 → s.errs = [] →
         ∃ t, exec (.descriptorFetch die ch) s = .next t ∧ t.mem = s.mem ∧ t.objs = s.objs ∧ t.cores = s.cores ∧
           let c' := (t.die die).chan ch
           let slot := fun (k : Nat) => (List.range 64).map fun b => s.rd8 (slotAddr die ch (c.head.toNat + k) + b)
           c'.ring = c.ring.drop 32 ∧ c'.head = c.head + BitVec.ofNat 9 (min 32 c.ring.length) ∧ c'.tail = c.tail ∧ c'.wait = []
             ∧ c'.cache = c.cache ++ ((c.ring.take 32).zipIdx.filter fun x => x.1.act != .void).map fun x => x.1.read (slot x.2))
       ∧ (32 < c.cache.length → exec (.descriptorFetch die ch) s = .next s))
  ∧ (∀ (s : State) (die ch : Nat) (x : PDesc) (rest : List PDesc) (own : Bool), ((s.die die).chan ch).cache = x :: rest →
       x.act = .send own true false → x.hdr.kind = 0 → x.cnt1 = 1 → x.signal = false → s.clear (s.xchWho die x.part) →
       s.dmaReaches die x.part false x.src.toNat x.len0.toNat = true →
       let taken := s.modDie die fun d => { d with chans := tset {} d.chans ch { d.chan ch with cache := rest } }
       let bs := s.dmaBytes x.part false x.src.toNat x.len0.toNat
       let sent := taken.sendX die x.part x.drank { x.hdr with body := x.hdr.body ++ (inWindow bs).map s.rd8 }
       outOfWindow bs = [] →
       exec (.descriptorComplete die ch []) s = .next (if own then sent.settle x.at_ x.id else sent))
  ∧ ∀ (s : State) (die cw : Nat) (e : ErrPat), s.errs = [(cw, e)] → patrolled s.fuse.gradeB die cw = true →
      (((s.die die).scrubEn = false ∨ s.fabricOn = false) → exec (.patrolScrub die []) s = .next s)
        ∧ ((s.die die).scrubEn = true → s.fabricOn = true → cwState cw e = .corrected →
            ∃ t, exec (.patrolScrub die []) s = .next t ∧ t.errs = [] ∧ t.mem = s.mem
              ∧ (t.eccOf cw).ce = satAdd (s.eccOf cw).ce 1 ∧ (t.eccOf cw).ue = (s.eccOf cw).ue)

/-- A host access through a half's endpoint completes whatever it meets: a write changes no byte that no staging window admits, a read
changes no memory and returns its bytes, zero for those that no window admits, and a byte that fails is posted by the endpoint's unit,
which no completion shows; with the endpoint down nothing happens (01 R45, 07 R227). In Dark, and across a dead midline, every byte
fails as one out of window does (logs 43 and 55); what a host reads goes to an outbox of the model (log 90). -/
def Obligations.StagingStaysInItsWindows : Prop :=
  ∀ (s : State) (half : Nat) (addr : W64) (len : Nat) (data : List Byte) (fs : List PhysFault), s.errs = [] →
    let lands := fun (write : Bool) (n : Nat) => (List.range n).filterMap fun k =>
      match s.stageByte half write (addr.toNat + k) with | .inl x => some x.1 | .inr _ => none
    let fails := fun (write : Bool) (n : Nat) => ∃ k c, k < n ∧ s.stageByte half write (addr.toNat + k) = .inr c
    let posted := fun (t : State) => (tget {} t.ev.slots (pcieUnit half).toNat).ret.isSome = true
    ((s.ff half).pcieUp = false → ∀ write, exec (.stagingAccess half write addr len ⟨data, fs⟩) s = .next s)
      ∧ ((s.ff half).pcieUp = true →
          ∃ t, exec (.stagingAccess half true addr len ⟨data, fs⟩) s = .next t ∧ (∀ a, a ∉ lands true data.length → t.rd8 a = s.rd8 a)
            ∧ (fails true data.length → posted t) ∧ t.link.host = s.link.host ∧ t.objs = s.objs ∧ (fs = [] → t.cores = s.cores))
      ∧ ((s.ff half).pcieUp = true →
          ∃ t bs, exec (.stagingAccess half false addr len ⟨data, fs⟩) s = .next t ∧ t.mem = s.mem ∧ t.link.host = s.link.host ++ [(half, bs)]
            ∧ bs.length = len ∧ (fails false len → posted t)
            ∧ ∀ k, k < len → ∀ c, s.stageByte half false (addr.toNat + k) = .inr c → bs[k]? = some 0)

/-- The lead domain compares a ticketed tile's digest with the first record of the same tile in the step: kept when it is the first, counted
and logged as a benign duplicate when equal, and Silent-data when it differs, which the step's retract follows; a failed tile and one
without a ticket are let be (09 R291, R266); the record of Silent-data is of the digest record's step and attempt (Table 12-1). A
partition whose gate waiters stand at their GATE, with every record of it delivered, reports its step once to the manager: status 2
after a retracting event or while a Lost record waits, 1 after Range events under SCALE alone, and 0 otherwise; until then nothing is
sent (09 R264, R265, 12 R347). The Range events that count are those of attempts that complete (log 133). -/
def Obligations.StepsAreComparedAndReported : Prop :=
  (∀ (s : State) (r : DigestRec) (rest : List DigestRec), s.ev.digRecs = r :: rest →
     let taken := s.modEv fun v => { v with digRecs := rest }
     let seen := s.ev.tracker.find? fun x => sameTile x r
     let h := s.leadHalf
     (r.ticket = 0 ∨ r.failed = true → exec (.duplicateTile r) s = .next taken)
       ∧ (r.ticket ≠ 0 → r.failed = false →
         (seen = none → s.ev.tracker.length < 65536 →
             exec (.duplicateTile r) s = .next (taken.modEv fun v => { v with tracker := v.tracker ++ [r] }))
           ∧ (seen = none → 65536 ≤ s.ev.tracker.length →
             exec (.duplicateTile r) s = .next (taken.modSyn h fun k => { k with dupUn := satAdd k.dupUn 1 }))
           ∧ (∀ x, seen = some x → x.digest = r.digest → exec (.duplicateTile r) s
             = .next ((taken.modSyn h fun k => { k with dupBen := satAdd k.dupBen 1 }).modEv fun v => { v with dupLog := v.dupLog ++ [r] }))
           ∧ (∀ x, seen = some x → x.digest ≠ r.digest → r.part < 16 → ∃ t, exec (.duplicateTile r) s = .next t
             ∧ (t.syn h).sde = true ∧ (t.syn h).dupSde = satAdd (s.syn h).dupSde 1
             ∧ (t.part r.part).stepEvent = true ∧ (t.part r.part).retractSent = true
             ∧ ((tget {} s.ev.slots r.unit.toNat).ret = none → ∃ e, (tget {} t.ev.slots r.unit.toNat).ret = some e ∧ e.cls = 8
               ∧ e.step = r.step ∧ e.attempt = r.attempt))))
  ∧ ∀ (s : State) (p : Nat),
      let x := s.part p
      let due := x.loaded = true ∧ s.managing = true ∧ x.reported = false ∧ x.retracting = none ∧ s.atGate p = true ∧ s.delivered p = true
      let status : Byte := if x.stepEvent = true ∨ x.line0 = true ∨ x.line1 = true ∨ s.lostWaits = true then 2 else if x.scaleEv ≠ 0 then 1 else 0
      let m : StepMsg := { job := x.job, step := x.openStep, rank := s.rank, part := p, retry := x.retry, status := status
                           scaleEv := x.scaleEv, lastEv := s.ev.seq - 1 }
      (due → exec (.stepReport p) s = .next ((s.mgmt s.mgrRank (.step m)).modPart p fun x => { x with reported := true }))
        ∧ (¬ due → exec (.stepReport p) s = .next s)

/-- The manager discards a report for a step or a retry that it has ruled, for a job it does not hold or has stopped, and when it does not
act; it keeps one that is not the last; and with the last it rules: COMMIT when every status is not 1 and DISCARD otherwise, the next
step at retry 0, the loss-scale state moved as the table says (09 R267, 10 R305). A Retract for the step and retry under collection is
ruled at once: the retry is raised by one and the verdict is RETRACT; where the retry would be the fourth the job stops, and the module
that raised it is drained (09 R266, R267, 12 R353, R355). The loss scale of Table 10-3: COMMIT counts toward the window and at its end
raises the exponent by UP as far as SMAX; DISCARD lowers it by one as far as SMIN and starts the window anew (10 R305). A report that
reaches a module whose leading half is in a split without a ruling waits (14 R405; log 159). Which module the fourth retry drains, and
what the job stop carries, are logs 57 and 145. -/
def Obligations.TheManagerRulesOnSteps : Prop :=
  (∀ (s : State) (m : StepMsg), s.managing = false → exec (.stepReportArrival m) s = .next (s.modMgr fun g => { g with deferred := g.deferred ++ [.report m] }))
  ∧ (∀ (s : State) (m : StepMsg), s.findJob m.job = none →
       (s.managing = true → exec (.stepReportArrival m) s = .next s) ∧ exec (.retractArrival m) s = .next s)
  ∧ (∀ (s : State) (m : StepMsg) (j : Job), s.managing = true → s.findJob m.job = some j → j.started = true → m.status.toNat < 2 →
     let stale := s.mgr.acting = false ∨ j.stopped = true ∨ j.step ≠ m.step ∨ j.retry ≠ m.retry
     let reports := if j.reports.any (fun r => r.rank == m.rank && r.part == m.part) then j.reports else j.reports ++ [m]
     let all := j.members.all fun x => reports.any fun r => r.rank == x.1 && r.part == x.2
     let commit := reports.all fun r => r.status != 1
     let put := fun (j' : Job) => s.mgr.jobs.map fun x => if x.job = j.job then j' else x
     (stale → exec (.stepReportArrival m) s = .next s)
       ∧ (¬ stale → all = false → exec (.stepReportArrival m) s = .next (s.modMgr fun g => { g with jobs := put { j with reports := reports } }))
       ∧ (¬ stale → all = true → s.ev.replay = none → ∃ t, exec (.stepReportArrival m) s = .next t
           ∧ t.mgr.jobs = put { j with
               step := j.step + 1, retry := 0, reports := [], verdict := if commit then 1 else 2, ls := (scaleNext j.rec_ j.ls commit).1 }))
  ∧ (∀ (s : State) (m : StepMsg) (j : Job), s.findJob m.job = some j → j.started = true → s.mgr.acting = true → j.stopped = false →
       j.step = m.step → j.retry = m.retry → j.drained = [] →
       let put := fun (j' : Job) => s.mgr.jobs.map fun x => if x.job = j.job then j' else x
       (j.retry.toNat < 3 → ∃ t, exec (.retractArrival m) s = .next t
           ∧ t.mgr.jobs = put { j with retry := j.retry + 1, reports := [], verdict := 3 })
         ∧ (3 ≤ j.retry.toNat → ∃ t, exec (.retractArrival m) s = .next t
           ∧ t.mgr.jobs = put { j with stopped := true, reports := [], drained := [m.rank] }))
  ∧ ∀ (r : ScaleRec) (l : LsState), l.sexp.toInt ≤ r.smax.toInt →
      let c := (scaleNext r l true).1
      let d := (scaleNext r l false).1
      (l.clean.toNat + 1 < r.window.toNat → c = { l with clean := l.clean + 1 })
        ∧ (r.window.toNat ≤ l.clean.toNat + 1 → c.clean = 0 ∧ c.sexp.toInt = min (l.sexp.toInt + r.up.toNat) r.smax.toInt
            ∧ c.disc = l.disc ∧ c.floor = l.floor)
        ∧ (r.smin.toInt < l.sexp.toInt → d.clean = 0 ∧ d.sexp.toInt = l.sexp.toInt - 1 ∧ d.disc = satAdd l.disc 1 ∧ d.floor = l.floor)
        ∧ (l.sexp = r.smin → d.clean = 0 ∧ d.sexp = l.sexp ∧ d.disc = satAdd l.disc 1 ∧ d.floor = satAdd l.floor 1)

/-- A GATE value for a job reaches each partition of it on the module, one or several: FF_LSSTATE takes the job's state; COMMIT and DISCARD for the open step
open the next step at retry 0, and a RETRACT leaves the open step; a pending value is noted by the Retract handling, or by a partition
that owes it (09 R263, R267, R268, 12 R353). During a split of the leading half without a ruling the value waits (14 R405; log 159). -/
def Obligations.GateValuesAdvanceTheStep : Prop :=
  ∀ (s : State) (job : W64) (value : W32) (ls : LsState),
    (s.managing = false →
      exec (.gateWrite job value ls) s = .next (s.modMgr fun g => { g with deferred := g.deferred ++ [.gate job value ls] })) ∧
    (s.managing = true → ∃ t, exec (.gateWrite job value ls) s = .next t ∧ ∀ p ∈ s.jobParts job,
    let rules := fld value 31 12 = (s.part p).openStep.toNat % 2 ^ 20
    let v := fld value 11 10
    (t.part p).ls = ls
      ∧ (rules → v = 1 ∨ v = 2 → (t.part p).openStep = (s.part p).openStep + 1 ∧ (t.part p).retry = 0)
      ∧ (rules → v = 0 ∨ v = 3 → (t.part p).openStep = (s.part p).openStep ∧ (t.part p).retry = (s.part p).retry)
      ∧ (¬ rules → (t.part p).openStep = (s.part p).openStep ∧ (t.part p).retry = (s.part p).retry)
      ∧ (rules → v = 0 → (t.part p).retracting = ((s.part p).retracting.map fun r => { r with gateSeen := true })
          ∧ (t.part p).owedGate = (s.part p).owedRetract.isSome))

/-- A Retract message for the open step, of a retry not in force, starts the handling of a resident partition: the retry takes its number
and every stream of it stops, but one that has halted; one that is saved out takes the retry and owes the rest; a message for another
step or the retry in force changes nothing (12 R353, 09 R268, 08 R258); and where an event interrupted the handling of the Retract
before, the module is drained (12 R355). During a split without a ruling the message waits (14 R405; log 159). Once the rewind is done,
every escalation made and the pending GATE value seen, the handling ends, the stopped streams of the partition that have an image run
and its gated cores are ON (14 R397); without that value, or after an event that retracts the step, they stay stopped (12 R353, R355).
The Deathwatch fires where a running stream of the partition is stalled on SYNC or OPEND: it counts, and every stream of the partition
is FROZEN (12 R357), but one that has halted, is held or has no image, which keeps its state (05 Table 5-1; log 27); where none is
stalled, and during a split without a ruling, it does nothing. The Deathwatch's command asserts its time (log 8). -/
def Obligations.RetractStopsAndReleasesItsStreams : Prop :=
  (∀ (s : State) (p : Nat) (m : StepMsg) (parity : List StreamId), s.jobParts m.job = [p] → (s.part p).loaded = true →
     let x := s.part p
     let due := ∃ r, x.retracting = some r ∧ r.interrupted = true ∧ r.aborted = false
     (s.managing = false →
         exec (.retractHandling m parity) s = .next (s.modMgr fun g => { g with deferred := g.deferred ++ [.retract m parity] })) ∧
     (s.managing = true → (x.openStep ≠ m.step ∨ x.retry = m.retry ∨ x.jobStop = true → exec (.retractHandling m parity) s = .next s)
       ∧ (x.openStep = m.step → x.retry ≠ m.retry → x.jobStop = false → x.resident = true → due →
           ∃ t, exec (.retractHandling m parity) s = .next t ∧ t.ev.drain = true)
       ∧ (x.openStep = m.step → x.retry ≠ m.retry → x.jobStop = false → x.resident = false →
           exec (.retractHandling m parity) s = .next (s.modPart p fun x =>
             { x with owedRetract := some m, owedGate := false, retry := m.retry, line0 := false, line1 := false, stepEvent := false
                      retractSent := false, scaleEv := 0, reported := false }))
       ∧ (x.openStep = m.step → x.retry ≠ m.retry → x.jobStop = false → x.resident = true → ¬ due → x.escal = [] → parity = [] →
           ∃ t, exec (.retractHandling m parity) s = .next t ∧ (t.part p).retry = m.retry ∧ (t.part p).openStep = x.openStep
             ∧ ∀ i ∈ s.partStreams p, i.wf = true → (s.core (skey i)).pow = .on ∨ (s.core (skey i)).pow = .gated →
               (t.stream i).state = if (s.stream i).state = .halted then .halted else .stopped)))
  ∧ (∀ (s : State) (p : Nat) (r : Retracting), (s.part p).retracting = some r → r.rewound = true → r.escalation = [] →
       (s.part p).loaded = true → s.ev.drain = false → (s.part p).jobStop = false →
       let free := r.gateSeen = true ∧ r.interrupted = false
       ∃ t, exec (.retractRelease p) s = .next t
         ∧ (free → (t.part p).retracting = none ∧ (t.part p).handling = []
           ∧ (∀ k ∈ (s.part p).cores, (s.core k).pow = .gated → (t.core k).pow = .on)
           ∧ ∀ i ∈ s.partStreams p, i.wf = true → (s.core (skey i)).pow = .on ∨ (s.core (skey i)).pow = .gated →
             (t.stream i).state = if (s.stream i).state = .stopped ∧ (s.stream i).imgLen ≠ 0 then .running else (s.stream i).state)
         ∧ (¬ free → (t.part p).retracting = some r ∧ t.cores = s.cores))
  ∧ ∀ (s : State) (p : Nat),
      let stuck := fun (i : StreamId) => ((s.stream i).stalledAt).isSome = true
      ((∀ i ∈ s.partStreams p, ¬ stuck i) ∨ s.managing = false → exec (.deathwatch p) s = .next s)
        ∧ (s.managing = true → (∃ i ∈ s.partStreams p, stuck i) → ∃ t, exec (.deathwatch p) s = .next t ∧ t.ev.dwFires = satAdd s.ev.dwFires 1
            ∧ t.ev.dwPart = BitVec.ofNat 4 p ∧ t.mem = s.mem
            ∧ ∀ i ∈ s.partStreams p, i.wf = true → (s.core (skey i)).pow = .on ∨ (s.core (skey i)).pow = .gated →
              let st := s.stream i
              (t.stream i).state = if st.state = .halted ∨ st.state = .held ∨ st.imgLen = 0 then st.state else .frozen)

/-- The mailbox accepts the first ready record whose queue has room: it takes the next SEQ, the Firefly time, the job of its partition and
the samples of its unit, which the module keeps as the last of their sensor and rail (14 R401; log 157), and its slot is empty again;
with none ready nothing happens (12 R342, R345, R346). A record that counts toward escalation begins the handling of the units it names
(12 R348). A Firefly domain that is up and not split without a ruling takes the head of its queue into the log, which keeps the last
4,194,304 records, and pins the step of a retracting record; another domain leaves its queue (12 R345, R348, R362, 14 R405). The
recorder moves the oldest record of a half's buffer to the end of its ring, evicting none while it fits; where the buffer cannot drain,
the step's records are dropped from both buffers and the step is marked incomplete (12 R361, R362). The ring holds whole records (log
94); both halves' FF_TIME is one clock (log 80). -/
def Obligations.EventRecordsEnterTheLog : Prop :=
  (∀ (s : State) (temp volt : W16),
     ((s.ready.find? fun x => s.roomFor x) = none → exec (.eventRecordAccept temp volt) s = .next s)
       ∧ (∀ u ret h, (s.ready.find? fun x => s.roomFor x) = some (u, ret) →
           (if ret then (tget {} s.ev.slots u).ret else (tget {} s.ev.slots u).ord) = some h →
           (if ret then (tget {} s.ev.slots u).retOver else (tget {} s.ev.slots u).ordOver) = 0 →
           let e : EvRec := { h with
             seq := s.ev.seq, time := s.pwr.ffTime, job := if h.part.toNat < 16 then (s.part h.part.toNat).job else 0
             temp := temp, volt := volt }
           let half := unitHalf (BitVec.ofNat 32 u)
           let sl := tget {} s.ev.slots u
           ∃ t, exec (.eventRecordAccept temp volt) s = .next t ∧ t.ev.seq = s.ev.seq + 1
             ∧ t.ev.q0 = (if half = 0 then s.ev.q0 ++ [e] else s.ev.q0) ∧ t.ev.q1 = (if half = 0 then s.ev.q1 else s.ev.q1 ++ [e])
             ∧ t.ev.slots = tset {} s.ev.slots u
                 (if ret then { sl with ret := none, retOver := 0, retMask := 0 } else { sl with ord := none, ordOver := 0, ordMask := 0 })
             ∧ t.pwr.temps = tset 0 s.pwr.temps (sensorOf (BitVec.ofNat 32 u)) temp ∧ t.pwr.volts = tset 0 s.pwr.volts (railOf (BitVec.ofNat 32 u)) volt
             ∧ (s.isE e = false → t.parts = s.parts)
             ∧ (s.isE e = true → e.part.toNat < 16 → ∀ k ∈ s.unitsOf e, k ∈ (t.part e.part.toNat).handling) ∧ t.mem = s.mem))
  ∧ (∀ (s : State) (half : Nat) (e : EvRec) (q : List EvRec), s.ev.queueOf half = e :: q →
       let h := s.ff half
       (h.up = false ∨ (h.split = true ∧ h.ruled = false) → exec (.recordHandling half) s = .next s)
         ∧ (h.up = true → (h.split = true → h.ruled = true) → ∃ t, exec (.recordHandling half) s = .next t
             ∧ t.ev.queueOf half = q ∧ t.ev.log = (s.ev.log ++ [e]).drop (s.ev.log.length + 1 - 4194304) ∧ t.ev.seq = s.ev.seq
             ∧ (e.part.toNat < 16 → stepClass e = true → (e.part.toNat, e.step) ∈ t.ev.pins)))
  ∧ ∀ (s : State) (half : Nat) (r : CapRec) (rest : List CapRec), (if half = 0 then s.ev.cap0 else s.ev.cap1) = r :: rest →
      let key := (r.part.toNat, r.step)
      let keep := fun (x : CapRec) => (x.part.toNat, x.step) != key
      (s.ev.pins.contains key = false → (s.ev.ring.map fun x => capSize x.1).sum + capSize r ≤ 6 * 2 ^ 30 →
          ∃ t, exec (.capsuleRecord half true) s = .next t ∧ t.ev.ring = s.ev.ring ++ [(r, false)]
            ∧ (if half = 0 then t.ev.cap0 else t.ev.cap1) = rest ∧ t.ev.incomplete = s.ev.incomplete)
        ∧ (∃ t, exec (.capsuleRecord half false) s = .next t ∧ t.ev.cap0 = s.ev.cap0.filter keep ∧ t.ev.cap1 = s.ev.cap1.filter keep
            ∧ t.ev.incomplete = s.ev.incomplete ++ [key] ∧ t.ev.overrun = satAdd s.ev.overrun 1 ∧ t.ev.ring = s.ev.ring)

/-- LOAD takes an image in chunks, and answers each (13 Table 13-5; log 154); with the last one the image joins the loader's queue, after
the manager has been asked for its job's key, and waits for that key where its job has members elsewhere (log 58). It is REFUSED on a
drained module, on one without a fabric and on one that admits no job, where nothing of the image is kept. LOAD_APPLY takes the oldest
image: on a drained module it is refused; one that a check rejects leaves every partition, core, sync object and byte of memory as it
is; one that passes loads every partition it names; the loaders of the halves it uses show its report, and count a load that was
applied; while the load port acts for a partition it names, or a channel holds fetched descriptors of one, and during a split without a
ruling (14 R405), it waits; an empty queue does nothing (01 R43, 07 R228, 08 R251, R252, 11 R335, 12 R356, 13 R390, log 40, log 41, log
58). A load is one step, its scrub included (log 144). -/
def Obligations.LoadsAreAppliedWhole : Prop :=
  (∀ (s : State) (m : CmdHdr) (k : Session) (x : LoadChunk), s.admits m (fieldCmd 1) k →
    let put := fun (image : List Byte) => s.modSec fun y =>
      { y with sessions := y.sessions.map fun z => if z.sid = m.sid then { z with lastIn := m.seq, image := image } else z }
    let whole := k.image ++ x.bytes
    let s1 := (put []).keyFirst whole
    let closed := s.ev.drain = true ∨ s.fabricOn = false ∨ s.noAdmission = true
    (closed → exec (.load m x) s = .next ((put []).reply m stRefused))
      ∧ (¬ closed → x.last = false → exec (.load m x) s = .next ((put whole).reply m stOk))
      ∧ (¬ closed → x.last = true → exec (.load m x) s = .next (s1.modLdr fun l =>
          if s1.keyDue whole then { l with held := l.held ++ [(m.sid, m.seq, whole)] } else { l with queue := l.queue ++ [(m.sid, m.seq, whole)] })))
  ∧ (∀ s : State, s.ldr.queue = [] → exec .loadApply s = .next s)
  ∧ ∀ (s : State) (sid : W32) (seq : W64) (b : List Byte) (rest : List (W32 × W64 × List Byte)), s.ldr.queue = (sid, seq, b) :: rest →
    let s1 := s.modLdr fun l => { l with queue := rest }
    let waits := s.managing = false
      ∨ (s.ev.drain = false ∧ ∃ p ∈ imgParts b, ((s.part p).retracting.isSome = true ∧ (s.part p).jobStop = false) ∨ s.fetched p = true)
    let shown := fun (t : State) (r : List Byte) (n : Nat) => ∀ h, h < 2 →
      if h ∈ s1.loadersOf b false then
        (t.ff h).ldr.report = r ∧ (t.ff h).ldr.count = (if n = 0 then (s.ff h).ldr.count else satAdd (s.ff h).ldr.count 1)
      else (t.ff h).ldr = (s.ff h).ldr
    (waits → exec .loadApply s = .next s)
      ∧ (¬ waits → s.ev.drain = true → exec .loadApply s = .next (if s.sec.sessions.any fun k => k.sid == sid then
          s1.say { sid := sid, type := 5, seq := seq, status := stRefused } else s1))
      ∧ (∀ r, ¬ waits → s.ev.drain = false → checkImage s1 b = some r → ∃ t, exec .loadApply s = .next t
          ∧ t.ldr.queue = rest ∧ shown t (loadReport b (some r)) 0
          ∧ t.parts = s.parts ∧ t.cores = s.cores ∧ t.objs = s.objs ∧ t.mem = s.mem)
      ∧ (¬ waits → s.ev.drain = false → checkImage s1 b = none → ∃ t, exec .loadApply s = .next t
          ∧ t.ldr.queue = rest ∧ shown t (loadReport b none) 1 ∧ t.pwr.step = 10
          ∧ ∀ p ∈ (parseImg b).parts, (t.part p).loaded = true ∧ (t.part p).digest = imgDigest b ∧ (t.part p).job = imgJob b
            ∧ ((t.part p).sgrp = 0 → (t.part p).resident = true))

/-- RELEASE of a partition that is not loaded is REFUSED. A loaded one it takes off the module: the partition is as at reset, its objects
are unallocated, and no core belongs to it; a core that the resident member of its slice group does not hold has every register clear
and is not ON, its store reads as zero and its ownership tag is CLEAN; every granule of its windows and Chrysalis areas, in HBM and in
the die stores, reads as zero with a CLEAN tag, but a die-store granule that this member holds; a saved-out partition's tenant has no
other granule either, but those of other partitions; a job with no partition left has no key in the key store (08 R254, 13 R373, R375,
R382, R391; logs 41 and 142). Where no codeword holds an error and no job waits for a slot, no other partition changes. How a job's slot
is freed is log 58's. -/
def Obligations.ReleaseScrubsThePartition : Prop :=
  ∀ (s : State) (m : CmdHdr) (k : Session) (p : Nat), s.admits m (fieldCmd 1) k →
    let x := s.part p
    let held := fun (c : Nat) => x.sgrp ≠ 0 ∧ ∃ y ∈ s.parts, y.1 ≠ p ∧ y.2.loaded = true ∧ y.2.resident = true ∧ y.2.sgrp = x.sgrp ∧ c ∈ y.2.cores
    let heldG := fun (g : Nat) => 24 * 2 ^ 25 ≤ g ∧ x.sgrp ≠ 0 ∧ ∃ y ∈ s.parts, y.1 ≠ p ∧ y.2.loaded = true ∧ y.2.resident = true
      ∧ y.2.sgrp = x.sgrp ∧ inGrans (y.2.granules s.fuse.gradeB) g = true
    (∀ g, inGrans (x.granules s.fuse.gradeB) g = true → g ∈ s.releaseGrans p)
      ∧ (x.saved.isSome = true → ∀ e ∈ s.ldr.granTag, e.2 = x.tenant.toNat + 1 →
          (∀ y ∈ s.parts, y.1 ≠ p → y.2.loaded = true → inGrans (y.2.granules s.fuse.gradeB) e.1 = false) → e.1 ∈ s.releaseGrans p)
      ∧ (x.loaded = false → exec (.release m p) s = .next ((s.noted m).reply m stRefused))
      ∧ (x.loaded = true → ∃ t, exec (.release m p) s = .next t ∧ t.part p = {}
        ∧ (s.errs = [] → s.mgr.asks = [] → t.parts = tset {} s.parts p {})
        ∧ (∀ g ∈ s.releaseGrans p, ¬ heldG g → tget 0 t.ldr.granTag g = 0 ∧ ∀ a, g * 4096 ≤ a → a < g * 4096 + 4096 → t.rd8 a = 0)
        ∧ ((∀ y ∈ tset {} s.parts p {}, y.2.loaded = true → y.2.job ≠ x.job) → s.mgr.asks = [] → ∀ e ∈ t.sec.jobKeys, e.2.job ≠ x.job)
        ∧ (∀ o ∈ s.partObjs p, t.obj o = {})
        ∧ (∀ c ∈ x.cores, (t.core c).part ≠ some p)
        ∧ ∀ c ∈ x.cores, ¬ held c → (∃ w, w ≠ .on ∧ t.core c = { pow := w, pos := (s.core c).pos })
          ∧ tget 0 t.ldr.coreTag c = 0 ∧ ∀ a, coreStore c ≤ a → a < coreStore c + 2 ^ 21 → t.rd8 a = 0)

/-- The switches of a slice group: QUANTUM_EXPIRY gives the cores to the next member in turn that has work, SWITCH_TIME to the member whose
named time has come, and SWITCH_COMMAND names that time for a partition of MODE 1; the outgoing member is saved. Each does nothing where
it may not switch: while a load that was accepted before waits, while the load port acts for the resident member (08 R255, R257, R258),
and during a split without a ruling (14 R405). TWIN_SWITCH loads the sub-image that a loaded partition holds for a half in its place:
the open step, its retry, the job and the loss-scale state stand; without such a sub-image, on a drained module, or during a split
without a ruling, nothing happens; and a sub-image that fails a check against the module as it is now is reported and changes nothing
(01 R49, 08 R242, R251, R258, 12 R356, log 42). The commands assert that quantum and time have passed (log 8). -/
def Obligations.SwitchesChangeTheResident : Prop :=
  (∀ (s : State) (p q g : Nat), (s.part p).sgrp = g → s.residentOf g = some q → p ≠ q → (s.part p).resident = false →
     (∃ ch, (s.part p).saved = some ch ∧ ch.digest = (s.part p).digest) →
     let members := (List.range 16).map fun k => (q + 1 + k) % 16
     let next := members.find? fun y => (s.part y).loaded && (s.part y).sgrp == g && !(s.part y).mode1 && (s.part y).hasWork
     (∀ time, exec (.switchCommand p time) s
         = .next (if (s.part p).loaded && (s.part p).mode1 then s.modPart p fun x => { x with switchAt := some time } else s))
       ∧ ((s.part p).loaded = true → (s.part p).switchAt.isSome = true → s.switchWaits g = false → s.managing = true →
           ∃ t, exec (.switchTime p) s = .next t ∧ t.Switched p q ∧ (t.part p).switchAt = none)
       ∧ ((s.part p).loaded = false ∨ (s.part p).switchAt = none ∨ s.switchWaits g = true ∨ s.managing = false → exec (.switchTime p) s = .next s)
       ∧ (g ≠ 0 → s.switchWaits g = false → s.managing = true → next = some p → ∃ t, exec (.quantumExpiry g) s = .next t ∧ t.Switched p q)
       ∧ (g = 0 ∨ s.switchWaits g = true ∨ s.managing = false ∨ next = none → exec (.quantumExpiry g) s = .next s))
  ∧ ∀ (s : State) (p half : Nat), half < 2 → let x := s.part p
      (x.loaded = false ∨ s.ev.drain = true ∨ s.managing = false ∨ (∀ e ∈ x.twins, e.1 ≠ half) → exec (.twinSwitch p half) s = .next s)
        ∧ ∀ b, x.loaded = true → s.ev.drain = false → s.managing = true → (x.twins.find? fun e => e.1 == half) = some (half, b) →
          let bad := bodyChecks { m := parseImg b, s := s, sub := true } (fun _ => [])
          (∀ r, bad = some r → ∃ t, exec (.twinSwitch p half) s = .next t ∧ t.parts = s.parts ∧ t.cores = s.cores ∧ t.objs = s.objs
              ∧ t.mem = s.mem ∧ (t.ff half).ldr.report = loadReport b (some r))
            ∧ (bad = none → ∃ t, exec (.twinSwitch p half) s = .next t ∧
              let y := t.part p
              y.loaded = true ∧ y.digest = imgDigest b ∧ y.openStep = x.openStep ∧ y.retry = x.retry ∧ y.ls = x.ls ∧ y.scale = x.scale
                ∧ y.job = x.job ∧ y.jslot = x.jslot ∧ y.twins = x.twins)

/-- A session command is let through only by its session and the shell: nothing happens without a Firefly domain, a header as Table 13-4 has
it, an accepted session, a right TAG and a rising message number; and it is turned away with MALFORMED for a code that Table 13-5 does
not list, NOTLEAD in a split without a ruling, REFUSED in another life-cycle state or with both halves failed, BUSY while RESET_L is
held, and ROLE for a lesser role, where the reply is all that happens (13 R383 to R385, R387, Table 13-1, 14 R403 to R405). The order of
these checks, and that both halves' failure is REFUSED, is the model's reading (log 51); what is served in a reset is log 158's for a
clear of the latches. That the TAG's check is an operand is log 13. -/
def Obligations.SessionCommandsPassTheShell : Prop :=
  ∀ (s : State) (c : Instr) (m : CmdHdr) (d : CmdKind), s.sessionKind c = some (m, d) →
    ((s.ff0.up = false ∧ s.ff1.up = false → exec c s = .next s)
      ∧ (headGood m.head = false → exec c s = .next s)
      ∧ (m.sid ≠ 0 → (s.sec.sessions.find? fun k => k.sid == m.sid) = none → exec c s = .next s)
      ∧ (∀ k, m.sid ≠ 0 → (s.sec.sessions.find? fun k => k.sid == m.sid) = some k → k.slot ≠ 255 →
          (k.accepted = false ∨ m.authentic = false ∨ m.seq ≤ k.lastIn) → exec c s = .next s))
    ∧ ∀ k, s.sessionOf m = some k →
      let turned := fun (st : Byte) => exec c s = .next ((s.turnedAway c m).reply m st)
      let split := (s.ff0.split = true ∧ s.ff0.ruled = false) ∨ (s.ff1.split = true ∧ s.ff1.ruled = false)
      let served := s.lcs ∈ d.states ∧ (s.bothFailed = false ∨ d.failed = true)
      (codeUnlisted m = true → turned stMalformed) ∧ (codeUnlisted m = false →
      (split → turned stNotlead)
        ∧ (¬ split → ¬ served → turned stRefused)
        ∧ (¬ split → served → s.pwr.inReset = true → d.held = false → turned stBusy)
        ∧ (¬ split → served → (s.pwr.inReset = false ∨ d.held = true) → d.role < k.role → turned stRole))

/-- The commands that read answer with what they read and change nothing else, but that a read of an error counter lets the next corrected
error be posted and a signature takes one draw (07 R218, 13 R378, Table 13-5). The bytes under a signature or digest are log 30's, the
status at other addresses log 39's, the session of the UART log 32's, and what RETURN serves log 52's. -/
def Obligations.ReadCommandsOnlyReply : Prop :=
  ∀ (s : State) (m : CmdHdr) (k : Session), let n := s.noted m
    let sig := fun (b : List Byte) => beBytes 96 (Config.ecdsaSign s.fuse.idKey s.free b).toNat
    let id : CmdKind := { role := 2, states := [1, 2, 3, 4], held := true, failed := true }
    (s.admits m id k → s.lcs ≠ 4 →
        exec (.ident m) s = .next ((n.skipFree 1).reply m stOk (n.reportBytes 0 ++ sig (n.reportBytes 0) ++ s.fuse.cert)))
      ∧ (s.admits m id k → s.lcs = 4 →
        exec (.ident m) s = .next (n.reply m stOk (n.reportBytes 0 ++ List.replicate 96 0 ++ s.fuse.cert)))
      ∧ (∀ nonce, s.admits m { role := 2, states := [1, 2, 3], held := true } k →
        exec (.attest m nonce) s = .next ((n.skipFree 1).reply m stOk (n.reportBytes nonce ++ sig (n.reportBytes nonce))))
      ∧ (∀ a, s.admits m (heldCmd 2) k → exec (.rdreg m a) s = .next (
          if a.toNat % 8 ≠ 0 then n.reply m stMalformed
          else match s.regAt a.toNat with
            | none => n.reply m stRefused
            | some r =>
              if s.pwr.inReset && !r.held then n.reply m stBusy else (n.regRead r).reply m stOk (leBytes 8 (n.regWord r).toNat)))
      ∧ (∀ a b, s.admits m { role := 2, states := [2], held := true, failed := true } k → exec (.evread m a b) s = .next (n.say
          { sid := m.sid, type := 5, seq := m.seq, status := stOk
            events := s.ev.log.filter fun e => decide (a ≤ e.seq) && decide (e.seq ≤ b) }))
      ∧ (∀ p a b, s.admits m (fieldCmd 2) k → exec (.capread m p a b) s = .next (n.say
          { sid := m.sid, type := 5, seq := m.seq, status := stOk
            caps := (s.ev.ring.map (·.1)).filter fun r => r.part.toNat == p && decide (a ≤ r.step) && decide (r.step ≤ b) }))
      ∧ (s.admits m (heldCmd 2) k → ∃ bits : List Byte, bits.length = 108
          ∧ exec (.health m) s = .next (n.reply m stOk (bits ++ s.ev.badGran.flatMap fun g => leBytes 8 (g * 4096)))
          ∧ ∀ d p, d < 12 → p < 72 → (bits.getD (9 * d + p / 8) 0).getLsbD (p % 8) = s.ev.failed.contains (d * 72 + p))

/-- WRREG writes what a session may write and answers OK; a word without such a field and an address without a block are REFUSED,
an address that is not a multiple of 8 is MALFORMED, and FWFAIL and MGT_NET need OWNER (07 R229, 09 R295, 12 R366, 13 Table 13-9,
14 R410, log 36, log 39). -/
def Obligations.RegisterWritesReachTheirFields : Prop :=
  ∀ (s : State) (m : CmdHdr) (k : Session) (v : W64) (die core : Nat), s.admits m (fieldCmd 1) k → die < 12 → core < 56 →
    let n := s.noted m
    let lead := ctlRegs + s.leadHalf * 0x10000000
    let key := die * 128 + core
    let at_ := fun (a : Nat) (st : Byte) (t : State) => exec (.wrreg m (BitVec.ofNat 64 a) v) s = .next (t.reply m st)
    (∀ a : W64, a.toNat % 8 ≠ 0 → exec (.wrreg m a v) s = .next (n.reply m stMalformed))
      ∧ (∀ a : W64, a.toNat % 8 = 0 → s.regAt a.toNat = none → exec (.wrreg m a v) s = .next (n.reply m stRefused))
      ∧ at_ (coreRegs + key * 0x10000) stRefused n
      ∧ at_ (coreRegs + key * 0x10000 + 0x2000) stOk (n.modCore key fun c =>
          { c with strUe := c.strUe && !v.getLsbD 3, strPar := c.strPar && !v.getLsbD 2, strBnd := c.strBnd && !v.getLsbD 1 })
      ∧ at_ (coreRegs + key * 0x10000 + 0x2008) stOk (n.modCore key fun c => { c with mergeWin := v.setWidth 8 })
      ∧ at_ (dieRegs + die * 0x1000000 + 0x20) stOk (n.modDie die fun x =>
          { x with scrubPeriod := BitVec.ofNat 16 (fld v 23 8), scrubEn := v.getLsbD 0 })
      ∧ at_ (dieRegs + die * 0x1000000 + 0x10008) stOk (n.modDie die fun x => { x with lagUs := v.setWidth 20 })
      ∧ at_ (dieRegs + die * 0x1000000 + 0x10010) stOk (n.modDie die fun x => { x with ctoMs := v.setWidth 16 })
      ∧ at_ (lead + 0x201018) stOk (n.modEv fun x => { x with dwMs := v.setWidth 16 })
      ∧ (v.getLsbD 7 = false → at_ (lead + 0x300010) stOk (n.modSec fun x => { x with alert := x.alert &&& ~~~(v.setWidth 16) }))
      ∧ (v.getLsbD 7 = true → k.role ≠ 0 → at_ (lead + 0x300010) stRole n)
      ∧ at_ (lead + 0x300018) stOk (n.modSec fun x => { x with alertMask := v.setWidth 16 })
      ∧ (k.role ≠ 0 → at_ (lead + 0x300028) stRole n)
      ∧ at_ (lead + 0x400008) stOk (n.modPwr fun p => { p with cap := v.setWidth 16 })

/-- A write that places a one in a reserved position of a register word is performed with that position treated as zero, and
nothing else comes of it: the same reply and the same state (00 R18). -/
def Obligations.ReservedPositionsAreWrittenAsZero : Prop :=
  ∀ (s : State) (m : CmdHdr) (a v : W64) (r : RegAt), s.regAt a.toNat = some r →
    exec (.wrreg m a v) s = exec (.wrreg m a (v &&& writableBits r)) s

/-- A subscription receives every record from its SEQ on; what the log no longer holds is a GAP, after which the records follow. A client's
acknowledgement takes the records up to its SEQ off those that were sent and are not acknowledged (log 37), with which UNREAD clears once
all of them up to the last record that set it have been (13 R388, R389). -/
def Obligations.SubscribersReceiveAndAcknowledge : Prop :=
  ∀ (s : State) (m : CmdHdr) (k : Session), let n := s.noted m
    let oldest := (s.ev.log.head?.map (·.seq)).getD s.ev.seq
    (∀ (a : W64), s.admits m (heldCmd 2) k → oldest ≤ a → (∀ e ∈ s.ev.log, e.seq < a) →
        ∃ t, exec (.subscribe m a) s = .next t ∧ n.says t [{ sid := m.sid, type := 5, seq := m.seq }]
          ∧ ∀ y ∈ t.sec.sessions, y.sid = m.sid → y.sub = some (a, []))
      ∧ (∀ (a : W64) (es : List EvRec) (e : EvRec), s.admits m (heldCmd 2) k → oldest ≤ a →
          (s.ev.log.filter fun x => decide (a ≤ x.seq)) = es → es.getLast? = some e → es.length ≤ 64 →
          (∀ x ∈ s.ev.log, x.seq ≤ e.seq) → e.seq.toNat + 1 < 2 ^ 64 →
        ∃ t, exec (.subscribe m a) s = .next t
          ∧ n.says t [{ sid := m.sid, type := 5, seq := m.seq }, { sid := m.sid, type := 6, events := es }]
          ∧ ∀ y ∈ t.sec.sessions, y.sid = m.sid → y.sub = some (e.seq + 1, es.map (·.seq)))
      ∧ (∀ (a : W64) (e : EvRec), s.admits m (heldCmd 2) k → a < oldest → s.ev.log.getLast? = some e → s.ev.log.length ≤ 64 →
          (∀ x ∈ s.ev.log, oldest ≤ x.seq ∧ x.seq ≤ e.seq) → e.seq.toNat + 1 < 2 ^ 64 →
        ∃ t, exec (.subscribe m a) s = .next t
          ∧ n.says t [{ sid := m.sid, type := 5, seq := m.seq },
              { sid := m.sid, type := 6, data := leBytes 8 a.toNat ++ leBytes 8 (oldest - 1).toNat },
              { sid := m.sid, type := 6, events := s.ev.log }]
          ∧ ∀ y ∈ t.sec.sessions, y.sid = m.sid → y.sub = some (e.seq + 1, s.ev.log.map (·.seq)))
      ∧ (∀ upto, s.sessionOf m = none → exec (.nop m upto) s = .next s)
      ∧ (∀ upto, s.sessionOf m = some k → (∀ y ∈ s.sec.sessions, y.sub = none) → exec (.nop m upto) s = .next n)
      ∧ (∀ upto next sent, s.sessionOf m = some k → s.sec.sessions = [k] → k.sub = some (next, sent) → oldest ≤ next →
          (∀ e ∈ s.ev.log, e.seq < next) → upto < next →
        let due := sent.filter fun q => decide (upto < q)
        ∃ t, exec (.nop m upto) s = .next t ∧ t.sec.sessions = [{ k with lastIn := m.seq, sub := some (next, due) }]
          ∧ t.sec.out = s.sec.out
          ∧ t.sec.alert = if s.sec.unreadSeq < next ∧ ∀ q ∈ due, s.sec.unreadSeq < q then s.sec.alert &&& 0xFFFE else s.sec.alert)

/-- A session opens in two messages and ends with its client, after its time, or with its transport: HELLO is answered with a
CHALLENGE under a new session number, or with CLOSE; a RESPONSE with the right MAC accepts the session in its slot's role and
clears the slot's failures, with an ACCEPT under the session key's TAG, and a wrong one closes it and counts, the fourth in a row locking
the slot for a time that doubles up to an hour of FF_TIME; a CLOSE to an accepted session needs a right TAG and a rising message number (13
R383 to R386). What a session is turned away for at HELLO is log 47's, and the layout of the messages logs 13 and 48. -/
def Obligations.SessionsOpenAndClose : Prop :=
  ∀ (s : State) (t : Transport) (slot : Nat) (nc mac : Body32) (sid : W32),
    let up := s.ff0.up || s.ff1.up
    (up = false ∨ headGood nc.head = false → exec (.hello t slot nc) s = .next s)
      ∧ (up = true → headGood nc.head = true → s.helloOk t slot = false → exec (.hello t slot nc) s = .next (s.say { sid := 0, type := 7 }))
      ∧ (up = true → headGood nc.head = true → s.helloOk t slot = true → ∃ u, exec (.hello t slot nc) s = .next u
          ∧ u.sec.nextSid = s.sec.nextSid + 1 ∧ u.sec.sessions.length = s.sec.sessions.length + 1
          ∧ (∃ k ∈ u.sec.sessions, k.sid = s.sec.nextSid ∧ k.via = t ∧ k.slot = slot ∧ k.accepted = false ∧ k.nc = nc.bytes)
          ∧ ∃ o, u.sec.out = s.sec.out ++ [o] ∧ o.type = 1 ∧ o.sid = s.sec.nextSid ∧ o.tag = 0)
      ∧ (headGood mac.head = false → exec (.response sid mac) s = .next s)
      ∧ (∀ k, (s.sec.sessions.find? fun k => k.sid == sid && !k.accepted && k.slot != 255) = some k → headGood mac.head = true →
          let o := tget {} s.sec.slots k.slot
          let f := satAdd o.fails 1
          (mac.bytes = s.authMac k o.key → ∃ u, exec (.response sid mac) s = .next u
            ∧ (∀ y ∈ u.sec.sessions, y.sid = sid → y.accepted = true ∧ y.role = o.role)
            ∧ u.sec.slots = tset {} s.sec.slots k.slot { o with fails := 0, locked := false, lockSecs := 0, lockAt := 0 }
            ∧ u.sec.authf = s.sec.authf
            ∧ ((∀ y ∈ s.sec.sessions, y.sid = sid → y = k) → ∃ r, u.sec.out = s.sec.out ++ [r] ∧ r.type = 3 ∧ r.sid = sid
              ∧ r.data = [BitVec.ofNat 8 o.role] ∧ r.tag = Config.hmac256 (sessKey k o.key) (r.header k.slot 0 ++ r.payload)))
          ∧ (mac.bytes ≠ s.authMac k o.key → ∃ u, exec (.response sid mac) s = .next u
            ∧ u.sec.sessions = s.sec.sessions.filter (fun y => y.sid != sid) ∧ u.sec.authf = satAdd s.sec.authf 1
            ∧ (s.lockedNow o = true → u.sec.slots = s.sec.slots)
            ∧ (s.lockedNow o = false → f.toNat < 4 → u.sec.slots = tset {} s.sec.slots k.slot { o with fails := f })
            ∧ (s.lockedNow o = false → 4 ≤ f.toNat → u.sec.slots = tset {} s.sec.slots k.slot
                { o with fails := f, locked := true, lockSecs := BitVec.ofNat 12 (min 3600 (2 ^ (f.toNat - 4))), lockAt := s.pwr.ffTime })))
      ∧ (∀ m : CmdHdr, let k? := s.sec.sessions.find? fun k => k.sid == m.sid
          let takes := headGood m.head = true ∧ ∃ k, k? = some k ∧ (k.accepted = true → m.authentic = true ∧ k.lastIn < m.seq)
          (takes → exec (.close m) s = .next (s.modSec fun x => { x with sessions := x.sessions.filter fun y => y.sid != m.sid }))
            ∧ (¬ takes → exec (.close m) s = .next s))
      ∧ (∃ u, exec (.sessionTimeout sid) s = .next u ∧ u.sec.sessions = s.sec.sessions.filter (fun y => y.sid != sid))
      ∧ exec (.transportLoss t) s = .next (s.modSec fun x => { x with sessions := x.sessions.filter fun y => y.via != t })
      ∧ exec (.slotLockoutExpiry slot) s = .next (if s.lockLeft (tget {} s.sec.slots slot) ≠ 0 then s else s.modSec fun x => { x with
          slots := tset {} x.slots slot { tget {} x.slots slot with locked := false, lockSecs := 0, lockAt := 0 } })

/-- The owner's settings: SLOTSET and SLOTCLEAR change a slot and close its sessions, never so that no OWNER slot is left; HIVEMAP stores a
well-formed map, whose placement runs and lifts every acceptance; HIVEJOIN stores up to four key digests (11 R329, 13 R379, R385, R386).
Firmware: FWWRITE stores an image that verifies and whose SVN is not below the floor in the place of the image that does not run, and is
REFUSED otherwise; FWACTIVATE marks an image for the next reset; the SVN floor rises to the SVN of an image that an OWNER activated and
that has run without a fallback (13 R390). Which image FWWRITE replaces, and the bytes that a firmware signature covers, are logs 50 and
30. -/
def Obligations.OwnersSetSlotsHivesAndFirmware : Prop :=
  (∀ (s : State) (m : CmdHdr) (k : Session), s.admits m (fieldCmd 0) k → let n := s.noted m
     let set := fun (slot : Nat) (o : OpSlot) =>
       ((n.modSec fun x => { x with slots := tset {} x.slots slot o }).reply m stOk).closeSessions fun y => y.slot == slot
     (∀ slot w role, exec (.slotset m slot w role) s = .next (match Config.keyUnwrap (payloadKey k) w with
         | none => n.reply m stMalformed
         | some key =>
           if 2 < role then n.reply m stMalformed
           else if s.sec.owners = [slot] ∧ role ≠ 0 then n.reply m stRefused
           else set slot { set := true, key := key, role := role }))
       ∧ (∀ slot, exec (.slotclear m slot) s = .next (if s.sec.owners = [slot] then n.reply m stRefused else set slot {}))
       ∧ (∀ map, hiveMapOk map = false → exec (.hivemap m map) s = .next (n.reply m stMalformed))
       ∧ (∀ map, hiveMapOk map = true → ∃ t, exec (.hivemap m map) s = .next t ∧ t.mgr.map = some map
           ∧ (∀ p, (t.port p).accepted = none)
           ∧ (s.mgr.acting = false → t.mgr = { s.mgr with map := some map }))
       ∧ (∀ hive keys, exec (.hivejoin m hive keys) s = .next (if 4 < keys.length then n.reply m stMalformed
           else (n.modMgr fun g => { g with admission := some (hive, keys) }).reply m stOk)))
  ∧ ∀ (s : State) (m : CmdHdr) (k : Session), let n := s.noted m
      (∀ img, s.admits m (fieldCmd 0) k → exec (.fwwrite m img) s = .next (
          if fwVerifies img = false ∨ img.svn < s.fuse.svnFloor then n.reply m stRefused
          else (n.modSec fun x => if x.running = 0 then { x with fw1 := ⟨img.version, img.svn, true, img.image⟩ }
            else { x with fw0 := ⟨img.version, img.svn, true, img.image⟩ }).reply m stOk))
        ∧ (∀ i, s.admits m (fieldCmd 0) k →
          exec (.fwactivate m i) s = .next ((n.modSec fun x => { x with active := i, ownerActivated := true }).reply m stOk))
        ∧ (let held := s.sec.ownerActivated = true ∧ s.sec.running = s.sec.active ∧ s.sec.fallbk = false
          (held → s.fuse.svnFloor < s.fwNow.svn →
              exec .svnFloorRaise s = .next (s.modFuse fun f => { f with svnFloor := s.fwNow.svn }))
            ∧ (¬ held ∨ s.fwNow.svn ≤ s.fuse.svnFloor → exec .svnFloorRaise s = .next s))

/-- The life cycle only advances by its authorities: PROVISION from BLANK, SLOTINIT from PROVISIONED, LIFECYCLE from FIELD to RETURN under a
Zelgus signature and to SCRAPPED by the OWNER, and from RETURN to SCRAPPED under a signature; a loaded partition makes LIFECYCLE BUSY.
Every transition fuses the state first and wipes the module, and RETURN and SCRAPPED erase the slots and the hive map (13 R367 to R370,
R376, R387). The bytes that an authorisation covers are log 30's, and the wipe is one effect with the transition (log 49). -/
def Obligations.LifeCycleAdvancesByItsAuthorities : Prop :=
  ∀ (s : State) (m : CmdHdr) (k : Session), let n := s.noted m
    let wiped := fun (t : State) (state : Nat) => t.lcs = state ∧ t.mem = [] ∧ t.parts = [] ∧ t.cores = [] ∧ t.sec.sessions = []
      ∧ (3 ≤ state → t.sec.slots = [] ∧ t.mgr.map = none ∧ t.mgr.admission = none)
      ∧ (state = 4 → t.fuse.idKey = 0 ∧ t.fuse.wrapKey = 0)
    (∀ target auth, s.admits m { role := 0, states := [2, 3] } k →
        let ok := Config.ecdsaVerify Config.zelgusKey (leBytes 8 s.fuse.serial.toNat ++ [BitVec.ofNat 8 target]) auth
        let st := if (s.parts.any fun x => x.2.loaded) then stBusy
          else if (s.lcs = 2 ∧ target = 3) ∨ (s.lcs = 3 ∧ target = 4) then (if ok then stOk else stAuth)
          else if s.lcs = 2 ∧ target = 4 then stOk else stRefused
        ∃ t, exec (.lifecycle m target auth) s = .next t ∧ (st = stOk → wiped t target) ∧ (st ≠ stOk → t = n.reply m st))
      ∧ (∀ qc w, s.admits m { role := 0, states := [1] } k →
        let key := k.eph.bind fun e => Config.keyUnwrap
          (Config.hmacZ (Config.ecdh e qc) (kdfInput "TALHAN-INIT" (leBytes 32 k.nc.toNat ++ leBytes 32 k.nm.toNat))) w
        ∃ t, exec (.slotinit m qc w) s = .next t
          ∧ match key with
            | some o => wiped t 2 ∧ t.sec.slots = tset {} s.sec.slots 0 { set := true, key := o, role := 0 }
            | none => t = n.reply m (if k.eph = none then stRefused else stAuth))
      ∧ (∀ idKey wrapKey serial cert, s.lcs = 0 → (s.ff0.up || s.ff1.up) = true →
        ∃ t, exec (.provision idKey wrapKey serial cert) s = .next t ∧ wiped t 1
          ∧ t.fuse.idKey = idKey ∧ t.fuse.wrapKey = wrapKey ∧ t.fuse.serial = serial ∧ t.fuse.cert = cert)
      ∧ (∀ idKey wrapKey serial cert, s.lcs ≠ 0 ∨ (s.ff0.up || s.ff1.up) = false → exec (.provision idKey wrapKey serial cert) s = .next s)
      ∧ (∀ ch sg, exec (.signedUnlock ch sg) s = .next (
          if s.lcs = 3 ∧ (s.ff0.up || s.ff1.up) = true
              ∧ Config.ecdsaVerify Config.zelgusKey (leBytes 8 s.fuse.serial.toNat ++ leBytes 32 ch.toNat) sg = true then
            s.modSec fun x => { x with jtagUnlocked := true }
          else s))

/-- The operator's orders: CAPUNPIN unpins a step's records; REPLAY starts a replay where none runs; UNFREEZE lets the FROZEN streams of a
stopped job's partition run; RESET replies and resets the functional logic, with the rails as they are: PWR_STATE shows Standby and
memory stands until the wipe of step 4 of the start-up that follows, by the model's choice, and Dark comes after the wipe (13 R370; log
49); POWER moves the target state, the cap and every operating point, is BUSY while a partition is loaded or a LOAD that was accepted
waits, and REFUSED where a latch forbids it (12 R354, R356, R362, R363, 14 R395, R404, R409). The order of POWER's checks is log 51's. -/
def Obligations.OperatorsOrderTheModule : Prop :=
  ∀ (s : State) (m : CmdHdr) (k : Session), s.admits m (fieldCmd 1) k → let n := s.noted m
    (∀ p step, ∃ t, exec (.capunpin m p step) s = .next t
        ∧ t.ev.ring = (s.ev.ring.map fun x => if x.1.part.toNat = p ∧ x.1.step = step then (x.1, false) else x)
        ∧ t.ev.pins = s.ev.pins.filter (fun e => e != (p, step)) ∧ n.says t [{ sid := m.sid, type := 5, seq := m.seq }])
      ∧ (∀ job a b recs,
        let busy := ∃ r, s.ev.replay = some r ∧ r.ended = false
        (b < a → exec (.replay m job a b recs) s = .next (n.reply m stMalformed))
          ∧ (a ≤ b → busy → exec (.replay m job a b recs) s = .next (n.reply m stBusy))
          ∧ (a ≤ b → ¬ busy → exec (.replay m job a b recs) s = .next ((n.modEv fun v => { v with
              replay := some { job := job, s0 := a, s1 := b, records := recs, divergence := none, sid := k.sid, ended := false } }).reply
              m stOk)))
      ∧ (∀ p, let may := (s.part p).loaded = true ∧ (s.part p).jobStop = true ∧ s.ev.drain = false
        (¬ may → exec (.unfreeze m p) s = .next (n.reply m stRefused))
          ∧ (may → ∃ t, exec (.unfreeze m p) s = .next t ∧ t.mem = s.mem ∧ ∀ i ∈ s.partStreams p, i.wf = true →
              (s.core (skey i)).pow = .on ∨ (s.core (skey i)).pow = .gated →
              (t.stream i).state = if (s.stream i).state = .frozen then .running else (s.stream i).state))
      ∧ (∃ t, exec (.reset m) s = .next t ∧ t.parts = [] ∧ t.cores = [] ∧ t.objs = [] ∧ t.sec.sessions = [] ∧ t.sec.jobKeys = []
          ∧ t.mem = s.mem ∧ t.fuse = s.fuse ∧ t.pwr.rails = s.pwr.rails
          ∧ t.pwr.state = .standby ∧ t.pwr.start = true)
      ∧ (∀ target cap opp,
        let malformed := 2 ≤ target.toNat ∨ (opp ≠ 0xFF ∧ 3 ≤ opp.toNat)
        let loaded := (∃ x ∈ s.parts, x.2.loaded = true) ∨ s.ldr.queue ≠ [] ∨ s.ldr.held ≠ []
        let tripped := s.pwr.supLat = true ∨ s.pwr.tripLat = true ∨ s.pwr.coolLat = true
        (malformed → exec (.power m target cap opp) s = .next (n.reply m stMalformed))
          ∧ (¬ malformed → target = 0 → loaded → exec (.power m target cap opp) s = .next (n.reply m stBusy))
          ∧ (¬ malformed → target = 1 → tripped → exec (.power m target cap opp) s = .next (n.reply m stRefused))
          ∧ (¬ malformed → (target = 0 ∧ ¬ loaded) ∨ (target = 1 ∧ ¬ tripped) → ∃ t, exec (.power m target cap opp) s = .next t
            ∧ t.pwr.cap = (if cap = 0 then s.pwr.cap else cap)
            ∧ (target = 0 → s.fabricOn = true → t.pwr.state = .dark)
            ∧ (target = 1 → t.pwr.state = if s.pwr.state = .dark then .idle else s.pwr.state)
            ∧ (let u := if target = 0 ∧ s.fabricOn = true then s.goDark else s
              t.dies = if opp = 0xFF then u.dies else ((List.range 12).foldl (fun (u : State) d => u.setMax d opp.toNat) u).dies)))

/-- Scans: SCAN of a position that is not dark is REFUSED and of one that may not start yet BUSY; a scan that starts is in progress until it
completes, two on a die at most; a spare's timer starts one by itself. A failed scan marks its position and is posted; a passed one
takes a fenced position's mask and failed bit away (12 R359, R360, R366). What a GO shows for a position that may not be scanned, and
that a fence marks its position failed, are logs 35 and 46. -/
def Obligations.ScansTestDarkPositions : Prop :=
  ∀ (s : State) (m : CmdHdr) (k : Session) (die pos : Nat), let n := s.noted m
    let key := die * 72 + pos
    let started := fun (t : State) => t.modEv fun v => { v with scanning := v.scanning ++ [key] }
    (s.admits m (fieldCmd 1) k →
        (s.dark die pos = false → exec (.scan m die pos) s = .next (n.reply m stRefused))
          ∧ (s.dark die pos = true → s.canScan die pos = false → exec (.scan m die pos) s = .next (n.reply m stBusy))
          ∧ (s.canScan die pos = true → exec (.scan m die pos) s = .next ((started n).reply m stOk))
          ∧ (∀ v : W32, let set := fun (t : State) => t.modEv fun x =>
                { x with scanDie := BitVec.ofNat 4 (fld v 27 24), scanPos := BitVec.ofNat 7 (fld v 22 16), scanPeriod := BitVec.ofNat 8 (fld v 15 8) }
              die = fld v 27 24 → pos = fld v 22 16 →
              exec (.scanctlGo m v) s = .next ((if s.canScan die pos then started (set n)
                else (set n).modEv fun x => { x with scanLast := key, scanResult := 3, scanPattern := 0 }).reply m stOk)))
      ∧ (let due := s.ev.scanPeriod ≠ 0 ∧ s.posUsed die pos = false ∧ s.canScan die pos = true
        (due → exec (.spareScanTimer die pos) s = .next (started s)) ∧ (¬ due → exec (.spareScanTimer die pos) s = .next s))
      ∧ (∀ pass pattern, s.ev.scanning.contains key = false → exec (.scanComplete die pos pass pattern) s = .next s)
      ∧ (∀ pattern, s.ev.scanning.contains key = true → (∀ x ∈ s.parts, x.2.retracting = none) →
        (∃ t, exec (.scanComplete die pos false pattern) s = .next t ∧ t.ev.failed.contains key = true
          ∧ t.ev.scanning = s.ev.scanning.filter (· != key) ∧ t.ev.scanLast = key ∧ t.ev.scanResult = 2 ∧ t.ev.scanPattern = pattern)
        ∧ (∃ t, exec (.scanComplete die pos true pattern) s = .next t ∧ t.ev.scanning = s.ev.scanning.filter (· != key)
          ∧ t.ev.scanResult = 1 ∧ t.ev.scanPattern = 0 ∧ t.posFenced die pos = false
          ∧ t.ev.failed = if s.posFenced die pos then s.ev.failed.filter (· != key) else s.ev.failed))

/-- SUPPLY_RISE starts both Firefly domains on the image that verifies, at step 1 and FF_TIME 0; START_UP at P runs the steps to the
accepted sessions: a wiped module, the lead given to West where its self-check passed and to East otherwise, Idle with its ports on in
FIELD and Dark elsewhere; with both halves failed it stops, wiped; and two sound halves that do not hear each other stand split at step
5 (14 R405). START_TIMEOUT leaves the steps before the late one complete, and stops there; UNDERVOLTAGE_RESET leaves the rails and the
domains off, every register as at reset and no memory (13 R370, R390, 14 R402 to R405, Table 14-4). A SUPPLY_RISE with the supply up
already, and the voltage it measures, are log 33's and log 83's. The wipe is one effect with START_UP (log 49). -/
def Obligations.StartUpReachesItsState : Prop :=
  ∀ (s : State) (fw : W32) (w e : StartHalf) (late : LateStep),
    let deaf := fun (w e : StartHalf) => startOk w = true ∧ startOk e = true
      ∧ ((w.sbOk = false ∧ w.pinOk = false) ∨ (e.sbOk = false ∧ e.pinOk = false))
    let measured := (s.modFf 0 fun h => { h with vin := 40000 }).modFf 1 fun h => { h with vin := 40000 }
    (s.pwr.supply = true → exec (.supplyRise fw) s = .next measured)
      ∧ (s.pwr.supply = false → s.bootImage = none → exec (.supplyRise fw) s = .next (measured.modPwr fun p => { p with supply := true }))
      ∧ (∀ i, s.pwr.supply = false → s.bootImage = some i → ∃ t, exec (.supplyRise fw) s = .next t ∧ t.ff0.up = true ∧ t.ff1.up = true
          ∧ t.sec.running = i ∧ t.sec.fallbk = (i != s.sec.active) ∧ t.pwr.step = 1 ∧ t.pwr.ffTime = 0 ∧ t.pwr.state = .standby
          ∧ t.pwr.inReset = s.ff0.pinReset ∧ t.ff0.vin = 40000 ∧ t.ff1.vin = 40000 ∧ t.mem = s.mem)
      ∧ (s.atP = false → exec (.startUp w e) s = .next s)
      ∧ (s.atP = true → deaf w e → ∃ t, exec (.startUp w e) s = .next t ∧ t.pwr.step = 5 ∧ t.pwr.state = .dark ∧ t.pwr.lead = s.pwr.lead
          ∧ (∀ h, h < 2 → (t.ff h).split = true ∧ (t.ff h).ruled = false ∧ (t.ff h).claim = true) ∧ t.mem = [])
      ∧ (s.atP = true → startOk w = true ∨ startOk e = true → ¬ deaf w e → ∃ t, exec (.startUp w e) s = .next t ∧ (s.parts = [] → t.mem = [] ∧ t.objs = [])
          ∧ t.pwr.rails = true ∧ t.pwr.start = false ∧ t.pwr.lead = (if startOk w then .west else .east)
          ∧ t.pwr.wFail = !startOk w ∧ t.pwr.eFail = !startOk e
          ∧ t.pwr.step = (if s.lcs = 2 then 8 else 7) ∧ t.pwr.state = (if s.lcs = 2 then .idle else .dark)
          ∧ t.ff0.pcieUp = true ∧ t.ff1.pcieUp = true ∧ t.ff0.rack = w.rack ∧ t.ff0.slot = w.slot ∧ t.ff0.role = w.role)
      ∧ (s.atP = true → startOk w = false → startOk e = false → ∃ t, exec (.startUp w e) s = .next t ∧ t.bothFailed = true
          ∧ t.pwr.stopped = true ∧ t.mem = [] ∧ t.pwr.rails = (w.railOk && e.railOk)
          ∧ t.pwr.state = (if w.railOk && e.railOk then .dark else .standby))
      ∧ (let n := late.step
        let due := s.pwr.supply = true ∧ s.pwr.start = true ∧ s.pwr.stopped = false
          ∧ ((s.pwr.step = 0 ∧ n = 1) ∨ (s.atP = true ∧ 2 ≤ n ∧ n ≤ 8) ∨ (s.pwr.step = 5 ∧ n = 6))
        (¬ due → exec (.startTimeout late) s = .next s)
          ∧ (due → s.atP = false → ∃ t, exec (.startTimeout late) s = .next t ∧ t.pwr = { s.pwr with stopped := true } ∧ t.mem = s.mem)
          ∧ (due → s.atP = true → startOk late.w = true ∨ startOk late.e = true → n ≤ 6 ∨ ¬ deaf late.w late.e →
            ∃ t, exec (.startTimeout late) s = .next t ∧ t.pwr.stopped = true ∧ t.pwr.step.toNat = n - 1
              ∧ (3 ≤ n → t.pwr.rails = true) ∧ t.pwr.state = (if n ≤ 5 then s.pwr.state else .dark)
              ∧ t.mem = (if n ≤ 4 then s.mem else []) ∧ t.parts = s.parts))
      ∧ (∃ t, exec .undervoltageReset s = .next t ∧ t.pwr = { cap := if s.fuse.gradeB then 5700 else 6400 } ∧ t.ff0.up = false
          ∧ t.ff1.up = false ∧ t.mem = [] ∧ t.cores = [] ∧ t.dies = [] ∧ t.objs = [] ∧ t.parts = [] ∧ t.fuse = s.fuse ∧ t.ev.log = s.ev.log
          ∧ t.sec.sessions = [] ∧ t.ev.failed = s.ev.failed)

/-- Loss of supply, cooling and temperature: an input out of range and a sensor at 115 °C take the rails, by which no domain but the Firefly
one holds state, and coolant that has been gone for its time takes the module to Dark, each with its latch set, its streams gone and the
module drained, the last with a report to the acting manager; a value in range does nothing (14 R393, R406, R407). An input between 38 V
and 40 V with PWR_EN deasserted trips when it is asserted (15 R428). What the sensors show afterwards is logs 83's and 157's. -/
def Obligations.TripsRemoveTheRails : Prop :=
  ∀ (s : State) (mv reading : W16) (sensor : Byte),
    let low := 38000 ≤ mv.toNat ∧ mv.toNat < 40000
    let out := 62000 < mv.toNat ∨ low
    let off := low ∧ (s.ff s.leadHalf).pwrEn = false
    (s.pwr.supply = true → out → ¬ off → ∃ t, exec (.supplyFault mv) s = .next t ∧ t.pwr.supLat = true ∧ t.pwr.rails = false
        ∧ t.pwr.state = .standby ∧ t.ff0.vin = mv ∧ t.ff1.vin = mv ∧ t.mem = [] ∧ t.parts = [] ∧ t.cores = [] ∧ (s.pwr.rails = true → t.ev.drain = true))
      ∧ (s.pwr.supply = true → off → exec (.supplyFault mv) s = .next (((s.modFf 0 fun h => { h with vin := mv }).modFf 1 fun h =>
          { h with vin := mv }).modPwr fun p => { p with supDue := some mv }))
      ∧ (s.pwr.supply = false ∨ ¬ out → exec (.supplyFault mv) s = .next s)
      ∧ (s.pwr.supply = true → 920 ≤ reading.toInt → ∃ t, exec (.thermTrip sensor reading) s = .next t ∧ t.pwr.tripLat = true
        ∧ t.pwr.thermPin = true ∧ t.pwr.rails = false ∧ t.pwr.state = .standby ∧ tget 0 t.pwr.temps sensor.toNat = reading ∧ t.mem = []
        ∧ t.parts = [] ∧ t.cores = []
        ∧ (s.pwr.rails = true → t.ev.drain = true))
      ∧ (s.pwr.supply = false ∨ reading.toInt < 920 → exec (.thermTrip sensor reading) s = .next s)
      ∧ (let gone := s.pwr.coolTimer = true ∧ (s.ff s.leadHalf).coolOk = false ∧ s.pwr.state ≠ .standby ∧ s.pwr.rails = true
          ∧ s.pwr.inReset = false
        (gone → ∃ t, exec .coolantShutdown s = .next t ∧ t.pwr.coolLat = true ∧ t.pwr.coolTimer = false ∧ t.pwr.state = .dark
            ∧ t.ev.drain = true ∧ (∃ r, (r, MgmtMsg.report 0x22 s.pwr.coolTime) ∈ t.mgr.out) ∧ ∀ i : StreamId, t.runs i = false)
          ∧ (¬ gone → exec .coolantShutdown s = .next s))

/-- The service inputs: a filtered change takes effect at once and is acted on by the leading half: RESET_L asserted holds the
functional logic in reset, PWR_EN deasserted takes the rails, and asserted brings on an input fault that waited for it, COOLANT_OK
deasserted starts the coolant time. A change of a latched
input, or to the level in effect, changes only the pin; the ninth change within a second latches the input, asserted but for
COOLANT_OK, whose time then counts from the latch; and an OPERATOR's clear, which a reset by the latched RESET_L does not turn away (log
158), gives it its pin's level again (14 R404, R406, 15 R419, R428). What a reset leaves for the wipe of start-up is log 49's. -/
def Obligations.ServiceInputsActByTheirLevel : Prop :=
  ∀ (s : State) (half kind : Nat) (v : Bool), half < 2 → kind < 3 →
    let h := s.ff half
    let c : Instr := match kind, v with
      | 0, true => .resetLAssert half | 0, false => .resetLRelease half | 1, true => .pwrEnAssert half | 1, false => .pwrEnDeassert half
      | _, true => .coolantOkAssert half | _, false => .coolantOkDeassert half
    let pins := h.setPin kind v
    let few := (h.recent s.pwr.ffTime kind).length < 8
    (h.up = false ∨ h.latched kind = true ∨ h.level kind = v → exec c s = .next (s.modFf half fun _ => pins))
      ∧ (h.up = true → h.latched kind = false → h.level kind ≠ v → few →
        ∃ t, exec c s = .next t ∧ (t.ff half).level kind = v ∧ (t.ff half).pin kind = v ∧ (t.ff half).latched kind = false
          ∧ (half ≠ s.leadHalf → t = s.modFf half fun _ => t.ff half)
          ∧ (half = s.leadHalf → kind = 0 → v = true → t.pwr.inReset = true ∧ t.parts = [] ∧ t.cores = [] ∧ t.sec.sessions = []
            ∧ t.pwr.rails = s.pwr.rails ∧ t.pwr.state = .standby ∧ t.mem = s.mem)
          ∧ (half = s.leadHalf → kind = 0 → v = false → t.pwr.inReset = false ∧ t.pwr.start = true ∧ t.sec.sessions = [])
          ∧ (half = s.leadHalf → kind = 1 → v = false → t.pwr.rails = false ∧ t.pwr.state = .standby ∧ t.parts = [] ∧ t.mem = [])
          ∧ (half = s.leadHalf → kind = 1 → v = true → (s.pwr.supDue = none → t.pwr = s.pwr)
            ∧ (s.pwr.supDue.isSome = true → t.pwr.supLat = true ∧ t.pwr.supDue = none ∧ t.pwr.rails = false ∧ t.parts = []))
          ∧ (half = s.leadHalf → kind = 2 → t.pwr = { s.pwr with
              coolTimer := !v, coolTime := if v then s.pwr.coolTime else s.pwr.ffTime }))
      ∧ (h.up = true → h.latched kind = false → h.level kind ≠ v → ¬ few →
        ∃ t, exec c s = .next t ∧ (t.ff half).latched kind = true ∧ (t.ff half).level kind = (kind != 2) ∧ (t.ff half).pin kind = v
          ∧ (half = s.leadHalf → kind = 2 → t.pwr.coolTimer = true ∧ t.pwr.coolTime = s.pwr.ffTime))
      ∧ ∀ (m : CmdHdr) (k : Session), s.admits m s.latchKind k →
        ∃ t, exec (.svclatClear m half (BitVec.ofNat 32 (2 ^ kind))) s = .next t
          ∧ (h.latched kind = true → (t.ff half).latched kind = false ∧ (t.ff half).level kind = h.pin kind)
          ∧ (h.latched kind = false → t = (s.noted m).reply m stOk)

/-- A strap that changes after the latch is shown; PERST_L ends a half's accesses in flight and closes the sessions of its mailbox, and its
link trains again (log 160); the always-on clock's loss leaves its domain on the internal oscillator until it returns; a PLL locks while the fabric is on, and
one that fails to is posted for every partition with cores on its die, whose steps retract; a bridge segment that fails carries
nothing any more (01 R25, 14 R398, R408, Table 14-7, 15 R414, R422). The operating points: an average above the cap in force takes
the hottest die one point down, and one that has stayed below 95 % of it brings one die that the cap holds down a point up, of which the
lowest-numbered is the model's choice (log 155); a die with a sensor at 100 °C goes one point down, and up a point after a second with all
below 90 °C; a die runs at the highest point that every limit on it allows, and the two controllers do not lower it both in one period (14
R399, R400, R409). Each change that lowers counts as a throttle of its half (log 156); the readings are kept (14 R401, R410; logs 83 and
157). -/
def Obligations.ClocksAndOperatingPoints : Prop :=
  (∀ (s : State) (half die seg : Nat) (freq : W32), half < 2 →
     exec (.strapChange half) s = .next (if (s.ff half).strapValid then s.modFf half fun h => { h with strapChg := true } else s)
       ∧ (∃ t, exec (.perstL half) s = .next t ∧ t.ff half = s.ff half ∧ t.link.host = s.link.host.filter (fun e => e.1 != half)
           ∧ t.sec.sessions.map (·.sid) = (s.sec.sessions.filter fun k => k.via != .pcie half).map (·.sid) ∧ t.mem = s.mem ∧ t.parts = s.parts)
       ∧ ((s.ff half).up = true → ∃ t, exec (.aoRefclkLoss half freq) s = .next t ∧ (t.ff half).clkInt = true
           ∧ t.sec.alert = s.sec.alert ||| 0x2000 ∧ t.parts = s.parts ∧ t.mem = s.mem)
       ∧ ((s.ff half).up = false → exec (.aoRefclkLoss half freq) s = .next s)
       ∧ exec (.aoRefclkReturn half) s = .next (s.modFf half fun h => { h with clkInt := false })
       ∧ exec (.pllLock die) s = .next (if s.pwr.state = .idle ∨ s.pwr.state = .run then s.modDie die fun d => { d with pll := true } else s)
       ∧ (∃ t, exec (.pllFail die) s = .next t ∧ t.dies = (s.modDie die fun d => { d with pll := false }).dies ∧ t.mem = s.mem
           ∧ ∀ p ∈ s.partsOnDie die, p < 16 → (t.part p).stepEvent = true ∧ (t.part p).retractSent = true)
       ∧ (∃ t, exec (.bridgeSegmentFailure seg) s = .next t ∧ t.link.bridgeN = (if seg = 0 then false else s.link.bridgeN)
           ∧ t.link.bridgeS = (if seg = 0 then s.link.bridgeS else false) ∧ t.mem = s.mem ∧ t.parts = s.parts))
  ∧ (∀ (s : State) (avg : InputPower) (hot : Nat) (long : Bool),
      let cap := min s.pwr.cap.toNat (if s.fuse.gradeB then 5700 else 6400)
      let w := avg.west.toNat + avg.east.toNat
      let rest := fun (d : Die) => { d with lowered := if d.lowered = 2 then 0 else d.lowered }
      let least := fun (a b c : Nat) => BitVec.ofNat 2 (min a (min b c))
      let raises := (List.range 12).find? fun k => decide ((s.die k).capLim.toNat < min (s.die k).oppMax.toNat (s.die k).thLim.toNat)
      let becomes := fun (k : Nat) (d : Die) => ∃ t, exec (.capThrottle avg hot long) s = .next t ∧ t.die k = d
        ∧ (∀ j, j ≠ k → j < 12 → t.die j = rest (s.die j)) ∧ t.mem = s.mem ∧ t.parts = s.parts ∧ t.pwr = s.pwr
        ∧ (t.ff 0).pwrW = avg.west ∧ (t.ff 1).pwrW = avg.east
        ∧ (t.ff (halfOfDie k)).throttles = (if d.oppCur < (s.die k).oppCur then satAdd (s.ff (halfOfDie k)).throttles 1
            else (s.ff (halfOfDie k)).throttles)
      let lowers := hot < 12 ∧ (s.die hot).oppCur ≠ 0 ∧ (s.die hot).lowered ≠ 2
      (cap < w → lowers → let d := s.die hot
          becomes hot { d with capLim := d.oppCur - 1, lowered := 1, oppCause := 1
                               oppCur := least d.oppMax.toNat (d.oppCur.toNat - 1) d.thLim.toNat })
        ∧ (∀ k, w ≤ cap → long = true → w * 100 < 95 * cap → raises = some k →
            let d := s.die k
            let pt := least d.oppMax.toNat (d.capLim.toNat + 1) d.thLim.toNat
            becomes k (rest { d with capLim := d.capLim + 1, oppCur := pt, oppCause := if pt = d.oppCur then d.oppCause else 1 }))
        ∧ ((cap < w ∧ ¬ lowers) ∨ (w ≤ cap ∧ (long = false ∨ 95 * cap ≤ w * 100 ∨ raises = none)) →
            ∀ k, k < 12 → becomes k (rest (s.die k))))
  ∧ ∀ (s : State) (die : Nat) (x : DieTemps) (long : Bool), die < 12 → x.rows.length = 9 → x.hbm.length = 2 →
      let d := s.die die
      let all := x.rows ++ x.hbm
      let rest := fun (d : Die) => { d with lowered := if d.lowered = 1 then 0 else d.lowered }
      let least := fun (a b c : Nat) => BitVec.ofNat 2 (min a (min b c))
      let becomes := fun (d' : Die) => ∃ t, exec (.thermalThrottle die x long) s = .next t ∧ t.die die = d'
        ∧ (∀ j, j ≠ die → t.die j = s.die j) ∧ t.mem = s.mem ∧ t.parts = s.parts ∧ t.pwr = { s.pwr with temps := t.pwr.temps }
        ∧ (∀ k, k < 9 → tget 0 t.pwr.temps (9 * die + k) = x.rows.getD k 0)
        ∧ (∀ k, k < 2 → tget 0 t.pwr.temps (108 + 2 * die + k) = x.hbm.getD k 0)
        ∧ (t.ff (halfOfDie die)).throttles = (if d'.oppCur < d.oppCur then satAdd (s.ff (halfOfDie die)).throttles 1
            else (s.ff (halfOfDie die)).throttles)
      let hot := ∃ t ∈ all, 800 ≤ t.toInt
      let cold := long = true ∧ (∀ t ∈ all, t.toInt < 720) ∧ d.thLim.toNat < 2
      (hot → d.oppCur ≠ 0 → d.lowered ≠ 1 →
          becomes { d with thLim := d.oppCur - 1, lowered := 2, oppCause := 2
                           oppCur := least d.oppMax.toNat d.capLim.toNat (d.oppCur.toNat - 1) })
        ∧ (¬ hot → cold → let pt := least d.oppMax.toNat d.capLim.toNat (d.thLim.toNat + 1)
            becomes (rest { d with thLim := d.thLim + 1, oppCur := pt, oppCause := if pt = d.oppCur then d.oppCause else 2 }))
        ∧ ((hot ∧ (d.oppCur = 0 ∨ d.lowered = 1)) ∨ (¬ hot ∧ ¬ cold) → becomes (rest d))

/-- The twin domains: a half that hears no heartbeat on either path is split, claims lead and asks the manager, who answers West when West
has asked and East otherwise; the ruling, or West by default, decides who leads and fences the other; a heartbeat ends the split, and a
half whose claim disagrees steps down; one that ends a split at start-up decides the lead by the self-check. A restarted domain comes up
fenced where the other half leads or claims lead, and its inputs at their pins' levels (14 R404, R405, 15 R419; log 86). Management work
that waited in the split (log 159), and a start-up that did, go on with the ruling. When the Split event is posted is log 82. -/
def Obligations.SplitHalvesAreRuled : Prop :=
  ∀ (s : State) (half path rank lead : Nat) (selfOk claims : Bool), half < 2 → path < 2 → lead < 2 →
    let h := s.ff half
    let hears := fun (p : Nat) => if p = 0 then h.sbOk else h.pinOk
    let open_ := h.split = true ∧ h.ruled = false
    let nothing := s.mgr.deferred = [] ∧ s.pwr.step ≠ 5
    let ruled := fun (t : State) (l : Nat) => (t.ff half).ruled = true ∧ (t.ff half).claim = (half == l) ∧ (t.ff half).fenced = (half != l)
      ∧ t.leadHalf = l ∧ (nothing → t.mem = s.mem ∧ t.parts = s.parts)
    (h.up = false → exec (.twinHeartbeat half path selfOk claims) s = .next s ∧ exec (.heartbeatPathLoss half path) s = .next s
        ∧ exec (.fireflyWatchdog half) s = .next s)
      ∧ (h.up = true → s.pwr.lead ≠ .undecided → ∃ t, exec (.twinHeartbeat half path selfOk claims) s = .next t
        ∧ (t.ff half).split = false ∧ (t.ff half).fenced = (half != s.leadHalf)
        ∧ (if path = 0 then (t.ff half).sbOk else (t.ff half).pinOk) = true
        ∧ (half ≠ s.leadHalf → (t.ff half).claim = false) ∧ t.pwr.lead = s.pwr.lead
        ∧ (if half = 0 then t.pwr.eFail else t.pwr.wFail) = ((if half = 0 then s.pwr.eFail else s.pwr.wFail) || !selfOk))
      ∧ (h.up = true → s.pwr.lead = .undecided → h.split = true → ∃ t, exec (.twinHeartbeat half path selfOk claims) s = .next t
        ∧ (t.ff 0).split = false ∧ (t.ff 1).split = false ∧ t.pwr.lead = (if s.pwr.wFail then .east else .west)
        ∧ (t.ff 0).fenced = s.pwr.wFail ∧ (t.ff 1).fenced = !s.pwr.wFail)
      ∧ (h.up = true → hears path = false → exec (.heartbeatPathLoss half path) s = .next s)
      ∧ (h.up = true → hears path = true → ∃ t, exec (.heartbeatPathLoss half path) s = .next t
        ∧ (t.ff half).hbLoss = satAdd h.hbLoss 1 ∧ (if path = 0 then (t.ff half).sbOk else (t.ff half).pinOk) = false
        ∧ (hears (1 - path) = true → (t.ff half).split = h.split ∧ t.mgr = s.mgr)
        ∧ (hears (1 - path) = false → (t.ff half).split = true ∧ (t.ff half).claim = true ∧ (t.ff half).ruled = false
          ∧ t.mgr.out = s.mgr.out ++ [(s.mgrRank, .leadQuery s.rank half)]))
      ∧ exec (.leadQuery rank half) s = .next (if s.mgr.acting && !s.mgr.queries.contains (rank, half) then
          s.modMgr fun g => { g with queries := g.queries ++ [(rank, half)] } else s)
      ∧ (s.mgr.acting = true → (s.mgr.queries.any fun q => q.1 == rank) = true →
        let l := if s.mgr.queries.contains (rank, 0) then 0 else 1
        ∃ t, exec (.leadRuling rank) s = .next t ∧ t.mgr.out = s.mgr.out ++ [(rank, .leadRuling l)]
          ∧ t.mgr.rulings = s.mgr.rulings ++ [(rank, l)] ∧ t.mgr.queries = s.mgr.queries.filter (fun q => q.1 != rank))
      ∧ (s.mgr.acting = false ∨ (s.mgr.queries.any fun q => q.1 == rank) = false → exec (.leadRuling rank) s = .next s)
      ∧ (open_ → (∃ t, exec (.leadRulingReceipt half lead) s = .next t ∧ ruled t lead)
        ∧ ∃ t, exec (.splitDefault half) s = .next t ∧ ruled t 0)
      ∧ (¬ open_ → exec (.leadRulingReceipt half lead) s = .next s ∧ exec (.splitDefault half) s = .next s)
      ∧ (h.up = true → ∃ t, exec (.fireflyWatchdog half) s = .next t ∧ (t.ff half).up = true ∧ (t.ff half).split = false
        ∧ (t.ff half).fenced = (s.leadHalf != half || ((s.ff (1 - half)).up && (s.ff (1 - half)).claim))
        ∧ t.ev.queueOf half = [] ∧ (∀ k, k < 3 → (t.ff half).level k = h.pin k ∧ (t.ff half).latched k = false)
        ∧ ((half = s.leadHalf → ∀ k, k < 3 → h.pin k = h.level k) →
            t.cores = s.cores ∧ t.objs = s.objs ∧ t.mem = s.mem ∧ t.parts = s.parts))

/-- A change of lead, or a period of split leadership, stops no running stream and alters no sync object, memory content or
structure already loaded: no command of the twin domains changes which streams run, a core, an object, a byte of memory, a
partition, a window table of a die, a route or an ownership tag (01 R48). Management work and a start-up that wait for the end of a split
have their own effect once it ends, and so has an input of the leading half that a restart finds at another level; the statement is of states
in which none waits. -/
def Obligations.LeadChangesLeaveTheDataPlane : Prop :=
  ∀ (s t : State) (half path rank lead : Nat) (selfOk claims : Bool),
    s.mgr.deferred = [] → s.pwr.step ≠ 5 → (half = s.leadHalf → ∀ k, k < 3 → (s.ff half).pin k = (s.ff half).level k) →
    ∀ c ∈ [Instr.twinHeartbeat half path selfOk claims, .heartbeatPathLoss half path, .leadQuery rank half, .leadRuling rank,
      .leadRulingReceipt half lead, .splitDefault half, .fireflyWatchdog half], exec c s = .next t →
    (∀ i, t.runs i = s.runs i) ∧ t.cores = s.cores ∧ t.dies = s.dies ∧ t.upds = s.upds ∧ t.objs = s.objs ∧ t.syn0 = s.syn0
      ∧ t.syn1 = s.syn1 ∧ t.mem = s.mem ∧ t.errs = s.errs ∧ t.parts = s.parts ∧ t.link.planes = s.link.planes ∧ t.ldr = s.ldr

/-- The port states: a port in DOWN that sees a signal with its optics on trains; training reaches DISCOVER over the lanes that
came up or counts a failure in FAILED; loss of signal, of a lane in use, of codewords or of traffic takes a port out of service; a
FAILED port tries again until its eighth failure; management disables a port, or enables it into DOWN; a port that leaves for DOWN, FAILED
or DISABLED runs on no lane, and the module reports what has changed (11 R316, R324, R329, R341, Table 11-3). What a report holds and when it
is sent is log 24 (DESIGN CHOICE), and the loss of a logical port's last member log 84 (DEDUCED). -/
def Obligations.PortsFollowTheirStates : Prop :=
  ∀ (s : State) (p lane : Nat) (lanes : Byte) (v : W32), let x := s.port p
    let put := fun (f : Port → Port) => s.modPort p f
    let failed := put fun x => { x with state := .failed, fails := satAdd x.fails 1, lanes := 0 }
    let goes := fun (c : Instr) (y : PState) => ∃ t, exec c s = .next t ∧ (t.port p).state = y ∧ (t.port p).lanes = 0 ∧ t.mem = s.mem
    (exec (.signalDetect p) s = .next (if x.state = .down ∧ (s.pwr.state = .idle ∨ s.pwr.state = .run) then put fun x => { x with state := .train } else s))
      ∧ (x.state = .train →
        (∀ w, trainedLanes lanes = some w →
            exec (.trainingComplete p lanes) s = .next (put fun x => { x with state := .discover, lanes := w, fails := 0 }))
          ∧ (trainedLanes lanes = none → exec (.trainingComplete p lanes) s = .next failed)
          ∧ exec (.trainingTimeout p) s = .next failed)
      ∧ (x.state ≠ .train → exec (.trainingComplete p lanes) s = .next s ∧ exec (.trainingTimeout p) s = .next s)
      ∧ (let stays := x.state = .disabled ∨ (x.state = .failed ∧ 8 ≤ x.fails.toNat)
        (stays → exec (.signalLoss p) s = .next s)
          ∧ (¬ stays → x.state ≠ .active → exec (.signalLoss p) s = .next (put fun x => { x with state := .down, lport := 0xFF, lanes := 0 }).reportNews)
          ∧ (x.state = .active → goes (.signalLoss p) .down))
      ∧ (x.state = .active → goes (.fecErrorBurst p) .failed ∧ goes (.linkSilence p) .failed
          ∧ (x.lanes.getLsbD lane = true → goes (.laneFailure p lane) .failed)
          ∧ (x.lanes.getLsbD lane = false → exec (.laneFailure p lane) s = .next s))
      ∧ (x.state ≠ .active → exec (.fecErrorBurst p) s = .next s ∧ exec (.linkSilence p) s = .next s
          ∧ exec (.laneFailure p lane) s = .next s)
      ∧ exec (.failedRetryTimer p) s
          = .next (if x.state = .failed ∧ x.fails.toNat < 8 then put fun x => { x with state := .down } else s)
      ∧ (v.getLsbD 0 = false → x.state ≠ .disabled → goes (.lnkCfgWrite p v) .disabled)
      ∧ (v.getLsbD 0 = false → x.state = .disabled → exec (.lnkCfgWrite p v) s = .next (put fun y => { y with
            rto := BitVec.ofNat 16 (fld v 31 16), btag := BitVec.ofNat 8 (fld v 15 8), en := false }))
      ∧ (v.getLsbD 0 = true → (x.state ≠ .active ∨ BitVec.ofNat 8 (fld v 15 8) = x.btag) →
          exec (.lnkCfgWrite p v) s = .next ((put fun y => { y with
            rto := BitVec.ofNat 16 (fld v 31 16), btag := BitVec.ofNat 8 (fld v 15 8), en := true }).modPort p fun y => { y with
            fails := 0, state := if x.state = .disabled ∨ (x.state = .failed ∧ 8 ≤ x.fails.toNat) then .down else y.state }))
      ∧ (v.getLsbD 0 = true → x.state = .active → ∃ t, exec (.lnkCfgWrite p v) s = .next t ∧ (t.port p).state = .active
          ∧ (t.port p).btag = BitVec.ofNat 8 (fld v 15 8) ∧ t.mem = s.mem)

/-- Beacons: a port in DISCOVER, ACTIVE, MISWIRED or QUARANTINE sends one, whose CRC is that of its body, and takes one; the peer of a
beacon with a right CRC enters the port's registers, a peer of another version or Hive quarantines the port with its flag, a compatible
one frees it, and a changed peer takes a port in service to MISWIRED; any other beacon changes nothing (11 R325, R326, R340, Table 11-3). The
bytes that a beacon's body leaves open, and what a Miswired event shows, are logs 114 and 115 (DESIGN CHOICE). -/
def Obligations.BeaconsNameThePeer : Prop :=
  ∀ (s : State) (p : Nat) (b : Beacon), let x := s.port p
    let on := x.state = .discover ∨ x.state = .active ∨ x.state = .miswired ∨ x.state = .quarantine
    let changed := x.peer ≠ b.serial ∨ x.peerPort.toNat ≠ b.port
    let good := b.crc = crc32 (beaconBody b)
    (on → ∃ o, exec (.beaconSend p) s = .next (s.modLink fun l => { l with out := l.out ++ [.beacon p o] })
          ∧ o.serial = s.fuse.serial ∧ o.port = p ∧ o.best = s.mgr.best ∧ o.mgr = s.mgrSerial ∧ o.hive = s.hiveId
          ∧ o.btag = x.btag ∧ o.crc = crc32 (beaconBody o))
      ∧ (¬ on → exec (.beaconSend p) s = .next s)
      ∧ (¬ on ∨ ¬ good → exec (.beaconReceive p b) s = .next s)
      ∧ (on → good → ∃ t, exec (.beaconReceive p b) s = .next t ∧ t.mem = s.mem ∧
          let y := t.port p
          y.peer = b.serial ∧ y.peerVmaj = b.vmaj ∧ y.peerVmin = b.vmin ∧ y.peerVlow = b.vlow ∧ y.peerRank = b.rank
            ∧ y.peerRole = b.role ∧ y.peerBest = b.best
            ∧ (s.alien b = true → y.state = .quarantine ∧ (x.state ≠ .quarantine → y.qrn = true))
            ∧ (s.alien b = false → x.state = .quarantine → y.state = .discover)
            ∧ (s.alien b = false → x.state = .active → changed → y.state = .miswired ∧ y.msw = true)
            ∧ (s.alien b = false → (x.state = .discover ∨ x.state = .miswired ∨ (x.state = .active ∧ ¬ changed)) → y.state = x.state))

/-- Hop acknowledgement: an ACK releases the frames up to its number, a NAK or a timeout sends the stored frames again unchanged and counts
each resend, in LNK_RETRY too, and a frame resent 8 times takes a member port out instead; credits grow by a grant up to 4,096; the
receiver acknowledges what it has delivered and asks for what a gap lacks; a management message without an answer is sent again 8 times
(11 R319, R320, R324, R330, R341). The numbers of management messages are log 24 (DESIGN CHOICE). REFUSE takes a frame and every later
one of its job slot and destination into a hold queue, ahead of what the queue holds, and RESUME sends a hold queue's frames again in
order; where nothing waits on the port (11 R321). The body of a link-control frame is a free value (log 114). -/
def Obligations.HopsAcknowledgeAndResend : Prop :=
  (∀ (s : State) (lp n : Nat) (lseq : BitVec 48), let l := s.lport lp
     let due := l.retry.filter fun e => decide (lseq ≤ e.1.lseq)
     let resent := fun (t : State) (from_ : BitVec 48) => (t.lport lp).retry = (l.retry.map fun e => if from_ ≤ e.1.lseq then (e.1, e.2 + 1) else e)
       ∧ t.link.out = s.link.out ++ (l.retry.filter fun e => decide (from_ ≤ e.1.lseq)).map (fun e => .frame lp e.1) ∧ t.mem = s.mem
       ∧ ∀ p, (s.members lp).head? = some p →
           (t.port p).resent = satAdd (s.port p).resent (l.retry.filter fun e => decide (from_ ≤ e.1.lseq)).length
     exec (.linkAck lp lseq) s
         = .next ((s.modLport lp fun l => { l with retry := l.retry.filter fun e => decide (lseq < e.1.lseq) }).pump lp)
       ∧ (due ≠ [] → (∀ e ∈ due, e.2 < 8) → ∃ t, exec (.linkNak lp lseq) s = .next t ∧ resent t lseq)
       ∧ (∀ e p, e ∈ due → 8 ≤ e.2 → (s.members lp).head? = some p →
           ∃ t, exec (.linkNak lp lseq) s = .next t ∧ (t.port p).state = .failed)
       ∧ (l.retry = [] → exec (.resendTimeout lp) s = .next s)
       ∧ (∀ e rest, l.retry = e :: rest → (∀ y ∈ l.retry, y.2 < 8) → ∃ t, exec (.resendTimeout lp) s = .next t ∧ resent t e.1.lseq)
       ∧ exec (.linkCredit lp n) s = .next ((s.modLport lp fun l => { l with credits := min 4096 (l.credits + n) }).pump lp)
       ∧ exec (.ackTimer lp) s = .next (if l.expect = 0 then s else s.emit (.ack lp (l.expect - 1)))
       ∧ exec (.gapTimeout lp) s = .next (if l.gap then s.emit (.nak lp l.expect) else s)
       ∧ ((s.link.unacked.find? fun m => m.1 == n) = none → exec (.managementResend n) s = .next s)
       ∧ (∀ r msg c, (s.link.unacked.find? fun m => m.1 == n) = some (n, r, msg, c) →
           (c < 8 → ∃ t, exec (.managementResend n) s = .next t ∧ t.mgr.out = s.mgr.out ++ [(r, msg)]
             ∧ t.link.unacked = s.link.unacked.map (fun e => if e.1 = n then (n, r, msg, c + 1) else e))
           ∧ (8 ≤ c → exec (.managementResend n) s
             = .next (s.modLink fun l => { l with unacked := l.unacked.filter fun e => e.1 != n }))))
  ∧ ∀ (s : State) (lp : Nat) (f : Frame) (n : Nat) (rest : List (Frame × Nat)), let l := s.lport lp
      let key := (f.jslot.toNat % 16, f.drank.toNat % 1024)
      let mine := fun (g : Frame) => g.cls == 0 && (g.jslot.toNat % 16, g.drank.toNat % 1024) == key
      (l.retry = (f, n) :: rest → f.cls = 0 → l.waiting = [] → (∀ e ∈ rest, f.lseq < e.1.lseq) → l.hold = [] →
          exec (.refuse lp f.lseq) s = .next (s.modLport lp fun l => { l with
            retry := rest.filter fun e => !mine e.1, hold := [(key, f :: (rest.map (·.1)).filter mine)] }))
        ∧ (∀ lseq, (l.retry.find? fun e => e.1.lseq == lseq) = none → exec (.refuse lp lseq) s = .next s)
        ∧ (∀ fs, l.hold = [(key, fs)] → exec (.resume lp key.1 key.2) s
            = .next (fs.foldl (fun (s : State) f => s.linkSend lp f) (s.modLport lp fun l => { l with hold := [] })))
        ∧ (∀ j d, l.hold = [] → exec (.resume lp j d) s = .next s)

/-- A frame at a port in service: corrected codewords are counted; one with a wrong hop CRC or a bad codeword is counted and asked for
again, a repeat is dropped, and one out of order waits. The next in order returns its credits, closes its gap and is taken: a job frame
for this module is opened under its slot's key and its packet handed over, dropped with NOPATH where a dead midline cuts its die off,
refused where its partition is not resident unless it is a mirrored write, and counted where its tag fails or its slot has no key; a frame
for another module goes on with one TTL less, or is dropped at the end of its TTL. A port that is neither ACTIVE nor DISCOVER takes no frame
(01 R25, 09 R292, R294, 11 R318 to R321, R331, R338, R341). A reserved KIND is discarded (log 130, DESIGN CHOICE); the lost path is reported
as in log 69 (DEDUCED). -/
def Obligations.FramesAreTakenInOrder : Prop :=
  ∀ (s0 : State) (p : Nat) (f : Frame) (bad : Bool) (fixed : Nat),
    let s := s0.modPort p fun x => { x with fecce := satAdd x.fecce fixed }
    let go := fun (t : State) => exec (.frameReceive p f ⟨bad, fixed⟩) s0 = .next t
    ((s0.port p).state ≠ .active → (s0.port p).state ≠ .discover → go s)
    ∧ ((s0.port p).state = .active →
    let lp := (s.port p).lport.toNat
    let l := s.lport lp
    let wrong := bad = true ∨ f.hcrc ≠ crc32 (frameBytes f)
    let inOrder := ¬ wrong ∧ f.lseq = l.expect ∧ l.early = []
    let next := s.modLport lp fun l => { l with expect := l.expect + 1 }
    let taken := next.emit (.credit lp (frameUnits f))
    let here := s.link.rank = some (f.drank.toNat % 1024)
    let done := fun (t : State) => go (t.modLport lp fun l => { l with gap := !l.early.isEmpty })
    (wrong → go ((s.modPort p fun x => { x with hcrc := satAdd x.hcrc 1 }).emit (.nak lp l.expect)))
      ∧ (¬ wrong → f.lseq < l.expect → go s)
      ∧ (¬ wrong → l.expect < f.lseq → l.early = [] → go (s.modLport lp fun l => { l with early := [f], gap := true }))
      ∧ (inOrder → f.cls = 0 → here → ∀ k part, s.sec.jobKeys.find? (fun e => e.1 == f.jslot.toNat % 16) = some k →
          s.slotPart (f.jslot.toNat % 16) = some part →
          done (match taken.openFrame f k.2.key k.2.job with
            | none => taken.authFail p part f
            | some (pl, s1) => match pktOf pl with
              | some x => if 10 ≤ x.kind then s1
                else if taken.crosses (portHalf p) (halfOfDie (taken.pktDie part x)) = false then
                  s1.cfault (taken.pktDie part x) part 1 s.rank x.coll
                else if (s.part part).resident = false ∧ x.kind ≠ 4 then taken.emit (.refuse lp f.lseq)
                else s1.modLink fun l => { l with xin := l.xin ++ [(part, x)] }
              | none => s1))
      ∧ (inOrder → f.cls = 0 → here → (s.sec.jobKeys.find? (fun e => e.1 == f.jslot.toNat % 16) = none
            ∨ s.slotPart (f.jslot.toNat % 16) = none) → done (taken.staleKeyDrop p f))
      ∧ (inOrder → f.cls = 0 → ¬ here → f.ttl.toNat ≤ 1 → ∃ t, go t ∧ (t.port p).ttld = satAdd (s.port p).ttld 1 ∧ t.mem = s.mem)
      ∧ (inOrder → f.cls = 0 → ¬ here → 1 < f.ttl.toNat → ∀ part out, s.slotPart (f.jslot.toNat % 16) = some part →
          s.route (s.part part).plane (f.drank.toNat % 1024) = .via out → s.crosses (portHalf p) (out / 12) = true → done (taken.linkSend out (withCrc { f with ttl := f.ttl - 1 }))))

/-- A placed module that has an admission list takes its rank and routes: of the ports that the verdicts name, each once, a consistent one
and one whose peer an ACCEPT record admits enter ACTIVE, and any other is MISWIRED with its flag; the ports of a module that may not
serve stay (11 R329, R330, R333, R340, 13 R379; the refusal without a list is log 152, DEDUCED, the place that a message carries log 85,
DEDUCED). Admission and keys: a module in FIELD answers an OFFER of its admission list, whose key digest and signature are right, with an
ACCEPT, and rejects any other; the acting manager keeps a candidate whose ACCEPT checks against its map entry as a member; a key that
unwraps enters the key store and releases the loads of its job, one that is there changes nothing, and one that does not unwrap is
rejected; a neighbour report is heard by the acting manager (11 R329, R335, 13 R379 to R381; what OFFER and ACCEPT sign is log 30, loads
that wait for their key log 58, both DESIGN CHOICE). -/
def Obligations.HivesPlaceAndAdmit : Prop :=
  (∀ (s : State) (place : Place) (vs : List PortVerdict) (routes : List (Nat × Nat)),
     (s.mgr.admission = none → exec (.placementVerdict place vs routes) s = .next s)
     ∧ (s.mgr.admission.isSome = true → ∃ t, exec (.placementVerdict place vs routes) s = .next t ∧ t.link.rank = some place.rank
       ∧ t.link.placed = some place ∧ (∀ d k, routes = [(d, k)] → t.link.mgmtTab = [(d, k + 1)]) ∧ t.mem = s.mem
       ∧ (s.listed = false → ∀ p, (t.port p).state = (s.port p).state)
       ∧ (s.listed = true → (vs.map (·.port)).Nodup →
          (∀ p, p ∉ vs.map (·.port) → (t.port p).state = (s.port p).state)
          ∧ ∀ v ∈ vs, let x := s.port v.port
            let y := t.port v.port
            let ok := v.ok = true ∨ x.accepted = some (x.peer, x.peerPort.toNat)
            (ok → (x.state = .discover ∨ x.state = .miswired) → y.state = .active)
            ∧ (ok → x.state ≠ .discover → x.state ≠ .miswired → y.state = x.state)
            ∧ (¬ ok → (x.state = .discover ∨ x.state = .active) → y.state = .miswired ∧ y.msw = true)
            ∧ (¬ ok → x.state ≠ .discover → x.state ≠ .active → y.state = x.state))))
  ∧ ∀ (s : State),
      (∀ hive mgr qm cert sg,
        let good := match Config.certSubject cert, s.mgr.admission with
          | some (ser, pub), some (h, digs) =>
            ser == mgr && h == hive && digs.contains (Config.sha384 pub) && Config.ecdsaVerify pub (leBytes 8 hive.toNat ++ leBytes 8 mgr.toNat ++ qm ++ cert) sg
          | _, _ => false
        ∃ t, exec (.offer hive mgr qm cert sg) s = .next t ∧ t.mem = s.mem
          ∧ if good = true ∧ s.lcs = 2 then
              t.mgr.mgrSerial = mgr ∧ ∃ r qc w sg', t.mgr.out = s.mgr.out ++ [(r, .accept qc s.fuse.cert w sg')]
            else t = s.keyReject mgr)
        ∧ (∀ serial qc cert w sg,
          let entry := s.mgr.map.bind fun m => (locOf s.mgr.loc serial).bind (mapAt m ·)
          let good := match Config.certSubject cert, entry with
            | some (ser, pub), some e => ser == serial && (e.serial == 0 || e.serial == serial)
                && (e.keyDig == 0 || e.keyDig == Config.sha384 pub) && Config.ecdsaVerify pub (qc ++ cert ++ leBytes 40 w.toNat) sg
            | _, _ => false
          let key := (s.mgr.ephs.find? fun e => e.1 == serial).bind fun e =>
            Config.keyUnwrap (enrolKey (Config.ecdh e.2 qc) s.hiveId s.fuse.serial serial) w
          ∃ t, exec (.admissionAccept serial qc cert w sg) s = .next t ∧ t.mem = s.mem
            ∧ if s.mgr.acting = false ∨ s.mgr.dual = true then t = s
              else match good, key, entry with
                | true, some wk, some e => (e.rank, serial, wk) ∈ t.mgr.members
                | _, _, _ => t = s.keyReject serial)
        ∧ (∀ job j hiveKey w, ∃ t, exec (.keyDelivery job j hiveKey w) s = .next t ∧ t.mem = s.mem ∧
            if s.lcs ≠ 2 then t = s
            else match Config.keyUnwrap s.fuse.wrapKey w with
              | none => t = if hiveKey then s.keyReject job else (s.keyReject job).refuseLoads job
              | some k =>
                if hiveKey then t = if s.sec.hiveKey = some (job, k) then s
                  else (s.modSec fun x => { x with hiveKey := some (job, k) }).modLink fun l => l.forget 1 0
                else if (j, { job := job, key := k }) ∈ s.sec.jobKeys then t = s
                else t.sec = { s.sec with jobKeys := tset { job := 0, key := 0 } s.sec.jobKeys j { job := job, key := k } }
                  ∧ t.link = s.link.forget 0 j ∧ (∀ p ∈ s.jobParts job, (t.part p).jslot = some j)
                  ∧ let due := fun (e : W32 × W64 × List Byte) => t.hasKey (BitVec.ofNat 64 (recNat e.2.2 0x18 8))
                    t.ldr.queue = s.ldr.queue ++ s.ldr.held.filter due ∧ t.ldr.held = s.ldr.held.filter fun e => !due e)
        ∧ (∀ r, s.mgr.acting = false → exec (.neighbourReport r) s = .next s)
        ∧ (∀ r, s.mgr.acting = true → s.mgr.map = none → exec (.neighbourReport r) s
            = .next (s.modMgr fun g => { g with reports := (g.reports.filter fun x => x.serial != r.serial) ++ [r] }))
        ∧ (∀ r, s.mgr.acting = true → s.mgr.map.isSome = true → r.serial ≠ s.fuse.serial →
            ∃ t, exec (.neighbourReport r) s = .next t ∧ r ∈ t.mgr.reports ∧ t.mem = s.mem)

/-- The acting manager: an elect module with a port that has trained, which knows no manager and hears no heartbeat, stands; one that
stands, knows none, and whose own serial has been BEST at every peer acts from then on, with a hive key of its own and the jobs it was
told of; it keeps every member alive by heartbeats; an elect module keeps the state it is sent, the hive key and the members' wrap keys,
and stands when the manager is lost, while any other module forgets it; and the manager takes a job's loss-scale record, that of the lowest
rank in force until the job begins (11 R327, R328, R339, 10 R306). A serial that was BEST falls with the manager it made (log 29, DESIGN
CHOICE); a record for a job that has begun opens it anew (log 31, DEDUCED). -/
def Obligations.TheElectedModuleManages : Prop :=
  ∀ (s : State),
    let stood := if s.mgr.best = 0 ∨ s.fuse.serial < s.mgr.best then s.fuse.serial else s.mgr.best
    let alone := s.mgr.acting = false ∧ s.mgr.mgrSerial = 0 ∧ s.mgr.heartbeat = false
    (let may := s.role = 2 ∧ alone ∧ ∃ p, p < 24 ∧ (s.port p).state.beacons = true
     (may → exec .electStand s = .next (s.modMgr fun g => { g with standing := true, best := stood }))
        ∧ (¬ may → exec .electStand s = .next s))
      ∧ (let wins := s.mgr.standing = true ∧ alone ∧ s.mgr.best = s.fuse.serial
          ∧ (∀ p, p < 24 → (s.port p).state = .discover ∨ (s.port p).state = .active → (s.port p).peer ≠ 0 → (s.port p).peerBest = s.fuse.serial)
        (wins → ∃ t, exec .actingManager s = .next t ∧ t.mgr.acting = true ∧ t.mgr.standing = false ∧ t.mgr.best = 0 ∧ t.mgr.mgrSerial = s.fuse.serial
            ∧ t.sec.hiveKey.isSome = true ∧ ∀ j ∈ s.mgr.lastState, ∃ x ∈ t.mgr.jobs, x.job = j.job)
          ∧ (¬ wins → exec .actingManager s = .next s))
      ∧ (s.mgr.acting = true → s.managing = true → ∃ t, exec .managerHeartbeat s = .next t ∧ t.mgr = { s.mgr with
          out := s.mgr.out ++ (s.mgr.members.filter fun m => m.1 != s.rank).map fun m => (m.1, .heartbeat) })
      ∧ (s.mgr.acting = false ∨ s.managing = false → exec .managerHeartbeat s = .next s)
      ∧ (∀ jobs w ms, s.role ≠ 2 ∨ s.mgr.acting = true → exec (.managerState jobs w ms) s = .next s)
      ∧ (∀ jobs w ms, s.role = 2 → s.mgr.acting = false → ∃ t, exec (.managerState jobs w ms) s = .next t
          ∧ t.mgr.heartbeat = true ∧ t.mgr.lastState = jobs ∧ t.mgr.best = 0 ∧ t.mem = s.mem
          ∧ ((ms.map (·.2.1)).Nodup → ∀ m ∈ ms, ∀ k, Config.keyUnwrap s.fuse.wrapKey m.2.2 = some k → (m.1, m.2.1, k) ∈ t.mgr.members)
          ∧ match Config.keyUnwrap s.fuse.wrapKey w with
            | some k => ∃ h, t.sec.hiveKey = some (h, k)
            | none => t.sec.hiveKey = s.sec.hiveKey)
      ∧ exec .managerLoss s = .next (if s.mgr.acting = true then s else s.modMgr fun g => { g with
          heartbeat := false, mgrSerial := 0, standing := s.role == 2, best := if s.role = 2 then stood else g.best })
      ∧ (∀ job rank part r, s.mgr.acting = false → exec (.scaleRecordArrival job rank part r) s = .next s)
      ∧ (∀ job rank part r j, s.mgr.acting = true → s.findJob job = some j → j.started = true ∨ j.stopped = true →
          let ls0 : LsState := { clean := 0, sexp := r.s0, disc := 0, floor := 0 }
          exec (.scaleRecordArrival job rank part r) s
            = .next (s.putJob { job := job, members := [(rank, part)], rec_ := r, recRank := rank, ls := ls0 }))
      ∧ (∀ job rank part r, s.mgr.acting = true → s.findJob job = none →
          let ls0 : LsState := { clean := 0, sexp := r.s0, disc := 0, floor := 0 }
          exec (.scaleRecordArrival job rank part r) s = .next (s.modMgr fun g => { g with
            jobs := g.jobs ++ [{ job := job, members := [(rank, part)], rec_ := r, recRank := rank, ls := ls0 }] }))
      ∧ (∀ job rank part r j, s.mgr.acting = true → s.findJob job = some j → j.started = false → j.stopped = false →
          let j1 : Job := { j with members := if j.members.contains (rank, part) then j.members else j.members ++ [(rank, part)] }
          let ls0 : LsState := { clean := 0, sexp := r.s0, disc := 0, floor := 0 }
          let j2 : Job := if rank ≤ j.recRank then { j1 with rec_ := r, recRank := rank, ls := ls0 } else j1
          exec (.scaleRecordArrival job rank part r) s
            = .next (s.putJob j2))
end

