-- ==== Sys2Proof/Laws/State.lean ====
section
/-! SUPPORT. What each update of the state leaves and what it sets, one lemma for a field and an update, so that no proof unfolds a
record update. -/

namespace Sys2Proof.Machine

variable (s : State)

/-! ### setCore -/

@[simp] theorem State.setCore_pending (k : Nat) (c : Core) : (s.setCore k c).pending = s.pending := rfl
@[simp] theorem State.setCore_free (k : Nat) (c : Core) : (s.setCore k c).free = s.free := rfl
@[simp] theorem State.setCore_fuse (k : Nat) (c : Core) : (s.setCore k c).fuse = s.fuse := rfl
@[simp] theorem State.setCore_mem (k : Nat) (c : Core) : (s.setCore k c).mem = s.mem := rfl
@[simp] theorem State.setCore_errs (k : Nat) (c : Core) : (s.setCore k c).errs = s.errs := rfl
@[simp] theorem State.setCore_dies (k : Nat) (c : Core) : (s.setCore k c).dies = s.dies := rfl
@[simp] theorem State.setCore_upds (k : Nat) (c : Core) : (s.setCore k c).upds = s.upds := rfl
@[simp] theorem State.setCore_objs (k : Nat) (c : Core) : (s.setCore k c).objs = s.objs := rfl
@[simp] theorem State.setCore_syn0 (k : Nat) (c : Core) : (s.setCore k c).syn0 = s.syn0 := rfl
@[simp] theorem State.setCore_syn1 (k : Nat) (c : Core) : (s.setCore k c).syn1 = s.syn1 := rfl
@[simp] theorem State.setCore_parts (k : Nat) (c : Core) : (s.setCore k c).parts = s.parts := rfl
@[simp] theorem State.setCore_ev (k : Nat) (c : Core) : (s.setCore k c).ev = s.ev := rfl
@[simp] theorem State.setCore_link (k : Nat) (c : Core) : (s.setCore k c).link = s.link := rfl
@[simp] theorem State.setCore_mgr (k : Nat) (c : Core) : (s.setCore k c).mgr = s.mgr := rfl
@[simp] theorem State.setCore_sec (k : Nat) (c : Core) : (s.setCore k c).sec = s.sec := rfl
@[simp] theorem State.setCore_ldr (k : Nat) (c : Core) : (s.setCore k c).ldr = s.ldr := rfl
@[simp] theorem State.setCore_pwr (k : Nat) (c : Core) : (s.setCore k c).pwr = s.pwr := rfl
@[simp] theorem State.setCore_ff0 (k : Nat) (c : Core) : (s.setCore k c).ff0 = s.ff0 := rfl
@[simp] theorem State.setCore_ff1 (k : Nat) (c : Core) : (s.setCore k c).ff1 = s.ff1 := rfl
@[simp] theorem State.setCore_cores (k : Nat) (c : Core) : (s.setCore k c).cores = tset {} s.cores k c := rfl

/-! ### modCore -/

@[simp] theorem State.modCore_pending (k : Nat) (f : Core → Core) : (s.modCore k f).pending = s.pending := rfl
@[simp] theorem State.modCore_free (k : Nat) (f : Core → Core) : (s.modCore k f).free = s.free := rfl
@[simp] theorem State.modCore_fuse (k : Nat) (f : Core → Core) : (s.modCore k f).fuse = s.fuse := rfl
@[simp] theorem State.modCore_mem (k : Nat) (f : Core → Core) : (s.modCore k f).mem = s.mem := rfl
@[simp] theorem State.modCore_errs (k : Nat) (f : Core → Core) : (s.modCore k f).errs = s.errs := rfl
@[simp] theorem State.modCore_dies (k : Nat) (f : Core → Core) : (s.modCore k f).dies = s.dies := rfl
@[simp] theorem State.modCore_upds (k : Nat) (f : Core → Core) : (s.modCore k f).upds = s.upds := rfl
@[simp] theorem State.modCore_objs (k : Nat) (f : Core → Core) : (s.modCore k f).objs = s.objs := rfl
@[simp] theorem State.modCore_syn0 (k : Nat) (f : Core → Core) : (s.modCore k f).syn0 = s.syn0 := rfl
@[simp] theorem State.modCore_syn1 (k : Nat) (f : Core → Core) : (s.modCore k f).syn1 = s.syn1 := rfl
@[simp] theorem State.modCore_parts (k : Nat) (f : Core → Core) : (s.modCore k f).parts = s.parts := rfl
@[simp] theorem State.modCore_ev (k : Nat) (f : Core → Core) : (s.modCore k f).ev = s.ev := rfl
@[simp] theorem State.modCore_link (k : Nat) (f : Core → Core) : (s.modCore k f).link = s.link := rfl
@[simp] theorem State.modCore_mgr (k : Nat) (f : Core → Core) : (s.modCore k f).mgr = s.mgr := rfl
@[simp] theorem State.modCore_sec (k : Nat) (f : Core → Core) : (s.modCore k f).sec = s.sec := rfl
@[simp] theorem State.modCore_ldr (k : Nat) (f : Core → Core) : (s.modCore k f).ldr = s.ldr := rfl
@[simp] theorem State.modCore_pwr (k : Nat) (f : Core → Core) : (s.modCore k f).pwr = s.pwr := rfl
@[simp] theorem State.modCore_ff0 (k : Nat) (f : Core → Core) : (s.modCore k f).ff0 = s.ff0 := rfl
@[simp] theorem State.modCore_ff1 (k : Nat) (f : Core → Core) : (s.modCore k f).ff1 = s.ff1 := rfl
@[simp] theorem State.modCore_cores (k : Nat) (f : Core → Core) : (s.modCore k f).cores = tset {} s.cores k (f (s.core k)) := rfl

/-! ### setStream -/

@[simp] theorem State.setStream_pending (i : StreamId) (st : Stream) : (s.setStream i st).pending = s.pending := rfl
@[simp] theorem State.setStream_free (i : StreamId) (st : Stream) : (s.setStream i st).free = s.free := rfl
@[simp] theorem State.setStream_fuse (i : StreamId) (st : Stream) : (s.setStream i st).fuse = s.fuse := rfl
@[simp] theorem State.setStream_mem (i : StreamId) (st : Stream) : (s.setStream i st).mem = s.mem := rfl
@[simp] theorem State.setStream_errs (i : StreamId) (st : Stream) : (s.setStream i st).errs = s.errs := rfl
@[simp] theorem State.setStream_dies (i : StreamId) (st : Stream) : (s.setStream i st).dies = s.dies := rfl
@[simp] theorem State.setStream_upds (i : StreamId) (st : Stream) : (s.setStream i st).upds = s.upds := rfl
@[simp] theorem State.setStream_objs (i : StreamId) (st : Stream) : (s.setStream i st).objs = s.objs := rfl
@[simp] theorem State.setStream_syn0 (i : StreamId) (st : Stream) : (s.setStream i st).syn0 = s.syn0 := rfl
@[simp] theorem State.setStream_syn1 (i : StreamId) (st : Stream) : (s.setStream i st).syn1 = s.syn1 := rfl
@[simp] theorem State.setStream_parts (i : StreamId) (st : Stream) : (s.setStream i st).parts = s.parts := rfl
@[simp] theorem State.setStream_ev (i : StreamId) (st : Stream) : (s.setStream i st).ev = s.ev := rfl
@[simp] theorem State.setStream_link (i : StreamId) (st : Stream) : (s.setStream i st).link = s.link := rfl
@[simp] theorem State.setStream_mgr (i : StreamId) (st : Stream) : (s.setStream i st).mgr = s.mgr := rfl
@[simp] theorem State.setStream_sec (i : StreamId) (st : Stream) : (s.setStream i st).sec = s.sec := rfl
@[simp] theorem State.setStream_ldr (i : StreamId) (st : Stream) : (s.setStream i st).ldr = s.ldr := rfl
@[simp] theorem State.setStream_pwr (i : StreamId) (st : Stream) : (s.setStream i st).pwr = s.pwr := rfl
@[simp] theorem State.setStream_ff0 (i : StreamId) (st : Stream) : (s.setStream i st).ff0 = s.ff0 := rfl
@[simp] theorem State.setStream_ff1 (i : StreamId) (st : Stream) : (s.setStream i st).ff1 = s.ff1 := rfl

/-! ### modStream -/

@[simp] theorem State.modStream_pending (i : StreamId) (f : Stream → Stream) : (s.modStream i f).pending = s.pending := rfl
@[simp] theorem State.modStream_free (i : StreamId) (f : Stream → Stream) : (s.modStream i f).free = s.free := rfl
@[simp] theorem State.modStream_fuse (i : StreamId) (f : Stream → Stream) : (s.modStream i f).fuse = s.fuse := rfl
@[simp] theorem State.modStream_mem (i : StreamId) (f : Stream → Stream) : (s.modStream i f).mem = s.mem := rfl
@[simp] theorem State.modStream_errs (i : StreamId) (f : Stream → Stream) : (s.modStream i f).errs = s.errs := rfl
@[simp] theorem State.modStream_dies (i : StreamId) (f : Stream → Stream) : (s.modStream i f).dies = s.dies := rfl
@[simp] theorem State.modStream_upds (i : StreamId) (f : Stream → Stream) : (s.modStream i f).upds = s.upds := rfl
@[simp] theorem State.modStream_objs (i : StreamId) (f : Stream → Stream) : (s.modStream i f).objs = s.objs := rfl
@[simp] theorem State.modStream_syn0 (i : StreamId) (f : Stream → Stream) : (s.modStream i f).syn0 = s.syn0 := rfl
@[simp] theorem State.modStream_syn1 (i : StreamId) (f : Stream → Stream) : (s.modStream i f).syn1 = s.syn1 := rfl
@[simp] theorem State.modStream_parts (i : StreamId) (f : Stream → Stream) : (s.modStream i f).parts = s.parts := rfl
@[simp] theorem State.modStream_ev (i : StreamId) (f : Stream → Stream) : (s.modStream i f).ev = s.ev := rfl
@[simp] theorem State.modStream_link (i : StreamId) (f : Stream → Stream) : (s.modStream i f).link = s.link := rfl
@[simp] theorem State.modStream_mgr (i : StreamId) (f : Stream → Stream) : (s.modStream i f).mgr = s.mgr := rfl
@[simp] theorem State.modStream_sec (i : StreamId) (f : Stream → Stream) : (s.modStream i f).sec = s.sec := rfl
@[simp] theorem State.modStream_ldr (i : StreamId) (f : Stream → Stream) : (s.modStream i f).ldr = s.ldr := rfl
@[simp] theorem State.modStream_pwr (i : StreamId) (f : Stream → Stream) : (s.modStream i f).pwr = s.pwr := rfl
@[simp] theorem State.modStream_ff0 (i : StreamId) (f : Stream → Stream) : (s.modStream i f).ff0 = s.ff0 := rfl
@[simp] theorem State.modStream_ff1 (i : StreamId) (f : Stream → Stream) : (s.modStream i f).ff1 = s.ff1 := rfl

/-! ### modDie -/

@[simp] theorem State.modDie_pending (d : Nat) (f : Die → Die) : (s.modDie d f).pending = s.pending := rfl
@[simp] theorem State.modDie_free (d : Nat) (f : Die → Die) : (s.modDie d f).free = s.free := rfl
@[simp] theorem State.modDie_fuse (d : Nat) (f : Die → Die) : (s.modDie d f).fuse = s.fuse := rfl
@[simp] theorem State.modDie_mem (d : Nat) (f : Die → Die) : (s.modDie d f).mem = s.mem := rfl
@[simp] theorem State.modDie_errs (d : Nat) (f : Die → Die) : (s.modDie d f).errs = s.errs := rfl
@[simp] theorem State.modDie_cores (d : Nat) (f : Die → Die) : (s.modDie d f).cores = s.cores := rfl
@[simp] theorem State.modDie_upds (d : Nat) (f : Die → Die) : (s.modDie d f).upds = s.upds := rfl
@[simp] theorem State.modDie_objs (d : Nat) (f : Die → Die) : (s.modDie d f).objs = s.objs := rfl
@[simp] theorem State.modDie_syn0 (d : Nat) (f : Die → Die) : (s.modDie d f).syn0 = s.syn0 := rfl
@[simp] theorem State.modDie_syn1 (d : Nat) (f : Die → Die) : (s.modDie d f).syn1 = s.syn1 := rfl
@[simp] theorem State.modDie_parts (d : Nat) (f : Die → Die) : (s.modDie d f).parts = s.parts := rfl
@[simp] theorem State.modDie_ev (d : Nat) (f : Die → Die) : (s.modDie d f).ev = s.ev := rfl
@[simp] theorem State.modDie_link (d : Nat) (f : Die → Die) : (s.modDie d f).link = s.link := rfl
@[simp] theorem State.modDie_mgr (d : Nat) (f : Die → Die) : (s.modDie d f).mgr = s.mgr := rfl
@[simp] theorem State.modDie_sec (d : Nat) (f : Die → Die) : (s.modDie d f).sec = s.sec := rfl
@[simp] theorem State.modDie_ldr (d : Nat) (f : Die → Die) : (s.modDie d f).ldr = s.ldr := rfl
@[simp] theorem State.modDie_pwr (d : Nat) (f : Die → Die) : (s.modDie d f).pwr = s.pwr := rfl
@[simp] theorem State.modDie_ff0 (d : Nat) (f : Die → Die) : (s.modDie d f).ff0 = s.ff0 := rfl
@[simp] theorem State.modDie_ff1 (d : Nat) (f : Die → Die) : (s.modDie d f).ff1 = s.ff1 := rfl
@[simp] theorem State.modDie_dies (d : Nat) (f : Die → Die) : (s.modDie d f).dies = tset {} s.dies d (f (s.die d)) := rfl

/-! ### modUnit -/

@[simp] theorem State.modUnit_pending (u : Nat) (f : UpdUnit → UpdUnit) : (s.modUnit u f).pending = s.pending := rfl
@[simp] theorem State.modUnit_free (u : Nat) (f : UpdUnit → UpdUnit) : (s.modUnit u f).free = s.free := rfl
@[simp] theorem State.modUnit_fuse (u : Nat) (f : UpdUnit → UpdUnit) : (s.modUnit u f).fuse = s.fuse := rfl
@[simp] theorem State.modUnit_mem (u : Nat) (f : UpdUnit → UpdUnit) : (s.modUnit u f).mem = s.mem := rfl
@[simp] theorem State.modUnit_errs (u : Nat) (f : UpdUnit → UpdUnit) : (s.modUnit u f).errs = s.errs := rfl
@[simp] theorem State.modUnit_cores (u : Nat) (f : UpdUnit → UpdUnit) : (s.modUnit u f).cores = s.cores := rfl
@[simp] theorem State.modUnit_dies (u : Nat) (f : UpdUnit → UpdUnit) : (s.modUnit u f).dies = s.dies := rfl
@[simp] theorem State.modUnit_objs (u : Nat) (f : UpdUnit → UpdUnit) : (s.modUnit u f).objs = s.objs := rfl
@[simp] theorem State.modUnit_syn0 (u : Nat) (f : UpdUnit → UpdUnit) : (s.modUnit u f).syn0 = s.syn0 := rfl
@[simp] theorem State.modUnit_syn1 (u : Nat) (f : UpdUnit → UpdUnit) : (s.modUnit u f).syn1 = s.syn1 := rfl
@[simp] theorem State.modUnit_parts (u : Nat) (f : UpdUnit → UpdUnit) : (s.modUnit u f).parts = s.parts := rfl
@[simp] theorem State.modUnit_ev (u : Nat) (f : UpdUnit → UpdUnit) : (s.modUnit u f).ev = s.ev := rfl
@[simp] theorem State.modUnit_link (u : Nat) (f : UpdUnit → UpdUnit) : (s.modUnit u f).link = s.link := rfl
@[simp] theorem State.modUnit_mgr (u : Nat) (f : UpdUnit → UpdUnit) : (s.modUnit u f).mgr = s.mgr := rfl
@[simp] theorem State.modUnit_sec (u : Nat) (f : UpdUnit → UpdUnit) : (s.modUnit u f).sec = s.sec := rfl
@[simp] theorem State.modUnit_ldr (u : Nat) (f : UpdUnit → UpdUnit) : (s.modUnit u f).ldr = s.ldr := rfl
@[simp] theorem State.modUnit_pwr (u : Nat) (f : UpdUnit → UpdUnit) : (s.modUnit u f).pwr = s.pwr := rfl
@[simp] theorem State.modUnit_ff0 (u : Nat) (f : UpdUnit → UpdUnit) : (s.modUnit u f).ff0 = s.ff0 := rfl
@[simp] theorem State.modUnit_ff1 (u : Nat) (f : UpdUnit → UpdUnit) : (s.modUnit u f).ff1 = s.ff1 := rfl
@[simp] theorem State.modUnit_upds (u : Nat) (f : UpdUnit → UpdUnit) : (s.modUnit u f).upds = tset {} s.upds u (f (s.unit u)) := rfl

/-! ### modPart -/

@[simp] theorem State.modPart_pending (p : Nat) (f : Part → Part) : (s.modPart p f).pending = s.pending := rfl
@[simp] theorem State.modPart_free (p : Nat) (f : Part → Part) : (s.modPart p f).free = s.free := rfl
@[simp] theorem State.modPart_fuse (p : Nat) (f : Part → Part) : (s.modPart p f).fuse = s.fuse := rfl
@[simp] theorem State.modPart_mem (p : Nat) (f : Part → Part) : (s.modPart p f).mem = s.mem := rfl
@[simp] theorem State.modPart_errs (p : Nat) (f : Part → Part) : (s.modPart p f).errs = s.errs := rfl
@[simp] theorem State.modPart_cores (p : Nat) (f : Part → Part) : (s.modPart p f).cores = s.cores := rfl
@[simp] theorem State.modPart_dies (p : Nat) (f : Part → Part) : (s.modPart p f).dies = s.dies := rfl
@[simp] theorem State.modPart_upds (p : Nat) (f : Part → Part) : (s.modPart p f).upds = s.upds := rfl
@[simp] theorem State.modPart_objs (p : Nat) (f : Part → Part) : (s.modPart p f).objs = s.objs := rfl
@[simp] theorem State.modPart_syn0 (p : Nat) (f : Part → Part) : (s.modPart p f).syn0 = s.syn0 := rfl
@[simp] theorem State.modPart_syn1 (p : Nat) (f : Part → Part) : (s.modPart p f).syn1 = s.syn1 := rfl
@[simp] theorem State.modPart_ev (p : Nat) (f : Part → Part) : (s.modPart p f).ev = s.ev := rfl
@[simp] theorem State.modPart_link (p : Nat) (f : Part → Part) : (s.modPart p f).link = s.link := rfl
@[simp] theorem State.modPart_mgr (p : Nat) (f : Part → Part) : (s.modPart p f).mgr = s.mgr := rfl
@[simp] theorem State.modPart_sec (p : Nat) (f : Part → Part) : (s.modPart p f).sec = s.sec := rfl
@[simp] theorem State.modPart_ldr (p : Nat) (f : Part → Part) : (s.modPart p f).ldr = s.ldr := rfl
@[simp] theorem State.modPart_pwr (p : Nat) (f : Part → Part) : (s.modPart p f).pwr = s.pwr := rfl
@[simp] theorem State.modPart_ff0 (p : Nat) (f : Part → Part) : (s.modPart p f).ff0 = s.ff0 := rfl
@[simp] theorem State.modPart_ff1 (p : Nat) (f : Part → Part) : (s.modPart p f).ff1 = s.ff1 := rfl
@[simp] theorem State.modPart_parts (p : Nat) (f : Part → Part) : (s.modPart p f).parts = tset {} s.parts p (f (s.part p)) := rfl

/-! ### modObj -/

@[simp] theorem State.modObj_pending (o : Nat) (f : SyncObj → SyncObj) : (s.modObj o f).pending = s.pending := rfl
@[simp] theorem State.modObj_free (o : Nat) (f : SyncObj → SyncObj) : (s.modObj o f).free = s.free := rfl
@[simp] theorem State.modObj_fuse (o : Nat) (f : SyncObj → SyncObj) : (s.modObj o f).fuse = s.fuse := rfl
@[simp] theorem State.modObj_mem (o : Nat) (f : SyncObj → SyncObj) : (s.modObj o f).mem = s.mem := rfl
@[simp] theorem State.modObj_errs (o : Nat) (f : SyncObj → SyncObj) : (s.modObj o f).errs = s.errs := rfl
@[simp] theorem State.modObj_cores (o : Nat) (f : SyncObj → SyncObj) : (s.modObj o f).cores = s.cores := rfl
@[simp] theorem State.modObj_dies (o : Nat) (f : SyncObj → SyncObj) : (s.modObj o f).dies = s.dies := rfl
@[simp] theorem State.modObj_upds (o : Nat) (f : SyncObj → SyncObj) : (s.modObj o f).upds = s.upds := rfl
@[simp] theorem State.modObj_syn0 (o : Nat) (f : SyncObj → SyncObj) : (s.modObj o f).syn0 = s.syn0 := rfl
@[simp] theorem State.modObj_syn1 (o : Nat) (f : SyncObj → SyncObj) : (s.modObj o f).syn1 = s.syn1 := rfl
@[simp] theorem State.modObj_parts (o : Nat) (f : SyncObj → SyncObj) : (s.modObj o f).parts = s.parts := rfl
@[simp] theorem State.modObj_ev (o : Nat) (f : SyncObj → SyncObj) : (s.modObj o f).ev = s.ev := rfl
@[simp] theorem State.modObj_link (o : Nat) (f : SyncObj → SyncObj) : (s.modObj o f).link = s.link := rfl
@[simp] theorem State.modObj_mgr (o : Nat) (f : SyncObj → SyncObj) : (s.modObj o f).mgr = s.mgr := rfl
@[simp] theorem State.modObj_sec (o : Nat) (f : SyncObj → SyncObj) : (s.modObj o f).sec = s.sec := rfl
@[simp] theorem State.modObj_ldr (o : Nat) (f : SyncObj → SyncObj) : (s.modObj o f).ldr = s.ldr := rfl
@[simp] theorem State.modObj_pwr (o : Nat) (f : SyncObj → SyncObj) : (s.modObj o f).pwr = s.pwr := rfl
@[simp] theorem State.modObj_ff0 (o : Nat) (f : SyncObj → SyncObj) : (s.modObj o f).ff0 = s.ff0 := rfl
@[simp] theorem State.modObj_ff1 (o : Nat) (f : SyncObj → SyncObj) : (s.modObj o f).ff1 = s.ff1 := rfl
@[simp] theorem State.modObj_objs (o : Nat) (f : SyncObj → SyncObj) : (s.modObj o f).objs = tset {} s.objs o (f (s.obj o)) := rfl

/-! ### modSyn -/

@[simp] theorem State.modSyn_pending (h : Nat) (f : SynHalf → SynHalf) : (s.modSyn h f).pending = s.pending := by unfold State.modSyn; split <;> rfl
@[simp] theorem State.modSyn_free (h : Nat) (f : SynHalf → SynHalf) : (s.modSyn h f).free = s.free := by unfold State.modSyn; split <;> rfl
@[simp] theorem State.modSyn_fuse (h : Nat) (f : SynHalf → SynHalf) : (s.modSyn h f).fuse = s.fuse := by unfold State.modSyn; split <;> rfl
@[simp] theorem State.modSyn_mem (h : Nat) (f : SynHalf → SynHalf) : (s.modSyn h f).mem = s.mem := by unfold State.modSyn; split <;> rfl
@[simp] theorem State.modSyn_errs (h : Nat) (f : SynHalf → SynHalf) : (s.modSyn h f).errs = s.errs := by unfold State.modSyn; split <;> rfl
@[simp] theorem State.modSyn_cores (h : Nat) (f : SynHalf → SynHalf) : (s.modSyn h f).cores = s.cores := by unfold State.modSyn; split <;> rfl
@[simp] theorem State.modSyn_dies (h : Nat) (f : SynHalf → SynHalf) : (s.modSyn h f).dies = s.dies := by unfold State.modSyn; split <;> rfl
@[simp] theorem State.modSyn_upds (h : Nat) (f : SynHalf → SynHalf) : (s.modSyn h f).upds = s.upds := by unfold State.modSyn; split <;> rfl
@[simp] theorem State.modSyn_objs (h : Nat) (f : SynHalf → SynHalf) : (s.modSyn h f).objs = s.objs := by unfold State.modSyn; split <;> rfl
@[simp] theorem State.modSyn_parts (h : Nat) (f : SynHalf → SynHalf) : (s.modSyn h f).parts = s.parts := by unfold State.modSyn; split <;> rfl
@[simp] theorem State.modSyn_ev (h : Nat) (f : SynHalf → SynHalf) : (s.modSyn h f).ev = s.ev := by unfold State.modSyn; split <;> rfl
@[simp] theorem State.modSyn_link (h : Nat) (f : SynHalf → SynHalf) : (s.modSyn h f).link = s.link := by unfold State.modSyn; split <;> rfl
@[simp] theorem State.modSyn_mgr (h : Nat) (f : SynHalf → SynHalf) : (s.modSyn h f).mgr = s.mgr := by unfold State.modSyn; split <;> rfl
@[simp] theorem State.modSyn_sec (h : Nat) (f : SynHalf → SynHalf) : (s.modSyn h f).sec = s.sec := by unfold State.modSyn; split <;> rfl
@[simp] theorem State.modSyn_ldr (h : Nat) (f : SynHalf → SynHalf) : (s.modSyn h f).ldr = s.ldr := by unfold State.modSyn; split <;> rfl
@[simp] theorem State.modSyn_pwr (h : Nat) (f : SynHalf → SynHalf) : (s.modSyn h f).pwr = s.pwr := by unfold State.modSyn; split <;> rfl
@[simp] theorem State.modSyn_ff0 (h : Nat) (f : SynHalf → SynHalf) : (s.modSyn h f).ff0 = s.ff0 := by unfold State.modSyn; split <;> rfl
@[simp] theorem State.modSyn_ff1 (h : Nat) (f : SynHalf → SynHalf) : (s.modSyn h f).ff1 = s.ff1 := by unfold State.modSyn; split <;> rfl

/-! ### modFf -/

@[simp] theorem State.modFf_pending (h : Nat) (f : FfHalf → FfHalf) : (s.modFf h f).pending = s.pending := by unfold State.modFf; split <;> rfl
@[simp] theorem State.modFf_free (h : Nat) (f : FfHalf → FfHalf) : (s.modFf h f).free = s.free := by unfold State.modFf; split <;> rfl
@[simp] theorem State.modFf_fuse (h : Nat) (f : FfHalf → FfHalf) : (s.modFf h f).fuse = s.fuse := by unfold State.modFf; split <;> rfl
@[simp] theorem State.modFf_mem (h : Nat) (f : FfHalf → FfHalf) : (s.modFf h f).mem = s.mem := by unfold State.modFf; split <;> rfl
@[simp] theorem State.modFf_errs (h : Nat) (f : FfHalf → FfHalf) : (s.modFf h f).errs = s.errs := by unfold State.modFf; split <;> rfl
@[simp] theorem State.modFf_cores (h : Nat) (f : FfHalf → FfHalf) : (s.modFf h f).cores = s.cores := by unfold State.modFf; split <;> rfl
@[simp] theorem State.modFf_dies (h : Nat) (f : FfHalf → FfHalf) : (s.modFf h f).dies = s.dies := by unfold State.modFf; split <;> rfl
@[simp] theorem State.modFf_upds (h : Nat) (f : FfHalf → FfHalf) : (s.modFf h f).upds = s.upds := by unfold State.modFf; split <;> rfl
@[simp] theorem State.modFf_objs (h : Nat) (f : FfHalf → FfHalf) : (s.modFf h f).objs = s.objs := by unfold State.modFf; split <;> rfl
@[simp] theorem State.modFf_syn0 (h : Nat) (f : FfHalf → FfHalf) : (s.modFf h f).syn0 = s.syn0 := by unfold State.modFf; split <;> rfl
@[simp] theorem State.modFf_syn1 (h : Nat) (f : FfHalf → FfHalf) : (s.modFf h f).syn1 = s.syn1 := by unfold State.modFf; split <;> rfl
@[simp] theorem State.modFf_parts (h : Nat) (f : FfHalf → FfHalf) : (s.modFf h f).parts = s.parts := by unfold State.modFf; split <;> rfl
@[simp] theorem State.modFf_ev (h : Nat) (f : FfHalf → FfHalf) : (s.modFf h f).ev = s.ev := by unfold State.modFf; split <;> rfl
@[simp] theorem State.modFf_link (h : Nat) (f : FfHalf → FfHalf) : (s.modFf h f).link = s.link := by unfold State.modFf; split <;> rfl
@[simp] theorem State.modFf_mgr (h : Nat) (f : FfHalf → FfHalf) : (s.modFf h f).mgr = s.mgr := by unfold State.modFf; split <;> rfl
@[simp] theorem State.modFf_sec (h : Nat) (f : FfHalf → FfHalf) : (s.modFf h f).sec = s.sec := by unfold State.modFf; split <;> rfl
@[simp] theorem State.modFf_ldr (h : Nat) (f : FfHalf → FfHalf) : (s.modFf h f).ldr = s.ldr := by unfold State.modFf; split <;> rfl
@[simp] theorem State.modFf_pwr (h : Nat) (f : FfHalf → FfHalf) : (s.modFf h f).pwr = s.pwr := by unfold State.modFf; split <;> rfl

/-! ### modPort -/

@[simp] theorem State.modPort_pending (p : Nat) (f : Port → Port) : (s.modPort p f).pending = s.pending := rfl
@[simp] theorem State.modPort_free (p : Nat) (f : Port → Port) : (s.modPort p f).free = s.free := rfl
@[simp] theorem State.modPort_fuse (p : Nat) (f : Port → Port) : (s.modPort p f).fuse = s.fuse := rfl
@[simp] theorem State.modPort_mem (p : Nat) (f : Port → Port) : (s.modPort p f).mem = s.mem := rfl
@[simp] theorem State.modPort_errs (p : Nat) (f : Port → Port) : (s.modPort p f).errs = s.errs := rfl
@[simp] theorem State.modPort_cores (p : Nat) (f : Port → Port) : (s.modPort p f).cores = s.cores := rfl
@[simp] theorem State.modPort_dies (p : Nat) (f : Port → Port) : (s.modPort p f).dies = s.dies := rfl
@[simp] theorem State.modPort_upds (p : Nat) (f : Port → Port) : (s.modPort p f).upds = s.upds := rfl
@[simp] theorem State.modPort_objs (p : Nat) (f : Port → Port) : (s.modPort p f).objs = s.objs := rfl
@[simp] theorem State.modPort_syn0 (p : Nat) (f : Port → Port) : (s.modPort p f).syn0 = s.syn0 := rfl
@[simp] theorem State.modPort_syn1 (p : Nat) (f : Port → Port) : (s.modPort p f).syn1 = s.syn1 := rfl
@[simp] theorem State.modPort_parts (p : Nat) (f : Port → Port) : (s.modPort p f).parts = s.parts := rfl
@[simp] theorem State.modPort_ev (p : Nat) (f : Port → Port) : (s.modPort p f).ev = s.ev := rfl
@[simp] theorem State.modPort_mgr (p : Nat) (f : Port → Port) : (s.modPort p f).mgr = s.mgr := rfl
@[simp] theorem State.modPort_sec (p : Nat) (f : Port → Port) : (s.modPort p f).sec = s.sec := rfl
@[simp] theorem State.modPort_ldr (p : Nat) (f : Port → Port) : (s.modPort p f).ldr = s.ldr := rfl
@[simp] theorem State.modPort_pwr (p : Nat) (f : Port → Port) : (s.modPort p f).pwr = s.pwr := rfl
@[simp] theorem State.modPort_ff0 (p : Nat) (f : Port → Port) : (s.modPort p f).ff0 = s.ff0 := rfl
@[simp] theorem State.modPort_ff1 (p : Nat) (f : Port → Port) : (s.modPort p f).ff1 = s.ff1 := rfl
@[simp] theorem State.modPort_link (p : Nat) (f : Port → Port) : (s.modPort p f).link = { s.link with ports := tset {} s.link.ports p (f (s.port p)) } := rfl

/-! ### modLport -/

@[simp] theorem State.modLport_pending (p : Nat) (f : LPort → LPort) : (s.modLport p f).pending = s.pending := rfl
@[simp] theorem State.modLport_free (p : Nat) (f : LPort → LPort) : (s.modLport p f).free = s.free := rfl
@[simp] theorem State.modLport_fuse (p : Nat) (f : LPort → LPort) : (s.modLport p f).fuse = s.fuse := rfl
@[simp] theorem State.modLport_mem (p : Nat) (f : LPort → LPort) : (s.modLport p f).mem = s.mem := rfl
@[simp] theorem State.modLport_errs (p : Nat) (f : LPort → LPort) : (s.modLport p f).errs = s.errs := rfl
@[simp] theorem State.modLport_cores (p : Nat) (f : LPort → LPort) : (s.modLport p f).cores = s.cores := rfl
@[simp] theorem State.modLport_dies (p : Nat) (f : LPort → LPort) : (s.modLport p f).dies = s.dies := rfl
@[simp] theorem State.modLport_upds (p : Nat) (f : LPort → LPort) : (s.modLport p f).upds = s.upds := rfl
@[simp] theorem State.modLport_objs (p : Nat) (f : LPort → LPort) : (s.modLport p f).objs = s.objs := rfl
@[simp] theorem State.modLport_syn0 (p : Nat) (f : LPort → LPort) : (s.modLport p f).syn0 = s.syn0 := rfl
@[simp] theorem State.modLport_syn1 (p : Nat) (f : LPort → LPort) : (s.modLport p f).syn1 = s.syn1 := rfl
@[simp] theorem State.modLport_parts (p : Nat) (f : LPort → LPort) : (s.modLport p f).parts = s.parts := rfl
@[simp] theorem State.modLport_ev (p : Nat) (f : LPort → LPort) : (s.modLport p f).ev = s.ev := rfl
@[simp] theorem State.modLport_mgr (p : Nat) (f : LPort → LPort) : (s.modLport p f).mgr = s.mgr := rfl
@[simp] theorem State.modLport_sec (p : Nat) (f : LPort → LPort) : (s.modLport p f).sec = s.sec := rfl
@[simp] theorem State.modLport_ldr (p : Nat) (f : LPort → LPort) : (s.modLport p f).ldr = s.ldr := rfl
@[simp] theorem State.modLport_pwr (p : Nat) (f : LPort → LPort) : (s.modLport p f).pwr = s.pwr := rfl
@[simp] theorem State.modLport_ff0 (p : Nat) (f : LPort → LPort) : (s.modLport p f).ff0 = s.ff0 := rfl
@[simp] theorem State.modLport_ff1 (p : Nat) (f : LPort → LPort) : (s.modLport p f).ff1 = s.ff1 := rfl
@[simp] theorem State.modLport_link (p : Nat) (f : LPort → LPort) : (s.modLport p f).link = { s.link with lports := tset {} s.link.lports p (f (s.lport p)) } := rfl

/-! ### modEv -/

@[simp] theorem State.modEv_pending (f : Events → Events) : (s.modEv f).pending = s.pending := rfl
@[simp] theorem State.modEv_free (f : Events → Events) : (s.modEv f).free = s.free := rfl
@[simp] theorem State.modEv_fuse (f : Events → Events) : (s.modEv f).fuse = s.fuse := rfl
@[simp] theorem State.modEv_mem (f : Events → Events) : (s.modEv f).mem = s.mem := rfl
@[simp] theorem State.modEv_errs (f : Events → Events) : (s.modEv f).errs = s.errs := rfl
@[simp] theorem State.modEv_cores (f : Events → Events) : (s.modEv f).cores = s.cores := rfl
@[simp] theorem State.modEv_dies (f : Events → Events) : (s.modEv f).dies = s.dies := rfl
@[simp] theorem State.modEv_upds (f : Events → Events) : (s.modEv f).upds = s.upds := rfl
@[simp] theorem State.modEv_objs (f : Events → Events) : (s.modEv f).objs = s.objs := rfl
@[simp] theorem State.modEv_syn0 (f : Events → Events) : (s.modEv f).syn0 = s.syn0 := rfl
@[simp] theorem State.modEv_syn1 (f : Events → Events) : (s.modEv f).syn1 = s.syn1 := rfl
@[simp] theorem State.modEv_parts (f : Events → Events) : (s.modEv f).parts = s.parts := rfl
@[simp] theorem State.modEv_link (f : Events → Events) : (s.modEv f).link = s.link := rfl
@[simp] theorem State.modEv_mgr (f : Events → Events) : (s.modEv f).mgr = s.mgr := rfl
@[simp] theorem State.modEv_sec (f : Events → Events) : (s.modEv f).sec = s.sec := rfl
@[simp] theorem State.modEv_ldr (f : Events → Events) : (s.modEv f).ldr = s.ldr := rfl
@[simp] theorem State.modEv_pwr (f : Events → Events) : (s.modEv f).pwr = s.pwr := rfl
@[simp] theorem State.modEv_ff0 (f : Events → Events) : (s.modEv f).ff0 = s.ff0 := rfl
@[simp] theorem State.modEv_ff1 (f : Events → Events) : (s.modEv f).ff1 = s.ff1 := rfl
@[simp] theorem State.modEv_ev (f : Events → Events) : (s.modEv f).ev = f s.ev := rfl

/-! ### modSec -/

@[simp] theorem State.modSec_pending (f : Sec → Sec) : (s.modSec f).pending = s.pending := rfl
@[simp] theorem State.modSec_free (f : Sec → Sec) : (s.modSec f).free = s.free := rfl
@[simp] theorem State.modSec_fuse (f : Sec → Sec) : (s.modSec f).fuse = s.fuse := rfl
@[simp] theorem State.modSec_mem (f : Sec → Sec) : (s.modSec f).mem = s.mem := rfl
@[simp] theorem State.modSec_errs (f : Sec → Sec) : (s.modSec f).errs = s.errs := rfl
@[simp] theorem State.modSec_cores (f : Sec → Sec) : (s.modSec f).cores = s.cores := rfl
@[simp] theorem State.modSec_dies (f : Sec → Sec) : (s.modSec f).dies = s.dies := rfl
@[simp] theorem State.modSec_upds (f : Sec → Sec) : (s.modSec f).upds = s.upds := rfl
@[simp] theorem State.modSec_objs (f : Sec → Sec) : (s.modSec f).objs = s.objs := rfl
@[simp] theorem State.modSec_syn0 (f : Sec → Sec) : (s.modSec f).syn0 = s.syn0 := rfl
@[simp] theorem State.modSec_syn1 (f : Sec → Sec) : (s.modSec f).syn1 = s.syn1 := rfl
@[simp] theorem State.modSec_parts (f : Sec → Sec) : (s.modSec f).parts = s.parts := rfl
@[simp] theorem State.modSec_ev (f : Sec → Sec) : (s.modSec f).ev = s.ev := rfl
@[simp] theorem State.modSec_link (f : Sec → Sec) : (s.modSec f).link = s.link := rfl
@[simp] theorem State.modSec_mgr (f : Sec → Sec) : (s.modSec f).mgr = s.mgr := rfl
@[simp] theorem State.modSec_ldr (f : Sec → Sec) : (s.modSec f).ldr = s.ldr := rfl
@[simp] theorem State.modSec_pwr (f : Sec → Sec) : (s.modSec f).pwr = s.pwr := rfl
@[simp] theorem State.modSec_ff0 (f : Sec → Sec) : (s.modSec f).ff0 = s.ff0 := rfl
@[simp] theorem State.modSec_ff1 (f : Sec → Sec) : (s.modSec f).ff1 = s.ff1 := rfl
@[simp] theorem State.modSec_sec (f : Sec → Sec) : (s.modSec f).sec = f s.sec := rfl

/-! ### modMgr -/

@[simp] theorem State.modMgr_pending (f : Mgr → Mgr) : (s.modMgr f).pending = s.pending := rfl
@[simp] theorem State.modMgr_free (f : Mgr → Mgr) : (s.modMgr f).free = s.free := rfl
@[simp] theorem State.modMgr_fuse (f : Mgr → Mgr) : (s.modMgr f).fuse = s.fuse := rfl
@[simp] theorem State.modMgr_mem (f : Mgr → Mgr) : (s.modMgr f).mem = s.mem := rfl
@[simp] theorem State.modMgr_errs (f : Mgr → Mgr) : (s.modMgr f).errs = s.errs := rfl
@[simp] theorem State.modMgr_cores (f : Mgr → Mgr) : (s.modMgr f).cores = s.cores := rfl
@[simp] theorem State.modMgr_dies (f : Mgr → Mgr) : (s.modMgr f).dies = s.dies := rfl
@[simp] theorem State.modMgr_upds (f : Mgr → Mgr) : (s.modMgr f).upds = s.upds := rfl
@[simp] theorem State.modMgr_objs (f : Mgr → Mgr) : (s.modMgr f).objs = s.objs := rfl
@[simp] theorem State.modMgr_syn0 (f : Mgr → Mgr) : (s.modMgr f).syn0 = s.syn0 := rfl
@[simp] theorem State.modMgr_syn1 (f : Mgr → Mgr) : (s.modMgr f).syn1 = s.syn1 := rfl
@[simp] theorem State.modMgr_parts (f : Mgr → Mgr) : (s.modMgr f).parts = s.parts := rfl
@[simp] theorem State.modMgr_ev (f : Mgr → Mgr) : (s.modMgr f).ev = s.ev := rfl
@[simp] theorem State.modMgr_link (f : Mgr → Mgr) : (s.modMgr f).link = s.link := rfl
@[simp] theorem State.modMgr_sec (f : Mgr → Mgr) : (s.modMgr f).sec = s.sec := rfl
@[simp] theorem State.modMgr_ldr (f : Mgr → Mgr) : (s.modMgr f).ldr = s.ldr := rfl
@[simp] theorem State.modMgr_pwr (f : Mgr → Mgr) : (s.modMgr f).pwr = s.pwr := rfl
@[simp] theorem State.modMgr_ff0 (f : Mgr → Mgr) : (s.modMgr f).ff0 = s.ff0 := rfl
@[simp] theorem State.modMgr_ff1 (f : Mgr → Mgr) : (s.modMgr f).ff1 = s.ff1 := rfl
@[simp] theorem State.modMgr_mgr (f : Mgr → Mgr) : (s.modMgr f).mgr = f s.mgr := rfl

/-! ### modLink -/

@[simp] theorem State.modLink_pending (f : Link → Link) : (s.modLink f).pending = s.pending := rfl
@[simp] theorem State.modLink_free (f : Link → Link) : (s.modLink f).free = s.free := rfl
@[simp] theorem State.modLink_fuse (f : Link → Link) : (s.modLink f).fuse = s.fuse := rfl
@[simp] theorem State.modLink_mem (f : Link → Link) : (s.modLink f).mem = s.mem := rfl
@[simp] theorem State.modLink_errs (f : Link → Link) : (s.modLink f).errs = s.errs := rfl
@[simp] theorem State.modLink_cores (f : Link → Link) : (s.modLink f).cores = s.cores := rfl
@[simp] theorem State.modLink_dies (f : Link → Link) : (s.modLink f).dies = s.dies := rfl
@[simp] theorem State.modLink_upds (f : Link → Link) : (s.modLink f).upds = s.upds := rfl
@[simp] theorem State.modLink_objs (f : Link → Link) : (s.modLink f).objs = s.objs := rfl
@[simp] theorem State.modLink_syn0 (f : Link → Link) : (s.modLink f).syn0 = s.syn0 := rfl
@[simp] theorem State.modLink_syn1 (f : Link → Link) : (s.modLink f).syn1 = s.syn1 := rfl
@[simp] theorem State.modLink_parts (f : Link → Link) : (s.modLink f).parts = s.parts := rfl
@[simp] theorem State.modLink_ev (f : Link → Link) : (s.modLink f).ev = s.ev := rfl
@[simp] theorem State.modLink_mgr (f : Link → Link) : (s.modLink f).mgr = s.mgr := rfl
@[simp] theorem State.modLink_sec (f : Link → Link) : (s.modLink f).sec = s.sec := rfl
@[simp] theorem State.modLink_ldr (f : Link → Link) : (s.modLink f).ldr = s.ldr := rfl
@[simp] theorem State.modLink_pwr (f : Link → Link) : (s.modLink f).pwr = s.pwr := rfl
@[simp] theorem State.modLink_ff0 (f : Link → Link) : (s.modLink f).ff0 = s.ff0 := rfl
@[simp] theorem State.modLink_ff1 (f : Link → Link) : (s.modLink f).ff1 = s.ff1 := rfl
@[simp] theorem State.modLink_link (f : Link → Link) : (s.modLink f).link = f s.link := rfl

/-! ### modPwr -/

@[simp] theorem State.modPwr_pending (f : Pwr → Pwr) : (s.modPwr f).pending = s.pending := rfl
@[simp] theorem State.modPwr_free (f : Pwr → Pwr) : (s.modPwr f).free = s.free := rfl
@[simp] theorem State.modPwr_fuse (f : Pwr → Pwr) : (s.modPwr f).fuse = s.fuse := rfl
@[simp] theorem State.modPwr_mem (f : Pwr → Pwr) : (s.modPwr f).mem = s.mem := rfl
@[simp] theorem State.modPwr_errs (f : Pwr → Pwr) : (s.modPwr f).errs = s.errs := rfl
@[simp] theorem State.modPwr_cores (f : Pwr → Pwr) : (s.modPwr f).cores = s.cores := rfl
@[simp] theorem State.modPwr_dies (f : Pwr → Pwr) : (s.modPwr f).dies = s.dies := rfl
@[simp] theorem State.modPwr_upds (f : Pwr → Pwr) : (s.modPwr f).upds = s.upds := rfl
@[simp] theorem State.modPwr_objs (f : Pwr → Pwr) : (s.modPwr f).objs = s.objs := rfl
@[simp] theorem State.modPwr_syn0 (f : Pwr → Pwr) : (s.modPwr f).syn0 = s.syn0 := rfl
@[simp] theorem State.modPwr_syn1 (f : Pwr → Pwr) : (s.modPwr f).syn1 = s.syn1 := rfl
@[simp] theorem State.modPwr_parts (f : Pwr → Pwr) : (s.modPwr f).parts = s.parts := rfl
@[simp] theorem State.modPwr_ev (f : Pwr → Pwr) : (s.modPwr f).ev = s.ev := rfl
@[simp] theorem State.modPwr_link (f : Pwr → Pwr) : (s.modPwr f).link = s.link := rfl
@[simp] theorem State.modPwr_mgr (f : Pwr → Pwr) : (s.modPwr f).mgr = s.mgr := rfl
@[simp] theorem State.modPwr_sec (f : Pwr → Pwr) : (s.modPwr f).sec = s.sec := rfl
@[simp] theorem State.modPwr_ldr (f : Pwr → Pwr) : (s.modPwr f).ldr = s.ldr := rfl
@[simp] theorem State.modPwr_ff0 (f : Pwr → Pwr) : (s.modPwr f).ff0 = s.ff0 := rfl
@[simp] theorem State.modPwr_ff1 (f : Pwr → Pwr) : (s.modPwr f).ff1 = s.ff1 := rfl
@[simp] theorem State.modPwr_pwr (f : Pwr → Pwr) : (s.modPwr f).pwr = f s.pwr := rfl

/-! ### modLdr -/

@[simp] theorem State.modLdr_pending (f : Loader → Loader) : (s.modLdr f).pending = s.pending := rfl
@[simp] theorem State.modLdr_free (f : Loader → Loader) : (s.modLdr f).free = s.free := rfl
@[simp] theorem State.modLdr_fuse (f : Loader → Loader) : (s.modLdr f).fuse = s.fuse := rfl
@[simp] theorem State.modLdr_mem (f : Loader → Loader) : (s.modLdr f).mem = s.mem := rfl
@[simp] theorem State.modLdr_errs (f : Loader → Loader) : (s.modLdr f).errs = s.errs := rfl
@[simp] theorem State.modLdr_cores (f : Loader → Loader) : (s.modLdr f).cores = s.cores := rfl
@[simp] theorem State.modLdr_dies (f : Loader → Loader) : (s.modLdr f).dies = s.dies := rfl
@[simp] theorem State.modLdr_upds (f : Loader → Loader) : (s.modLdr f).upds = s.upds := rfl
@[simp] theorem State.modLdr_objs (f : Loader → Loader) : (s.modLdr f).objs = s.objs := rfl
@[simp] theorem State.modLdr_syn0 (f : Loader → Loader) : (s.modLdr f).syn0 = s.syn0 := rfl
@[simp] theorem State.modLdr_syn1 (f : Loader → Loader) : (s.modLdr f).syn1 = s.syn1 := rfl
@[simp] theorem State.modLdr_parts (f : Loader → Loader) : (s.modLdr f).parts = s.parts := rfl
@[simp] theorem State.modLdr_ev (f : Loader → Loader) : (s.modLdr f).ev = s.ev := rfl
@[simp] theorem State.modLdr_link (f : Loader → Loader) : (s.modLdr f).link = s.link := rfl
@[simp] theorem State.modLdr_mgr (f : Loader → Loader) : (s.modLdr f).mgr = s.mgr := rfl
@[simp] theorem State.modLdr_sec (f : Loader → Loader) : (s.modLdr f).sec = s.sec := rfl
@[simp] theorem State.modLdr_pwr (f : Loader → Loader) : (s.modLdr f).pwr = s.pwr := rfl
@[simp] theorem State.modLdr_ff0 (f : Loader → Loader) : (s.modLdr f).ff0 = s.ff0 := rfl
@[simp] theorem State.modLdr_ff1 (f : Loader → Loader) : (s.modLdr f).ff1 = s.ff1 := rfl
@[simp] theorem State.modLdr_ldr (f : Loader → Loader) : (s.modLdr f).ldr = f s.ldr := rfl

/-! ### modFuse -/

@[simp] theorem State.modFuse_pending (f : Fuses → Fuses) : (s.modFuse f).pending = s.pending := rfl
@[simp] theorem State.modFuse_free (f : Fuses → Fuses) : (s.modFuse f).free = s.free := rfl
@[simp] theorem State.modFuse_mem (f : Fuses → Fuses) : (s.modFuse f).mem = s.mem := rfl
@[simp] theorem State.modFuse_errs (f : Fuses → Fuses) : (s.modFuse f).errs = s.errs := rfl
@[simp] theorem State.modFuse_cores (f : Fuses → Fuses) : (s.modFuse f).cores = s.cores := rfl
@[simp] theorem State.modFuse_dies (f : Fuses → Fuses) : (s.modFuse f).dies = s.dies := rfl
@[simp] theorem State.modFuse_upds (f : Fuses → Fuses) : (s.modFuse f).upds = s.upds := rfl
@[simp] theorem State.modFuse_objs (f : Fuses → Fuses) : (s.modFuse f).objs = s.objs := rfl
@[simp] theorem State.modFuse_syn0 (f : Fuses → Fuses) : (s.modFuse f).syn0 = s.syn0 := rfl
@[simp] theorem State.modFuse_syn1 (f : Fuses → Fuses) : (s.modFuse f).syn1 = s.syn1 := rfl
@[simp] theorem State.modFuse_parts (f : Fuses → Fuses) : (s.modFuse f).parts = s.parts := rfl
@[simp] theorem State.modFuse_ev (f : Fuses → Fuses) : (s.modFuse f).ev = s.ev := rfl
@[simp] theorem State.modFuse_link (f : Fuses → Fuses) : (s.modFuse f).link = s.link := rfl
@[simp] theorem State.modFuse_mgr (f : Fuses → Fuses) : (s.modFuse f).mgr = s.mgr := rfl
@[simp] theorem State.modFuse_sec (f : Fuses → Fuses) : (s.modFuse f).sec = s.sec := rfl
@[simp] theorem State.modFuse_ldr (f : Fuses → Fuses) : (s.modFuse f).ldr = s.ldr := rfl
@[simp] theorem State.modFuse_pwr (f : Fuses → Fuses) : (s.modFuse f).pwr = s.pwr := rfl
@[simp] theorem State.modFuse_ff0 (f : Fuses → Fuses) : (s.modFuse f).ff0 = s.ff0 := rfl
@[simp] theorem State.modFuse_ff1 (f : Fuses → Fuses) : (s.modFuse f).ff1 = s.ff1 := rfl
@[simp] theorem State.modFuse_fuse (f : Fuses → Fuses) : (s.modFuse f).fuse = f s.fuse := rfl

/-! ### wr8 -/

@[simp] theorem State.wr8_pending (a : Nat) (b : Byte) : (s.wr8 a b).pending = s.pending := rfl
@[simp] theorem State.wr8_free (a : Nat) (b : Byte) : (s.wr8 a b).free = s.free := rfl
@[simp] theorem State.wr8_fuse (a : Nat) (b : Byte) : (s.wr8 a b).fuse = s.fuse := rfl
@[simp] theorem State.wr8_errs (a : Nat) (b : Byte) : (s.wr8 a b).errs = s.errs := rfl
@[simp] theorem State.wr8_cores (a : Nat) (b : Byte) : (s.wr8 a b).cores = s.cores := rfl
@[simp] theorem State.wr8_dies (a : Nat) (b : Byte) : (s.wr8 a b).dies = s.dies := rfl
@[simp] theorem State.wr8_upds (a : Nat) (b : Byte) : (s.wr8 a b).upds = s.upds := rfl
@[simp] theorem State.wr8_objs (a : Nat) (b : Byte) : (s.wr8 a b).objs = s.objs := rfl
@[simp] theorem State.wr8_syn0 (a : Nat) (b : Byte) : (s.wr8 a b).syn0 = s.syn0 := rfl
@[simp] theorem State.wr8_syn1 (a : Nat) (b : Byte) : (s.wr8 a b).syn1 = s.syn1 := rfl
@[simp] theorem State.wr8_parts (a : Nat) (b : Byte) : (s.wr8 a b).parts = s.parts := rfl
@[simp] theorem State.wr8_ev (a : Nat) (b : Byte) : (s.wr8 a b).ev = s.ev := rfl
@[simp] theorem State.wr8_link (a : Nat) (b : Byte) : (s.wr8 a b).link = s.link := rfl
@[simp] theorem State.wr8_mgr (a : Nat) (b : Byte) : (s.wr8 a b).mgr = s.mgr := rfl
@[simp] theorem State.wr8_sec (a : Nat) (b : Byte) : (s.wr8 a b).sec = s.sec := rfl
@[simp] theorem State.wr8_ldr (a : Nat) (b : Byte) : (s.wr8 a b).ldr = s.ldr := rfl
@[simp] theorem State.wr8_pwr (a : Nat) (b : Byte) : (s.wr8 a b).pwr = s.pwr := rfl
@[simp] theorem State.wr8_ff0 (a : Nat) (b : Byte) : (s.wr8 a b).ff0 = s.ff0 := rfl
@[simp] theorem State.wr8_ff1 (a : Nat) (b : Byte) : (s.wr8 a b).ff1 = s.ff1 := rfl
@[simp] theorem State.wr8_mem (a : Nat) (b : Byte) : (s.wr8 a b).mem = tset 0 s.mem a b := rfl

/-! ### setErr -/

@[simp] theorem State.setErr_pending (cw : Nat) (e : ErrPat) : (s.setErr cw e).pending = s.pending := rfl
@[simp] theorem State.setErr_free (cw : Nat) (e : ErrPat) : (s.setErr cw e).free = s.free := rfl
@[simp] theorem State.setErr_fuse (cw : Nat) (e : ErrPat) : (s.setErr cw e).fuse = s.fuse := rfl
@[simp] theorem State.setErr_mem (cw : Nat) (e : ErrPat) : (s.setErr cw e).mem = s.mem := rfl
@[simp] theorem State.setErr_cores (cw : Nat) (e : ErrPat) : (s.setErr cw e).cores = s.cores := rfl
@[simp] theorem State.setErr_dies (cw : Nat) (e : ErrPat) : (s.setErr cw e).dies = s.dies := rfl
@[simp] theorem State.setErr_upds (cw : Nat) (e : ErrPat) : (s.setErr cw e).upds = s.upds := rfl
@[simp] theorem State.setErr_objs (cw : Nat) (e : ErrPat) : (s.setErr cw e).objs = s.objs := rfl
@[simp] theorem State.setErr_syn0 (cw : Nat) (e : ErrPat) : (s.setErr cw e).syn0 = s.syn0 := rfl
@[simp] theorem State.setErr_syn1 (cw : Nat) (e : ErrPat) : (s.setErr cw e).syn1 = s.syn1 := rfl
@[simp] theorem State.setErr_parts (cw : Nat) (e : ErrPat) : (s.setErr cw e).parts = s.parts := rfl
@[simp] theorem State.setErr_ev (cw : Nat) (e : ErrPat) : (s.setErr cw e).ev = s.ev := rfl
@[simp] theorem State.setErr_link (cw : Nat) (e : ErrPat) : (s.setErr cw e).link = s.link := rfl
@[simp] theorem State.setErr_mgr (cw : Nat) (e : ErrPat) : (s.setErr cw e).mgr = s.mgr := rfl
@[simp] theorem State.setErr_sec (cw : Nat) (e : ErrPat) : (s.setErr cw e).sec = s.sec := rfl
@[simp] theorem State.setErr_ldr (cw : Nat) (e : ErrPat) : (s.setErr cw e).ldr = s.ldr := rfl
@[simp] theorem State.setErr_pwr (cw : Nat) (e : ErrPat) : (s.setErr cw e).pwr = s.pwr := rfl
@[simp] theorem State.setErr_ff0 (cw : Nat) (e : ErrPat) : (s.setErr cw e).ff0 = s.ff0 := rfl
@[simp] theorem State.setErr_ff1 (cw : Nat) (e : ErrPat) : (s.setErr cw e).ff1 = s.ff1 := rfl
@[simp] theorem State.setErr_errs (cw : Nat) (e : ErrPat) : (s.setErr cw e).errs = tset [] s.errs cw e := rfl

/-! ### skipFree -/

@[simp] theorem State.skipFree_pending (n : Nat) : (s.skipFree n).pending = s.pending := rfl
@[simp] theorem State.skipFree_fuse (n : Nat) : (s.skipFree n).fuse = s.fuse := rfl
@[simp] theorem State.skipFree_mem (n : Nat) : (s.skipFree n).mem = s.mem := rfl
@[simp] theorem State.skipFree_errs (n : Nat) : (s.skipFree n).errs = s.errs := rfl
@[simp] theorem State.skipFree_cores (n : Nat) : (s.skipFree n).cores = s.cores := rfl
@[simp] theorem State.skipFree_dies (n : Nat) : (s.skipFree n).dies = s.dies := rfl
@[simp] theorem State.skipFree_upds (n : Nat) : (s.skipFree n).upds = s.upds := rfl
@[simp] theorem State.skipFree_objs (n : Nat) : (s.skipFree n).objs = s.objs := rfl
@[simp] theorem State.skipFree_syn0 (n : Nat) : (s.skipFree n).syn0 = s.syn0 := rfl
@[simp] theorem State.skipFree_syn1 (n : Nat) : (s.skipFree n).syn1 = s.syn1 := rfl
@[simp] theorem State.skipFree_parts (n : Nat) : (s.skipFree n).parts = s.parts := rfl
@[simp] theorem State.skipFree_ev (n : Nat) : (s.skipFree n).ev = s.ev := rfl
@[simp] theorem State.skipFree_link (n : Nat) : (s.skipFree n).link = s.link := rfl
@[simp] theorem State.skipFree_mgr (n : Nat) : (s.skipFree n).mgr = s.mgr := rfl
@[simp] theorem State.skipFree_sec (n : Nat) : (s.skipFree n).sec = s.sec := rfl
@[simp] theorem State.skipFree_ldr (n : Nat) : (s.skipFree n).ldr = s.ldr := rfl
@[simp] theorem State.skipFree_pwr (n : Nat) : (s.skipFree n).pwr = s.pwr := rfl
@[simp] theorem State.skipFree_ff0 (n : Nat) : (s.skipFree n).ff0 = s.ff0 := rfl
@[simp] theorem State.skipFree_ff1 (n : Nat) : (s.skipFree n).ff1 = s.ff1 := rfl
@[simp] theorem State.skipFree_free (n : Nat) : (s.skipFree n).free = s.free + n := rfl

/-! ### keepMem -/

@[simp] theorem State.keepMem_pending (f g : Nat → Bool) : (s.keepMem f g).pending = s.pending := rfl
@[simp] theorem State.keepMem_free (f g : Nat → Bool) : (s.keepMem f g).free = s.free := rfl
@[simp] theorem State.keepMem_fuse (f g : Nat → Bool) : (s.keepMem f g).fuse = s.fuse := rfl
@[simp] theorem State.keepMem_cores (f g : Nat → Bool) : (s.keepMem f g).cores = s.cores := rfl
@[simp] theorem State.keepMem_dies (f g : Nat → Bool) : (s.keepMem f g).dies = s.dies := rfl
@[simp] theorem State.keepMem_upds (f g : Nat → Bool) : (s.keepMem f g).upds = s.upds := rfl
@[simp] theorem State.keepMem_objs (f g : Nat → Bool) : (s.keepMem f g).objs = s.objs := rfl
@[simp] theorem State.keepMem_syn0 (f g : Nat → Bool) : (s.keepMem f g).syn0 = s.syn0 := rfl
@[simp] theorem State.keepMem_syn1 (f g : Nat → Bool) : (s.keepMem f g).syn1 = s.syn1 := rfl
@[simp] theorem State.keepMem_parts (f g : Nat → Bool) : (s.keepMem f g).parts = s.parts := rfl
@[simp] theorem State.keepMem_ev (f g : Nat → Bool) : (s.keepMem f g).ev = s.ev := rfl
@[simp] theorem State.keepMem_link (f g : Nat → Bool) : (s.keepMem f g).link = s.link := rfl
@[simp] theorem State.keepMem_mgr (f g : Nat → Bool) : (s.keepMem f g).mgr = s.mgr := rfl
@[simp] theorem State.keepMem_sec (f g : Nat → Bool) : (s.keepMem f g).sec = s.sec := rfl
@[simp] theorem State.keepMem_ldr (f g : Nat → Bool) : (s.keepMem f g).ldr = s.ldr := rfl
@[simp] theorem State.keepMem_pwr (f g : Nat → Bool) : (s.keepMem f g).pwr = s.pwr := rfl
@[simp] theorem State.keepMem_ff0 (f g : Nat → Bool) : (s.keepMem f g).ff0 = s.ff0 := rfl
@[simp] theorem State.keepMem_ff1 (f g : Nat → Bool) : (s.keepMem f g).ff1 = s.ff1 := rfl

end Sys2Proof.Machine
end

