-- ==== Sys2Proof/Laws/Events.lean ====
section
/-! SUPPORT. What sending a message, posting an event and recording leave of the state, one lemma for a field and an operation. -/

namespace Sys2Proof.Machine

variable (s : State)

/-- Only the link layer and the counter of free values differ. -/
def State.Linked (s t : State) : Prop := ∃ l n, t = { s with link := l, free := n }

theorem State.Linked.refl (s : State) : s.Linked s := ⟨s.link, s.free, rfl⟩

theorem State.Linked.trans {s t u : State} (a : s.Linked t) (b : t.Linked u) : s.Linked u := by
  obtain ⟨l, m, rfl⟩ := a
  obtain ⟨k, n, rfl⟩ := b
  exact ⟨k, n, rfl⟩

theorem State.Linked.foldl {α : Type} {f : State → α → State} (hf : ∀ (t : State) (x : α), t.Linked (f t x)) (l : List α) :
    s.Linked (l.foldl f s) := by
  induction l generalizing s with
  | nil => exact .refl s
  | cons x l ih => exact (hf s x).trans (ih _)

/-- Sending, holding or queueing a frame changes the link layer alone (11 R319, R321). -/
theorem State.linkSend_linked (lp : Nat) (f : Frame) : s.Linked (s.linkSend lp f) := by
  unfold State.linkSend
  dsimp only
  split
  · exact ⟨_, _, rfl⟩
  · split
    · exact ⟨_, _, rfl⟩
    · exact ⟨_, _, rfl⟩

theorem State.floodPorts_linked (e : Nat) (f : Frame) : s.Linked (s.floodPorts e f) := by
  unfold State.floodPorts
  refine State.Linked.foldl s (fun t x => ?_) _
  split
  · exact .refl t
  · split
    · exact t.linkSend_linked _ _
    · exact ⟨_, _, rfl⟩
    · exact .refl t

theorem State.floodNew_linked (rank : Nat) (body : List Byte) : s.Linked (s.floodNew rank body) :=
  State.Linked.trans ⟨_, _, rfl⟩ (State.floodPorts_linked _ _ _)

/-- Carrying a management message changes the link layer alone, and draws a signature (11 R318, R330). -/
theorem State.sendMgmt_linked (rank id : Nat) (m : MgmtMsg) : s.Linked (s.sendMgmt rank id m) := by
  unfold State.sendMgmt
  split
  · exact .refl s
  · split
    · split
      · exact State.Linked.trans ⟨_, _, rfl⟩ (State.linkSend_linked _ _ _)
      · exact .refl s
    · split
      · exact s.floodNew_linked _ _
      · exact State.Linked.trans ⟨s.link, s.free + 1, rfl⟩ (State.floodNew_linked _ _ _)

/-- Sending a management message changes the link layer, the manager's record of its messages and the counter of free values alone. -/
theorem State.mgmt_eq (rank : Nat) (m : MgmtMsg) :
    ∃ l n, s.mgmt rank m = { s with link := l, free := n, mgr := { s.mgr with out := s.mgr.out ++ [(rank, m)] } } := by
  unfold State.mgmt
  obtain ⟨l, n, hl⟩ := State.sendMgmt_linked _ rank s.link.nextMsg m
  exact ⟨l, n, hl⟩

@[simp] theorem State.mgmt_mgr (rank : Nat) (m : MgmtMsg) : (s.mgmt rank m).mgr = { s.mgr with out := s.mgr.out ++ [(rank, m)] } := by
  obtain ⟨l, n, h⟩ := s.mgmt_eq rank m
  rw [h]

/-! ### alert -/

@[simp] theorem State.alert_pending (bit : Nat) : (s.alert bit).pending = s.pending := rfl
@[simp] theorem State.alert_free (bit : Nat) : (s.alert bit).free = s.free := rfl
@[simp] theorem State.alert_fuse (bit : Nat) : (s.alert bit).fuse = s.fuse := rfl
@[simp] theorem State.alert_mem (bit : Nat) : (s.alert bit).mem = s.mem := rfl
@[simp] theorem State.alert_errs (bit : Nat) : (s.alert bit).errs = s.errs := rfl
@[simp] theorem State.alert_cores (bit : Nat) : (s.alert bit).cores = s.cores := rfl
@[simp] theorem State.alert_dies (bit : Nat) : (s.alert bit).dies = s.dies := rfl
@[simp] theorem State.alert_upds (bit : Nat) : (s.alert bit).upds = s.upds := rfl
@[simp] theorem State.alert_objs (bit : Nat) : (s.alert bit).objs = s.objs := rfl
@[simp] theorem State.alert_syn0 (bit : Nat) : (s.alert bit).syn0 = s.syn0 := rfl
@[simp] theorem State.alert_syn1 (bit : Nat) : (s.alert bit).syn1 = s.syn1 := rfl
@[simp] theorem State.alert_parts (bit : Nat) : (s.alert bit).parts = s.parts := rfl
@[simp] theorem State.alert_ev (bit : Nat) : (s.alert bit).ev = s.ev := rfl
@[simp] theorem State.alert_link (bit : Nat) : (s.alert bit).link = s.link := rfl
@[simp] theorem State.alert_mgr (bit : Nat) : (s.alert bit).mgr = s.mgr := rfl
@[simp] theorem State.alert_ldr (bit : Nat) : (s.alert bit).ldr = s.ldr := rfl
@[simp] theorem State.alert_pwr (bit : Nat) : (s.alert bit).pwr = s.pwr := rfl
@[simp] theorem State.alert_ff0 (bit : Nat) : (s.alert bit).ff0 = s.ff0 := rfl
@[simp] theorem State.alert_ff1 (bit : Nat) : (s.alert bit).ff1 = s.ff1 := rfl

/-! ### say -/

@[simp] theorem State.say_pending (o : SessOut) : (s.say o).pending = s.pending := rfl
@[simp] theorem State.say_free (o : SessOut) : (s.say o).free = s.free := rfl
@[simp] theorem State.say_fuse (o : SessOut) : (s.say o).fuse = s.fuse := rfl
@[simp] theorem State.say_mem (o : SessOut) : (s.say o).mem = s.mem := rfl
@[simp] theorem State.say_errs (o : SessOut) : (s.say o).errs = s.errs := rfl
@[simp] theorem State.say_cores (o : SessOut) : (s.say o).cores = s.cores := rfl
@[simp] theorem State.say_dies (o : SessOut) : (s.say o).dies = s.dies := rfl
@[simp] theorem State.say_upds (o : SessOut) : (s.say o).upds = s.upds := rfl
@[simp] theorem State.say_objs (o : SessOut) : (s.say o).objs = s.objs := rfl
@[simp] theorem State.say_syn0 (o : SessOut) : (s.say o).syn0 = s.syn0 := rfl
@[simp] theorem State.say_syn1 (o : SessOut) : (s.say o).syn1 = s.syn1 := rfl
@[simp] theorem State.say_parts (o : SessOut) : (s.say o).parts = s.parts := rfl
@[simp] theorem State.say_ev (o : SessOut) : (s.say o).ev = s.ev := rfl
@[simp] theorem State.say_link (o : SessOut) : (s.say o).link = s.link := rfl
@[simp] theorem State.say_mgr (o : SessOut) : (s.say o).mgr = s.mgr := rfl
@[simp] theorem State.say_ldr (o : SessOut) : (s.say o).ldr = s.ldr := rfl
@[simp] theorem State.say_pwr (o : SessOut) : (s.say o).pwr = s.pwr := rfl
@[simp] theorem State.say_ff0 (o : SessOut) : (s.say o).ff0 = s.ff0 := rfl
@[simp] theorem State.say_ff1 (o : SessOut) : (s.say o).ff1 = s.ff1 := rfl

/-! ### mgmt -/

@[simp] theorem State.mgmt_pending (rank : Nat) (m : MgmtMsg) : (s.mgmt rank m).pending = s.pending := by
  obtain ⟨l, n, h⟩ := s.mgmt_eq rank m
  rw [h]
@[simp] theorem State.mgmt_fuse (rank : Nat) (m : MgmtMsg) : (s.mgmt rank m).fuse = s.fuse := by
  obtain ⟨l, n, h⟩ := s.mgmt_eq rank m
  rw [h]
@[simp] theorem State.mgmt_mem (rank : Nat) (m : MgmtMsg) : (s.mgmt rank m).mem = s.mem := by
  obtain ⟨l, n, h⟩ := s.mgmt_eq rank m
  rw [h]
@[simp] theorem State.mgmt_errs (rank : Nat) (m : MgmtMsg) : (s.mgmt rank m).errs = s.errs := by
  obtain ⟨l, n, h⟩ := s.mgmt_eq rank m
  rw [h]
@[simp] theorem State.mgmt_cores (rank : Nat) (m : MgmtMsg) : (s.mgmt rank m).cores = s.cores := by
  obtain ⟨l, n, h⟩ := s.mgmt_eq rank m
  rw [h]
@[simp] theorem State.mgmt_dies (rank : Nat) (m : MgmtMsg) : (s.mgmt rank m).dies = s.dies := by
  obtain ⟨l, n, h⟩ := s.mgmt_eq rank m
  rw [h]
@[simp] theorem State.mgmt_upds (rank : Nat) (m : MgmtMsg) : (s.mgmt rank m).upds = s.upds := by
  obtain ⟨l, n, h⟩ := s.mgmt_eq rank m
  rw [h]
@[simp] theorem State.mgmt_objs (rank : Nat) (m : MgmtMsg) : (s.mgmt rank m).objs = s.objs := by
  obtain ⟨l, n, h⟩ := s.mgmt_eq rank m
  rw [h]
@[simp] theorem State.mgmt_syn0 (rank : Nat) (m : MgmtMsg) : (s.mgmt rank m).syn0 = s.syn0 := by
  obtain ⟨l, n, h⟩ := s.mgmt_eq rank m
  rw [h]
@[simp] theorem State.mgmt_syn1 (rank : Nat) (m : MgmtMsg) : (s.mgmt rank m).syn1 = s.syn1 := by
  obtain ⟨l, n, h⟩ := s.mgmt_eq rank m
  rw [h]
@[simp] theorem State.mgmt_parts (rank : Nat) (m : MgmtMsg) : (s.mgmt rank m).parts = s.parts := by
  obtain ⟨l, n, h⟩ := s.mgmt_eq rank m
  rw [h]
@[simp] theorem State.mgmt_ev (rank : Nat) (m : MgmtMsg) : (s.mgmt rank m).ev = s.ev := by
  obtain ⟨l, n, h⟩ := s.mgmt_eq rank m
  rw [h]
@[simp] theorem State.mgmt_sec (rank : Nat) (m : MgmtMsg) : (s.mgmt rank m).sec = s.sec := by
  obtain ⟨l, n, h⟩ := s.mgmt_eq rank m
  rw [h]
@[simp] theorem State.mgmt_ldr (rank : Nat) (m : MgmtMsg) : (s.mgmt rank m).ldr = s.ldr := by
  obtain ⟨l, n, h⟩ := s.mgmt_eq rank m
  rw [h]
@[simp] theorem State.mgmt_pwr (rank : Nat) (m : MgmtMsg) : (s.mgmt rank m).pwr = s.pwr := by
  obtain ⟨l, n, h⟩ := s.mgmt_eq rank m
  rw [h]
@[simp] theorem State.mgmt_ff0 (rank : Nat) (m : MgmtMsg) : (s.mgmt rank m).ff0 = s.ff0 := by
  obtain ⟨l, n, h⟩ := s.mgmt_eq rank m
  rw [h]
@[simp] theorem State.mgmt_ff1 (rank : Nat) (m : MgmtMsg) : (s.mgmt rank m).ff1 = s.ff1 := by
  obtain ⟨l, n, h⟩ := s.mgmt_eq rank m
  rw [h]

/-! ### sendRetract -/

@[simp] theorem State.sendRetract_pending (p : Nat) : (s.sendRetract p).pending = s.pending := by
  unfold State.sendRetract; split <;> simp
@[simp] theorem State.sendRetract_fuse (p : Nat) : (s.sendRetract p).fuse = s.fuse := by
  unfold State.sendRetract; split <;> simp
@[simp] theorem State.sendRetract_mem (p : Nat) : (s.sendRetract p).mem = s.mem := by
  unfold State.sendRetract; split <;> simp
@[simp] theorem State.sendRetract_errs (p : Nat) : (s.sendRetract p).errs = s.errs := by
  unfold State.sendRetract; split <;> simp
@[simp] theorem State.sendRetract_cores (p : Nat) : (s.sendRetract p).cores = s.cores := by
  unfold State.sendRetract; split <;> simp
@[simp] theorem State.sendRetract_dies (p : Nat) : (s.sendRetract p).dies = s.dies := by
  unfold State.sendRetract; split <;> simp
@[simp] theorem State.sendRetract_upds (p : Nat) : (s.sendRetract p).upds = s.upds := by
  unfold State.sendRetract; split <;> simp
@[simp] theorem State.sendRetract_objs (p : Nat) : (s.sendRetract p).objs = s.objs := by
  unfold State.sendRetract; split <;> simp
@[simp] theorem State.sendRetract_syn0 (p : Nat) : (s.sendRetract p).syn0 = s.syn0 := by
  unfold State.sendRetract; split <;> simp
@[simp] theorem State.sendRetract_syn1 (p : Nat) : (s.sendRetract p).syn1 = s.syn1 := by
  unfold State.sendRetract; split <;> simp
@[simp] theorem State.sendRetract_ev (p : Nat) : (s.sendRetract p).ev = s.ev := by
  unfold State.sendRetract; split <;> simp
@[simp] theorem State.sendRetract_ldr (p : Nat) : (s.sendRetract p).ldr = s.ldr := by
  unfold State.sendRetract; split <;> simp
@[simp] theorem State.sendRetract_pwr (p : Nat) : (s.sendRetract p).pwr = s.pwr := by
  unfold State.sendRetract; split <;> simp
@[simp] theorem State.sendRetract_ff0 (p : Nat) : (s.sendRetract p).ff0 = s.ff0 := by
  unfold State.sendRetract; split <;> simp
@[simp] theorem State.sendRetract_ff1 (p : Nat) : (s.sendRetract p).ff1 = s.ff1 := by
  unfold State.sendRetract; split <;> simp

/-! ### holdRec -/

@[simp] theorem State.holdRec_pending (e : EvRec) : (s.holdRec e).pending = s.pending := rfl
@[simp] theorem State.holdRec_free (e : EvRec) : (s.holdRec e).free = s.free := rfl
@[simp] theorem State.holdRec_fuse (e : EvRec) : (s.holdRec e).fuse = s.fuse := rfl
@[simp] theorem State.holdRec_mem (e : EvRec) : (s.holdRec e).mem = s.mem := rfl
@[simp] theorem State.holdRec_errs (e : EvRec) : (s.holdRec e).errs = s.errs := rfl
@[simp] theorem State.holdRec_cores (e : EvRec) : (s.holdRec e).cores = s.cores := rfl
@[simp] theorem State.holdRec_dies (e : EvRec) : (s.holdRec e).dies = s.dies := rfl
@[simp] theorem State.holdRec_upds (e : EvRec) : (s.holdRec e).upds = s.upds := rfl
@[simp] theorem State.holdRec_objs (e : EvRec) : (s.holdRec e).objs = s.objs := rfl
@[simp] theorem State.holdRec_syn0 (e : EvRec) : (s.holdRec e).syn0 = s.syn0 := rfl
@[simp] theorem State.holdRec_syn1 (e : EvRec) : (s.holdRec e).syn1 = s.syn1 := rfl
@[simp] theorem State.holdRec_parts (e : EvRec) : (s.holdRec e).parts = s.parts := rfl
@[simp] theorem State.holdRec_link (e : EvRec) : (s.holdRec e).link = s.link := rfl
@[simp] theorem State.holdRec_mgr (e : EvRec) : (s.holdRec e).mgr = s.mgr := rfl
@[simp] theorem State.holdRec_sec (e : EvRec) : (s.holdRec e).sec = s.sec := rfl
@[simp] theorem State.holdRec_ldr (e : EvRec) : (s.holdRec e).ldr = s.ldr := rfl
@[simp] theorem State.holdRec_pwr (e : EvRec) : (s.holdRec e).pwr = s.pwr := rfl
@[simp] theorem State.holdRec_ff0 (e : EvRec) : (s.holdRec e).ff0 = s.ff0 := rfl
@[simp] theorem State.holdRec_ff1 (e : EvRec) : (s.holdRec e).ff1 = s.ff1 := rfl

/-! ### raiseLine -/

@[simp] theorem State.raiseLine_pending (p half : Nat) (stops : Bool) : (s.raiseLine p half stops).pending = s.pending := rfl
@[simp] theorem State.raiseLine_free (p half : Nat) (stops : Bool) : (s.raiseLine p half stops).free = s.free := rfl
@[simp] theorem State.raiseLine_fuse (p half : Nat) (stops : Bool) : (s.raiseLine p half stops).fuse = s.fuse := rfl
@[simp] theorem State.raiseLine_mem (p half : Nat) (stops : Bool) : (s.raiseLine p half stops).mem = s.mem := rfl
@[simp] theorem State.raiseLine_errs (p half : Nat) (stops : Bool) : (s.raiseLine p half stops).errs = s.errs := rfl
@[simp] theorem State.raiseLine_cores (p half : Nat) (stops : Bool) : (s.raiseLine p half stops).cores = s.cores := rfl
@[simp] theorem State.raiseLine_dies (p half : Nat) (stops : Bool) : (s.raiseLine p half stops).dies = s.dies := rfl
@[simp] theorem State.raiseLine_upds (p half : Nat) (stops : Bool) : (s.raiseLine p half stops).upds = s.upds := rfl
@[simp] theorem State.raiseLine_objs (p half : Nat) (stops : Bool) : (s.raiseLine p half stops).objs = s.objs := rfl
@[simp] theorem State.raiseLine_syn0 (p half : Nat) (stops : Bool) : (s.raiseLine p half stops).syn0 = s.syn0 := rfl
@[simp] theorem State.raiseLine_syn1 (p half : Nat) (stops : Bool) : (s.raiseLine p half stops).syn1 = s.syn1 := rfl
@[simp] theorem State.raiseLine_ev (p half : Nat) (stops : Bool) : (s.raiseLine p half stops).ev = s.ev := rfl
@[simp] theorem State.raiseLine_link (p half : Nat) (stops : Bool) : (s.raiseLine p half stops).link = s.link := rfl
@[simp] theorem State.raiseLine_mgr (p half : Nat) (stops : Bool) : (s.raiseLine p half stops).mgr = s.mgr := rfl
@[simp] theorem State.raiseLine_sec (p half : Nat) (stops : Bool) : (s.raiseLine p half stops).sec = s.sec := rfl
@[simp] theorem State.raiseLine_ldr (p half : Nat) (stops : Bool) : (s.raiseLine p half stops).ldr = s.ldr := rfl
@[simp] theorem State.raiseLine_pwr (p half : Nat) (stops : Bool) : (s.raiseLine p half stops).pwr = s.pwr := rfl
@[simp] theorem State.raiseLine_ff0 (p half : Nat) (stops : Bool) : (s.raiseLine p half stops).ff0 = s.ff0 := rfl
@[simp] theorem State.raiseLine_ff1 (p half : Nat) (stops : Bool) : (s.raiseLine p half stops).ff1 = s.ff1 := rfl

/-! ### post -/

@[simp] theorem State.post_pending (e : EvRec) : (s.post e).pending = s.pending := by
  unfold State.post; dsimp -iota -proj only; split <;> simp
@[simp] theorem State.post_fuse (e : EvRec) : (s.post e).fuse = s.fuse := by
  unfold State.post; dsimp -iota -proj only; split <;> simp
@[simp] theorem State.post_mem (e : EvRec) : (s.post e).mem = s.mem := by
  unfold State.post; dsimp -iota -proj only; split <;> simp
@[simp] theorem State.post_errs (e : EvRec) : (s.post e).errs = s.errs := by
  unfold State.post; dsimp -iota -proj only; split <;> simp
@[simp] theorem State.post_cores (e : EvRec) : (s.post e).cores = s.cores := by
  unfold State.post; dsimp -iota -proj only; split <;> simp
@[simp] theorem State.post_dies (e : EvRec) : (s.post e).dies = s.dies := by
  unfold State.post; dsimp -iota -proj only; split <;> simp
@[simp] theorem State.post_upds (e : EvRec) : (s.post e).upds = s.upds := by
  unfold State.post; dsimp -iota -proj only; split <;> simp
@[simp] theorem State.post_objs (e : EvRec) : (s.post e).objs = s.objs := by
  unfold State.post; dsimp -iota -proj only; split <;> simp
@[simp] theorem State.post_syn0 (e : EvRec) : (s.post e).syn0 = s.syn0 := by
  unfold State.post; dsimp -iota -proj only; split <;> simp
@[simp] theorem State.post_syn1 (e : EvRec) : (s.post e).syn1 = s.syn1 := by
  unfold State.post; dsimp -iota -proj only; split <;> simp
@[simp] theorem State.post_ldr (e : EvRec) : (s.post e).ldr = s.ldr := by
  unfold State.post; dsimp -iota -proj only; split <;> simp
@[simp] theorem State.post_pwr (e : EvRec) : (s.post e).pwr = s.pwr := by
  unfold State.post; dsimp -iota -proj only; split <;> simp
@[simp] theorem State.post_ff0 (e : EvRec) : (s.post e).ff0 = s.ff0 := by
  unfold State.post; dsimp -iota -proj only; split <;> simp
@[simp] theorem State.post_ff1 (e : EvRec) : (s.post e).ff1 = s.ff1 := by
  unfold State.post; dsimp -iota -proj only; split <;> simp

/-! ### replayEnd -/

@[simp] theorem State.replayEnd_pending (x : Part) (d : Option Divergence) : (s.replayEnd x d).pending = s.pending := by
  unfold State.replayEnd; split <;> simp
@[simp] theorem State.replayEnd_free (x : Part) (d : Option Divergence) : (s.replayEnd x d).free = s.free := by
  unfold State.replayEnd; split <;> simp
@[simp] theorem State.replayEnd_fuse (x : Part) (d : Option Divergence) : (s.replayEnd x d).fuse = s.fuse := by
  unfold State.replayEnd; split <;> simp
@[simp] theorem State.replayEnd_mem (x : Part) (d : Option Divergence) : (s.replayEnd x d).mem = s.mem := by
  unfold State.replayEnd; split <;> simp
@[simp] theorem State.replayEnd_errs (x : Part) (d : Option Divergence) : (s.replayEnd x d).errs = s.errs := by
  unfold State.replayEnd; split <;> simp
@[simp] theorem State.replayEnd_cores (x : Part) (d : Option Divergence) : (s.replayEnd x d).cores = s.cores := by
  unfold State.replayEnd; split <;> simp
@[simp] theorem State.replayEnd_dies (x : Part) (d : Option Divergence) : (s.replayEnd x d).dies = s.dies := by
  unfold State.replayEnd; split <;> simp
@[simp] theorem State.replayEnd_upds (x : Part) (d : Option Divergence) : (s.replayEnd x d).upds = s.upds := by
  unfold State.replayEnd; split <;> simp
@[simp] theorem State.replayEnd_objs (x : Part) (d : Option Divergence) : (s.replayEnd x d).objs = s.objs := by
  unfold State.replayEnd; split <;> simp
@[simp] theorem State.replayEnd_syn0 (x : Part) (d : Option Divergence) : (s.replayEnd x d).syn0 = s.syn0 := by
  unfold State.replayEnd; split <;> simp
@[simp] theorem State.replayEnd_syn1 (x : Part) (d : Option Divergence) : (s.replayEnd x d).syn1 = s.syn1 := by
  unfold State.replayEnd; split <;> simp
@[simp] theorem State.replayEnd_parts (x : Part) (d : Option Divergence) : (s.replayEnd x d).parts = s.parts := by
  unfold State.replayEnd; split <;> simp
@[simp] theorem State.replayEnd_link (x : Part) (d : Option Divergence) : (s.replayEnd x d).link = s.link := by
  unfold State.replayEnd; split <;> simp
@[simp] theorem State.replayEnd_mgr (x : Part) (d : Option Divergence) : (s.replayEnd x d).mgr = s.mgr := by
  unfold State.replayEnd; split <;> simp
@[simp] theorem State.replayEnd_ldr (x : Part) (d : Option Divergence) : (s.replayEnd x d).ldr = s.ldr := by
  unfold State.replayEnd; split <;> simp
@[simp] theorem State.replayEnd_pwr (x : Part) (d : Option Divergence) : (s.replayEnd x d).pwr = s.pwr := by
  unfold State.replayEnd; split <;> simp
@[simp] theorem State.replayEnd_ff0 (x : Part) (d : Option Divergence) : (s.replayEnd x d).ff0 = s.ff0 := by
  unfold State.replayEnd; split <;> simp
@[simp] theorem State.replayEnd_ff1 (x : Part) (d : Option Divergence) : (s.replayEnd x d).ff1 = s.ff1 := by
  unfold State.replayEnd; split <;> simp

/-! ### replayCheck -/

@[simp] theorem State.replayCheck_pending (r : CapRec) : (s.replayCheck r).pending = s.pending := by
  unfold State.replayCheck; dsimp -iota -proj only; repeat' split
  all_goals simp
@[simp] theorem State.replayCheck_free (r : CapRec) : (s.replayCheck r).free = s.free := by
  unfold State.replayCheck; dsimp -iota -proj only; repeat' split
  all_goals simp
@[simp] theorem State.replayCheck_fuse (r : CapRec) : (s.replayCheck r).fuse = s.fuse := by
  unfold State.replayCheck; dsimp -iota -proj only; repeat' split
  all_goals simp
@[simp] theorem State.replayCheck_mem (r : CapRec) : (s.replayCheck r).mem = s.mem := by
  unfold State.replayCheck; dsimp -iota -proj only; repeat' split
  all_goals simp
@[simp] theorem State.replayCheck_errs (r : CapRec) : (s.replayCheck r).errs = s.errs := by
  unfold State.replayCheck; dsimp -iota -proj only; repeat' split
  all_goals simp
@[simp] theorem State.replayCheck_cores (r : CapRec) : (s.replayCheck r).cores = s.cores := by
  unfold State.replayCheck; dsimp -iota -proj only; repeat' split
  all_goals simp
@[simp] theorem State.replayCheck_dies (r : CapRec) : (s.replayCheck r).dies = s.dies := by
  unfold State.replayCheck; dsimp -iota -proj only; repeat' split
  all_goals simp
@[simp] theorem State.replayCheck_upds (r : CapRec) : (s.replayCheck r).upds = s.upds := by
  unfold State.replayCheck; dsimp -iota -proj only; repeat' split
  all_goals simp
@[simp] theorem State.replayCheck_objs (r : CapRec) : (s.replayCheck r).objs = s.objs := by
  unfold State.replayCheck; dsimp -iota -proj only; repeat' split
  all_goals simp
@[simp] theorem State.replayCheck_syn0 (r : CapRec) : (s.replayCheck r).syn0 = s.syn0 := by
  unfold State.replayCheck; dsimp -iota -proj only; repeat' split
  all_goals simp
@[simp] theorem State.replayCheck_syn1 (r : CapRec) : (s.replayCheck r).syn1 = s.syn1 := by
  unfold State.replayCheck; dsimp -iota -proj only; repeat' split
  all_goals simp
@[simp] theorem State.replayCheck_parts (r : CapRec) : (s.replayCheck r).parts = s.parts := by
  unfold State.replayCheck; dsimp -iota -proj only; repeat' split
  all_goals simp
@[simp] theorem State.replayCheck_link (r : CapRec) : (s.replayCheck r).link = s.link := by
  unfold State.replayCheck; dsimp -iota -proj only; repeat' split
  all_goals simp
@[simp] theorem State.replayCheck_mgr (r : CapRec) : (s.replayCheck r).mgr = s.mgr := by
  unfold State.replayCheck; dsimp -iota -proj only; repeat' split
  all_goals simp
@[simp] theorem State.replayCheck_ldr (r : CapRec) : (s.replayCheck r).ldr = s.ldr := by
  unfold State.replayCheck; dsimp -iota -proj only; repeat' split
  all_goals simp
@[simp] theorem State.replayCheck_pwr (r : CapRec) : (s.replayCheck r).pwr = s.pwr := by
  unfold State.replayCheck; dsimp -iota -proj only; repeat' split
  all_goals simp
@[simp] theorem State.replayCheck_ff0 (r : CapRec) : (s.replayCheck r).ff0 = s.ff0 := by
  unfold State.replayCheck; dsimp -iota -proj only; repeat' split
  all_goals simp
@[simp] theorem State.replayCheck_ff1 (r : CapRec) : (s.replayCheck r).ff1 = s.ff1 := by
  unfold State.replayCheck; dsimp -iota -proj only; repeat' split
  all_goals simp

/-! ### dropStep -/

@[simp] theorem State.dropStep_pending (part : Nat) (step : W64) : (s.dropStep part step).pending = s.pending := by
  unfold State.dropStep State.capsuleEv; simp
@[simp] theorem State.dropStep_fuse (part : Nat) (step : W64) : (s.dropStep part step).fuse = s.fuse := by
  unfold State.dropStep State.capsuleEv; simp
@[simp] theorem State.dropStep_mem (part : Nat) (step : W64) : (s.dropStep part step).mem = s.mem := by
  unfold State.dropStep State.capsuleEv; simp
@[simp] theorem State.dropStep_errs (part : Nat) (step : W64) : (s.dropStep part step).errs = s.errs := by
  unfold State.dropStep State.capsuleEv; simp
@[simp] theorem State.dropStep_cores (part : Nat) (step : W64) : (s.dropStep part step).cores = s.cores := by
  unfold State.dropStep State.capsuleEv; simp
@[simp] theorem State.dropStep_dies (part : Nat) (step : W64) : (s.dropStep part step).dies = s.dies := by
  unfold State.dropStep State.capsuleEv; simp
@[simp] theorem State.dropStep_upds (part : Nat) (step : W64) : (s.dropStep part step).upds = s.upds := by
  unfold State.dropStep State.capsuleEv; simp
@[simp] theorem State.dropStep_objs (part : Nat) (step : W64) : (s.dropStep part step).objs = s.objs := by
  unfold State.dropStep State.capsuleEv; simp
@[simp] theorem State.dropStep_syn0 (part : Nat) (step : W64) : (s.dropStep part step).syn0 = s.syn0 := by
  unfold State.dropStep State.capsuleEv; simp
@[simp] theorem State.dropStep_syn1 (part : Nat) (step : W64) : (s.dropStep part step).syn1 = s.syn1 := by
  unfold State.dropStep State.capsuleEv; simp
@[simp] theorem State.dropStep_ldr (part : Nat) (step : W64) : (s.dropStep part step).ldr = s.ldr := by
  unfold State.dropStep State.capsuleEv; simp
@[simp] theorem State.dropStep_pwr (part : Nat) (step : W64) : (s.dropStep part step).pwr = s.pwr := by
  unfold State.dropStep State.capsuleEv; simp
@[simp] theorem State.dropStep_ff0 (part : Nat) (step : W64) : (s.dropStep part step).ff0 = s.ff0 := by
  unfold State.dropStep State.capsuleEv; simp
@[simp] theorem State.dropStep_ff1 (part : Nat) (step : W64) : (s.dropStep part step).ff1 = s.ff1 := by
  unfold State.dropStep State.capsuleEv; simp

/-! ### record -/

@[simp] theorem State.record_pending (half type part : Nat) (step : W64) (body : List Byte) : (s.record half type part step body).pending = s.pending := by
  unfold State.record; dsimp -iota -proj only; repeat' split
  all_goals simp
@[simp] theorem State.record_fuse (half type part : Nat) (step : W64) (body : List Byte) : (s.record half type part step body).fuse = s.fuse := by
  unfold State.record; dsimp -iota -proj only; repeat' split
  all_goals simp
@[simp] theorem State.record_mem (half type part : Nat) (step : W64) (body : List Byte) : (s.record half type part step body).mem = s.mem := by
  unfold State.record; dsimp -iota -proj only; repeat' split
  all_goals simp
@[simp] theorem State.record_errs (half type part : Nat) (step : W64) (body : List Byte) : (s.record half type part step body).errs = s.errs := by
  unfold State.record; dsimp -iota -proj only; repeat' split
  all_goals simp
@[simp] theorem State.record_cores (half type part : Nat) (step : W64) (body : List Byte) : (s.record half type part step body).cores = s.cores := by
  unfold State.record; dsimp -iota -proj only; repeat' split
  all_goals simp
@[simp] theorem State.record_dies (half type part : Nat) (step : W64) (body : List Byte) : (s.record half type part step body).dies = s.dies := by
  unfold State.record; dsimp -iota -proj only; repeat' split
  all_goals simp
@[simp] theorem State.record_upds (half type part : Nat) (step : W64) (body : List Byte) : (s.record half type part step body).upds = s.upds := by
  unfold State.record; dsimp -iota -proj only; repeat' split
  all_goals simp
@[simp] theorem State.record_objs (half type part : Nat) (step : W64) (body : List Byte) : (s.record half type part step body).objs = s.objs := by
  unfold State.record; dsimp -iota -proj only; repeat' split
  all_goals simp
@[simp] theorem State.record_syn0 (half type part : Nat) (step : W64) (body : List Byte) : (s.record half type part step body).syn0 = s.syn0 := by
  unfold State.record; dsimp -iota -proj only; repeat' split
  all_goals simp
@[simp] theorem State.record_syn1 (half type part : Nat) (step : W64) (body : List Byte) : (s.record half type part step body).syn1 = s.syn1 := by
  unfold State.record; dsimp -iota -proj only; repeat' split
  all_goals simp
@[simp] theorem State.record_ldr (half type part : Nat) (step : W64) (body : List Byte) : (s.record half type part step body).ldr = s.ldr := by
  unfold State.record; dsimp -iota -proj only; repeat' split
  all_goals simp
@[simp] theorem State.record_pwr (half type part : Nat) (step : W64) (body : List Byte) : (s.record half type part step body).pwr = s.pwr := by
  unfold State.record; dsimp -iota -proj only; repeat' split
  all_goals simp
@[simp] theorem State.record_ff0 (half type part : Nat) (step : W64) (body : List Byte) : (s.record half type part step body).ff0 = s.ff0 := by
  unfold State.record; dsimp -iota -proj only; repeat' split
  all_goals simp
@[simp] theorem State.record_ff1 (half type part : Nat) (step : W64) (body : List Byte) : (s.record half type part step body).ff1 = s.ff1 := by
  unfold State.record; dsimp -iota -proj only; repeat' split
  all_goals simp

/-! ### streamFault -/

@[simp] theorem State.streamFault_pending (i : StreamId) (cause q : Nat) (pc : W64) (after : Option QEntry) : (s.streamFault i cause q pc after).pending = s.pending := by
  unfold State.streamFault; dsimp -iota -proj only; simp
@[simp] theorem State.streamFault_fuse (i : StreamId) (cause q : Nat) (pc : W64) (after : Option QEntry) : (s.streamFault i cause q pc after).fuse = s.fuse := by
  unfold State.streamFault; dsimp -iota -proj only; simp
@[simp] theorem State.streamFault_mem (i : StreamId) (cause q : Nat) (pc : W64) (after : Option QEntry) : (s.streamFault i cause q pc after).mem = s.mem := by
  unfold State.streamFault; dsimp -iota -proj only; simp
@[simp] theorem State.streamFault_errs (i : StreamId) (cause q : Nat) (pc : W64) (after : Option QEntry) : (s.streamFault i cause q pc after).errs = s.errs := by
  unfold State.streamFault; dsimp -iota -proj only; simp
@[simp] theorem State.streamFault_dies (i : StreamId) (cause q : Nat) (pc : W64) (after : Option QEntry) : (s.streamFault i cause q pc after).dies = s.dies := by
  unfold State.streamFault; dsimp -iota -proj only; simp
@[simp] theorem State.streamFault_upds (i : StreamId) (cause q : Nat) (pc : W64) (after : Option QEntry) : (s.streamFault i cause q pc after).upds = s.upds := by
  unfold State.streamFault; dsimp -iota -proj only; simp
@[simp] theorem State.streamFault_objs (i : StreamId) (cause q : Nat) (pc : W64) (after : Option QEntry) : (s.streamFault i cause q pc after).objs = s.objs := by
  unfold State.streamFault; dsimp -iota -proj only; simp
@[simp] theorem State.streamFault_syn0 (i : StreamId) (cause q : Nat) (pc : W64) (after : Option QEntry) : (s.streamFault i cause q pc after).syn0 = s.syn0 := by
  unfold State.streamFault; dsimp -iota -proj only; simp
@[simp] theorem State.streamFault_syn1 (i : StreamId) (cause q : Nat) (pc : W64) (after : Option QEntry) : (s.streamFault i cause q pc after).syn1 = s.syn1 := by
  unfold State.streamFault; dsimp -iota -proj only; simp
@[simp] theorem State.streamFault_ldr (i : StreamId) (cause q : Nat) (pc : W64) (after : Option QEntry) : (s.streamFault i cause q pc after).ldr = s.ldr := by
  unfold State.streamFault; dsimp -iota -proj only; simp
@[simp] theorem State.streamFault_pwr (i : StreamId) (cause q : Nat) (pc : W64) (after : Option QEntry) : (s.streamFault i cause q pc after).pwr = s.pwr := by
  unfold State.streamFault; dsimp -iota -proj only; simp
@[simp] theorem State.streamFault_ff0 (i : StreamId) (cause q : Nat) (pc : W64) (after : Option QEntry) : (s.streamFault i cause q pc after).ff0 = s.ff0 := by
  unfold State.streamFault; dsimp -iota -proj only; simp
@[simp] theorem State.streamFault_ff1 (i : StreamId) (cause q : Nat) (pc : W64) (after : Option QEntry) : (s.streamFault i cause q pc after).ff1 = s.ff1 := by
  unfold State.streamFault; dsimp -iota -proj only; simp

/-! ### issueFault -/

@[simp] theorem State.issueFault_pending (i : StreamId) (w : W128) (cause : Nat) : (s.issueFault i w cause).pending = s.pending := by
  unfold State.issueFault; simp
@[simp] theorem State.issueFault_fuse (i : StreamId) (w : W128) (cause : Nat) : (s.issueFault i w cause).fuse = s.fuse := by
  unfold State.issueFault; simp
@[simp] theorem State.issueFault_mem (i : StreamId) (w : W128) (cause : Nat) : (s.issueFault i w cause).mem = s.mem := by
  unfold State.issueFault; simp
@[simp] theorem State.issueFault_errs (i : StreamId) (w : W128) (cause : Nat) : (s.issueFault i w cause).errs = s.errs := by
  unfold State.issueFault; simp
@[simp] theorem State.issueFault_dies (i : StreamId) (w : W128) (cause : Nat) : (s.issueFault i w cause).dies = s.dies := by
  unfold State.issueFault; simp
@[simp] theorem State.issueFault_upds (i : StreamId) (w : W128) (cause : Nat) : (s.issueFault i w cause).upds = s.upds := by
  unfold State.issueFault; simp
@[simp] theorem State.issueFault_objs (i : StreamId) (w : W128) (cause : Nat) : (s.issueFault i w cause).objs = s.objs := by
  unfold State.issueFault; simp
@[simp] theorem State.issueFault_syn0 (i : StreamId) (w : W128) (cause : Nat) : (s.issueFault i w cause).syn0 = s.syn0 := by
  unfold State.issueFault; simp
@[simp] theorem State.issueFault_syn1 (i : StreamId) (w : W128) (cause : Nat) : (s.issueFault i w cause).syn1 = s.syn1 := by
  unfold State.issueFault; simp
@[simp] theorem State.issueFault_ldr (i : StreamId) (w : W128) (cause : Nat) : (s.issueFault i w cause).ldr = s.ldr := by
  unfold State.issueFault; simp
@[simp] theorem State.issueFault_pwr (i : StreamId) (w : W128) (cause : Nat) : (s.issueFault i w cause).pwr = s.pwr := by
  unfold State.issueFault; simp
@[simp] theorem State.issueFault_ff0 (i : StreamId) (w : W128) (cause : Nat) : (s.issueFault i w cause).ff0 = s.ff0 := by
  unfold State.issueFault; simp
@[simp] theorem State.issueFault_ff1 (i : StreamId) (w : W128) (cause : Nat) : (s.issueFault i w cause).ff1 = s.ff1 := by
  unfold State.issueFault; simp

end Sys2Proof.Machine
end

