-- ==== Sys2Proof/Laws/Tab.lean ====
section
/-! SUPPORT. Sparse tables: what a put leaves at every key, and that it keeps the canonical form. -/

namespace Sys2Proof.Machine

variable {α : Type} [DecidableEq α]

theorem twfFrom_weaken {d : α} {t : Tab α} {lo hi : Nat} (h : twfFrom d (some hi) t = true) (hl : lo ≤ hi) :
    twfFrom d (some lo) t = true := by
  cases t with
  | nil => rfl
  | cons e t =>
    obtain ⟨j, v⟩ := e
    simp only [twfFrom, Bool.and_eq_true, decide_eq_true_eq] at h ⊢
    exact ⟨⟨by omega, h.1.2⟩, h.2⟩

theorem twfFrom_none {d : α} {t : Tab α} {lo : Nat} (h : twfFrom d (some lo) t = true) : twfFrom d none t = true := by
  cases t with
  | nil => rfl
  | cons e t =>
    obtain ⟨j, v⟩ := e
    simp only [twfFrom, Bool.and_eq_true, decide_eq_true_eq] at h ⊢
    exact ⟨⟨trivial, h.1.2⟩, h.2⟩

theorem twfFrom_filter {d : α} {t : Tab α} {lo : Option Nat} (h : twfFrom d lo t = true) (p : Nat × α → Bool) :
    twfFrom d lo (t.filter p) = true := by
  induction t generalizing lo with
  | nil => rfl
  | cons e t ih =>
    obtain ⟨a, x⟩ := e
    simp only [twfFrom, Bool.and_eq_true, decide_eq_true_eq] at h
    have hr := ih h.2
    rw [List.filter_cons]
    split
    · simp only [twfFrom, Bool.and_eq_true, decide_eq_true_eq]; exact ⟨h.1, hr⟩
    · cases lo with
      | none => exact twfFrom_none hr
      | some l => exact twfFrom_weaken hr (by have := h.1.1; simp only [decide_eq_true_eq] at this; omega)

/-- Dropping entries keeps the canonical form. -/
theorem twf_filter {d : α} {t : Tab α} (h : twf d t = true) (p : Nat × α → Bool) : twf d (t.filter p) = true := twfFrom_filter h p

omit [DecidableEq α] in
/-- A key whose entries are kept has the value it had. -/
theorem tget_filter_keep (d : α) (t : Tab α) (p : Nat × α → Bool) (k : Nat) (h : ∀ v, p (k, v) = true) :
    tget d (t.filter p) k = tget d t k := by
  induction t with
  | nil => rfl
  | cons e t ih =>
    obtain ⟨a, x⟩ := e
    rw [List.filter_cons]
    split
    · simp only [tget, ih]
    · rename_i hp
      rw [tget]
      split
      · rename_i ha
        subst ha
        exact absurd (h x) hp
      · exact ih

omit [DecidableEq α] in
/-- A key whose entries are dropped has the default. -/
theorem tget_filter_drop (d : α) (t : Tab α) (p : Nat × α → Bool) (k : Nat) (h : ∀ v, p (k, v) = false) :
    tget d (t.filter p) k = d := by
  induction t with
  | nil => rfl
  | cons e t ih =>
    obtain ⟨a, x⟩ := e
    rw [List.filter_cons]
    split
    · rename_i hp
      rw [tget, if_neg (fun ha => by subst ha; rw [h x] at hp; exact Bool.noConfusion hp)]
      exact ih
    · exact ih

omit [DecidableEq α] in
/-- A put is what its key then has. -/
theorem tget_tput (d : α) (t : Tab α) (k : Nat) (v : α) : tget d (tput t k v) k = v := by
  induction t with
  | nil => simp [tput, tget]
  | cons e t ih =>
    obtain ⟨a, x⟩ := e
    simp only [tput]
    split
    · simp [tget]
    · split
      · simp [tget]
      · rw [tget, if_neg (by omega), ih]

omit [DecidableEq α] in
/-- A put changes no other key. -/
theorem tget_tput_ne (d : α) (t : Tab α) {k j : Nat} (v : α) (h : j ≠ k) : tget d (tput t k v) j = tget d t j := by
  induction t with
  | nil => simp only [tput, tget]; rw [if_neg (Ne.symm h)]
  | cons e t ih =>
    obtain ⟨a, x⟩ := e
    simp only [tput]
    split
    · rw [tget, if_neg (Ne.symm h)]
    · split
      · rename_i ha
        subst ha
        rw [tget, tget, if_neg (Ne.symm h), if_neg (Ne.symm h)]
      · simp only [tget, ih]

omit [DecidableEq α] in
/-- The last of two puts at a key stands. -/
theorem tput_tput (t : Tab α) (k : Nat) (v w : α) : tput (tput t k v) k w = tput t k w := by
  induction t with
  | nil => simp [tput]
  | cons e t ih =>
    obtain ⟨a, x⟩ := e
    simp only [tput]
    split
    · simp [tput]
    · split
      · simp [tput]
      · rename_i h1 h2
        rw [tput, if_neg h1, if_neg h2, ih]

/-- A key is what it was set to. -/
theorem tget_tset (d : α) (t : Tab α) (k : Nat) (v : α) : tget d (tset d t k v) k = v := by
  unfold tset
  split
  · rename_i hv
    rw [tget_filter_drop d t _ k (fun _ => by simp), hv]
  · exact tget_tput d t k v

/-- Setting a key changes no other. -/
theorem tget_tset_ne (d : α) (t : Tab α) {k j : Nat} (v : α) (h : j ≠ k) : tget d (tset d t k v) j = tget d t j := by
  unfold tset
  split
  · exact tget_filter_keep d t _ j (fun _ => by simp [h])
  · exact tget_tput_ne d t v h

/-- Either of the two, by the key. -/
theorem tget_tset_if (d : α) (t : Tab α) (k j : Nat) (v : α) : tget d (tset d t k v) j = if j = k then v else tget d t j := by
  split
  · rename_i h; subst h; exact tget_tset d t j v
  · rename_i h; exact tget_tset_ne d t v h

/-- The last of two values set at a key stands. -/
theorem tset_tset (d : α) (t : Tab α) (k : Nat) {v : α} (w : α) (hv : v ≠ d) : tset d (tset d t k v) k w = tset d t k w := by
  unfold tset
  rw [if_neg hv]
  split
  · induction t with
    | nil => simp [tput]
    | cons e t ih =>
      obtain ⟨a, x⟩ := e
      simp only [tput]
      split
      · simp
      · split
        · rename_i h
          simp [h]
        · simp only [List.filter_cons, ih]
  · exact tput_tput t k v w

theorem twfFrom_tput {d : α} {t : Tab α} {lo : Option Nat} (h : twfFrom d lo t = true) (k : Nat) {v : α} (hv : v ≠ d)
    (hk : ∀ l, lo = some l → l < k) : twfFrom d lo (tput t k v) = true := by
  induction t generalizing lo with
  | nil =>
    simp only [tput]
    cases lo with
    | none => simp [twfFrom, hv]
    | some l => simp [twfFrom, hv, hk l rfl]
  | cons e t ih =>
    obtain ⟨a, x⟩ := e
    have h' := h
    simp only [twfFrom, Bool.and_eq_true, decide_eq_true_eq] at h'
    simp only [tput]
    split
    · rename_i hka
      have hx : twfFrom d (some k) ((a, x) :: t) = true := by
        simp only [twfFrom, Bool.and_eq_true, decide_eq_true_eq]; exact ⟨⟨hka, h'.1.2⟩, h'.2⟩
      cases lo with
      | none => simp only [twfFrom, Bool.and_eq_true, decide_eq_true_eq] at hx ⊢; exact ⟨⟨trivial, hv⟩, hx⟩
      | some l => simp only [twfFrom, Bool.and_eq_true, decide_eq_true_eq] at hx ⊢; exact ⟨⟨hk l rfl, hv⟩, hx⟩
    · split
      · rename_i ha
        subst ha
        simp only [twfFrom, Bool.and_eq_true, decide_eq_true_eq]
        exact ⟨⟨h'.1.1, hv⟩, h'.2⟩
      · rename_i h1 h2
        simp only [twfFrom, Bool.and_eq_true, decide_eq_true_eq]
        exact ⟨h'.1, ih h'.2 (fun l hl => by cases hl; omega)⟩

/-- Setting a key keeps the canonical form. -/
theorem twf_tset {d : α} {t : Tab α} (h : twf d t = true) (k : Nat) (v : α) : twf d (tset d t k v) = true := by
  unfold tset
  split
  · exact twf_filter h _
  · rename_i hv
    exact twfFrom_tput h k hv (fun _ hl => nomatch hl)

theorem mem_insertBy {α : Type} {le : α → α → Bool} {x y : α} {l : List α} : y ∈ insertBy le x l ↔ y = x ∨ y ∈ l := by
  induction l with
  | nil => simp [insertBy]
  | cons z l ih =>
    unfold insertBy
    split
    · simp
    · simp only [List.mem_cons, ih]
      exact or_left_comm

/-- Sorting a list keeps its items. -/
@[simp] theorem mem_sortBy {α : Type} {le : α → α → Bool} {y : α} {l : List α} : y ∈ sortBy l le ↔ y ∈ l := by
  unfold sortBy
  induction l with
  | nil => simp
  | cons x l ih => simp [mem_insertBy, ih]

end Sys2Proof.Machine
end

