-- ==== Sys2Proof/Laws/Streams.lean ====
section
/-! SUPPORT. Looking up cores and streams after an update of one of them. -/

namespace Sys2Proof.Machine

@[simp] theorem Core.setStream_pow (c : Core) (p : Pass) (st : Stream) : (c.setStream p st).pow = c.pow := by cases p <;> rfl
@[simp] theorem Core.setStream_part (c : Core) (p : Pass) (st : Stream) : (c.setStream p st).part = c.part := by cases p <;> rfl
@[simp] theorem Core.setStream_pos (c : Core) (p : Pass) (st : Stream) : (c.setStream p st).pos = c.pos := by cases p <;> rfl
@[simp] theorem Core.setStream_age (c : Core) (p : Pass) (st : Stream) : (c.setStream p st).age = c.age := by cases p <;> rfl
@[simp] theorem Core.setStream_epoch (c : Core) (p : Pass) (st : Stream) : (c.setStream p st).epoch = c.epoch := by cases p <;> rfl
@[simp] theorem Core.setStream_b0 (c : Core) (p : Pass) (st : Stream) : (c.setStream p st).b0 = c.b0 := by cases p <;> rfl
@[simp] theorem Core.setStream_b1 (c : Core) (p : Pass) (st : Stream) : (c.setStream p st).b1 = c.b1 := by cases p <;> rfl
@[simp] theorem Core.setStream_vec (c : Core) (p : Pass) (st : Stream) : (c.setStream p st).vec = c.vec := by cases p <;> rfl
@[simp] theorem Core.setStream_wins (c : Core) (p : Pass) (st : Stream) : (c.setStream p st).wins = c.wins := by cases p <;> rfl

@[simp] theorem Core.stream_setStream (c : Core) (p : Pass) (st : Stream) : (c.setStream p st).stream p = st := by cases p <;> rfl

theorem Core.stream_setStream_ne (c : Core) {p q : Pass} (st : Stream) (h : q ≠ p) : (c.setStream p st).stream q = c.stream q := by
  cases p <;> cases q <;> first | rfl | exact absurd rfl h

namespace State

variable (s : State)

@[simp] theorem core_setCore (k : Nat) (c : Core) : (s.setCore k c).core k = c := tget_tset _ _ _ _

theorem core_setCore_ne {k j : Nat} (c : Core) (h : j ≠ k) : (s.setCore k c).core j = s.core j :=
  tget_tset_ne _ _ _ h

@[simp] theorem core_modCore (k : Nat) (f : Core → Core) : (s.modCore k f).core k = f (s.core k) := s.core_setCore k _

theorem core_modCore_ne {k j : Nat} (f : Core → Core) (h : j ≠ k) : (s.modCore k f).core j = s.core j :=
  tget_tset_ne _ _ _ h

@[simp] theorem core_setStream (i : StreamId) (st : Stream) :
    (s.setStream i st).core (skey i) = (s.core (skey i)).setStream i.pass st :=
  s.core_setCore _ _

theorem core_setStream_ne {i : StreamId} {k : Nat} (st : Stream) (h : k ≠ skey i) : (s.setStream i st).core k = s.core k :=
  s.core_setCore_ne _ h

/-- A stream is what it is set to. -/
@[simp] theorem stream_setStream (i : StreamId) (st : Stream) : (s.setStream i st).stream i = st := by
  unfold State.stream
  rw [s.core_setStream, Core.stream_setStream]

/-- Setting a stream leaves every other stream. -/
theorem stream_setStream_ne {i j : StreamId} (st : Stream) (hi : i.wf = true) (hj : j.wf = true) (h : j ≠ i) :
    (s.setStream i st).stream j = s.stream j := by
  obtain ⟨di, ci, pi⟩ := i
  obtain ⟨dj, cj, pj⟩ := j
  simp only [StreamId.wf, Bool.and_eq_true, decide_eq_true_eq] at hi hj
  by_cases hk : skey ⟨dj, cj, pj⟩ = skey ⟨di, ci, pi⟩
  · have hpass : pj ≠ pi := by
      rintro rfl
      apply h
      simp only [skey, coreKey] at hk
      obtain ⟨rfl, rfl⟩ : dj = di ∧ cj = ci := ⟨by omega, by omega⟩
      rfl
    show ((s.setStream ⟨di, ci, pi⟩ st).core (skey ⟨dj, cj, pj⟩)).stream pj = (s.core (skey ⟨dj, cj, pj⟩)).stream pj
    rw [hk, s.core_setStream, Core.stream_setStream_ne _ _ hpass]
  · unfold State.stream
    rw [s.core_setStream_ne st hk]

end State

end Sys2Proof.Machine
end

