-- ==== Sys2Proof/Laws/Issue.lean ====
section
/-! SUPPORT. What a cycle of a stream does with the instruction at its program counter: nothing, a stall, a fault, or its effect. -/

namespace Sys2Proof.Machine

variable {s : State} {i : StreamId}

theorem State.runs_pow (h : s.runs i = true) : (s.core (skey i)).pow = .on := by
  unfold State.runs at h
  simp only [Bool.and_eq_true, beq_iff_eq] at h
  exact h.1

theorem State.turn.pow {eng : Option Engine} {need : Nat} (h : s.turn i eng need) : (s.core (skey i)).pow = .on := State.runs_pow h.1

/-! ### The instruction port (05 R150) -/

/-- Without a read left at the port nothing is asked of it. -/
theorem State.portJump_still (h1 : (s.stream i).portLate = 0) (h2 : (s.stream i).portLeft = 0) : s.portJump i = s := by
  unfold State.portJump
  simp [h1, h2]

theorem State.portJump_cases : s.portJump i = s ∨ ∃ n, s.portJump i = s.portTake i n := by
  unfold State.portJump
  dsimp only
  generalize (if (s.stream i).portLate = 0 then 0 else 1) + (if (s.stream i).portLeft = 0 then 0 else 1) = n
  split
  · exact .inl rfl
  · exact .inr ⟨n, rfl⟩

/-- A read that the port takes changes the cycles that the stream waits for it, and when the port is free. -/
theorem State.portTake_ported (n : Nat) :
    ∃ late left port, s.portTake i n = s.ported i { s.stream i with portLate := late, portLeft := left } port := by
  unfold State.portTake
  dsimp only
  split
  · exact ⟨_, _, _, rfl⟩
  · exact ⟨_, _, _, rfl⟩

theorem State.setCore_setCore (k : Nat) {c : Core} (d : Core) (hc : c.pow = .on) : (s.setCore k c).setCore k d = s.setCore k d := by
  unfold State.setCore
  dsimp only
  rw [tset_tset _ _ _ _ (fun he => by rw [he] at hc; cases hc)]

theorem State.ported_eq (hp : (s.core (skey i)).pow = .on) (v : Stream) (port : Nat) :
    s.ported i v port = s.setCore (skey i) { (s.core (skey i)).setStream i.pass v with portEnd := port } := by
  show (s.setCore _ _).setCore _ { (s.setCore _ _).core _ with portEnd := port } = _
  rw [State.core_setCore, State.setCore_setCore _ _ (by simpa using hp)]

theorem State.ported_setStream (hp : (s.core (skey i)).pow = .on) (u v : Stream) (port : Nat) :
    (s.setStream i u).ported i v port = s.ported i v port := by
  rw [State.ported_eq (by simpa using hp), State.ported_eq hp, State.core_setStream]
  show (s.setCore _ _).setCore _ _ = _
  rw [State.setCore_setCore _ _ (by simpa using hp)]
  congr 1
  cases i.pass <;> rfl

theorem State.setStream_ported (hp : (s.core (skey i)).pow = .on) (u : Stream) :
    s.setStream i u = s.ported i u (s.core (skey i)).portEnd := by
  rw [State.ported_eq hp]
  show s.setCore _ _ = _
  congr 1
  cases i.pass <;> rfl

/-- A stream of a core that is ON changes, and the port takes what it asks for. -/
theorem State.portJump_setStream (hp : (s.core (skey i)).pow = .on) (u : Stream) :
    ∃ late left port, (s.setStream i u).portJump i = s.ported i { u with portLate := late, portLeft := left } port := by
  obtain e | ⟨n, e⟩ := State.portJump_cases (s := s.setStream i u) (i := i)
  · exact ⟨u.portLate, u.portLeft, _, e.trans (State.setStream_ported hp u)⟩
  · obtain ⟨late, left, port, h⟩ := State.portTake_ported (s := s.setStream i u) (i := i) n
    rw [e, h, State.ported_setStream hp, State.stream_setStream]
    exact ⟨late, left, port, rfl⟩

/-- The port's reads leave every other stream, and of the stream itself all but the cycles that it waits. -/
theorem State.stream_portJump : ∃ late left, (s.portJump i).stream i = { s.stream i with portLate := late, portLeft := left } := by
  obtain e | ⟨n, e⟩ := State.portJump_cases (s := s) (i := i)
  · exact ⟨(s.stream i).portLate, (s.stream i).portLeft, by rw [e]⟩
  · obtain ⟨late, left, port, h⟩ := State.portTake_ported (s := s) (i := i) n
    refine ⟨late, left, ?_⟩
    rw [e, h]
    unfold State.ported State.stream
    rw [State.core_modCore, State.core_setStream]
    cases i.pass <;> rfl

theorem State.stream_portJump_ne {j : StreamId} (hi : i.wf = true) (hj : j.wf = true) (hne : j ≠ i) :
    (s.portJump i).stream j = s.stream j := by
  obtain e | ⟨n, e⟩ := State.portJump_cases (s := s) (i := i)
  · rw [e]
  · obtain ⟨late, left, port, h⟩ := State.portTake_ported (s := s) (i := i) n
    rw [e, h, ← s.stream_setStream_ne { s.stream i with portLate := late, portLeft := left } hi hj hne]
    unfold State.ported State.stream
    by_cases hk : skey j = skey i
    · rw [hk, State.core_modCore]
      cases j.pass <;> rfl
    · rw [State.core_modCore_ne _ _ hk]

theorem State.portJump_frame : s.portJump i = { s with cores := (s.portJump i).cores } := by
  obtain e | ⟨n, e⟩ := State.portJump_cases (s := s) (i := i) <;> rw [e]
  obtain ⟨late, left, port, h⟩ := State.portTake_ported (s := s) (i := i) n
  rw [h]
  rfl

/-- In its turn an instruction takes effect, and the port takes the reads that it leaves there. -/
theorem State.onTurn_turn {eng : Option Engine} {need : Nat} (h : s.turn i eng need) (go : State → State) :
    s.onTurn i eng need go = (go s).portJump i := by
  obtain ⟨h1, h2, h3, h4⟩ := h
  unfold State.onTurn
  simp [h1, h2, h3, h4]

/-- In its turn a stream has no read at the instruction port. -/
theorem State.turn.port {eng : Option Engine} {need : Nat} (h : s.turn i eng need) :
    (s.stream i).portLate = 0 ∧ (s.stream i).portLeft = 0 := by
  obtain ⟨-, -, -, h4⟩ := h
  unfold State.stallCause at h4
  dsimp only at h4
  repeat' (split at h4 <;> try exact absurd h4 (by decide))
  all_goals simp_all [Stream.fetching]

/-- A fault asks nothing of the port. -/
theorem State.portJump_fault {w : W128} {c : Nat} (h : (s.stream i).portLate = 0 ∧ (s.stream i).portLeft = 0) :
    (s.issueFault i w c).portJump i = s.issueFault i w c := by
  have hs : ∃ u : Stream, (s.issueFault i w c).stream i = u ∧ u.portLate = 0 ∧ u.portLeft = 0 := by
    unfold State.issueFault State.streamFault
    dsimp only
    unfold State.stream State.core
    rw [State.post_cores]
    exact ⟨_, State.stream_setStream _ _ _, h.1, h.2⟩
  obtain ⟨u, hu, h1, h2⟩ := hs
  exact State.portJump_still (by rw [hu]; exact h1) (by rw [hu]; exact h2)

/-- A stream that takes no cycles is left as it is. -/
theorem State.onTurn_still {eng : Option Engine} {need : Nat} (h : s.runs i = false) (go : State → State) :
    s.onTurn i eng need go = s := by
  unfold State.onTurn
  simp [h]

/-- A stall cycle changes SEQ_STALL, SEQ_STALLS and the reads at the instruction port alone. -/
theorem State.onTurn_stall {eng : Option Engine} {need : Nat} (h1 : s.runs i = true) (h2 : (s.stream i).idleLeft = 0)
    (h3 : (s.stream i).phase = .none) (h4 : s.stallCause i eng need ≠ 0) (go : State → State) :
    ∃ late left port, s.onTurn i eng need go
      = s.ported i { (s.stream i).stallCycle (s.stallCause i eng need) need with portLate := late, portLeft := left } port := by
  have hp := State.runs_pow h1
  set u := (s.stream i).stallCycle (s.stallCause i eng need) need with hu
  have e : s.onTurn i eng need go
      = if need = 0 ∨ (s.stream i).asked then s.setStream i u else (s.setStream i u).portTake i ((need + 63) / 64) := by
    unfold State.onTurn
    simp [h1, h2, h3, h4, hu]
  rw [e]
  split
  · exact ⟨u.portLate, u.portLeft, _, State.setStream_ported hp u⟩
  · obtain ⟨late, left, port, h⟩ := State.portTake_ported (s := s.setStream i u) (i := i) ((need + 63) / 64)
    rw [h, State.ported_setStream hp, State.stream_setStream]
    exact ⟨late, left, port, rfl⟩

/-- A CTL instruction without a fault has its effect. -/
theorem State.issueCtl_eff {w : W128} {op need : Nat} {seq loop : Stream → Bool} (eff : State → State)
    (h : s.turn i none (if ofRow w 7 op then need else 0))
    (hw : ofRow w 7 op = true) (hi : (s.stream i).inImage (s.stream i).pc = true) (hs : seq (s.stream i) = false)
    (hl : loop (s.stream i) = false) : s.issueCtl i w op need seq loop eff = (eff s).portJump i := by
  unfold State.issueCtl
  rw [State.onTurn_turn h]
  simp [hw, hi, hs, hl, firstFault]

/-- A CTL instruction with an Encoding or Sequence cause faults (06 R193). -/
theorem State.issueCtl_fault {w : W128} {op need : Nat} {seq loop : Stream → Bool} (eff : State → State) {c : Nat}
    (h : s.turn i none (if ofRow w 7 op then need else 0))
    (hf : firstFault (!ofRow w 7 op) (!(s.stream i).inImage (s.stream i).pc || seq (s.stream i)) false false = some c) :
    s.issueCtl i w op need seq loop eff = s.issueFault i w c := by
  unfold State.issueCtl
  rw [State.onTurn_turn h]
  simp only [hf]
  exact State.portJump_fault h.port

/-- An engine instruction without a fault enters its queue. -/
theorem State.issueEng_ok {w : W128} {fam op : Nat} {eng : Engine} {enc seq absent : Bool} {p : Plan} {f : Stream → Stream}
    (hf : firstFault (!ofRow w fam op || enc)
      ((s.stream i).seqBad
        || ((s.stream i).inop && (hSig w && (s.stream i).reps w != 0 || (fam == 6 && (op == 1 || op == 2) && !(s.stream i).skips w))
          && (s.stream i).writesFull) || seq) absent ((s.stream i).shapeBad w) = none) :
    s.issueEng i w fam op eng enc seq absent p f = s.enqueue i w eng p f := by
  unfold State.issueEng
  dsimp only
  split
  · rename_i c hc
    rw [hc] at hf
    exact absurd hf (by simp)
  · rfl

/-- An engine instruction with a cause faults. -/
theorem State.issueEng_fault {w : W128} {fam op c : Nat} {eng : Engine} {enc seq absent : Bool} {p : Plan} {f : Stream → Stream}
    (hf : firstFault (!ofRow w fam op || enc)
      ((s.stream i).seqBad
        || ((s.stream i).inop && (hSig w && (s.stream i).reps w != 0 || (fam == 6 && (op == 1 || op == 2) && !(s.stream i).skips w))
          && (s.stream i).writesFull) || seq) absent ((s.stream i).shapeBad w) = some c) :
    s.issueEng i w fam op eng enc seq absent p f = s.issueFault i w c := by
  unfold State.issueEng
  dsimp only
  split
  · rename_i d hc
    rw [hc] at hf
    cases hf
    rfl
  · rename_i hc
    rw [hc] at hf
    exact absurd hf (by simp)

/-! ### Entering a queue (05 R140, R149) -/

theorem Stream.getD_setIfInBounds {α : Type} {n : Nat} (v : Vector α n) (k j : Nat) (x d : α) :
    (v.setIfInBounds k x).getD j d = if j = k ∧ k < n then x else v.getD j d := by
  have e : ∀ v : Vector α n, v.getD j d = v.toArray[j]?.getD d := fun v => by
    cases v; simp [Vector.getD]
  rw [e, e, Vector.toArray_setIfInBounds, Array.getElem?_setIfInBounds]
  by_cases h : k = j
  · subst h
    by_cases hk : k < n
    · simp [hk]
    · simp [hk]
  · simp [h, Ne.symm h]

/-- The advance of the address registers: each register named once by n x S (05 R149). -/
theorem Stream.advanced_getD (st : Stream) (incs : List Nat) (n : Nat) {r : Nat} (h : r < 16) :
    (st.advanced incs n).getD r 0 = if r ∈ incs then st.areg r + BitVec.ofNat 64 n * st.sreg r else st.areg r := by
  have key : ∀ (l : List Nat) (v : Vector W64 16),
      (l.foldl (fun a k => a.setIfInBounds k (st.areg k + BitVec.ofNat 64 n * st.sreg k)) v).getD r 0
        = if r ∈ l then st.areg r + BitVec.ofNat 64 n * st.sreg r else v.getD r 0 := by
    intro l
    induction l with
    | nil => intro v; simp
    | cons k l ih =>
      intro v
      rw [List.foldl_cons, ih, Stream.getD_setIfInBounds]
      by_cases hl : r ∈ l
      · simp [hl]
      · by_cases hk : r = k
        · subst hk; simp [h]
        · simp [hl, hk]
  unfold Stream.advanced
  rw [key]
  simp only [List.mem_eraseDups]
  rfl

@[simp] theorem Stream.queue_setQueue (st : Stream) (e : Engine) (q : List QEntry) : (st.setQueue e q).queue e = q := by
  unfold Stream.queue Stream.setQueue
  rw [Stream.getD_setIfInBounds]
  cases e <;> simp [engIx]

theorem Stream.queue_setQueue_ne (st : Stream) {e x : Engine} (q : List QEntry) (h : x ≠ e) : (st.setQueue e q).queue x = st.queue x := by
  unfold Stream.queue Stream.setQueue
  rw [Stream.getD_setIfInBounds]
  cases e <;> cases x <;> first | exact absurd rfl h | simp [engIx]

@[simp] theorem Stream.issued_pc_loops (st : Stream) (last : W64) (cost : Nat) :
    ((st.issued none last cost).pc, (st.issued none last cost).loops) = loopNext last st.loops := rfl
@[simp] theorem Stream.issued_queues (st : Stream) (t : Option W64) (last : W64) (cost : Nat) :
    (st.issued t last cost).queues = st.queues := rfl
@[simp] theorem Stream.issued_queue (st : Stream) (t : Option W64) (last : W64) (cost : Nat) (e : Engine) :
    (st.issued t last cost).queue e = st.queue e := rfl
@[simp] theorem Stream.issued_a (st : Stream) (t : Option W64) (last : W64) (cost : Nat) : (st.issued t last cost).a = st.a := rfl
@[simp] theorem Stream.issued_s (st : Stream) (t : Option W64) (last : W64) (cost : Nat) : (st.issued t last cost).s = st.s := rfl
@[simp] theorem Stream.issued_c (st : Stream) (t : Option W64) (last : W64) (cost : Nat) : (st.issued t last cost).c = st.c := rfl
@[simp] theorem Stream.issued_shape (st : Stream) (t : Option W64) (last : W64) (cost : Nat) :
    (st.issued t last cost).shape = st.shape := rfl
@[simp] theorem Stream.issued_step (st : Stream) (t : Option W64) (last : W64) (cost : Nat) :
    (st.issued t last cost).step = st.step := rfl
@[simp] theorem Stream.issued_state (st : Stream) (t : Option W64) (last : W64) (cost : Nat) :
    (st.issued t last cost).state = st.state := rfl
@[simp] theorem Stream.issued_stime (st : Stream) (t : Option W64) (last : W64) (cost : Nat) :
    (st.issued t last cost).stime = st.stime + 1 := rfl

/-- What an update of a stream at issue leaves alone: its queues, registers, shape, step, state, time, program counter and loops. -/
structure Stream.KeepsIssue (f : Stream → Stream) : Prop where
  queues : ∀ st, (f st).queues = st.queues
  a : ∀ st, (f st).a = st.a
  s : ∀ st, (f st).s = st.s
  c : ∀ st, (f st).c = st.c
  shape : ∀ st, (f st).shape = st.shape
  step : ∀ st, (f st).step = st.step
  state : ∀ st, (f st).state = st.state
  stime : ∀ st, (f st).stime = st.stime
  loops : ∀ st, (f st).loops = st.loops

theorem Stream.KeepsIssue.id : Stream.KeepsIssue id :=
  ⟨fun _ => rfl, fun _ => rfl, fun _ => rfl, fun _ => rfl, fun _ => rfl, fun _ => rfl, fun _ => rfl, fun _ => rfl, fun _ => rfl⟩

theorem Stream.KeepsIssue.noteConv (ccw : W16) : Stream.KeepsIssue (Stream.noteConv ccw) := by
  constructor <;> intro st <;> unfold Stream.noteConv <;> split <;> rfl

/-- What entering a queue does. -/
theorem State.enqueue_entered {w : W128} {eng : Engine} {p : Plan} {f : Stream → Stream} (hi : i.wf = true)
    (hf : Stream.KeepsIssue f) : s.Entered (s.enqueue i w eng p f) i w eng p.incs := by
  set st := s.stream i with hst
  let e := st.entry (s.core (skey i)).age ((s.core (skey i)).cycleFor i.pass) w eng p
  let st2 : Stream :=
    { st.setQueue eng (st.queue eng ++ [e]) with
      a := st.advanced p.incs e.n, cyc := (s.core (skey i)).cycleFor i.pass - 1, last := (st.setQueue eng (st.queue eng ++ [e])).last.setIfInBounds (engIx eng) (e.due, e.occ) }
  let u := (f st2).issued none st.pc 0
  have e0 : s.enqueue i w eng p f = (s.setStream i u).modCore (skey i) fun c => { c with age := c.age + 1 } := rfl
  have hs1 := s.core_setStream i u
  have hc : ((s.setStream i u).modCore (skey i) fun c => { c with age := c.age + 1 }).core (skey i)
      = { (s.core (skey i)).setStream i.pass u with age := ((s.core (skey i)).setStream i.pass u).age + 1 } := by
    rw [State.core_modCore, hs1]
  have hstr : (s.enqueue i w eng p f).stream i = u := by
    rw [e0]
    unfold State.stream
    rw [hc]
    obtain ⟨d, c, pass⟩ := i
    cases pass <;> rfl
  have hq : ∀ x, u.queue x = (st.setQueue eng (st.queue eng ++ [e])).queue x := by
    intro x
    show (f st2).queues.getD (engIx x) [] = _
    rw [hf.queues]
    rfl
  unfold State.Entered
  simp only [hstr, ← hst]
  refine ⟨⟨e, ?_, rfl, rfl, rfl, rfl, rfl, rfl, rfl, rfl, rfl, rfl, rfl, rfl, rfl⟩, ?_, ?_, ?_, ?_, ?_, ?_, ?_, ?_, ?_, ?_, ?_⟩
  · rw [hq, Stream.queue_setQueue]
  · intro x hx
    rw [hq, Stream.queue_setQueue_ne _ _ hx]
  · intro r hr
    show u.a.getD r 0 = _
    have : u.a = st.advanced p.incs e.n := hf.a st2
    rw [this, Stream.advanced_getD _ _ _ hr]
    rfl
  · exact hf.s st2
  · exact hf.c st2
  · exact hf.shape st2
  · exact hf.step st2
  · exact hf.state st2
  · show loopNext st.pc (f st2).loops = _
    rw [hf.loops]
    rfl
  · show (f st2).stime + 1 = _
    rw [hf.stime]
    rfl
  · intro j hj hne
    rw [e0]
    by_cases hk : skey j = skey i
    · have h2 := s.stream_setStream_ne u hi hj hne
      unfold State.stream at h2 ⊢
      rw [hk] at h2 ⊢
      rw [hc, ← h2, hs1]
      cases j.pass <;> rfl
    · have h2 := s.stream_setStream_ne u hi hj hne
      unfold State.stream at h2 ⊢
      rw [State.core_modCore_ne _ _ hk]
      exact h2
  · rw [e0]
    rfl

/-- What entering a queue does stands when the port takes the reads of a jump. -/
theorem State.Entered.portJump {t : State} {w : W128} {eng : Engine} {incs : List Nat} (hi : i.wf = true)
    (h : s.Entered t i w eng incs) : s.Entered (t.portJump i) i w eng incs := by
  obtain ⟨late, left, e⟩ := State.stream_portJump (s := t) (i := i)
  unfold State.Entered at h ⊢
  dsimp only at h ⊢
  rw [e]
  obtain ⟨h1, h2, h3, h4, h5, h6, h7, h8, h9, h10, h11, h12⟩ := h
  refine ⟨h1, h2, h3, h4, h5, h6, h7, h8, h9, h10, fun j hj hne => ?_, ?_⟩
  · rw [State.stream_portJump_ne hi hj hne]
    exact h11 j hj hne
  · rw [State.portJump_frame, h12]

end Sys2Proof.Machine
end

