-- ==== Sys2Proof/Laws/Mem.lean ====
section
/-! SUPPORT. Memory: what a byte reads as after a write, reading and writing through the code where no codeword holds an error, and
that every operation keeps the canonical form. -/

namespace Sys2Proof.Machine

variable (s : State)

/-- A write of a byte leaves every other byte. -/
theorem State.rd8_wr8_ne {a k : Nat} (b : Byte) (h : k ≠ a) : (s.wr8 a b).rd8 k = s.rd8 k := tget_tset_ne _ _ _ h

/-- A byte reads as it was written. -/
@[simp] theorem State.rd8_wr8 (a : Nat) (b : Byte) : (s.wr8 a b).rd8 a = b := tget_tset _ _ a b

theorem State.memOk_wr8 {a : Nat} (b : Byte) (h : s.memOk) : (s.wr8 a b).memOk := twf_tset h a b

/-- Writes of a list of bytes leave every byte that none of them names. -/
theorem State.rd8_writes_ne {k : Nat} (ws : List (Nat × Byte)) (h : ∀ x ∈ ws, x.1 ≠ k) :
    (ws.foldl (fun (s : State) (x : Nat × Byte) => s.wr8 x.1 x.2) s).rd8 k = s.rd8 k := by
  induction ws generalizing s with
  | nil => rfl
  | cons x ws ih =>
    rw [List.foldl_cons, ih _ (fun y hy => h y (List.mem_cons_of_mem _ hy)),
      s.rd8_wr8_ne _ (Ne.symm (h x List.mem_cons_self))]

/-- Decoding an intact codeword changes nothing (07 R218). -/
theorem State.cwRead_clean {cw : Nat} (who : Who) (h : tget [] s.errs cw = []) : s.cwRead cw who = s := by
  unfold State.cwRead cwState
  simp [h]

theorem State.cwBytes_clean {cw : Nat} (h : tget [] s.errs cw = []) : s.cwBytes cw = none := by
  unfold State.cwBytes cwState
  simp [h]

/-- A fold none of whose items changes the accumulator. -/
theorem foldl_fixed {α β : Type} {f : β → α → β} {b : β} {l : List α} (h : ∀ x ∈ l, f b x = b) : l.foldl f b = b := by
  induction l with
  | nil => rfl
  | cons x l ih =>
    rw [List.foldl_cons, h x List.mem_cons_self]
    exact ih (fun y hy => h y (List.mem_cons_of_mem _ hy))

/-- No check point drops an access that nothing stands in the way of, and none is logged (09 R269). -/
theorem State.dropLog_clear {who : Who} (h : s.clear who) (as : List Nat) : s.dropLog who as = s := by
  unfold State.dropLog
  split
  · rfl
  · simp [h.2]

theorem State.passing_clear {who : Who} (h : s.clear who) (as : List Nat) : s.passing who as = as := by
  unfold State.passing
  simp [h.2]

theorem State.landing_clear {who : Who} (h : s.clear who) (ws : List (Nat × Byte)) : s.landing who ws = ws := by
  unfold State.landing
  simp [h.2]

/-- Reading where nothing stands in the way gives the bytes as they are stored, and changes nothing (07 R218). -/
theorem State.readMem_clear {who : Who} (h : s.clear who) (as : List Nat) : s.readMem who as = (as.map s.rd8, s) := by
  unfold State.readMem
  rw [s.passing_clear h, foldl_fixed (fun cw _ => ?_)]
  · simp [s.dropLog_clear h, h.2]
  · have he : tget [] s.errs cw = [] := by rw [h.1]; rfl
    have e1 : (s.readCw cw who).1 = none := s.cwBytes_clean he
    have e2 : (s.readCw cw who).2 = s := s.cwRead_clean who he
    simp only [e1, e2]

theorem State.clear_wr8 {who : Who} {a : Nat} {b : Byte} (h : s.clear who) : (s.wr8 a b).clear who := h

/-- Plain writes leave an access clear. -/
theorem State.clear_writes {who : Who} (ws : List (Nat × Byte)) (h : s.clear who) :
    (ws.foldl (fun (s : State) (x : Nat × Byte) => s.wr8 x.1 x.2) s).clear who := by
  induction ws generalizing s with
  | nil => exact h
  | cons x ws ih => exact ih _ (s.clear_wr8 h)

/-- Writing where nothing stands in the way writes the bytes and does nothing else (07 R219). -/
theorem State.writeMem_clear {who : Who} (h : s.clear who) (ws : List (Nat × Byte)) :
    s.writeMem who ws = ws.foldl (fun (s : State) (x : Nat × Byte) => s.wr8 x.1 x.2) s := by
  unfold State.writeMem
  rw [s.landing_clear h]
  dsimp only
  rw [foldl_fixed (l := codewords _) (fun cw _ => by unfold State.cwWrite; rw [h.1]; rfl)]
  exact State.dropLog_clear _ (s.clear_writes ws h) _

end Sys2Proof.Machine
end

