-- ==== Sys2Proof/Laws/IssueForms.lean ====
section
/-! SUPPORT. What the shared operations behind the instructions of a family do in their turn: entering a queue, and going on to the
next address. -/

namespace Sys2Proof.Machine

variable {s : State} {i : StreamId} {w : W128}

/-- An instruction that issues meets no fault, when its family finds none. -/
theorem State.issues_firstFault {fam op : Nat} {eng : Engine} {enc seq absent : Bool} (h : s.issues i w fam op eng)
    (he : enc = false) (hq : seq = false) (ha : absent = false) :
    firstFault (!ofRow w fam op || enc)
      ((s.stream i).seqBad
        || ((s.stream i).inop && (hSig w && (s.stream i).reps w != 0 || (fam == 6 && (op == 1 || op == 2) && !(s.stream i).skips w))
          && (s.stream i).writesFull) || seq) absent ((s.stream i).shapeBad w) = none := by
  obtain ⟨-, h1, h2, h3, h4, -⟩ := h
  subst he hq ha
  obtain ⟨h5, h6⟩ := h2
  have h7 : ((s.stream i).inop && (hSig w && (s.stream i).reps w != 0 || (fam == 6 && (op == 1 || op == 2) && !(s.stream i).skips w))
      && (s.stream i).writesFull) = false := by
    by_cases ha : (s.stream i).inop = true
    · by_cases hb : (hSig w && (s.stream i).reps w != 0 || fam == 6 && (op == 1 || op == 2) && !(s.stream i).skips w) = true
      · rw [h4 ha hb]; simp
      · rw [Bool.not_eq_true] at hb; rw [hb]; simp
    · rw [Bool.not_eq_true] at ha; rw [ha]; simp
  rw [h7]
  unfold Stream.seqBad firstFault
  rw [h1, h3, h5, h6]; rfl

/-- Only a STRM and a CTL read through the instruction port before they issue (05 R150). -/
theorem issueNeed_none {fam op : Nat} (h0 : fam ≠ 0) (h7 : fam ≠ 7) : issueNeed w fam op = 0 := by
  unfold issueNeed
  split
  · rfl
  · split
    · exact absurd rfl h0
    · exact absurd rfl h7
    · rfl

theorem issueNeed_strm (op : Nat) : issueNeed w 0 op = if ofRow w 0 op then 128 else 0 := by
  unfold issueNeed
  cases ofRow w 0 op <;> rfl

/-- The turn of an instruction that issues, with what it reads before. -/
theorem State.issues.turn {fam op need : Nat} {eng : Engine} (h : s.issues i w fam op eng) (hn : issueNeed w fam op = need) :
    s.turn i (some eng) need := hn ▸ h.1

/-- A SYN that issues enters the sync queue. -/
theorem State.issueSyn_entered {op : Nat} (hi : i.wf = true) (h : s.issues i w 6 op .syn) :
    s.Entered (s.issueSyn i w op) i w .syn [] := by
  unfold State.issueSyn
  rw [State.onTurn_turn (h.turn (issueNeed_none (by decide) (by decide))), State.issueEng_ok (State.issues_firstFault h rfl rfl rfl)]
  exact (State.enqueue_entered hi .id).portJump hi

/-- An XCH that issues enters the exchange queue. -/
theorem State.issueXch_entered {op : Nat} (hi : i.wf = true) (h : s.issues i w 4 op .xch) :
    s.Entered (s.issueXch i w op) i w .xch ((s.stream i).incRegs w 4 op) := by
  unfold State.issueXch
  rw [State.onTurn_turn (h.turn (issueNeed_none (by decide) (by decide)))]
  dsimp only
  rw [State.issueEng_ok (State.issues_firstFault h rfl h.2.2.2.2.2.1 h.2.2.2.2.2.2)]
  exact (State.enqueue_entered hi .id).portJump hi

/-- A STRM that issues enters the stream queue. -/
theorem State.issueStrm_entered {op : Nat} (hi : i.wf = true) (he : s.clear (s.whoNow i)) (h : s.issues i w 0 op .str) :
    s.Entered (s.issueStrm i w op) i w .str ((s.stream i).incRegs w 0 op) := by
  unfold State.issueStrm
  rw [State.onTurn_turn (h.turn (issueNeed_strm op))]
  obtain ⟨f, h1, h2⟩ := h.2.2.2.2.2
  have hd : (if ofRow w 0 op then s.readDesc i ((s.stream i).areg (tAdesc w)) else ([], s))
      = (s.descAt (skey i) ((s.stream i).areg (tAdesc w)), s) := by
    rw [if_pos h.2.1]
    unfold State.readDesc
    rw [State.readMem_clear _ he]; rfl
  dsimp only
  rw [hd]
  dsimp only
  rw [State.issueEng_ok (State.issues_firstFault h ?_ ?_ rfl)]
  · exact (State.enqueue_entered hi .id).portJump hi
  · simp only [h1, Option.getD_some, h2, Bool.not_true]
  · simp [h1]

/-- A stream that takes its next address and loop stack, after `f`, and spends its cycle has moved. -/
theorem State.moves_setStream (hp : (s.core (skey i)).pow = .on) (pc : W64) (loops : List LoopEnt) (f : Stream → Stream) (u : Stream)
    (h : u = { f (s.stream i) with
                pc := pc, loops := loops, stime := (s.stream i).stime + 1, cyc := (s.stream i).cyc + 1, stall := 0, asked := false
                buf := u.buf, portLate := u.portLate, portLeft := u.portLeft }) :
    s.Moves ((s.setStream i u).portJump i) i pc loops f := by
  obtain ⟨late, left, port, e⟩ := State.portJump_setStream hp u
  refine ⟨u.buf, late, left, port, e.trans ?_⟩
  rw [h]

/-- After `f` an instruction that issues goes to its target, or on along the loop stack. -/
theorem State.moves_issued (hp : (s.core (skey i)).pow = .on) (tg : Option W64) (last : W64) (cost : Nat) (f : Stream → Stream)
    (hl : (f (s.stream i)).loops = (s.stream i).loops) (ht : (f (s.stream i)).stime = (s.stream i).stime)
    (hc : (f (s.stream i)).cyc = (s.stream i).cyc) :
    s.Moves ((s.setStream i ((f (s.stream i)).issued tg last cost)).portJump i) i
      (match tg with | some t => t | none => (loopNext last (s.stream i).loops).1)
      (match tg with | some _ => (s.stream i).loops | none => (loopNext last (s.stream i).loops).2) f := by
  apply State.moves_setStream hp
  unfold Stream.issued
  rw [hl, ht, hc]
  cases tg <;> rfl

/-- After `f` an instruction at the program counter falls through. -/
theorem State.falls_issued (hp : (s.core (skey i)).pow = .on) (pc : W64) (cost : Nat) (f : Stream → Stream) (hpc : pc = (s.stream i).pc)
    (hl : (f (s.stream i)).loops = (s.stream i).loops) (ht : (f (s.stream i)).stime = (s.stream i).stime)
    (hc : (f (s.stream i)).cyc = (s.stream i).cyc) :
    s.Falls ((s.setStream i ((f (s.stream i)).issued none pc cost)).portJump i) i f := by
  subst hpc
  exact State.moves_issued hp none _ cost f hl ht hc

/-- A CTL instruction with a Sequence cause halts its stream with that fault. -/
theorem State.issueCtl_seqFault {op need : Nat} {seq loop : Stream → Bool} (eff : State → State)
    (h : s.turn i none (if ofRow w 7 op then need else 0)) (hw : ofRow w 7 op = true) (hs : seq (s.stream i) = true) :
    s.issueCtl i w op need seq loop eff = s.streamFault i 2 0xF (s.stream i).pc none := by
  rw [State.issueCtl_fault eff (c := 2) h (by rw [hw, hs]; simp [firstFault])]
  unfold State.issueFault
  have : hFam w = 7 := by unfold ofRow at hw; simp at hw; exact hw.1.1
  rw [if_pos this]

end Sys2Proof.Machine
end

