-- ==== Sys2Proof/Laws/Keeps.lean ====
section
/-! SUPPORT. What every operation of the model keeps: the queue of commands, the canonical form of memory, and the fuses, which
only go forward. One lemma for each shared operation follows in the files Keeps*.lean; this one has the updates of one field. -/

namespace Sys2Proof.Machine

/-- What a command on state `r` keeps in the state `s` it has come to. -/
structure Keeps (r s : State) : Prop where
  pending : s.pending = r.pending
  fuse : r.fuse.forward s.fuse
  mem : r.memOk → s.memOk

theorem Fuses.forward_refl (f : Fuses) : f.forward f :=
  ⟨BitVec.le_refl _, BitVec.le_refl _, BitVec.le_refl _, rfl, rfl, rfl⟩

theorem Fuses.forward_trans {f g h : Fuses} (a : f.forward g) (b : g.forward h) : f.forward h := by
  obtain ⟨a1, a2, a3, a4, a5, a6⟩ := a
  obtain ⟨b1, b2, b3, b4, b5, b6⟩ := b
  exact ⟨BitVec.le_trans a1 b1, BitVec.le_trans a2 b2, BitVec.le_trans a3 b3, b4.trans a4, b5.trans a5, b6.trans a6⟩

namespace Keeps

variable {r s t : State}

theorem refl (s : State) : Keeps s s := ⟨rfl, Fuses.forward_refl _, id⟩

theorem trans (a : Keeps r s) (b : Keeps s t) : Keeps r t :=
  ⟨b.pending.trans a.pending, Fuses.forward_trans a.fuse b.fuse, fun h => b.mem (a.mem h)⟩

/-- An update that leaves the queue, the fuses and memory. -/
theorem same (h : Keeps r s) (hp : t.pending = s.pending) (hf : t.fuse = s.fuse) (hm : t.mem = s.mem) : Keeps r t :=
  ⟨hp.trans h.pending, hf ▸ h.fuse, fun k => by have := h.mem k; unfold State.memOk at this ⊢; rw [hm]; exact this⟩

theorem mk_snd {α : Type} {a : α} (h : Keeps r s) : Keeps r (a, s).2 := h

theorem mk_snd3 {α β : Type} {a : α} {b : β} (h : Keeps r s) : Keeps r (a, b, s).2.2 := h

theorem snd3 {α β γ : Type} {x : α × β × γ} : x = (x.1, x.2.1, x.2.2) := by
  obtain ⟨a, b, c⟩ := x
  rfl

theorem foldl {α : Type} {f : State → α → State} (hf : ∀ t x, Keeps r t → Keeps r (f t x)) (h : Keeps r s) (l : List α) :
    Keeps r (l.foldl f s) := by
  induction l generalizing s with
  | nil => exact h
  | cons x l ih => exact ih (hf _ _ h)

theorem foldl_snd {α β : Type} {f : β × State → α → β × State} (hf : ∀ p x, Keeps r p.2 → Keeps r (f p x).2) {p : β × State}
    (h : Keeps r p.2) (l : List α) : Keeps r (l.foldl f p).2 := by
  induction l generalizing p with
  | nil => exact h
  | cons x l ih => exact ih (hf _ _ h)

theorem foldl_eq {α β : Type} {f : β × State → α → β × State} {p : β × State} {l : List α} {b : β}
    (hf : ∀ p x, Keeps r p.2 → Keeps r (f p x).2) (h : Keeps r p.2) (e : l.foldl f p = (b, s)) : Keeps r s := by
  have k := foldl_snd hf h l
  rwa [e] at k

theorem foldl_snd3 {α β γ : Type} {f : β × γ × State → α → β × γ × State}
    (hf : ∀ p x, Keeps r p.2.2 → Keeps r (f p x).2.2) {p : β × γ × State} (h : Keeps r p.2.2) (l : List α) :
    Keeps r (l.foldl f p).2.2 := by
  induction l generalizing p with
  | nil => exact h
  | cons x l ih => exact ih (hf _ _ h)

theorem setCore (k : Nat) (c : Core) (h : Keeps r s) : Keeps r (s.setCore k c) := h.same rfl rfl rfl
theorem modCore (k : Nat) (f : Core → Core) (h : Keeps r s) : Keeps r (s.modCore k f) := h.same rfl rfl rfl
theorem setStream (i : StreamId) (x : Stream) (h : Keeps r s) : Keeps r (s.setStream i x) := h.same rfl rfl rfl
theorem modStream (i : StreamId) (f : Stream → Stream) (h : Keeps r s) : Keeps r (s.modStream i f) := h.same rfl rfl rfl
theorem modDie (d : Nat) (f : Die → Die) (h : Keeps r s) : Keeps r (s.modDie d f) := h.same rfl rfl rfl
theorem modUnit (u : Nat) (f : UpdUnit → UpdUnit) (h : Keeps r s) : Keeps r (s.modUnit u f) := h.same rfl rfl rfl
theorem modPart (p : Nat) (f : Part → Part) (h : Keeps r s) : Keeps r (s.modPart p f) := h.same rfl rfl rfl
theorem modObj (o : Nat) (f : SyncObj → SyncObj) (h : Keeps r s) : Keeps r (s.modObj o f) := h.same rfl rfl rfl
theorem modSyn (k : Nat) (f : SynHalf → SynHalf) (h : Keeps r s) : Keeps r (s.modSyn k f) := by
  unfold State.modSyn; split <;> exact h.same rfl rfl rfl
theorem modFf (k : Nat) (f : FfHalf → FfHalf) (h : Keeps r s) : Keeps r (s.modFf k f) := by
  unfold State.modFf; split <;> exact h.same rfl rfl rfl
theorem modPort (p : Nat) (f : Port → Port) (h : Keeps r s) : Keeps r (s.modPort p f) := h.same rfl rfl rfl
theorem modLport (p : Nat) (f : LPort → LPort) (h : Keeps r s) : Keeps r (s.modLport p f) := h.same rfl rfl rfl
theorem modEv (f : Events → Events) (h : Keeps r s) : Keeps r (s.modEv f) := h.same rfl rfl rfl
theorem modSec (f : Sec → Sec) (h : Keeps r s) : Keeps r (s.modSec f) := h.same rfl rfl rfl
theorem modMgr (f : Mgr → Mgr) (h : Keeps r s) : Keeps r (s.modMgr f) := h.same rfl rfl rfl
theorem modLink (f : Link → Link) (h : Keeps r s) : Keeps r (s.modLink f) := h.same rfl rfl rfl
theorem modPwr (f : Pwr → Pwr) (h : Keeps r s) : Keeps r (s.modPwr f) := h.same rfl rfl rfl
theorem modLdr (f : Loader → Loader) (h : Keeps r s) : Keeps r (s.modLdr f) := h.same rfl rfl rfl
theorem setErr (cw : Nat) (e : ErrPat) (h : Keeps r s) : Keeps r (s.setErr cw e) := h.same rfl rfl rfl
theorem skipFree (n : Nat) (h : Keeps r s) : Keeps r (s.skipFree n) := h.same rfl rfl rfl
theorem takeFree_snd (h : Keeps r s) : Keeps r s.takeFree.2 := h.same rfl rfl rfl
theorem keepMem (f g : Nat → Bool) (h : Keeps r s) : Keeps r (s.keepMem f g) :=
  ⟨h.pending, h.fuse, fun k => twf_filter (h.mem k) _⟩

theorem wr8 (a : Nat) (b : Byte) (h : Keeps r s) : Keeps r (s.wr8 a b) :=
  ⟨h.pending, h.fuse, fun k => twf_tset (h.mem k) a b⟩

theorem wrBytes (a : Nat) (bs : List Byte) (h : Keeps r s) : Keeps r (s.wrBytes a bs) := by
  induction bs generalizing s a with
  | nil => exact h
  | cons b bs ih => exact ih _ (wr8 _ _ h)

/-- A write of the fuses that only goes forward. -/
theorem modFuse {f : Fuses → Fuses} (h : Keeps r s) (hf : s.fuse.forward (f s.fuse)) : Keeps r (s.modFuse f) :=
  ⟨h.pending, Fuses.forward_trans h.fuse hf, h.mem⟩

end Keeps

end Sys2Proof.Machine
end

