-- ==== Sys2Proof/Laws/KeepsOps.lean ====
section
/-! SUPPORT. What the operations of events, memory, flags and issue keep (Keeps.lean). -/

namespace Sys2Proof.Machine.Keeps

variable {r₀ s t : State}

theorem seal_eq {cls : Nat} {jslot : Nat} {drank : Nat} {kin : W256} {ctx : W64} {payload : List Byte} {va} (h : Keeps r₀ s) (e : s.seal cls jslot drank kin ctx payload = (va, t)) : Keeps r₀ t := by
  unfold State.seal at e
  try dsimp -iota -proj only at e
  repeat' first
    | with_reducible assumption
    | with_reducible apply Keeps.modLink
    | (with_reducible injection e with _ e; subst e)
theorem seal_snd (cls : Nat) (jslot : Nat) (drank : Nat) (kin : W256) (ctx : W64) (payload : List Byte) (h : Keeps r₀ s) : Keeps r₀ (s.seal cls jslot drank kin ctx payload).2 := seal_eq h Prod.mk.eta.symm

theorem emit (o : LinkOut) (h : Keeps r₀ s) : Keeps r₀ (s.emit o) := by
  unfold State.emit
  try dsimp -iota -proj only
  repeat' first
    | with_reducible assumption
    | with_reducible apply Keeps.modLink

theorem pushFrame (lp : Nat) (f : Frame) (h : Keeps r₀ s) : Keeps r₀ (s.pushFrame lp f) := by
  unfold State.pushFrame
  try dsimp -iota -proj only
  repeat' first
    | with_reducible assumption
    | with_reducible apply Keeps.emit
    | with_reducible apply Keeps.modLport

theorem linkSend (lp : Nat) (f : Frame) (h : Keeps r₀ s) : Keeps r₀ (s.linkSend lp f) := by
  unfold State.linkSend
  try dsimp -iota -proj only
  repeat' first
    | with_reducible assumption
    | with_reducible apply Keeps.modLport
    | with_reducible apply Keeps.pushFrame
    | split

theorem pumpFrames (lp : Nat) (fs : List Frame) (h : Keeps r₀ s) : Keeps r₀ (s.pumpFrames lp fs) := by
  induction fs generalizing s with
  | nil => exact h
  | cons f fs ih =>
    unfold State.pumpFrames
    split
    · exact ih (Keeps.pushFrame _ _ (Keeps.modLport _ _ h))
    · exact h

theorem pump (lp : Nat) (h : Keeps r₀ s) : Keeps r₀ (s.pump lp) := by
  unfold State.pump
  try dsimp -iota -proj only
  repeat' first
    | with_reducible assumption
    | with_reducible apply Keeps.pumpFrames

theorem floodPorts (except_ : Nat) (f : Frame) (h : Keeps r₀ s) : Keeps r₀ (s.floodPorts except_ f) := by
  unfold State.floodPorts
  try dsimp -iota -proj only
  repeat' first
    | with_reducible assumption
    | with_reducible apply Keeps.linkSend
    | with_reducible apply Keeps.emit
    | (with_reducible apply Keeps.foldl; intro _ _ _)
    | split

theorem sign_eq {bytes : List Byte} {va} (h : Keeps r₀ s) (e : s.sign bytes = (va, t)) : Keeps r₀ t := by
  unfold State.sign at e
  try dsimp -iota -proj only at e
  repeat' first
    | with_reducible assumption
    | with_reducible apply Keeps.skipFree
    | (with_reducible injection e with _ e; subst e)
theorem sign_snd (bytes : List Byte) (h : Keeps r₀ s) : Keeps r₀ (s.sign bytes).2 := sign_eq h Prod.mk.eta.symm

theorem draw_eq {n : Nat} {va} (h : Keeps r₀ s) (e : s.draw n = (va, t)) : Keeps r₀ t := by
  unfold State.draw at e
  try dsimp -iota -proj only at e
  repeat' first
    | with_reducible assumption
    | with_reducible apply Keeps.takeFree_snd
    | (with_reducible injection e with _ e; subst e)
theorem draw_snd (n : Nat) (h : Keeps r₀ s) : Keeps r₀ (s.draw n).2 := draw_eq h Prod.mk.eta.symm

theorem floodNew (rank : Nat) (body : List Byte) (h : Keeps r₀ s) : Keeps r₀ (s.floodNew rank body) := by
  unfold State.floodNew
  try dsimp -iota -proj only
  repeat' first
    | with_reducible assumption
    | with_reducible apply Keeps.modLink
    | with_reducible apply Keeps.floodPorts

theorem sendMgmt (rank : Nat) (id : Nat) (m : MgmtMsg) (h : Keeps r₀ s) : Keeps r₀ (s.sendMgmt rank id m) := by
  unfold State.sendMgmt
  try dsimp -iota -proj only
  repeat' first
    | with_reducible assumption
    | with_reducible apply Keeps.seal_snd
    | with_reducible apply Keeps.linkSend
    | with_reducible apply Keeps.floodNew
    | with_reducible apply Keeps.sign_snd
    | split

theorem mgmt (rank : Nat) (m : MgmtMsg) (h : Keeps r₀ s) : Keeps r₀ (s.mgmt rank m) := by
  unfold State.mgmt
  try dsimp -iota -proj only
  repeat' first
    | with_reducible assumption
    | with_reducible apply Keeps.sendMgmt
    | with_reducible apply Keeps.modLink
    | with_reducible apply Keeps.modMgr

theorem alert (bit : Nat) (h : Keeps r₀ s) : Keeps r₀ (s.alert bit) := by
  unfold State.alert
  try dsimp -iota -proj only
  repeat' first
    | with_reducible assumption
    | with_reducible apply Keeps.modSec

theorem say (o : SessOut) (h : Keeps r₀ s) : Keeps r₀ (s.say o) := by
  unfold State.say
  try dsimp -iota -proj only
  repeat' first
    | with_reducible assumption
    | with_reducible apply Keeps.modSec

theorem sendRetract (p : Nat) (h : Keeps r₀ s) : Keeps r₀ (s.sendRetract p) := by
  unfold State.sendRetract
  try dsimp -iota -proj only
  repeat' first
    | with_reducible assumption
    | with_reducible apply Keeps.alert
    | with_reducible apply Keeps.modPart
    | with_reducible apply Keeps.mgmt
    | split

theorem holdRec (e0 : EvRec) (h : Keeps r₀ s) : Keeps r₀ (s.holdRec e0) := by
  unfold State.holdRec
  try dsimp -iota -proj only
  repeat' first
    | with_reducible assumption
    | with_reducible apply Keeps.modEv

theorem raiseLine (p : Nat) (half : Nat) (stops : Bool) (h : Keeps r₀ s) : Keeps r₀ (s.raiseLine p half stops) := by
  unfold State.raiseLine
  try dsimp -iota -proj only
  repeat' first
    | with_reducible assumption
    | with_reducible apply Keeps.modPart

theorem post (e0 : EvRec) (h : Keeps r₀ s) : Keeps r₀ (s.post e0) := by
  unfold State.post
  try dsimp -iota -proj only
  repeat' first
    | with_reducible assumption
    | with_reducible apply Keeps.holdRec
    | with_reducible apply Keeps.sendRetract
    | with_reducible apply Keeps.raiseLine
    | split

theorem replayEnd (x : Part) (d : Option Divergence) (h : Keeps r₀ s) : Keeps r₀ (s.replayEnd x d) := by
  unfold State.replayEnd
  try dsimp -iota -proj only
  repeat' first
    | with_reducible assumption
    | with_reducible apply Keeps.say
    | with_reducible apply Keeps.modEv
    | split

theorem replayCheck (r : CapRec) (h : Keeps r₀ s) : Keeps r₀ (s.replayCheck r) := by
  unfold State.replayCheck
  try dsimp -iota -proj only
  repeat' first
    | with_reducible assumption
    | with_reducible apply Keeps.replayEnd
    | with_reducible apply Keeps.modEv
    | split

theorem capsuleEv (cause : Nat) (p : Nat) (h : Keeps r₀ s) : Keeps r₀ (s.capsuleEv cause p) := by
  unfold State.capsuleEv
  try dsimp -iota -proj only
  repeat' first
    | with_reducible assumption
    | with_reducible apply Keeps.post

theorem dropStep (part : Nat) (step : W64) (h : Keeps r₀ s) : Keeps r₀ (s.dropStep part step) := by
  unfold State.dropStep
  try dsimp -iota -proj only
  repeat' first
    | with_reducible assumption
    | with_reducible apply Keeps.capsuleEv
    | with_reducible apply Keeps.modEv

theorem record (half : Nat) (type : Nat) (part : Nat) (step : W64) (body : List Byte) (h : Keeps r₀ s) : Keeps r₀ (s.record half type part step body) := by
  unfold State.record
  try dsimp -iota -proj only
  repeat' first
    | with_reducible assumption
    | with_reducible apply Keeps.dropStep
    | with_reducible apply Keeps.replayCheck
    | with_reducible apply Keeps.modEv
    | split

theorem zombie (half : Nat) (obj : Nat) (unit : W32) (epoch : W16) (part : Nat) (masked : Bool) (h : Keeps r₀ s) : Keeps r₀ (s.zombie half obj unit epoch part masked) := by
  unfold State.zombie
  try dsimp -iota -proj only
  repeat' first
    | with_reducible assumption
    | with_reducible apply Keeps.modSyn
    | with_reducible apply Keeps.post
    | split

theorem dropLog (who : Who) (as : List Nat) (h : Keeps r₀ s) : Keeps r₀ (s.dropLog who as) := by
  unfold State.dropLog
  try dsimp -iota -proj only
  repeat' first
    | with_reducible assumption
    | with_reducible apply Keeps.zombie
    | (with_reducible apply Keeps.foldl; intro _ _ _)
    | split

theorem modEcc (a : Nat) (f : EccCnt → EccCnt) (h : Keeps r₀ s) : Keeps r₀ (s.modEcc a f) := by
  unfold State.modEcc
  try dsimp -iota -proj only
  repeat' first
    | with_reducible assumption
    | with_reducible apply Keeps.modDie
    | with_reducible apply Keeps.modCore
    | split

theorem corrected (cw : Nat) (who : Who) (h : Keeps r₀ s) : Keeps r₀ (s.corrected cw who) := by
  unfold State.corrected
  try dsimp -iota -proj only
  repeat' first
    | with_reducible assumption
    | with_reducible apply Keeps.modEcc
    | with_reducible apply Keeps.setErr
    | with_reducible apply Keeps.post
    | split

theorem uncorrectable (cw : Nat) (who : Who) (poisoned : Bool) (partialW : Bool) (chry : Bool) (h : Keeps r₀ s) : Keeps r₀ (s.uncorrectable cw who poisoned partialW chry) := by
  unfold State.uncorrectable
  try dsimp -iota -proj only
  repeat' first
    | with_reducible assumption
    | with_reducible apply Keeps.modEcc
    | with_reducible apply Keeps.modCore
    | with_reducible apply Keeps.post
    | split

theorem wrCw (cw : Nat) (bs : List Byte) (h : Keeps r₀ s) : Keeps r₀ (s.wrCw cw bs) := by
  unfold State.wrCw
  try dsimp -iota -proj only
  repeat' first
    | with_reducible assumption
    | with_reducible apply Keeps.wr8
    | (with_reducible apply Keeps.foldl; intro _ _ _)

theorem cwRead (cw : Nat) (who : Who) (h : Keeps r₀ s) : Keeps r₀ (s.cwRead cw who) := by
  unfold State.cwRead
  try dsimp -iota -proj only
  repeat' first
    | with_reducible assumption
    | with_reducible apply Keeps.corrected
    | with_reducible apply Keeps.uncorrectable
    | with_reducible apply Keeps.skipFree
    | with_reducible apply Keeps.wrCw
    | split

theorem readCw_eq {cw : Nat} {who : Who} {va} (h : Keeps r₀ s) (e : s.readCw cw who = (va, t)) : Keeps r₀ t := by
  unfold State.readCw at e
  try dsimp -iota -proj only at e
  repeat' first
    | with_reducible assumption
    | with_reducible apply Keeps.cwRead
    | (with_reducible injection e with _ e; subst e)
theorem readCw_snd (cw : Nat) (who : Who) (h : Keeps r₀ s) : Keeps r₀ (s.readCw cw who).2 := readCw_eq h Prod.mk.eta.symm

theorem readMem_eq {who : Who} {as : List Nat} {va} (h : Keeps r₀ s) (e : s.readMem who as = (va, t)) : Keeps r₀ t := by
  unfold State.readMem at e
  try dsimp -iota -proj only at e
  repeat' first
    | with_reducible assumption
    | with_reducible apply Keeps.readCw_snd
    | with_reducible apply Keeps.dropLog
    | (with_reducible apply Keeps.foldl_snd; intro _ _ _)
    | (with_reducible injection e with _ e; subst e)
theorem readMem_snd (who : Who) (as : List Nat) (h : Keeps r₀ s) : Keeps r₀ (s.readMem who as).2 := readMem_eq h Prod.mk.eta.symm

theorem cwPoisoned (who : Who) (cw : Nat) (e0 : ErrPat) (poisoned : Bool) (h : Keeps r₀ s) : Keeps r₀ (s.cwPoisoned who cw e0 poisoned) := by
  unfold State.cwPoisoned
  try dsimp -iota -proj only
  repeat' first
    | with_reducible assumption
    | with_reducible apply Keeps.wr8
    | with_reducible apply Keeps.uncorrectable
    | with_reducible apply Keeps.setErr
    | (with_reducible apply Keeps.foldl; intro _ _ _)
    | split

theorem cwWrite (who : Who) (ws : List (Nat × Byte)) (cw : Nat) (h : Keeps r₀ s) : Keeps r₀ (s.cwWrite who ws cw) := by
  unfold State.cwWrite
  try dsimp -iota -proj only
  repeat' first
    | with_reducible assumption
    | with_reducible apply Keeps.setErr
    | with_reducible apply Keeps.corrected
    | with_reducible apply Keeps.cwPoisoned
    | with_reducible apply Keeps.skipFree
    | with_reducible apply Keeps.wrCw
    | split

theorem writeMem (who : Who) (ws : List (Nat × Byte)) (h : Keeps r₀ s) : Keeps r₀ (s.writeMem who ws) := by
  unfold State.writeMem
  try dsimp -iota -proj only
  repeat' first
    | with_reducible assumption
    | with_reducible apply Keeps.dropLog
    | with_reducible apply Keeps.wr8
    | with_reducible apply Keeps.cwWrite
    | (with_reducible apply Keeps.foldl; intro _ _ _)

theorem upset (fs : List PhysFault) (h : Keeps r₀ s) : Keeps r₀ (s.upset fs) := by
  unfold State.upset
  try dsimp -iota -proj only
  repeat' first
    | with_reducible assumption
    | with_reducible apply Keeps.setErr
    | with_reducible apply Keeps.modCore
    | (with_reducible apply Keeps.foldl; intro _ _ _)
    | split

theorem parityWrites (who : Who) (written : List Nat) (fs : List PhysFault) (h : Keeps r₀ s) : Keeps r₀ (s.parityWrites who written fs) := by
  unfold State.parityWrites
  try dsimp -iota -proj only
  repeat' first
    | with_reducible assumption
    | with_reducible apply Keeps.modEcc
    | with_reducible apply Keeps.setErr
    | with_reducible apply Keeps.modCore
    | with_reducible apply Keeps.post
    | (with_reducible apply Keeps.foldl; intro _ _ _)
    | split

theorem streamFault (i : StreamId) (cause : Nat) (q : Nat) (pc : W64) (after : Option QEntry) (h : Keeps r₀ s) : Keeps r₀ (s.streamFault i cause q pc after) := by
  unfold State.streamFault
  try dsimp -iota -proj only
  repeat' first
    | with_reducible assumption
    | with_reducible apply Keeps.setStream
    | with_reducible apply Keeps.post

theorem idle (h : Keeps r₀ s) : Keeps r₀ (s.idle) := by
  unfold State.idle
  try dsimp -iota -proj only
  repeat' first
    | with_reducible assumption
    | with_reducible apply Keeps.modPwr
    | split

theorem postLost (unit : W32) (part : Byte) (n : Nat) (mask : Byte) (h : Keeps r₀ s) : Keeps r₀ (s.postLost unit part n mask) := by
  unfold State.postLost
  try dsimp -iota -proj only
  repeat' first
    | with_reducible assumption
    | with_reducible apply Keeps.post
    | with_reducible apply Keeps.alert
    | with_reducible apply Keeps.modEv
    | split

theorem startHandling (e0 : EvRec) (h : Keeps r₀ s) : Keeps r₀ (s.startHandling e0) := by
  unfold State.startHandling
  try dsimp -iota -proj only
  repeat' first
    | with_reducible assumption
    | with_reducible apply Keeps.modEv
    | with_reducible apply Keeps.modPart
    | (with_reducible apply Keeps.foldl; intro _ _ _)
    | split

theorem acceptRec (x : Nat × Bool) (temp : W16) (volt : W16) (h : Keeps r₀ s) : Keeps r₀ (s.acceptRec x temp volt) := by
  unfold State.acceptRec
  try dsimp -iota -proj only
  repeat' first
    | with_reducible assumption
    | with_reducible apply Keeps.modEv
    | with_reducible apply Keeps.modPwr
    | with_reducible apply Keeps.modSec
    | with_reducible apply Keeps.alert
    | with_reducible apply Keeps.postLost
    | with_reducible apply Keeps.startHandling
    | split

theorem mailTurn (h : Keeps r₀ s) : Keeps r₀ (s.mailTurn) := by
  unfold State.mailTurn
  try dsimp -iota -proj only
  repeat' first
    | with_reducible assumption
    | with_reducible apply Keeps.takeFree_snd
    | with_reducible apply Keeps.acceptRec
    | (with_reducible apply Keeps.foldl; intro _ _ _)
    | split

theorem countScale (part : Nat) (k : Nat) (h : Keeps r₀ s) : Keeps r₀ (s.countScale part k) := by
  unfold State.countScale
  try dsimp -iota -proj only
  repeat' first
    | with_reducible assumption
    | with_reducible apply Keeps.modPart
    | split

theorem postFlags (rec_ : EvRec) (f : Flags) (scale : Bool) (h : Keeps r₀ s) : Keeps r₀ (s.postFlags rec_ f scale) := by
  unfold State.postFlags
  try dsimp -iota -proj only
  repeat' first
    | with_reducible assumption
    | with_reducible apply Keeps.post
    | with_reducible apply Keeps.mailTurn
    | (with_reducible apply Keeps.foldl; intro _ _ _)
    | split

theorem ladderRecord (i : StreamId) (st : Stream) (h : Keeps r₀ s) : Keeps r₀ (s.ladderRecord i st) := by
  unfold State.ladderRecord
  try dsimp -iota -proj only
  repeat' first
    | with_reducible assumption
    | with_reducible apply Keeps.record
    | split

theorem collectFlags (i : StreamId) (inop : Bool) (f : Flags) (scale : Bool) (h : Keeps r₀ s) : Keeps r₀ (s.collectFlags i inop f scale) := by
  unfold State.collectFlags
  try dsimp -iota -proj only
  repeat' first
    | with_reducible assumption
    | with_reducible apply Keeps.ladderRecord
    | with_reducible apply Keeps.modStream
    | with_reducible apply Keeps.countScale
    | split

theorem portTake (i : StreamId) (n : Nat) (h : Keeps r₀ s) : Keeps r₀ (s.portTake i n) := by
  unfold State.portTake
  try dsimp -iota -proj only
  repeat' first
    | with_reducible assumption
    | with_reducible apply Keeps.modCore
    | with_reducible apply Keeps.setStream

theorem portJump (i : StreamId) (h : Keeps r₀ s) : Keeps r₀ (s.portJump i) := by
  unfold State.portJump
  try dsimp -iota -proj only
  repeat' first
    | with_reducible assumption
    | with_reducible apply Keeps.portTake
    | split

theorem issueFault (i : StreamId) (w : W128) (cause : Nat) (h : Keeps r₀ s) : Keeps r₀ (s.issueFault i w cause) := by
  unfold State.issueFault
  try dsimp -iota -proj only
  repeat' first
    | with_reducible assumption
    | with_reducible apply Keeps.streamFault

theorem onTurn (i : StreamId) (eng : Option Engine) (need : Nat) {go : State → State} (hgo : Keeps r₀ (go s)) (h : Keeps r₀ s) :
    Keeps r₀ (s.onTurn i eng need go) := by
  unfold State.onTurn
  dsimp -iota -proj only
  repeat' split
  · exact h
  · exact Keeps.setStream _ _ h
  · exact Keeps.portTake _ _ (Keeps.setStream _ _ h)
  · exact Keeps.portJump _ hgo

theorem enqueue (i : StreamId) (w : W128) (eng : Engine) (p : Plan) (f : Stream → Stream) (h : Keeps r₀ s) : Keeps r₀ (s.enqueue i w eng p f) := by
  unfold State.enqueue
  try dsimp -iota -proj only
  repeat' first
    | with_reducible assumption
    | with_reducible apply Keeps.modCore
    | with_reducible apply Keeps.setStream

theorem issueEng (i : StreamId) (w : W128) (fam : Nat) (op : Nat) (eng : Engine) (enc : Bool) (seq : Bool) (absent : Bool) (p : Plan) (f : Stream → Stream) (h : Keeps r₀ s) : Keeps r₀ (s.issueEng i w fam op eng enc seq absent p f) := by
  unfold State.issueEng
  try dsimp -iota -proj only
  repeat' first
    | with_reducible assumption
    | with_reducible apply Keeps.issueFault
    | with_reducible apply Keeps.enqueue
    | split

theorem issueCtl (i : StreamId) (w : W128) (op need : Nat) (seq loop : Stream → Bool) {eff : State → State} (heff : Keeps r₀ (eff s))
    (h : Keeps r₀ s) : Keeps r₀ (s.issueCtl i w op need seq loop eff) := by
  unfold State.issueCtl
  refine Keeps.onTurn i none _ ?_ h
  dsimp -iota -proj only
  repeat' split
  · exact Keeps.issueFault _ _ _ h
  · exact Keeps.issueFault _ _ _ h
  · exact heff

theorem ctlStep (i : StreamId) (late : Nat) (f : Stream → Stream) (h : Keeps r₀ s) : Keeps r₀ (s.ctlStep i late f) := by
  unfold State.ctlStep
  try dsimp -iota -proj only
  repeat' first
    | with_reducible assumption
    | with_reducible apply Keeps.modStream

theorem opndC_eq {i : StreamId} {w : W128} {va} (h : Keeps r₀ s) (e : s.opndC i w = (va, t)) : Keeps r₀ t := by
  unfold State.opndC at e
  try dsimp -iota -proj only at e
  repeat' first
    | with_reducible assumption
    | with_reducible apply Keeps.readMem_snd
    | (with_reducible injection e with _ e; subst e)
    | with_reducible refine Keeps.readMem_eq ?_ e
    | split at e
theorem opndC_snd (i : StreamId) (w : W128) (h : Keeps r₀ s) : Keeps r₀ (s.opndC i w).2 := opndC_eq h Prod.mk.eta.symm

theorem branch (i : StreamId) (w : W128) (op : Nat) (taken : Stream → Bool) (h : Keeps r₀ s) : Keeps r₀ (s.branch i w op taken) := by
  unfold State.branch
  try dsimp -iota -proj only
  repeat' first
    | with_reducible assumption
    | with_reducible apply Keeps.issueCtl
    | with_reducible apply Keeps.modStream

theorem readShape_eq {i : StreamId} {w : W128} {va} (h : Keeps r₀ s) (e : s.readShape i w = (va, t)) : Keeps r₀ t := by
  unfold State.readShape at e
  try dsimp -iota -proj only at e
  repeat' first
    | with_reducible assumption
    | with_reducible apply Keeps.readMem_snd
    | (with_reducible injection e with _ e; subst e)
theorem readShape_snd (i : StreamId) (w : W128) (h : Keeps r₀ s) : Keeps r₀ (s.readShape i w).2 := readShape_eq h Prod.mk.eta.symm

end Sys2Proof.Machine.Keeps
end

