-- ==== Sys2Proof/Laws/KeepsEngines.lean ====
section
/-! SUPPORT. What the operations of the matrix, pack, vector and stream engines keep (Keeps.lean). -/

namespace Sys2Proof.Machine.Keeps

variable {r₀ s t : State}

theorem bankFault (i : StreamId) (q : QEntry) (h : Keeps r₀ s) : Keeps r₀ (s.bankFault i q) := by
  unfold State.bankFault
  try dsimp -iota -proj only
  repeat' first
    | with_reducible assumption
    | with_reducible apply Keeps.modCore
    | with_reducible apply Keeps.streamFault

theorem lamError (i : StreamId) (q : QEntry) (ue : Bool) (poisoned : Bool) (h : Keeps r₀ s) : Keeps r₀ (s.lamError i q ue poisoned) := by
  unfold State.lamError
  try dsimp -iota -proj only
  repeat' first
    | with_reducible assumption
    | with_reducible apply Keeps.modCore
    | with_reducible apply Keeps.post
    | split

theorem lamRead (i : StreamId) (q : QEntry) (b : Nat) (k : Nat) (write : Bool) (h : Keeps r₀ s) : Keeps r₀ (s.lamRead i q b k write) := by
  unfold State.lamRead
  try dsimp -iota -proj only
  repeat' first
    | with_reducible assumption
    | with_reducible apply Keeps.lamError
    | with_reducible apply Keeps.modCore
    | with_reducible apply Keeps.skipFree
    | split

theorem lamScan (i : StreamId) (q : QEntry) (write : Bool) (h : Keeps r₀ s) : Keeps r₀ (s.lamScan i q write) := by
  unfold State.lamScan
  try dsimp -iota -proj only
  repeat' first
    | with_reducible assumption
    | with_reducible apply Keeps.lamRead
    | (with_reducible apply Keeps.foldl; intro _ _ _)
    | split

theorem mmaOperand_eq {i : StreamId} {q : QEntry} {fs : List PhysFault} {isA : Bool} {addr : W64} {va} (h : Keeps r₀ s) (e : s.mmaOperand i q fs isA addr = (va, t)) : Keeps r₀ t := by
  unfold State.mmaOperand at e
  try dsimp -iota -proj only at e
  repeat' first
    | with_reducible assumption
    | with_reducible apply Keeps.readMem_snd
    | (with_reducible injection e with _ e; subst e)
theorem mmaOperand_snd (i : StreamId) (q : QEntry) (fs : List PhysFault) (isA : Bool) (addr : W64) (h : Keeps r₀ s) : Keeps r₀ (s.mmaOperand i q fs isA addr).2 := mmaOperand_eq h Prod.mk.eta.symm

theorem parityEvent (i : StreamId) (sub : Nat) (q : QEntry) (fs : List PhysFault) (as : List Nat) (h : Keeps r₀ s) : Keeps r₀ (s.parityEvent i sub q fs as) := by
  unfold State.parityEvent
  try dsimp -iota -proj only
  repeat' first
    | with_reducible assumption
    | with_reducible apply Keeps.post
    | (with_reducible apply Keeps.foldl; intro _ _ _)
    | split

theorem parityChain (i : StreamId) (q : QEntry) (fs : List PhysFault) (lo : Nat) (hi : Nat) (h : Keeps r₀ s) : Keeps r₀ (s.parityChain i q fs lo hi) := by
  unfold State.parityChain
  try dsimp -iota -proj only
  repeat' first
    | with_reducible assumption
    | with_reducible apply Keeps.post
    | (with_reducible apply Keeps.foldl; intro _ _ _)
    | split

theorem mmaRep (i : StreamId) (q : QEntry) (fs : List PhysFault) (b : Nat) (j : Nat) (h : Keeps r₀ s) : Keeps r₀ (s.mmaRep i q fs b j) := by
  unfold State.mmaRep
  try dsimp -iota -proj only
  repeat' first
    | with_reducible assumption
    | with_reducible apply Keeps.parityChain
    | with_reducible apply Keeps.modCore
    | with_reducible apply Keeps.mmaOperand_snd
    | with_reducible apply Keeps.parityEvent
    | split

theorem mmaBeats (i : StreamId) (q : QEntry) (fs : List PhysFault) (lo : Nat) (hi : Nat) (h : Keeps r₀ s) : Keeps r₀ (s.mmaBeats i q fs lo hi) := by
  unfold State.mmaBeats
  try dsimp -iota -proj only
  repeat' first
    | with_reducible assumption
    | with_reducible apply Keeps.mmaRep
    | with_reducible apply Keeps.modCore
    | with_reducible apply Keeps.lamScan
    | (with_reducible apply Keeps.foldl; intro _ _ _)
    | split

theorem mmaBank (i : StreamId) (q : QEntry) (h : Keeps r₀ s) : Keeps r₀ (s.mmaBank i q) := by
  unfold State.mmaBank
  try dsimp -iota -proj only
  repeat' first
    | with_reducible assumption
    | with_reducible apply Keeps.modCore
    | split

theorem drain (i : StreamId) (q : QEntry) (us : List Upset) (h : Keeps r₀ s) : Keeps r₀ (s.drain i q us) := by
  unfold State.drain
  try dsimp -iota -proj only
  repeat' first
    | with_reducible assumption
    | with_reducible apply Keeps.lamScan
    | with_reducible apply Keeps.skipFree
    | with_reducible apply Keeps.modCore
    | with_reducible apply Keeps.parityWrites
    | with_reducible apply Keeps.writeMem
    | split

theorem packSkipped (i : StreamId) (q : QEntry) (h : Keeps r₀ s) : Keeps r₀ (s.packSkipped i q) := by
  unfold State.packSkipped
  try dsimp -iota -proj only
  repeat' first
    | with_reducible assumption
    | with_reducible apply Keeps.modCore

theorem recordDigest (half : Nat) (r : DigestRec) (h : Keeps r₀ s) : Keeps r₀ (s.recordDigest half r) := by
  unfold State.recordDigest
  try dsimp -iota -proj only
  repeat' first
    | with_reducible assumption
    | with_reducible apply Keeps.modEv
    | with_reducible apply Keeps.record
    | split

theorem verdict (key : Nat) (d : Drain) (h : Keeps r₀ s) : Keeps r₀ (s.verdict key d) := by
  unfold State.verdict
  try dsimp -iota -proj only
  repeat' first
    | with_reducible assumption
    | with_reducible apply Keeps.modCore
    | with_reducible apply Keeps.modStream
    | with_reducible apply Keeps.post
    | with_reducible apply Keeps.collectFlags
    | with_reducible apply Keeps.postFlags
    | with_reducible apply Keeps.recordDigest
    | split

theorem issueVec (i : StreamId) (w : W128) (op : Nat) (h : Keeps r₀ s) : Keeps r₀ (s.issueVec i w op) := by
  unfold State.issueVec
  try dsimp -iota -proj only
  repeat' first
    | with_reducible assumption
    | with_reducible apply Keeps.onTurn
    | with_reducible apply Keeps.issueEng

theorem lanes_eq {i : StreamId} {q : QEntry} {fs : List PhysFault} {fmt : Nat} {a : W64} {bc : Bool} {scale : Nat → Option Nat} {va} (h : Keeps r₀ s) (e : s.lanes i q fs fmt a bc scale = (va, t)) : Keeps r₀ t := by
  unfold State.lanes at e
  try dsimp -iota -proj only at e
  repeat' first
    | with_reducible assumption
    | with_reducible apply Keeps.readMem_snd
    | with_reducible apply Keeps.parityEvent
    | (with_reducible injection e with _ e; subst e)
theorem lanes_snd (i : StreamId) (q : QEntry) (fs : List PhysFault) (fmt : Nat) (a : W64) (bc : Bool) (scale : Nat → Option Nat) (h : Keeps r₀ s) : Keeps r₀ (s.lanes i q fs fmt a bc scale).2 := lanes_eq h Prod.mk.eta.symm

theorem readScales_eq {i : StreamId} {q : QEntry} {fs : List PhysFault} {a : W64} {b : Nat} {va} (h : Keeps r₀ s) (e : s.readScales i q fs a b = (va, t)) : Keeps r₀ t := by
  unfold State.readScales at e
  try dsimp -iota -proj only at e
  repeat' first
    | with_reducible assumption
    | with_reducible apply Keeps.readMem_snd
    | with_reducible apply Keeps.parityEvent
    | (with_reducible injection e with _ e; subst e)
    | with_reducible refine Keeps.readMem_eq ?_ e
    | split at e
theorem readScales_snd (i : StreamId) (q : QEntry) (fs : List PhysFault) (a : W64) (b : Nat) (h : Keeps r₀ s) : Keeps r₀ (s.readScales i q fs a b).2 := readScales_eq h Prod.mk.eta.symm

theorem vecRep_eq {i : StreamId} {q : QEntry} {fs : List PhysFault} {j : Nat} {va} (h : Keeps r₀ s) (e : s.vecRep i q fs j = (va, t)) : Keeps r₀ t := by
  unfold State.vecRep at e
  try dsimp -iota -proj only at e
  repeat' first
    | with_reducible assumption
    | with_reducible apply Keeps.readScales_snd
    | with_reducible apply Keeps.lanes_snd
    | with_reducible apply Keeps.parityWrites
    | with_reducible apply Keeps.writeMem
    | (with_reducible injection e with _ e; subst e)
    | with_reducible refine Keeps.readScales_eq ?_ e
    | with_reducible refine Keeps.lanes_eq ?_ e
    | split at e
    | split
theorem vecRep_snd (i : StreamId) (q : QEntry) (fs : List PhysFault) (j : Nat) (h : Keeps r₀ s) : Keeps r₀ (s.vecRep i q fs j).2 := vecRep_eq h Prod.mk.eta.symm

theorem accRep (i : StreamId) (q : QEntry) (fs : List PhysFault) (j : Nat) (h : Keeps r₀ s) : Keeps r₀ (s.accRep i q fs j) := by
  unfold State.accRep
  try dsimp -iota -proj only
  repeat' first
    | with_reducible assumption
    | with_reducible apply Keeps.lanes_snd
    | with_reducible apply Keeps.modCore

theorem readWords_eq {i : StreamId} {q : QEntry} {fs : List PhysFault} {a : W64} {va} (h : Keeps r₀ s) (e : s.readWords i q fs a = (va, t)) : Keeps r₀ t := by
  unfold State.readWords at e
  try dsimp -iota -proj only at e
  repeat' first
    | with_reducible assumption
    | with_reducible apply Keeps.readMem_snd
    | with_reducible apply Keeps.parityEvent
    | (with_reducible injection e with _ e; subst e)
theorem readWords_snd (i : StreamId) (q : QEntry) (fs : List PhysFault) (a : W64) (h : Keeps r₀ s) : Keeps r₀ (s.readWords i q fs a).2 := readWords_eq h Prod.mk.eta.symm

theorem lwst_eq {i : StreamId} {q : QEntry} {fs : List PhysFault} {va} (h : Keeps r₀ s) (e : s.lwst i q fs = (va, t)) : Keeps r₀ t := by
  unfold State.lwst at e
  try dsimp -iota -proj only at e
  repeat' first
    | with_reducible assumption
    | with_reducible apply Keeps.skipFree
    | with_reducible apply Keeps.parityWrites
    | with_reducible apply Keeps.writeMem
    | (with_reducible injection e with _ e; subst e)
theorem lwst_snd (i : StreamId) (q : QEntry) (fs : List PhysFault) (h : Keeps r₀ s) : Keeps r₀ (s.lwst i q fs).2 := lwst_eq h Prod.mk.eta.symm

theorem finishAll_eq {i : StreamId} {q : QEntry} {fs : List PhysFault} {va} (h : Keeps r₀ s) (e : s.finishAll i q fs = (va, t)) : Keeps r₀ t := by
  unfold State.finishAll at e
  try dsimp -iota -proj only at e
  repeat' first
    | with_reducible assumption
    | with_reducible apply Keeps.readMem_snd
    | with_reducible apply Keeps.parityEvent
    | with_reducible apply Keeps.parityWrites
    | with_reducible apply Keeps.writeMem
    | (with_reducible injection e with _ e; subst e)
theorem finishAll_snd (i : StreamId) (q : QEntry) (fs : List PhysFault) (h : Keeps r₀ s) : Keeps r₀ (s.finishAll i q fs).2 := finishAll_eq h Prod.mk.eta.symm

theorem vecStart_eq {i : StreamId} {q : QEntry} {fs : List PhysFault} {va} (h : Keeps r₀ s) (e : s.vecStart i q fs = (va, t)) : Keeps r₀ t := by
  unfold State.vecStart at e
  try dsimp -iota -proj only at e
  repeat' first
    | with_reducible assumption
    | with_reducible apply Keeps.vecRep_snd
    | with_reducible apply Keeps.accRep
    | with_reducible apply Keeps.readWords_snd
    | with_reducible apply Keeps.modCore
    | with_reducible apply Keeps.lwst_snd
    | with_reducible apply Keeps.finishAll_snd
    | (with_reducible apply Keeps.foldl; intro _ _ _)
    | (with_reducible injection e with _ e; subst e)
    | with_reducible refine Keeps.vecRep_eq ?_ e
    | with_reducible refine Keeps.readWords_eq ?_ e
    | with_reducible refine Keeps.lwst_eq ?_ e
    | with_reducible refine Keeps.finishAll_eq ?_ e
    | (with_reducible refine Keeps.foldl_eq ?_ ?_ e; intro _ _ _)
    | split at e
theorem vecStart_snd (i : StreamId) (q : QEntry) (fs : List PhysFault) (h : Keeps r₀ s) : Keeps r₀ (s.vecStart i q fs).2 := vecStart_eq h Prod.mk.eta.symm

theorem readDesc_eq {i : StreamId} {a : W64} {va} (h : Keeps r₀ s) (e : s.readDesc i a = (va, t)) : Keeps r₀ t := by
  unfold State.readDesc at e
  try dsimp -iota -proj only at e
  repeat' first
    | with_reducible assumption
    | with_reducible apply Keeps.readMem_snd
    | with_reducible refine Keeps.readMem_eq ?_ e
theorem readDesc_snd (i : StreamId) (a : W64) (h : Keeps r₀ s) : Keeps r₀ (s.readDesc i a).2 := readDesc_eq h Prod.mk.eta.symm

theorem issueStrm (i : StreamId) (w : W128) (op : Nat) (h : Keeps r₀ s) : Keeps r₀ (s.issueStrm i w op) := by
  unfold State.issueStrm
  try dsimp -iota -proj only
  repeat' first
    | with_reducible assumption
    | with_reducible apply Keeps.onTurn
    | with_reducible apply Keeps.readDesc_snd
    | with_reducible apply Keeps.issueEng
    | intro _
    | split

theorem boundsRegs (i : StreamId) (q : QEntry) (a : Nat) (cause : Nat) (h : Keeps r₀ s) : Keeps r₀ (s.boundsRegs i q a cause) := by
  unfold State.boundsRegs
  try dsimp -iota -proj only
  repeat' first
    | with_reducible assumption
    | with_reducible apply Keeps.modCore

theorem boundsEv (i : StreamId) (q : QEntry) (a : Nat) (cause : Nat) (n : Nat) (h : Keeps r₀ s) : Keeps r₀ (s.boundsEv i q a cause n) := by
  unfold State.boundsEv
  try dsimp -iota -proj only
  repeat' first
    | with_reducible assumption
    | with_reducible apply Keeps.post

theorem boundsUnit (unit : W32) (part : Nat) (bad : List (Nat × Nat)) (h : Keeps r₀ s) : Keeps r₀ (s.boundsUnit unit part bad) := by
  unfold State.boundsUnit
  try dsimp -iota -proj only
  repeat' first
    | with_reducible assumption
    | with_reducible apply Keeps.post
    | split

theorem groupRead_eq {who : Who} {shared : List Nat} {as : List Nat} {va} (h : Keeps r₀ s) (e : s.groupRead who shared as = (va, t)) : Keeps r₀ t := by
  unfold State.groupRead at e
  try dsimp -iota -proj only at e
  repeat' first
    | with_reducible assumption
    | with_reducible apply Keeps.readMem_snd
    | (with_reducible injection e with _ e; subst e)
theorem groupRead_snd (who : Who) (shared : List Nat) (as : List Nat) (h : Keeps r₀ s) : Keeps r₀ (s.groupRead who shared as).2 := groupRead_eq h Prod.mk.eta.symm

theorem groupWrite (who : Who) (shared : List Nat) (had : List Nat) (ws : List (Nat × Byte)) (h : Keeps r₀ s) : Keeps r₀ (s.groupWrite who shared had ws) := by
  unfold State.groupWrite
  try dsimp -iota -proj only
  repeat' first
    | with_reducible assumption
    | with_reducible apply Keeps.wr8
    | with_reducible apply Keeps.writeMem
    | with_reducible apply Keeps.setErr
    | (with_reducible apply Keeps.foldl; intro _ _ _)
    | split

theorem moveRep_eq {i : StreamId} {q : QEntry} {fs : List PhysFault} {j : Nat} {old : List (Nat × Byte)} {va vb} (h : Keeps r₀ s) (e : s.moveRep i q fs j old = (va, vb, t)) : Keeps r₀ t := by
  unfold State.moveRep at e
  try dsimp -iota -proj only at e
  repeat' first
    | with_reducible assumption
    | with_reducible apply Keeps.groupRead_snd
    | with_reducible apply Keeps.skipFree
    | with_reducible apply Keeps.parityWrites
    | with_reducible apply Keeps.groupWrite
    | with_reducible apply Keeps.modCore
    | (with_reducible injection e with _ e; with_reducible injection e with _ e; subst e)
    | with_reducible refine Keeps.groupRead_eq ?_ e
    | split at e
    | split
theorem moveRep_snd (i : StreamId) (q : QEntry) (fs : List PhysFault) (j : Nat) (old : List (Nat × Byte)) (h : Keeps r₀ s) : Keeps r₀ (s.moveRep i q fs j old).2.2 := moveRep_eq h snd3

theorem strmRep (i : StreamId) (id : Nat) (fs : List PhysFault) (h : Keeps r₀ s) : Keeps r₀ (s.strmRep i id fs) := by
  unfold State.strmRep
  try dsimp -iota -proj only
  repeat' first
    | with_reducible assumption
    | with_reducible apply Keeps.moveRep_snd
    | with_reducible apply Keeps.modStream
    | with_reducible apply Keeps.boundsRegs
    | with_reducible apply Keeps.boundsEv
    | split

theorem strmRun (i : StreamId) (r : Running) (fs : List PhysFault) (h : Keeps r₀ s) : Keeps r₀ (s.strmRun i r fs) := by
  unfold State.strmRun
  try dsimp -iota -proj only
  repeat' first
    | with_reducible assumption
    | with_reducible apply Keeps.strmRep
    | (with_reducible apply Keeps.foldl; intro _ _ _)

theorem strmGoOn (i : StreamId) (fs : List PhysFault) (h : Keeps r₀ s) : Keeps r₀ (s.strmGoOn i fs) := by
  unfold State.strmGoOn
  try dsimp -iota -proj only
  repeat' first
    | with_reducible assumption
    | with_reducible apply Keeps.strmRun
    | (with_reducible apply Keeps.foldl; intro _ _ _)
    | split

theorem strmStart (i : StreamId) (q : QEntry) (fs : List PhysFault) (h : Keeps r₀ s) : Keeps r₀ (s.strmStart i q fs) := by
  unfold State.strmStart
  try dsimp -iota -proj only
  repeat' first
    | with_reducible assumption
    | with_reducible apply Keeps.modStream
    | with_reducible apply Keeps.strmRun
    | with_reducible apply Keeps.modCore
    | split

end Sys2Proof.Machine.Keeps
end

