-- ==== Sys2Proof/Laws/KeepsNets.lean ====
section
/-! SUPPORT. What the operations of links, sync objects and the exchange engines keep (Keeps.lean). -/

namespace Sys2Proof.Machine.Keeps

variable {r₀ s t : State}

theorem cfault (die : Nat) (part : Nat) (code : Nat) (rank : Nat) (coll : Nat) (h : Keeps r₀ s) : Keeps r₀ (s.cfault die part code rank coll) := by
  unfold State.cfault
  try dsimp -iota -proj only
  repeat' first
    | with_reducible assumption
    | with_reducible apply Keeps.modDie
    | with_reducible apply Keeps.post

theorem sendX (die : Nat) (part : Nat) (drank : Nat) (p : XPkt) (h : Keeps r₀ s) : Keeps r₀ (s.sendX die part drank p) := by
  unfold State.sendX
  try dsimp -iota -proj only
  repeat' first
    | with_reducible assumption
    | with_reducible apply Keeps.modLink
    | with_reducible apply Keeps.cfault
    | with_reducible apply Keeps.seal_snd
    | with_reducible apply Keeps.linkSend
    | split

theorem sendSync (r : SyncReq) (h : Keeps r₀ s) : Keeps r₀ (s.sendSync r) := by
  unfold State.sendSync
  try dsimp -iota -proj only
  repeat' first
    | with_reducible assumption
    | with_reducible apply Keeps.modSyn

theorem completionWrite (i : StreamId) (inop : Bool) (r : SyncReq) (h : Keeps r₀ s) : Keeps r₀ (s.completionWrite i inop r) := by
  unfold State.completionWrite
  try dsimp -iota -proj only
  repeat' first
    | with_reducible assumption
    | with_reducible apply Keeps.modStream
    | with_reducible apply Keeps.sendSync
    | split

theorem latch (obj : Nat) (i : StreamId) (h : Keeps r₀ s) : Keeps r₀ (s.latch obj i) := by
  unfold State.latch
  try dsimp -iota -proj only
  repeat' first
    | with_reducible assumption
    | with_reducible apply Keeps.modStream
    | split

theorem latchAll (obj : Nat) (h : Keeps r₀ s) : Keeps r₀ (s.latchAll obj) := by
  unfold State.latchAll
  try dsimp -iota -proj only
  repeat' first
    | with_reducible assumption
    | with_reducible apply Keeps.latch
    | (with_reducible apply Keeps.foldl; intro _ _ _)

theorem settlePower (h : Keeps r₀ s) : Keeps r₀ (s.settlePower) := by
  unfold State.settlePower
  try dsimp -iota -proj only
  repeat' first
    | with_reducible assumption
    | with_reducible apply Keeps.modPwr

theorem wakeCore (key : Nat) (h : Keeps r₀ s) : Keeps r₀ (s.wakeCore key) := by
  unfold State.wakeCore
  try dsimp -iota -proj only
  repeat' first
    | with_reducible assumption
    | with_reducible apply Keeps.modPwr
    | with_reducible apply Keeps.modCore
    | split

theorem wakeWaiters (obj : Nat) (h : Keeps r₀ s) : Keeps r₀ (s.wakeWaiters obj) := by
  unfold State.wakeWaiters
  try dsimp -iota -proj only
  repeat' first
    | with_reducible assumption
    | with_reducible apply Keeps.wakeCore
    | (with_reducible apply Keeps.foldl; intro _ _ _)
    | split

theorem changeObj (obj : Nat) (f : SyncObj → SyncObj) (h : Keeps r₀ s) : Keeps r₀ (s.changeObj obj f) := by
  unfold State.changeObj
  try dsimp -iota -proj only
  repeat' first
    | with_reducible assumption
    | with_reducible apply Keeps.modObj
    | with_reducible apply Keeps.latchAll
    | with_reducible apply Keeps.wakeWaiters
    | split

theorem mirrorTo (r : SyncReq) (m : Nat) (p : XPkt) (h : Keeps r₀ s) : Keeps r₀ (s.mirrorTo r m p) := by
  unfold State.mirrorTo
  try dsimp -iota -proj only
  repeat' first
    | with_reducible assumption
    | with_reducible apply Keeps.sendX
    | with_reducible apply Keeps.modSyn

theorem mirrorOut (r : SyncReq) (h : Keeps r₀ s) : Keeps r₀ (s.mirrorOut r) := by
  unfold State.mirrorOut
  try dsimp -iota -proj only
  repeat' first
    | with_reducible assumption
    | with_reducible apply Keeps.mirrorTo
    | (with_reducible apply Keeps.foldl; intro _ _ _)
    | split

theorem faddReturn (r : SyncReq) (old : W32) (h : Keeps r₀ s) : Keeps r₀ (s.faddReturn r old) := by
  unfold State.faddReturn
  try dsimp -iota -proj only
  repeat' first
    | with_reducible assumption
    | with_reducible apply Keeps.modStream
    | with_reducible apply Keeps.writeMem
    | split

theorem syncApply (r : SyncReq) (h : Keeps r₀ s) : Keeps r₀ (s.syncApply r) := by
  unfold State.syncApply
  try dsimp -iota -proj only
  repeat' first
    | with_reducible assumption
    | with_reducible apply Keeps.faddReturn
    | with_reducible apply Keeps.zombie
    | with_reducible apply Keeps.changeObj
    | with_reducible apply Keeps.mirrorOut
    | split

theorem unitArrives (half : Nat) (unit : W32) (h : Keeps r₀ s) : Keeps r₀ (s.unitArrives half unit) := by
  unfold State.unitArrives
  try dsimp -iota -proj only
  repeat' first
    | with_reducible assumption
    | with_reducible apply Keeps.syncApply
    | with_reducible apply Keeps.modSyn
    | (with_reducible apply Keeps.foldl; intro _ _ _)

theorem issueXch (i : StreamId) (w : W128) (op : Nat) (h : Keeps r₀ s) : Keeps r₀ (s.issueXch i w op) := by
  unfold State.issueXch
  try dsimp -iota -proj only
  repeat' first
    | with_reducible assumption
    | with_reducible apply Keeps.onTurn
    | with_reducible apply Keeps.issueEng

theorem dmaRead_eq {who : Who} {unit : W32} {a : Nat} {n : Nat} {va} (h : Keeps r₀ s) (e : s.dmaRead who unit a n = (va, t)) : Keeps r₀ t := by
  unfold State.dmaRead at e
  try dsimp -iota -proj only at e
  repeat' first
    | with_reducible assumption
    | with_reducible apply Keeps.readMem_snd
    | with_reducible apply Keeps.boundsUnit
    | (with_reducible injection e with _ e; subst e)
theorem dmaRead_snd (who : Who) (unit : W32) (a : Nat) (n : Nat) (h : Keeps r₀ s) : Keeps r₀ (s.dmaRead who unit a n).2 := dmaRead_eq h Prod.mk.eta.symm

theorem dmaWrite (who : Who) (unit : W32) (a : Nat) (vs : List Byte) (fs : List PhysFault) (h : Keeps r₀ s) : Keeps r₀ (s.dmaWrite who unit a vs fs) := by
  unfold State.dmaWrite
  try dsimp -iota -proj only
  repeat' first
    | with_reducible assumption
    | with_reducible apply Keeps.boundsUnit
    | with_reducible apply Keeps.parityWrites
    | with_reducible apply Keeps.writeMem

theorem rsigWrite (die : Nat) (part : Nat) (step : W64) (obj : Nat) (h : Keeps r₀ s) : Keeps r₀ (s.rsigWrite die part step obj) := by
  unfold State.rsigWrite
  try dsimp -iota -proj only
  repeat' first
    | with_reducible assumption
    | with_reducible apply Keeps.sendSync
    | split

theorem settle (i : StreamId) (id : Nat) (h : Keeps r₀ s) : Keeps r₀ (s.settle i id) := by
  unfold State.settle
  try dsimp -iota -proj only
  repeat' first
    | with_reducible assumption
    | with_reducible apply Keeps.modStream
    | split

theorem pumpSwarm_snd (die credit n : Nat) (w : Swarm) (h : Keeps r₀ s) : Keeps r₀ (s.pumpSwarm die credit n w).2 := by
  induction n generalizing s w with
  | zero => exact h
  | succ n ih =>
    unfold State.pumpSwarm
    split
    · exact h
    · split
      · exact h
      · exact ih _ (Keeps.foldl (fun _ _ k => Keeps.sendX _ _ _ _ k) h _)

theorem putSwarm (die : Nat) (k : Nat) (w : Swarm) (h : Keeps r₀ s) : Keeps r₀ (s.putSwarm die k w) := by
  unfold State.putSwarm
  try dsimp -iota -proj only
  repeat' first
    | with_reducible assumption
    | with_reducible apply Keeps.pumpSwarm_snd
    | with_reducible apply Keeps.modDie
    | with_reducible apply Keeps.settle
    | with_reducible apply Keeps.rsigWrite
    | split

theorem feedSwarm (die : Nat) (f : Swarm → Bool) (new : Swarm) (p : XPkt) (h : Keeps r₀ s) : Keeps r₀ (s.feedSwarm die f new p) := by
  unfold State.feedSwarm
  try dsimp -iota -proj only
  repeat' first
    | with_reducible assumption
    | with_reducible apply Keeps.putSwarm
    | with_reducible apply Keeps.modDie
    | split

theorem xchSobj (i : StreamId) (q : QEntry) (h : Keeps r₀ s) : Keeps r₀ (s.xchSobj i q) := by
  unfold State.xchSobj
  try dsimp -iota -proj only
  repeat' first
    | with_reducible assumption
    | with_reducible apply Keeps.sendSync
    | split

theorem ringWrite (die : Nat) (ch : Nat) (x : PDesc) (h : Keeps r₀ s) : Keeps r₀ (s.ringWrite die ch x) := by
  unfold State.ringWrite
  try dsimp -iota -proj only
  repeat' first
    | with_reducible assumption
    | with_reducible apply Keeps.modDie
    | with_reducible apply Keeps.writeMem

theorem refill (die : Nat) (ch : Nat) (h : Keeps r₀ s) : Keeps r₀ (s.refill die ch) := by
  unfold State.refill
  try dsimp -iota -proj only
  repeat' first
    | with_reducible assumption
    | with_reducible apply Keeps.ringWrite
    | with_reducible apply Keeps.modDie
    | (with_reducible apply Keeps.foldl; intro _ _ _)

theorem pushDescs (die : Nat) (ch : Nat) (ds : List PDesc) (h : Keeps r₀ s) : Keeps r₀ (s.pushDescs die ch ds) := by
  unfold State.pushDescs
  try dsimp -iota -proj only
  repeat' first
    | with_reducible assumption
    | with_reducible apply Keeps.refill
    | with_reducible apply Keeps.modDie

theorem queueX (die : Nat) (part : Nat) (drank : Nat) (p : XPkt) (h : Keeps r₀ s) : Keeps r₀ (s.queueX die part drank p) := by
  unfold State.queueX
  try dsimp -iota -proj only
  repeat' first
    | with_reducible assumption
    | with_reducible apply Keeps.pushDescs

theorem addGather (i : StreamId) (q : QEntry) (part : Nat) (offs : List Nat) (h : Keeps r₀ s) : Keeps r₀ (s.addGather i q part offs) := by
  unfold State.addGather
  try dsimp -iota -proj only
  repeat' first
    | with_reducible assumption
    | with_reducible apply Keeps.modDie
    | split

theorem gatherDie (die : Nat) (h : Keeps r₀ s) : Keeps r₀ (s.gatherDie die) := by
  unfold State.gatherDie
  try dsimp -iota -proj only
  repeat' first
    | with_reducible assumption
    | with_reducible apply Keeps.settle
    | with_reducible apply Keeps.rsigWrite
    | with_reducible apply Keeps.modDie
    | (with_reducible apply Keeps.foldl; intro _ _ _)
    | split

theorem gatherAll (h : Keeps r₀ s) : Keeps r₀ (s.gatherAll) := by
  unfold State.gatherAll
  try dsimp -iota -proj only
  repeat' first
    | with_reducible assumption
    | with_reducible apply Keeps.gatherDie
    | (with_reducible apply Keeps.foldl; intro _ _ _)

theorem xchStart (i : StreamId) (q : QEntry) (h : Keeps r₀ s) : Keeps r₀ (s.xchStart i q) := by
  unfold State.xchStart
  try dsimp -iota -proj only
  repeat' first
    | with_reducible assumption
    | with_reducible apply Keeps.settle
    | with_reducible apply Keeps.cfault
    | with_reducible apply Keeps.xchSobj
    | with_reducible apply Keeps.rsigWrite
    | with_reducible apply Keeps.pushDescs
    | with_reducible apply Keeps.modDie
    | with_reducible apply Keeps.gatherAll
    | with_reducible apply Keeps.addGather
    | split

theorem fetchOne (die : Nat) (ch : Nat) (h : Keeps r₀ s) : Keeps r₀ (s.fetchOne die ch) := by
  unfold State.fetchOne
  try dsimp -iota -proj only
  repeat' first
    | with_reducible assumption
    | with_reducible apply Keeps.modDie
    | with_reducible apply Keeps.readMem_snd
    | split

theorem descSend (die : Nat) (r : List Byte) (x : PDesc) (swarm : Bool) (step : W64) (p : XPkt) (h : Keeps r₀ s) : Keeps r₀ (s.descSend die r x swarm step p) := by
  unfold State.descSend
  try dsimp -iota -proj only
  repeat' first
    | with_reducible assumption
    | with_reducible apply Keeps.sendX
    | with_reducible apply Keeps.putSwarm
    | with_reducible apply Keeps.feedSwarm
    | split

theorem readRows_eq {who : Who} {unit : W32} {x : PDesc} {va} (h : Keeps r₀ s) (e : s.readRows who unit x = (va, t)) : Keeps r₀ t := by
  unfold State.readRows at e
  try dsimp -iota -proj only at e
  repeat' first
    | with_reducible assumption
    | with_reducible apply Keeps.dmaRead_snd
    | with_reducible refine Keeps.dmaRead_eq ?_ e
    | (with_reducible refine Keeps.foldl_eq ?_ ?_ e; intro _ _ _)
theorem readRows_snd (who : Who) (unit : W32) (x : PDesc) (h : Keeps r₀ s) : Keeps r₀ (s.readRows who unit x).2 := readRows_eq h Prod.mk.eta.symm

theorem inputParity (unit : W32) (x : PDesc) (fs : List PhysFault) (h : Keeps r₀ s) : Keeps r₀ (s.inputParity unit x fs) := by
  unfold State.inputParity
  try dsimp -iota -proj only
  repeat' first
    | with_reducible assumption
    | with_reducible apply Keeps.post
    | (with_reducible apply Keeps.foldl; intro _ _ _)
    | split

theorem serveX (die : Nat) (x : PDesc) (data : Bool) (swarm : Bool) (fs : List PhysFault) (h : Keeps r₀ s) : Keeps r₀ (s.serveX die x data swarm fs) := by
  unfold State.serveX
  try dsimp -iota -proj only
  repeat' first
    | with_reducible assumption
    | with_reducible apply Keeps.descSend
    | with_reducible apply Keeps.cfault
    | with_reducible apply Keeps.readRows_snd
    | with_reducible apply Keeps.inputParity
    | with_reducible apply Keeps.sendSync
    | with_reducible apply Keeps.settle
    | split

theorem stale (die : Nat) (part : Nat) (p : XPkt) (h : Keeps r₀ s) : Keeps r₀ (s.stale die part p) := by
  unfold State.stale
  try dsimp -iota -proj only
  repeat' first
    | with_reducible assumption
    | with_reducible apply Keeps.modDie
    | with_reducible apply Keeps.post
    | split

theorem takePkt (part : Nat) (p : XPkt) (h : Keeps r₀ s) : Keeps r₀ (s.takePkt part p) := by
  unfold State.takePkt
  try dsimp -iota -proj only
  repeat' first
    | with_reducible assumption
    | with_reducible apply Keeps.modLink

theorem packet (die part : Nat) (p : XPkt) {go : W64 → List Byte → State → State}
    (hgo : ∀ step x t, Keeps r₀ t → Keeps r₀ (go step x t)) (h : Keeps r₀ s) : Keeps r₀ (s.packet die part p go) := by
  have h1 := Keeps.takePkt part p h
  unfold State.packet
  dsimp -iota -proj only
  repeat' split
  · exact h
  · exact Keeps.stale _ _ _ h1
  · exact Keeps.cfault _ _ _ _ _ h1
  · exact hgo _ _ _ h1

theorem landBytes_eq {die : Nat} {part : Nat} {coll : Nat} {a : Nat} {bs : List Byte} {fs : List PhysFault} {va} (h : Keeps r₀ s) (e : s.landBytes die part coll a bs fs = (va, t)) : Keeps r₀ t := by
  unfold State.landBytes at e
  try dsimp -iota -proj only at e
  repeat' first
    | with_reducible assumption
    | with_reducible apply Keeps.dmaWrite
    | with_reducible apply Keeps.cfault
    | (with_reducible injection e with _ e; subst e)
    | split at e
theorem landBytes_snd (die : Nat) (part : Nat) (coll : Nat) (a : Nat) (bs : List Byte) (fs : List PhysFault) (h : Keeps r₀ s) : Keeps r₀ (s.landBytes die part coll a bs fs).2 := landBytes_eq h Prod.mk.eta.symm

theorem credited (f : Swarm → Bool) (rank : Nat) (h : Keeps r₀ s) : Keeps r₀ (s.credited f rank) := by
  unfold State.credited
  try dsimp -iota -proj only
  repeat' first
    | with_reducible assumption
    | with_reducible apply Keeps.putSwarm
    | split

theorem modRx (die : Nat) (new : RxXfer) (f : RxXfer → RxXfer) (h : Keeps r₀ s) : Keeps r₀ (s.modRx die new f) := by
  unfold State.modRx
  try dsimp -iota -proj only
  repeat' first
    | with_reducible assumption
    | with_reducible apply Keeps.modDie

theorem rxChunk (die : Nat) (part : Nat) (r : List Byte) (step : W64) (p : XPkt) (h : Keeps r₀ s) : Keeps r₀ (s.rxChunk die part r step p) := by
  unfold State.rxChunk
  try dsimp -iota -proj only
  repeat' first
    | with_reducible assumption
    | with_reducible apply Keeps.modRx
    | with_reducible apply Keeps.queueX
    | with_reducible apply Keeps.rsigWrite
    | with_reducible apply Keeps.post
    | split

theorem readAcc_eq {r : List Byte} {c : OwnChunk} {va} (h : Keeps r₀ s) (e : s.readAcc r c = (va, t)) : Keeps r₀ t := by
  unfold State.readAcc at e
  try dsimp -iota -proj only at e
  repeat' first
    | with_reducible assumption
    | with_reducible apply Keeps.readMem_snd
    | (with_reducible injection e with _ e; subst e)
    | with_reducible refine Keeps.readMem_eq ?_ e
    | split at e
theorem readAcc_snd (r : List Byte) (c : OwnChunk) (h : Keeps r₀ s) : Keeps r₀ (s.readAcc r c).2 := readAcc_eq h Prod.mk.eta.symm

theorem writeAcc (r : List Byte) (c : OwnChunk) (acc : List ℤ) (fs : List PhysFault) (h : Keeps r₀ s) : Keeps r₀ (s.writeAcc r c acc fs) := by
  unfold State.writeAcc
  try dsimp -iota -proj only
  repeat' first
    | with_reducible assumption
    | with_reducible apply Keeps.parityWrites
    | with_reducible apply Keeps.writeMem

theorem ownerParity (part : Nat) (key : Nat) (fs : List PhysFault) (as : List Nat) (h : Keeps r₀ s) : Keeps r₀ (s.ownerParity part key fs as) := by
  unfold State.ownerParity
  try dsimp -iota -proj only
  repeat' first
    | with_reducible assumption
    | with_reducible apply Keeps.post
    | (with_reducible apply Keeps.foldl; intro _ _ _)
    | split

theorem addContrib_eq {die : Nat} {r : List Byte} {c : OwnChunk} {p : XPkt} {bad : List Bool} {fs : List PhysFault} {va} (h : Keeps r₀ s) (e : s.addContrib die r c p bad fs = (va, t)) : Keeps r₀ t := by
  unfold State.addContrib at e
  try dsimp -iota -proj only at e
  repeat' first
    | with_reducible assumption
    | with_reducible apply Keeps.cfault
    | with_reducible apply Keeps.readAcc_snd
    | with_reducible apply Keeps.writeAcc
    | with_reducible apply Keeps.ownerParity
    | (with_reducible injection e with _ e; subst e)
    | with_reducible refine Keeps.readAcc_eq ?_ e
    | split at e
    | split
theorem addContrib_snd (die : Nat) (r : List Byte) (c : OwnChunk) (p : XPkt) (bad : List Bool) (fs : List PhysFault) (h : Keeps r₀ s) : Keeps r₀ (s.addContrib die r c p bad fs).2 := addContrib_eq h Prod.mk.eta.symm

theorem collFlags (die : Nat) (r : List Byte) (c : OwnChunk) (fl : Flags) (h : Keeps r₀ s) : Keeps r₀ (s.collFlags die r c fl) := by
  unfold State.collFlags
  try dsimp -iota -proj only
  repeat' first
    | with_reducible assumption
    | with_reducible apply Keeps.modDie
    | with_reducible apply Keeps.countScale
    | with_reducible apply Keeps.postFlags
    | with_reducible apply Keeps.post
    | with_reducible apply Keeps.mailTurn
    | split

theorem sendHeld (die : Nat) (part : Nat) (rank : Nat) (a : Nat) (r : List Byte) (q : XPkt) (h : Keeps r₀ s) : Keeps r₀ (s.sendHeld die part rank a r q) := by
  unfold State.sendHeld
  try dsimp -iota -proj only
  repeat' first
    | with_reducible assumption
    | with_reducible apply Keeps.pushDescs

theorem payOwed (die : Nat) (part : Nat) (r : List Byte) (q : XPkt) (h : Keeps r₀ s) : Keeps r₀ (s.payOwed die part r q) := by
  unfold State.payOwed
  try dsimp -iota -proj only
  repeat' first
    | with_reducible assumption
    | with_reducible apply Keeps.sendHeld
    | with_reducible apply Keeps.modDie
    | (with_reducible apply Keeps.foldl; intro _ _ _)

theorem finishChunk (die : Nat) (r : List Byte) (step : W64) (c : OwnChunk) (fs : List PhysFault) (h : Keeps r₀ s) : Keeps r₀ (s.finishChunk die r step c fs) := by
  unfold State.finishChunk
  try dsimp -iota -proj only
  repeat' first
    | with_reducible assumption
    | with_reducible apply Keeps.readAcc_snd
    | with_reducible apply Keeps.ownerParity
    | with_reducible apply Keeps.cfault
    | with_reducible apply Keeps.landBytes_snd
    | with_reducible apply Keeps.collFlags
    | with_reducible apply Keeps.payOwed
    | with_reducible apply Keeps.pushDescs
    | split

theorem putChunk (die : Nat) (c : OwnChunk) (h : Keeps r₀ s) : Keeps r₀ (s.putChunk die c) := by
  unfold State.putChunk
  try dsimp -iota -proj only
  repeat' first
    | with_reducible assumption
    | with_reducible apply Keeps.modDie

theorem readStaged_eq {r : List Byte} {c : OwnChunk} {x : Staged} {fs : List PhysFault} {va} (h : Keeps r₀ s) (e : s.readStaged r c x fs = (va, t)) : Keeps r₀ t := by
  unfold State.readStaged at e
  try dsimp -iota -proj only at e
  repeat' first
    | with_reducible assumption
    | with_reducible apply Keeps.readMem_snd
    | with_reducible apply Keeps.ownerParity
    | (with_reducible injection e with _ e; subst e)
theorem readStaged_snd (r : List Byte) (c : OwnChunk) (x : Staged) (fs : List PhysFault) (h : Keeps r₀ s) : Keeps r₀ (s.readStaged r c x fs).2 := readStaged_eq h Prod.mk.eta.symm

theorem returnCredit (die : Nat) (step : W64) (c : OwnChunk) (p : XPkt) (h : Keeps r₀ s) : Keeps r₀ (s.returnCredit die step c p) := by
  unfold State.returnCredit
  try dsimp -iota -proj only
  repeat' first
    | with_reducible assumption
    | with_reducible apply Keeps.credited
    | with_reducible apply Keeps.queueX
    | split

theorem ownerRun (x : List Byte) (step : W64) (fs : List PhysFault) (n : Nat) (c : OwnChunk) (h : Keeps r₀ s) :
    Keeps r₀ (s.ownerRun x step fs n c) := by
  induction n generalizing s c with
  | zero => exact Keeps.putChunk _ _ h
  | succ n ih =>
    unfold State.ownerRun
    dsimp -iota -proj only
    repeat' split
    · exact Keeps.putChunk _ _ h
    · exact Keeps.cfault _ _ _ _ _ (Keeps.putChunk _ _ h)
    · exact Keeps.gatherAll (Keeps.finishChunk _ _ _ _ _ (Keeps.putChunk _ _ h))
    · exact Keeps.putChunk _ _ h
    · exact ih _ (Keeps.returnCredit _ _ _ _ (Keeps.addContrib_snd _ _ _ _ _ _ (Keeps.readStaged_snd _ _ _ _ h)))

theorem openChunks (part : Nat) (h : Keeps r₀ s) : Keeps r₀ (s.openChunks part) := by
  unfold State.openChunks
  try dsimp -iota -proj only
  repeat' first
    | with_reducible assumption
    | with_reducible apply Keeps.ownerRun
    | (with_reducible apply Keeps.foldl; intro _ _ _)

theorem stage_eq {r : List Byte} {c : OwnChunk} {slot : Nat} {p : XPkt} {fs : List PhysFault} {va} (h : Keeps r₀ s) (e : s.stage r c slot p fs = (va, t)) : Keeps r₀ t := by
  unfold State.stage at e
  try dsimp -iota -proj only at e
  repeat' first
    | with_reducible assumption
    | with_reducible apply Keeps.parityWrites
    | with_reducible apply Keeps.writeMem
    | (with_reducible injection e with _ e; subst e)
theorem stage_snd (r : List Byte) (c : OwnChunk) (slot : Nat) (p : XPkt) (fs : List PhysFault) (h : Keeps r₀ s) : Keeps r₀ (s.stage r c slot p fs).2 := stage_eq h Prod.mk.eta.symm

theorem askRepair (die : Nat) (part : Nat) (r : List Byte) (step : W64) (x : RxXfer) (chunk : Nat) (h : Keeps r₀ s) : Keeps r₀ (s.askRepair die part r step x chunk) := by
  unfold State.askRepair
  try dsimp -iota -proj only
  repeat' first
    | with_reducible assumption
    | with_reducible apply Keeps.queueX
    | with_reducible apply Keeps.modRx
    | split

end Sys2Proof.Machine.Keeps
end

