-- ==== Sys2Proof/Laws/KeepsEngs.lean ====
section
/-! SUPPORT. What the operations of the update units, the sync engine, completion and staging keep (Keeps.lean). -/

namespace Sys2Proof.Machine.Keeps

variable {r₀ s t : State}

theorem updRead_eq {who : Who} {a : Nat} {n : Nat} {va vb} (h : Keeps r₀ s) (e : s.updRead who a n = (va, vb, t)) : Keeps r₀ t := by
  unfold State.updRead at e
  try dsimp -iota -proj only at e
  repeat' first
    | with_reducible assumption
    | with_reducible apply Keeps.readMem_snd
    | (with_reducible injection e with _ e; with_reducible injection e with _ e; subst e)
theorem updRead_snd (who : Who) (a : Nat) (n : Nat) (h : Keeps r₀ s) : Keeps r₀ (s.updRead who a n).2.2 := updRead_eq h snd3

theorem updWrite_eq {who : Who} {a : Nat} {n : Nat} {v : Nat} {fs : List PhysFault} {va} (h : Keeps r₀ s) (e : s.updWrite who a n v fs = (va, t)) : Keeps r₀ t := by
  unfold State.updWrite at e
  try dsimp -iota -proj only at e
  repeat' first
    | with_reducible assumption
    | with_reducible apply Keeps.parityWrites
    | with_reducible apply Keeps.writeMem
    | (with_reducible injection e with _ e; subst e)
theorem updWrite_snd (who : Who) (a : Nat) (n : Nat) (v : Nat) (fs : List PhysFault) (h : Keeps r₀ s) : Keeps r₀ (s.updWrite who a n v fs).2 := updWrite_eq h Prod.mk.eta.symm

theorem updReadIf_eq {has : Bool} {who : Who} {a : Nat} {n : Nat} {va vb} (h : Keeps r₀ s) (e : s.updReadIf has who a n = (va, vb, t)) : Keeps r₀ t := by
  unfold State.updReadIf at e
  try dsimp -iota -proj only at e
  repeat' first
    | with_reducible assumption
    | with_reducible apply Keeps.updRead_snd
    | (with_reducible injection e with _ e; with_reducible injection e with _ e; subst e)
    | with_reducible refine Keeps.updRead_eq ?_ e
    | split at e
theorem updReadIf_snd (has : Bool) (who : Who) (a : Nat) (n : Nat) (h : Keeps r₀ s) : Keeps r₀ (s.updReadIf has who a n).2.2 := updReadIf_eq h snd3

theorem updWriteIf_eq {has : Bool} {who : Who} {a : Nat} {n : Nat} {v : Nat} {fs : List PhysFault} {va} (h : Keeps r₀ s) (e : s.updWriteIf has who a n v fs = (va, t)) : Keeps r₀ t := by
  unfold State.updWriteIf at e
  try dsimp -iota -proj only at e
  repeat' first
    | with_reducible assumption
    | with_reducible apply Keeps.updWrite_snd
    | (with_reducible injection e with _ e; subst e)
    | with_reducible refine Keeps.updWrite_eq ?_ e
    | split at e
theorem updWriteIf_snd (has : Bool) (who : Who) (a : Nat) (n : Nat) (v : Nat) (fs : List PhysFault) (h : Keeps r₀ s) : Keeps r₀ (s.updWriteIf has who a n v fs).2 := updWriteIf_eq h Prod.mk.eta.symm

theorem updOne_eq {i : StreamId} {q : QEntry} {fs : List PhysFault} {who : Who} {rec_ : List Byte} {h0 : Hyper} {x : Nat × Nat × Nat} {va vb} (h : Keeps r₀ s) (e : s.updOne i q fs who rec_ h0 x = (va, vb, t)) : Keeps r₀ t := by
  unfold State.updOne at e
  try dsimp -iota -proj only at e
  repeat' first
    | with_reducible assumption
    | with_reducible apply Keeps.updRead_snd
    | with_reducible apply Keeps.updReadIf_snd
    | with_reducible apply Keeps.updWrite_snd
    | with_reducible apply Keeps.updWriteIf_snd
    | (with_reducible injection e with _ e; with_reducible injection e with _ e; subst e)
    | with_reducible refine Keeps.updRead_eq ?_ e
    | with_reducible refine Keeps.updReadIf_eq ?_ e
    | with_reducible refine Keeps.updWrite_eq ?_ e
    | with_reducible refine Keeps.updWriteIf_eq ?_ e
    | split at e
theorem updOne_snd (i : StreamId) (q : QEntry) (fs : List PhysFault) (who : Who) (rec_ : List Byte) (h0 : Hyper) (x : Nat × Nat × Nat) (h : Keeps r₀ s) : Keeps r₀ (s.updOne i q fs who rec_ h0 x).2.2 := updOne_eq h snd3

theorem formGranules (u : Nat) (r : UpdRun) (h : Keeps r₀ s) : Keeps r₀ (s.formGranules u r) := by
  unfold State.formGranules
  try dsimp -iota -proj only
  repeat' first
    | with_reducible assumption
    | with_reducible apply Keeps.pushDescs

theorem updNext (u : Nat) (h : Keeps r₀ s) : Keeps r₀ (s.updNext u) := by
  unfold State.updNext
  try dsimp -iota -proj only
  repeat' first
    | with_reducible assumption
    | with_reducible apply Keeps.pushDescs
    | with_reducible apply Keeps.modUnit
    | split

theorem setRun (u : Nat) (r : UpdRun) (h : Keeps r₀ s) : Keeps r₀ (s.setRun u r) := by
  unfold State.setRun
  try dsimp -iota -proj only
  repeat' first
    | with_reducible assumption
    | with_reducible apply Keeps.modUnit

theorem updSettle (i : StreamId) (id : Nat) (h : Keeps r₀ s) : Keeps r₀ (s.updSettle i id) := by
  unfold State.updSettle
  try dsimp -iota -proj only
  repeat' first
    | with_reducible assumption
    | with_reducible apply Keeps.modStream
    | split

theorem updShareEnd (u : Nat) (r : UpdRun) (h : Keeps r₀ s) : Keeps r₀ (s.updShareEnd u r) := by
  unfold State.updShareEnd
  try dsimp -iota -proj only
  repeat' first
    | with_reducible assumption
    | with_reducible apply Keeps.modUnit
    | with_reducible apply Keeps.post
    | with_reducible apply Keeps.updSettle
    | with_reducible apply Keeps.updNext
    | split

theorem updGranule_eq {u : Nat} {r : UpdRun} {es : List (Nat × Nat × Nat)} {fs : List PhysFault} {va} (h : Keeps r₀ s) (e : s.updGranule u r es fs = (va, t)) : Keeps r₀ t := by
  unfold State.updGranule at e
  try dsimp -iota -proj only at e
  repeat' first
    | with_reducible assumption
    | with_reducible apply Keeps.updOne_snd
    | with_reducible apply Keeps.modUnit
    | with_reducible apply Keeps.post
    | with_reducible apply Keeps.mailTurn
    | (with_reducible apply Keeps.foldl_snd3; intro _ _ _)
    | (with_reducible injection e with _ e; subst e)
    | with_reducible refine Keeps.updOne_eq ?_ e
    | split at e
    | split
theorem updGranule_snd (u : Nat) (r : UpdRun) (es : List (Nat × Nat × Nat)) (fs : List PhysFault) (h : Keeps r₀ s) : Keeps r₀ (s.updGranule u r es fs).2 := updGranule_eq h Prod.mk.eta.symm

theorem updParity (i : StreamId) (q : QEntry) (u : Nat) (fs : List PhysFault) (h : Keeps r₀ s) : Keeps r₀ (s.updParity i q u fs) := by
  unfold State.updParity
  try dsimp -iota -proj only
  repeat' first
    | with_reducible assumption
    | with_reducible apply Keeps.post
    | (with_reducible apply Keeps.foldl; intro _ _ _)
    | split

theorem serveUpd_eq {u : Nat} {x : PDesc} {fs : List PhysFault} {va} (h : Keeps r₀ s) (e : s.serveUpd u x fs = (va, t)) : Keeps r₀ t := by
  unfold State.serveUpd at e
  try dsimp -iota -proj only at e
  repeat' first
    | with_reducible assumption
    | with_reducible apply Keeps.dmaRead_snd
    | with_reducible apply Keeps.setRun
    | with_reducible apply Keeps.pushDescs
    | with_reducible apply Keeps.formGranules
    | with_reducible apply Keeps.updGranule_snd
    | with_reducible apply Keeps.updParity
    | with_reducible apply Keeps.updShareEnd
    | (with_reducible injection e with _ e; subst e)
    | with_reducible refine Keeps.dmaRead_eq ?_ e
    | with_reducible refine Keeps.updGranule_eq ?_ e
    | split at e
    | split
theorem serveUpd_snd (u : Nat) (x : PDesc) (fs : List PhysFault) (h : Keeps r₀ s) : Keeps r₀ (s.serveUpd u x fs).2 := serveUpd_eq h Prod.mk.eta.symm

theorem updShare (i : StreamId) (q : QEntry) (part : Nat) (u : Nat) (es : List (Nat × Nat × Nat)) (h : Keeps r₀ s) : Keeps r₀ (s.updShare i q part u es) := by
  unfold State.updShare
  try dsimp -iota -proj only
  repeat' first
    | with_reducible assumption
    | with_reducible apply Keeps.modUnit
    | with_reducible apply Keeps.post
    | with_reducible apply Keeps.pushDescs
    | split

theorem updStart (i : StreamId) (q : QEntry) (h : Keeps r₀ s) : Keeps r₀ (s.updStart i q) := by
  unfold State.updStart
  try dsimp -iota -proj only
  repeat' first
    | with_reducible assumption
    | with_reducible apply Keeps.updSettle
    | with_reducible apply Keeps.modUnit
    | with_reducible apply Keeps.updShare
    | (with_reducible apply Keeps.foldl; intro _ _ _)
    | split

theorem startUpd (c : CoreId) (h : Keeps r₀ s) : Keeps r₀ (s.startUpd c) := by
  unfold State.startUpd
  try dsimp -iota -proj only
  repeat' first
    | with_reducible assumption
    | with_reducible apply Keeps.updStart
    | with_reducible apply Keeps.modStream
    | split

theorem issueSyn (i : StreamId) (w : W128) (op : Nat) (h : Keeps r₀ s) : Keeps r₀ (s.issueSyn i w op) := by
  unfold State.issueSyn
  try dsimp -iota -proj only
  repeat' first
    | with_reducible assumption
    | with_reducible apply Keeps.onTurn
    | with_reducible apply Keeps.issueEng

theorem synZombie (i : StreamId) (obj : Nat) (h : Keeps r₀ s) : Keeps r₀ (s.synZombie i obj) := by
  unfold State.synZombie
  try dsimp -iota -proj only
  repeat' first
    | with_reducible assumption
    | with_reducible apply Keeps.zombie
    | split

theorem synStart_eq {i : StreamId} {q : QEntry} {fs : List PhysFault} {va} (h : Keeps r₀ s) (e : s.synStart i q fs = (va, t)) : Keeps r₀ t := by
  unfold State.synStart at e
  try dsimp -iota -proj only at e
  repeat' first
    | with_reducible assumption
    | with_reducible apply Keeps.completionWrite
    | with_reducible apply Keeps.sendSync
    | with_reducible apply Keeps.modStream
    | with_reducible apply Keeps.synZombie
    | with_reducible apply Keeps.parityWrites
    | with_reducible apply Keeps.writeMem
    | (with_reducible injection e with _ e; subst e)
    | split at e
theorem synStart_snd (i : StreamId) (q : QEntry) (fs : List PhysFault) (h : Keeps r₀ s) : Keeps r₀ (s.synStart i q fs).2 := synStart_eq h Prod.mk.eta.symm

theorem mmaStart (i : StreamId) (q : QEntry) (fs : List PhysFault) (h : Keeps r₀ s) : Keeps r₀ (s.mmaStart i q fs) := by
  unfold State.mmaStart
  try dsimp -iota -proj only
  repeat' first
    | with_reducible assumption
    | with_reducible apply Keeps.modCore
    | with_reducible apply Keeps.mmaBank
    | with_reducible apply Keeps.modStream
    | with_reducible apply Keeps.mmaBeats

theorem mmaGoOn (i : StreamId) (fs : List PhysFault) (h : Keeps r₀ s) : Keeps r₀ (s.mmaGoOn i fs) := by
  unfold State.mmaGoOn
  try dsimp -iota -proj only
  repeat' first
    | with_reducible assumption
    | with_reducible apply Keeps.modCore
    | with_reducible apply Keeps.modStream
    | with_reducible apply Keeps.mmaBeats
    | split

theorem startOldest (c : CoreId) (e : Engine) (ok : StreamId → QEntry → Bool) {go : StreamId → QEntry → State → State}
    (hgo : ∀ i q, Keeps r₀ (go i q s)) (h : Keeps r₀ s) : Keeps r₀ (s.startOldest c e ok go) := by
  unfold State.startOldest
  split
  · exact hgo _ _
  · exact h

theorem deniedWaits (c : CoreId) (h : Keeps r₀ s) : Keeps r₀ (s.deniedWaits c) := by
  unfold State.deniedWaits
  try dsimp -iota -proj only
  repeat' first
    | with_reducible assumption
    | with_reducible apply Keeps.synZombie
    | (with_reducible apply Keeps.foldl; intro _ _ _)
    | split

theorem startEngine (c : CoreId) (e0 : Engine) (fs : List PhysFault) (h : Keeps r₀ s) : Keeps r₀ (s.startEngine c e0 fs) := by
  unfold State.startEngine
  try dsimp -iota -proj only
  repeat' first
    | with_reducible assumption
    | with_reducible apply Keeps.strmGoOn
    | with_reducible apply Keeps.startOldest
    | with_reducible apply Keeps.strmStart
    | with_reducible apply Keeps.mmaGoOn
    | with_reducible apply Keeps.bankFault
    | with_reducible apply Keeps.mmaStart
    | with_reducible apply Keeps.vecStart_snd
    | with_reducible apply Keeps.modStream
    | with_reducible apply Keeps.packSkipped
    | with_reducible apply Keeps.xchStart
    | with_reducible apply Keeps.startUpd
    | with_reducible apply Keeps.deniedWaits
    | with_reducible apply Keeps.synStart_snd
    | (with_reducible apply Keeps.foldl; intro _ _ _)
    | intro _
    | split

theorem complete (i : StreamId) (r : Running) (h : Keeps r₀ s) : Keeps r₀ (s.complete i r) := by
  unfold State.complete
  try dsimp -iota -proj only
  repeat' first
    | with_reducible assumption
    | with_reducible apply Keeps.modCore
    | with_reducible apply Keeps.collectFlags
    | with_reducible apply Keeps.postFlags
    | with_reducible apply Keeps.completionWrite
    | split

theorem groupAdd (i : StreamId) (obj : Nat) (h : Keeps r₀ s) : Keeps r₀ (s.groupAdd i obj) := by
  unfold State.groupAdd
  try dsimp -iota -proj only
  repeat' first
    | with_reducible assumption
    | with_reducible apply Keeps.sendSync

theorem ladderLog (i : StreamId) (rung : BitVec 4) (cause : Nat) (h : Keeps r₀ s) : Keeps r₀ (s.ladderLog i rung cause) := by
  unfold State.ladderLog
  try dsimp -iota -proj only
  repeat' first
    | with_reducible assumption
    | with_reducible apply Keeps.ladderRecord
    | with_reducible apply Keeps.post

theorem repeatOp (i : StreamId) (told : Bool) (rung : BitVec 4) (wide : Bool) (h : Keeps r₀ s) : Keeps r₀ (s.repeatOp i told rung wide) := by
  unfold State.repeatOp
  try dsimp -iota -proj only
  repeat' first
    | with_reducible assumption
    | with_reducible apply Keeps.modCore
    | with_reducible apply Keeps.modStream

theorem completeOp (i : StreamId) (h : Keeps r₀ s) : Keeps r₀ (s.completeOp i) := by
  unfold State.completeOp
  try dsimp -iota -proj only
  repeat' first
    | with_reducible assumption
    | with_reducible apply Keeps.ladderLog
    | with_reducible apply Keeps.syncApply
    | with_reducible apply Keeps.unitArrives
    | with_reducible apply Keeps.sendSync
    | with_reducible apply Keeps.countScale
    | with_reducible apply Keeps.modCore
    | with_reducible apply Keeps.portJump
    | with_reducible apply Keeps.modStream
    | (with_reducible apply Keeps.foldl; intro _ _ _)
    | split

theorem decideOp (i : StreamId) (w : Bool) (g : Bool) (h : Keeps r₀ s) : Keeps r₀ (s.decideOp i w g) := by
  unfold State.decideOp
  try dsimp -iota -proj only
  repeat' first
    | with_reducible assumption
    | with_reducible apply Keeps.modStream
    | with_reducible apply Keeps.repeatOp
    | with_reducible apply Keeps.ladderLog
    | with_reducible apply Keeps.completeOp
    | split

theorem extNote (p : Nat) (ws : List (Nat × Byte)) (h : Keeps r₀ s) : Keeps r₀ (s.extNote p ws) := by
  unfold State.extNote
  try dsimp -iota -proj only
  repeat' first
    | with_reducible assumption
    | with_reducible apply Keeps.modEv
    | (with_reducible apply Keeps.foldl; intro _ _ _)
    | split

theorem stageBounds (half : Nat) (bad : List (Nat × Nat)) (h : Keeps r₀ s) : Keeps r₀ (s.stageBounds half bad) := by
  unfold State.stageBounds
  try dsimp -iota -proj only
  repeat' first
    | with_reducible assumption
    | with_reducible apply Keeps.boundsUnit
    | split

theorem stageWrite (half : Nat) (addr : Nat) (data : List Byte) (fs : List PhysFault) (h : Keeps r₀ s) : Keeps r₀ (s.stageWrite half addr data fs) := by
  unfold State.stageWrite
  try dsimp -iota -proj only
  repeat' first
    | with_reducible assumption
    | with_reducible apply Keeps.extNote
    | with_reducible apply Keeps.parityWrites
    | with_reducible apply Keeps.writeMem
    | with_reducible apply Keeps.stageBounds
    | (with_reducible apply Keeps.foldl; intro _ _ _)

theorem stageRead_eq {half : Nat} {addr : Nat} {len : Nat} {va} (h : Keeps r₀ s) (e : s.stageRead half addr len = (va, t)) : Keeps r₀ t := by
  unfold State.stageRead at e
  try dsimp -iota -proj only at e
  repeat' first
    | with_reducible assumption
    | with_reducible apply Keeps.readMem_snd
    | with_reducible apply Keeps.stageBounds
    | (with_reducible apply Keeps.foldl_snd; intro _ _ _)
    | (with_reducible injection e with _ e; subst e)
theorem stageRead_snd (half : Nat) (addr : Nat) (len : Nat) (h : Keeps r₀ s) : Keeps r₀ (s.stageRead half addr len).2 := stageRead_eq h Prod.mk.eta.symm

theorem replayStage (p : Nat) (h : Keeps r₀ s) : Keeps r₀ (s.replayStage p) := by
  unfold State.replayStage
  try dsimp -iota -proj only
  repeat' first
    | with_reducible assumption
    | with_reducible apply Keeps.stageWrite
    | (with_reducible apply Keeps.foldl; intro _ _ _)
    | split

end Sys2Proof.Machine.Keeps
end

