-- ==== Sys2Proof/Laws/KeepsSteps.lean ====
section
/-! SUPPORT. What the operations of the step verdict and Retract handling keep (Keeps.lean). -/

namespace Sys2Proof.Machine.Keeps

variable {r₀ s t : State}

theorem modStreams (is : List StreamId) (f : Stream → Stream) (h : Keeps r₀ s) : Keeps r₀ (s.modStreams is f) := by
  unfold State.modStreams
  try dsimp -iota -proj only
  repeat' first
    | with_reducible assumption
    | with_reducible apply Keeps.modStream
    | (with_reducible apply Keeps.foldl; intro _ _ _)

theorem eachStream (p : Nat) (f : Stream → Stream) (h : Keeps r₀ s) : Keeps r₀ (s.eachStream p f) := by
  unfold State.eachStream
  try dsimp -iota -proj only
  repeat' first
    | with_reducible assumption
    | with_reducible apply Keeps.modPart
    | with_reducible apply Keeps.modStreams

theorem freezePart (p : Nat) (h : Keeps r₀ s) : Keeps r₀ (s.freezePart p) := by
  unfold State.freezePart
  try dsimp -iota -proj only
  repeat' first
    | with_reducible assumption
    | with_reducible apply Keeps.eachStream

theorem freezeAll (h : Keeps r₀ s) : Keeps r₀ (s.freezeAll) := by
  unfold State.freezeAll
  try dsimp -iota -proj only
  repeat' first
    | with_reducible assumption
    | with_reducible apply Keeps.freezePart
    | (with_reducible apply Keeps.foldl; intro _ _ _)

theorem setDrain (h : Keeps r₀ s) : Keeps r₀ (s.setDrain) := by
  unfold State.setDrain
  try dsimp -iota -proj only
  repeat' first
    | with_reducible assumption
    | with_reducible apply Keeps.freezeAll
    | with_reducible apply Keeps.alert
    | with_reducible apply Keeps.modEv

theorem stopLocal (job : W64) (cause : Byte) (h : Keeps r₀ s) : Keeps r₀ (s.stopLocal job cause) := by
  unfold State.stopLocal
  try dsimp -iota -proj only
  repeat' first
    | with_reducible assumption
    | with_reducible apply Keeps.modPart
    | with_reducible apply Keeps.freezePart
    | with_reducible apply Keeps.modEv
    | with_reducible apply Keeps.say
    | with_reducible apply Keeps.alert
    | with_reducible apply Keeps.setDrain
    | (with_reducible apply Keeps.foldl; intro _ _ _)
    | split

theorem replayGate (p : Nat) (verdict : Nat) (h : Keeps r₀ s) : Keeps r₀ (s.replayGate p verdict) := by
  unfold State.replayGate
  try dsimp -iota -proj only
  repeat' first
    | with_reducible assumption
    | with_reducible apply Keeps.modEv
    | with_reducible apply Keeps.replayEnd
    | split

theorem verdictRecords (p : Nat) (value : W32) (h : Keeps r₀ s) : Keeps r₀ (s.verdictRecords p value) := by
  unfold State.verdictRecords
  try dsimp -iota -proj only
  repeat' first
    | with_reducible assumption
    | with_reducible apply Keeps.record
    | with_reducible apply Keeps.modEv
    | with_reducible apply Keeps.replayGate
    | (with_reducible apply Keeps.foldl; intro _ _ _)
    | split

theorem stepOpen (p : Nat) (h : Keeps r₀ s) : Keeps r₀ (s.stepOpen p) := by
  unfold State.stepOpen
  try dsimp -iota -proj only
  repeat' first
    | with_reducible assumption
    | with_reducible apply Keeps.record

theorem scaleEntry (p : Nat) (step : W64) (snext : Byte) (h : Keeps r₀ s) : Keeps r₀ (s.scaleEntry p step snext) := by
  unfold State.scaleEntry
  try dsimp -iota -proj only
  repeat' first
    | with_reducible assumption
    | with_reducible apply Keeps.modUnit
    | with_reducible apply Keeps.post
    | (with_reducible apply Keeps.foldl; intro _ _ _)
    | split

theorem closeStep (p : Nat) (step : W64) (h : Keeps r₀ s) : Keeps r₀ (s.closeStep p step) := by
  unfold State.closeStep
  try dsimp -iota -proj only
  repeat' first
    | with_reducible assumption
    | with_reducible apply Keeps.modDie
    | (with_reducible apply Keeps.foldl; intro _ _ _)

theorem advance (p : Nat) (value : W32) (h : Keeps r₀ s) : Keeps r₀ (s.advance p value) := by
  unfold State.advance
  try dsimp -iota -proj only
  repeat' first
    | with_reducible assumption
    | with_reducible apply Keeps.modPart
    | with_reducible apply Keeps.verdictRecords
    | with_reducible apply Keeps.modObj
    | with_reducible apply Keeps.stepOpen
    | with_reducible apply Keeps.scaleEntry
    | with_reducible apply Keeps.replayEnd
    | with_reducible apply Keeps.openChunks
    | with_reducible apply Keeps.replayStage
    | with_reducible apply Keeps.closeStep
    | (with_reducible apply Keeps.foldl; intro _ _ _)
    | split

theorem gatePart (p : Nat) (value : W32) (ls : LsState) (h : Keeps r₀ s) : Keeps r₀ (s.gatePart p value ls) := by
  unfold State.gatePart
  try dsimp -iota -proj only
  repeat' first
    | with_reducible assumption
    | with_reducible apply Keeps.changeObj
    | with_reducible apply Keeps.modPart
    | with_reducible apply Keeps.verdictRecords
    | with_reducible apply Keeps.advance
    | split

theorem gateApply (job : W64) (value : W32) (ls : LsState) (h : Keeps r₀ s) : Keeps r₀ (s.gateApply job value ls) := by
  unfold State.gateApply
  try dsimp -iota -proj only
  repeat' first
    | with_reducible assumption
    | with_reducible apply Keeps.gatePart
    | (with_reducible apply Keeps.foldl; intro _ _ _)

theorem defer (d : Deferred) (h : Keeps r₀ s) : Keeps r₀ (s.defer d) := by
  unfold State.defer
  try dsimp -iota -proj only
  repeat' first
    | with_reducible assumption
    | with_reducible apply Keeps.modMgr

theorem putJob (j : Job) (h : Keeps r₀ s) : Keeps r₀ (s.putJob j) := by
  unfold State.putJob
  try dsimp -iota -proj only
  repeat' first
    | with_reducible assumption
    | with_reducible apply Keeps.modMgr

theorem sendGates (j : Job) (value : W32) (ls : LsState) (h : Keeps r₀ s) : Keeps r₀ (s.sendGates j value ls) := by
  unfold State.sendGates
  try dsimp -iota -proj only
  repeat' first
    | with_reducible assumption
    | with_reducible apply Keeps.mgmt
    | with_reducible apply Keeps.gateApply
    | (with_reducible apply Keeps.foldl; intro _ _ _)
    | split

theorem sendState (h : Keeps r₀ s) : Keeps r₀ (s.sendState) := by
  unfold State.sendState
  try dsimp -iota -proj only
  repeat' first
    | with_reducible assumption
    | with_reducible apply Keeps.mgmt
    | (with_reducible apply Keeps.foldl; intro _ _ _)
    | split

theorem ruleStep (j : Job) (commit : Bool) (h : Keeps r₀ s) : Keeps r₀ (s.ruleStep j commit) := by
  unfold State.ruleStep
  try dsimp -iota -proj only
  repeat' first
    | with_reducible assumption
    | with_reducible apply Keeps.putJob
    | with_reducible apply Keeps.post
    | with_reducible apply Keeps.sendState
    | with_reducible apply Keeps.sendGates
    | split

theorem orderStop (job : W64) (r : Nat) (cause : Byte) (h : Keeps r₀ s) : Keeps r₀ (s.orderStop job r cause) := by
  unfold State.orderStop
  try dsimp -iota -proj only
  repeat' first
    | with_reducible assumption
    | with_reducible apply Keeps.stopLocal
    | with_reducible apply Keeps.mgmt
    | split

theorem managerStop (j : Job) (drained : List Nat) (cls : Nat) (h : Keeps r₀ s) : Keeps r₀ (s.managerStop j drained cls) := by
  unfold State.managerStop
  try dsimp -iota -proj only
  repeat' first
    | with_reducible assumption
    | with_reducible apply Keeps.sendState
    | with_reducible apply Keeps.sendGates
    | with_reducible apply Keeps.putJob
    | with_reducible apply Keeps.orderStop
    | (with_reducible apply Keeps.foldl; intro _ _ _)

theorem ruleRetract (j : Job) (m : StepMsg) (raised : Bool) (h : Keeps r₀ s) : Keeps r₀ (s.ruleRetract j m raised) := by
  unfold State.ruleRetract
  try dsimp -iota -proj only
  repeat' first
    | with_reducible assumption
    | with_reducible apply Keeps.managerStop
    | with_reducible apply Keeps.sendGates
    | with_reducible apply Keeps.putJob
    | with_reducible apply Keeps.mgmt
    | with_reducible apply Keeps.sendState
    | (with_reducible apply Keeps.foldl; intro _ _ _)
    | split

theorem managerHear (m : StepMsg) (h : Keeps r₀ s) : Keeps r₀ (s.managerHear m) := by
  unfold State.managerHear
  try dsimp -iota -proj only
  repeat' first
    | with_reducible assumption
    | with_reducible apply Keeps.orderStop
    | with_reducible apply Keeps.putJob
    | with_reducible apply Keeps.ruleRetract
    | with_reducible apply Keeps.ruleStep
    | split

theorem stopJob (p : Nat) (drained : Bool) (cls : Nat) (h : Keeps r₀ s) : Keeps r₀ (s.stopJob p drained cls) := by
  unfold State.stopJob
  try dsimp -iota -proj only
  repeat' first
    | with_reducible assumption
    | with_reducible apply Keeps.managerStop
    | with_reducible apply Keeps.stopLocal
    | with_reducible apply Keeps.mgmt
    | split

theorem drainModule (p : Nat) (cls : Nat) (h : Keeps r₀ s) : Keeps r₀ (s.drainModule p cls) := by
  unfold State.drainModule
  try dsimp -iota -proj only
  repeat' first
    | with_reducible assumption
    | with_reducible apply Keeps.stopJob
    | with_reducible apply Keeps.setDrain
    | (with_reducible apply Keeps.foldl; intro _ _ _)
    | split

theorem flushSync (p : Nat) (h : Keeps r₀ s) : Keeps r₀ (s.flushSync p) := by
  unfold State.flushSync
  try dsimp -iota -proj only
  repeat' first
    | with_reducible assumption
    | with_reducible apply Keeps.modSyn
    | with_reducible apply Keeps.syncApply
    | (with_reducible apply Keeps.foldl; intro _ _ _)

theorem hubEpochs (p : Nat) (u : W32) (e0 : W16) (h : Keeps r₀ s) : Keeps r₀ (s.hubEpochs p u e0) := by
  unfold State.hubEpochs
  try dsimp -iota -proj only
  repeat' first
    | with_reducible assumption
    | with_reducible apply Keeps.modDie
    | with_reducible apply Keeps.modUnit
    | (with_reducible apply Keeps.foldl; intro _ _ _)
    | split

theorem mask (u : W32) (h : Keeps r₀ s) : Keeps r₀ (s.mask u) := by
  unfold State.mask
  try dsimp -iota -proj only
  repeat' first
    | with_reducible assumption
    | with_reducible apply Keeps.modSyn
    | with_reducible apply Keeps.modEv
    | split

theorem fence (p : Nat) (u : W32) (h : Keeps r₀ s) : Keeps r₀ (s.fence p u) := by
  unfold State.fence
  try dsimp -iota -proj only
  repeat' first
    | with_reducible assumption
    | with_reducible apply Keeps.modPart
    | with_reducible apply Keeps.flushSync
    | with_reducible apply Keeps.modObj
    | with_reducible apply Keeps.modCore
    | with_reducible apply Keeps.mask
    | with_reducible apply Keeps.hubEpochs
    | (with_reducible apply Keeps.foldl; intro _ _ _)
    | split

theorem abort (p : Nat) (cause : Nat) (detail : W64) (h : Keeps r₀ s) : Keeps r₀ (s.abort p cause detail) := by
  unfold State.abort
  try dsimp -iota -proj only
  repeat' first
    | with_reducible assumption
    | with_reducible apply Keeps.drainModule
    | with_reducible apply Keeps.post

theorem abortDue (p : Nat) (by_ : Option EvRec) (h : Keeps r₀ s) : Keeps r₀ (s.abortDue p by_) := by
  unfold State.abortDue
  try dsimp -iota -proj only
  repeat' first
    | with_reducible assumption
    | with_reducible apply Keeps.abort
    | with_reducible apply Keeps.modPart
    | split

theorem copyStore_eq {key : Nat} {va} (h : Keeps r₀ s) (e : s.copyStore key = (va, t)) : Keeps r₀ t := by
  unfold State.copyStore at e
  try dsimp -iota -proj only at e
  repeat' first
    | with_reducible assumption
    | with_reducible apply Keeps.skipFree
    | with_reducible apply Keeps.wrCw
    | (with_reducible refine Keeps.foldl_eq ?_ ?_ e; intro _ _ _)
    | split at e
    | split
theorem copyStore_snd (key : Nat) (h : Keeps r₀ s) : Keeps r₀ (s.copyStore key).2 := copyStore_eq h Prod.mk.eta.symm

theorem takeSpare (p : Nat) (key : Nat) (pos : Nat) (h : Keeps r₀ s) : Keeps r₀ (s.takeSpare p key pos) := by
  unfold State.takeSpare
  try dsimp -iota -proj only
  repeat' first
    | with_reducible assumption
    | with_reducible apply Keeps.modCore
    | with_reducible apply Keeps.keepMem
    | with_reducible apply Keeps.post

theorem moveCore (p : Nat) (key : Nat) (pos : Nat) (h : Keeps r₀ s) : Keeps r₀ (s.moveCore p key pos) := by
  unfold State.moveCore
  try dsimp -iota -proj only
  repeat' first
    | with_reducible assumption
    | with_reducible apply Keeps.copyStore_snd
    | with_reducible apply Keeps.modCore
    | with_reducible apply Keeps.keepMem
    | with_reducible apply Keeps.post
    | split

theorem substituteNow_eq {p : Nat} {u : W32} {va} (h : Keeps r₀ s) (e : s.substituteNow p u = (va, t)) : Keeps r₀ t := by
  unfold State.substituteNow at e
  try dsimp -iota -proj only at e
  repeat' first
    | with_reducible assumption
    | with_reducible apply Keeps.moveCore
    | with_reducible apply Keeps.post
    | (with_reducible injection e with _ e; subst e)
    | split at e
theorem substituteNow_snd (p : Nat) (u : W32) (h : Keeps r₀ s) : Keeps r₀ (s.substituteNow p u).2 := substituteNow_eq h Prod.mk.eta.symm

theorem escalate_eq {p : Nat} {u : W32} {va} (h : Keeps r₀ s) (e : s.escalate p u = (va, t)) : Keeps r₀ t := by
  unfold State.escalate at e
  try dsimp -iota -proj only at e
  repeat' first
    | with_reducible assumption
    | with_reducible apply Keeps.fence
    | with_reducible apply Keeps.abort
    | with_reducible apply Keeps.copyStore_snd
    | with_reducible apply Keeps.takeSpare
    | with_reducible apply Keeps.post
    | (with_reducible injection e with _ e; subst e)
    | with_reducible refine Keeps.copyStore_eq ?_ e
    | split at e
    | split
theorem escalate_snd (p : Nat) (u : W32) (h : Keeps r₀ s) : Keeps r₀ (s.escalate p u).2 := escalate_eq h Prod.mk.eta.symm

theorem runEscalations (p : Nat) (h : Keeps r₀ s) : Keeps r₀ (s.runEscalations p) := by
  unfold State.runEscalations
  try dsimp -iota -proj only
  repeat' first
    | with_reducible assumption
    | with_reducible apply Keeps.escalate_snd
    | with_reducible apply Keeps.modPart
    | (with_reducible apply Keeps.foldl_snd; intro _ _ _)
    | split

theorem rewindPart (p : Nat) (step : W64) (h : Keeps r₀ s) : Keeps r₀ (s.rewindPart p step) := by
  unfold State.rewindPart
  try dsimp -iota -proj only
  repeat' first
    | with_reducible assumption
    | with_reducible apply Keeps.flushSync
    | with_reducible apply Keeps.setCore
    | with_reducible apply Keeps.changeObj
    | (with_reducible apply Keeps.foldl; intro _ _ _)
    | split

theorem tryRewind (p : Nat) (h : Keeps r₀ s) : Keeps r₀ (s.tryRewind p) := by
  unfold State.tryRewind
  try dsimp -iota -proj only
  repeat' first
    | with_reducible assumption
    | with_reducible apply Keeps.runEscalations
    | with_reducible apply Keeps.modPart
    | with_reducible apply Keeps.rewindPart
    | split

theorem abandon (p : Nat) (step : W64) (h : Keeps r₀ s) : Keeps r₀ (s.abandon p step) := by
  unfold State.abandon
  try dsimp -iota -proj only
  repeat' first
    | with_reducible assumption
    | with_reducible apply Keeps.modDie
    | (with_reducible apply Keeps.foldl; intro _ _ _)

theorem handleRetract (p : Nat) (m : StepMsg) (parity : List StreamId) (h : Keeps r₀ s) : Keeps r₀ (s.handleRetract p m parity) := by
  unfold State.handleRetract
  try dsimp -iota -proj only
  repeat' first
    | with_reducible assumption
    | with_reducible apply Keeps.modPart
    | with_reducible apply Keeps.stepOpen
    | with_reducible apply Keeps.modEv
    | with_reducible apply Keeps.modStreams
    | with_reducible apply Keeps.alert
    | with_reducible apply Keeps.wakeCore
    | with_reducible apply Keeps.abandon
    | with_reducible apply Keeps.tryRewind
    | with_reducible apply Keeps.abort
    | (with_reducible apply Keeps.foldl; intro _ _ _)
    | split

theorem hearRetract (m : StepMsg) (parity : List StreamId) (h : Keeps r₀ s) : Keeps r₀ (s.hearRetract m parity) := by
  unfold State.hearRetract
  try dsimp -iota -proj only
  repeat' first
    | with_reducible assumption
    | with_reducible apply Keeps.abortDue
    | with_reducible apply Keeps.handleRetract
    | with_reducible apply Keeps.modPart
    | (with_reducible apply Keeps.foldl; intro _ _ _)
    | split

end Sys2Proof.Machine.Keeps
end

