-- ==== Sys2Proof/Laws/KeepsLinks.lean ====
section
/-! SUPPORT. What the operations of the link layer and the hive manager keep (Keeps.lean). -/

namespace Sys2Proof.Machine.Keeps

variable {r₀ s t : State}

theorem linkEv (p : Nat) (cause : Nat) (part : Nat) (detail : W64) (h : Keeps r₀ s) : Keeps r₀ (s.linkEv p cause part detail) := by
  unfold State.linkEv
  try dsimp -iota -proj only
  repeat' first
    | with_reducible assumption
    | with_reducible apply Keeps.post

theorem noPath (half : Nat) (f : Frame) (h : Keeps r₀ s) : Keeps r₀ (s.noPath half f) := by
  unfold State.noPath
  try dsimp -iota -proj only
  repeat' first
    | with_reducible assumption
    | with_reducible apply Keeps.cfault
    | split

theorem countResent (lp : Nat) (n : Nat) (h : Keeps r₀ s) : Keeps r₀ (s.countResent lp n) := by
  unfold State.countResent
  try dsimp -iota -proj only
  repeat' first
    | with_reducible assumption
    | with_reducible apply Keeps.modPort
    | split

theorem resendFrom (lp : Nat) (lseq : BitVec 48) (h : Keeps r₀ s) : Keeps r₀ (s.resendFrom lp lseq) := by
  unfold State.resendFrom
  try dsimp -iota -proj only
  repeat' first
    | with_reducible assumption
    | with_reducible apply Keeps.modLport
    | with_reducible apply Keeps.emit
    | with_reducible apply Keeps.countResent
    | (with_reducible apply Keeps.foldl; intro _ _ _)

theorem leave (p : Nat) (dest : PState) (h : Keeps r₀ s) : Keeps r₀ (s.leave p dest) := by
  unfold State.leave
  try dsimp -iota -proj only
  repeat' first
    | with_reducible assumption
    | with_reducible apply Keeps.modPort
    | with_reducible apply Keeps.noPath
    | with_reducible apply Keeps.modLport
    | with_reducible apply Keeps.resendFrom
    | (with_reducible apply Keeps.foldl; intro _ _ _)
    | split

theorem reportNews (h : Keeps r₀ s) : Keeps r₀ (s.reportNews) := by
  unfold State.reportNews
  try dsimp -iota -proj only
  repeat' first
    | with_reducible assumption
    | with_reducible apply Keeps.mgmt
    | with_reducible apply Keeps.modLink
    | split

theorem portDown (p : Nat) (dest : PState) (h : Keeps r₀ s) : Keeps r₀ (s.portDown p dest) := by
  unfold State.portDown
  try dsimp -iota -proj only
  repeat' first
    | with_reducible assumption
    | with_reducible apply Keeps.leave
    | with_reducible apply Keeps.reportNews
    | with_reducible apply Keeps.linkEv
    | split

theorem activate (p : Nat) (h : Keeps r₀ s) : Keeps r₀ (s.activate p) := by
  unfold State.activate
  try dsimp -iota -proj only
  repeat' first
    | with_reducible assumption
    | with_reducible apply Keeps.modPort
    | with_reducible apply Keeps.modLport
    | split

theorem trainFail (p : Nat) (h : Keeps r₀ s) : Keeps r₀ (s.trainFail p) := by
  unfold State.trainFail
  try dsimp -iota -proj only
  repeat' first
    | with_reducible assumption
    | with_reducible apply Keeps.modPort

theorem writeLnkCfg (p : Nat) (v : W32) (h : Keeps r₀ s) : Keeps r₀ (s.writeLnkCfg p v) := by
  unfold State.writeLnkCfg
  try dsimp -iota -proj only
  repeat' first
    | with_reducible assumption
    | with_reducible apply Keeps.activate
    | with_reducible apply Keeps.modPort
    | with_reducible apply Keeps.leave
    | with_reducible apply Keeps.portDown
    | split

theorem beaconNews (b : Beacon) (h : Keeps r₀ s) : Keeps r₀ (s.beaconNews b) := by
  unfold State.beaconNews
  try dsimp -iota -proj only
  repeat' first
    | with_reducible assumption
    | with_reducible apply Keeps.modMgr
    | with_reducible apply Keeps.modLink
    | with_reducible apply Keeps.post
    | split

theorem tryResend (lp : Nat) (lseq : BitVec 48) (h : Keeps r₀ s) : Keeps r₀ (s.tryResend lp lseq) := by
  unfold State.tryResend
  try dsimp -iota -proj only
  repeat' first
    | with_reducible assumption
    | with_reducible apply Keeps.portDown
    | with_reducible apply Keeps.resendFrom
    | split

theorem openFrame_some {f : Frame} {k : W256} {c : W64} {b : List Byte} (h : Keeps r₀ s) (e : s.openFrame f k c = some (b, t)) :
    Keeps r₀ t := by
  unfold State.openFrame at e
  dsimp -iota -proj only at e
  repeat' split at e
  all_goals first
    | (obtain ⟨_, rfl⟩ := Prod.mk.inj (Option.some.inj e); exact Keeps.modLink _ h)
    | cases e

theorem authFail (p : Nat) (part : Nat) (f : Frame) (h : Keeps r₀ s) : Keeps r₀ (s.authFail p part f) := by
  unfold State.authFail
  try dsimp -iota -proj only
  repeat' first
    | with_reducible assumption
    | with_reducible apply Keeps.modPort
    | with_reducible apply Keeps.post

theorem staleKeyDrop (p : Nat) (f : Frame) (h : Keeps r₀ s) : Keeps r₀ (s.staleKeyDrop p f) := by
  unfold State.staleKeyDrop
  try dsimp -iota -proj only
  repeat' first
    | with_reducible assumption
    | with_reducible apply Keeps.modPort
    | with_reducible apply Keeps.linkEv
    | with_reducible apply Keeps.modLink
    | split

theorem hearJobStop (src : Nat) (job : W64) (cause : Byte) (h : Keeps r₀ s) : Keeps r₀ (s.hearJobStop src job cause) := by
  unfold State.hearJobStop
  try dsimp -iota -proj only
  repeat' first
    | with_reducible assumption
    | with_reducible apply Keeps.managerStop
    | with_reducible apply Keeps.stopLocal
    | split

theorem releaseLoads (h : Keeps r₀ s) : Keeps r₀ (s.releaseLoads) := by
  unfold State.releaseLoads
  try dsimp -iota -proj only
  repeat' first
    | with_reducible assumption
    | with_reducible apply Keeps.modLdr

theorem takeKey (job : W64) (jslot : Nat) (k : W256) (h : Keeps r₀ s) : Keeps r₀ (s.takeKey job jslot k) := by
  unfold State.takeKey
  try dsimp -iota -proj only
  repeat' first
    | with_reducible assumption
    | with_reducible apply Keeps.modLink
    | with_reducible apply Keeps.modSec
    | with_reducible apply Keeps.releaseLoads
    | with_reducible apply Keeps.modPart
    | (with_reducible apply Keeps.foldl; intro _ _ _)
    | split

theorem dropKey (job : W64) (h : Keeps r₀ s) : Keeps r₀ (s.dropKey job) := by
  unfold State.dropKey
  try dsimp -iota -proj only
  repeat' first
    | with_reducible assumption
    | with_reducible apply Keeps.modPart
    | with_reducible apply Keeps.modSec
    | (with_reducible apply Keeps.foldl; intro _ _ _)

theorem giveKey (job : W64) (ranks : List Nat) (who : Nat) (h : Keeps r₀ s) : Keeps r₀ (s.giveKey job ranks who) := by
  unfold State.giveKey
  try dsimp -iota -proj only
  repeat' first
    | with_reducible assumption
    | with_reducible apply Keeps.mgmt
    | with_reducible apply Keeps.modMgr
    | with_reducible apply Keeps.draw_snd
    | with_reducible apply Keeps.takeKey
    | (with_reducible apply Keeps.foldl; intro _ _ _)
    | split

theorem slotFreed (job : W64) (h : Keeps r₀ s) : Keeps r₀ (s.slotFreed job) := by
  unfold State.slotFreed
  try dsimp -iota -proj only
  repeat' first
    | with_reducible assumption
    | with_reducible apply Keeps.modMgr
    | with_reducible apply Keeps.dropKey
    | with_reducible apply Keeps.mgmt
    | with_reducible apply Keeps.giveKey
    | (with_reducible apply Keeps.foldl; intro _ _ _)

theorem leaveSlot (job : W64) (h : Keeps r₀ s) : Keeps r₀ (s.leaveSlot job) := by
  unfold State.leaveSlot
  try dsimp -iota -proj only
  repeat' first
    | with_reducible assumption
    | with_reducible apply Keeps.slotFreed
    | with_reducible apply Keeps.mgmt
    | with_reducible apply Keeps.dropKey
    | split

theorem mgmtAct (src : Nat) (m : MgmtMsg) (h : Keeps r₀ s) : Keeps r₀ (s.mgmtAct src m) := by
  cases m with
  | bringJobStop => exact Keeps.hearJobStop _ _ _ h
  | twin p k =>
    show Keeps r₀ (if s.mgr.acting then s.mgmt src (.twinSwitch p k) else s)
    split
    · exact Keeps.mgmt _ _ h
    · exact h
  | heartbeat =>
    show Keeps r₀ (if s.mgr.acting then s else s.modMgr fun g => { g with heartbeat := true, standing := false, best := 0 })
    split
    · exact h
    · exact Keeps.modMgr _ h
  | keyAsk job ranks =>
    show Keeps r₀ (if s.mgr.acting then s.giveKey job ranks src else s)
    split
    · exact Keeps.giveKey _ _ _ h
    · exact h
  | slotFree job =>
    show Keeps r₀ (if s.mgr.acting then s.slotFreed job else s.dropKey job)
    split
    · exact Keeps.slotFreed _ h
    · exact Keeps.dropKey _ h
  | _ => exact h

theorem msgAcked (id : Nat) (h : Keeps r₀ s) : Keeps r₀ (s.msgAcked id) := by
  unfold State.msgAcked
  try dsimp -iota -proj only
  repeat' first
    | with_reducible assumption
    | with_reducible apply Keeps.modMgr
    | with_reducible apply Keeps.modLink

theorem hearMgmt (src : Nat) (serial : W64) (pl : List Byte) (h : Keeps r₀ s) : Keeps r₀ (s.hearMgmt src serial pl) := by
  unfold State.hearMgmt
  try dsimp -iota -proj only
  repeat' first
    | with_reducible assumption
    | with_reducible apply Keeps.modLink
    | with_reducible apply Keeps.msgAcked
    | with_reducible apply Keeps.mgmtAct
    | with_reducible apply Keeps.sendMgmt
    | split

theorem hearSigned (src : Nat) (serial : W64) (b : List Byte) (h : Keeps r₀ s) : Keeps r₀ (s.hearSigned src serial b) := by
  unfold State.hearSigned
  try dsimp -iota -proj only
  repeat' first
    | with_reducible assumption
    | with_reducible apply Keeps.hearMgmt
    | split

theorem deliver (p : Nat) (lp : Nat) (f : Frame) (h : Keeps r₀ s) : Keeps r₀ (s.deliver p lp f) := by
  unfold State.deliver
  try dsimp -iota -proj only
  repeat' first
    | with_reducible assumption
    | with_reducible apply Keeps.cfault
    | with_reducible apply Keeps.emit
    | with_reducible apply Keeps.modLink
    | with_reducible apply Keeps.authFail
    | with_reducible apply Keeps.staleKeyDrop
    | with_reducible apply Keeps.hearMgmt
    | split
    | with_reducible refine Keeps.openFrame_some ?_ (by with_reducible assumption)

theorem ttlDrop (p : Nat) (f : Frame) (h : Keeps r₀ s) : Keeps r₀ (s.ttlDrop p f) := by
  unfold State.ttlDrop
  try dsimp -iota -proj only
  repeat' first
    | with_reducible assumption
    | with_reducible apply Keeps.linkEv
    | with_reducible apply Keeps.modPort

theorem flood (p : Nat) (f : Frame) (h : Keeps r₀ s) : Keeps r₀ (s.flood p f) := by
  unfold State.flood
  try dsimp -iota -proj only
  repeat' first
    | with_reducible assumption
    | with_reducible apply Keeps.modLink
    | with_reducible apply Keeps.hearSigned
    | with_reducible apply Keeps.ttlDrop
    | with_reducible apply Keeps.floodPorts
    | split

theorem forward (p : Nat) (f : Frame) (h : Keeps r₀ s) : Keeps r₀ (s.forward p f) := by
  unfold State.forward
  try dsimp -iota -proj only
  repeat' first
    | with_reducible assumption
    | with_reducible apply Keeps.noPath
    | with_reducible apply Keeps.ttlDrop
    | with_reducible apply Keeps.linkSend
    | split

theorem take (p : Nat) (lp : Nat) (f : Frame) (h : Keeps r₀ s) : Keeps r₀ (s.take p lp f) := by
  unfold State.take
  try dsimp -iota -proj only
  repeat' first
    | with_reducible assumption
    | with_reducible apply Keeps.emit
    | with_reducible apply Keeps.flood
    | with_reducible apply Keeps.deliver
    | with_reducible apply Keeps.forward
    | split

theorem takeEarly (p lp n : Nat) (h : Keeps r₀ s) : Keeps r₀ (s.takeEarly p lp n) := by
  induction n generalizing s with
  | zero => exact Keeps.modLport _ _ h
  | succ n ih =>
    unfold State.takeEarly
    dsimp -iota -proj only
    split
    · exact ih (Keeps.take _ _ _ (Keeps.modLport _ _ h))
    · exact Keeps.modLport _ _ h

theorem takePlace (x : Place) (h : Keeps r₀ s) : Keeps r₀ (s.takePlace x) := by
  unfold State.takePlace
  try dsimp -iota -proj only
  repeat' first
    | with_reducible assumption
    | with_reducible apply Keeps.modLink
    | with_reducible apply Keeps.post
    | split

theorem portVerdict (v : PortVerdict) (h : Keeps r₀ s) : Keeps r₀ (s.portVerdict v) := by
  unfold State.portVerdict
  try dsimp -iota -proj only
  repeat' first
    | with_reducible assumption
    | with_reducible apply Keeps.activate
    | with_reducible apply Keeps.linkEv
    | with_reducible apply Keeps.modPort
    | with_reducible apply Keeps.leave
    | split

theorem applyPlacement (place : Place) (verdicts : List PortVerdict) (routes : List (Nat × Nat)) (h : Keeps r₀ s) : Keeps r₀ (s.applyPlacement place verdicts routes) := by
  unfold State.applyPlacement
  try dsimp -iota -proj only
  repeat' first
    | with_reducible assumption
    | with_reducible apply Keeps.takePlace
    | with_reducible apply Keeps.modLink
    | with_reducible apply Keeps.reportNews
    | with_reducible apply Keeps.portVerdict
    | (with_reducible apply Keeps.foldl; intro _ _ _)
    | split

theorem keyReject (detail : W64) (h : Keeps r₀ s) : Keeps r₀ (s.keyReject detail) := by
  unfold State.keyReject
  try dsimp -iota -proj only
  repeat' first
    | with_reducible assumption
    | with_reducible apply Keeps.post

theorem sendOffer (rank : Nat) (serial : W64) (h : Keeps r₀ s) : Keeps r₀ (s.sendOffer rank serial) := by
  unfold State.sendOffer
  try dsimp -iota -proj only
  repeat' first
    | with_reducible assumption
    | with_reducible apply Keeps.draw_snd
    | with_reducible apply Keeps.sign_snd
    | with_reducible apply Keeps.mgmt
    | with_reducible apply Keeps.modMgr

theorem runPlacement (h : Keeps r₀ s) : Keeps r₀ (s.runPlacement) := by
  unfold State.runPlacement
  try dsimp -iota -proj only
  repeat' first
    | with_reducible assumption
    | with_reducible apply Keeps.modMgr
    | with_reducible apply Keeps.applyPlacement
    | with_reducible apply Keeps.mgmt
    | with_reducible apply Keeps.sendOffer
    | (with_reducible apply Keeps.foldl; intro _ _ _)
    | split

theorem sendHiveKey (rank : Nat) (wk : W256) (h : Keeps r₀ s) : Keeps r₀ (s.sendHiveKey rank wk) := by
  unfold State.sendHiveKey
  try dsimp -iota -proj only
  repeat' first
    | with_reducible assumption
    | with_reducible apply Keeps.mgmt
    | split

theorem refuseLoads (job : W64) (h : Keeps r₀ s) : Keeps r₀ (s.refuseLoads job) := by
  unfold State.refuseLoads
  try dsimp -iota -proj only
  repeat' first
    | with_reducible assumption
    | with_reducible apply Keeps.say
    | with_reducible apply Keeps.modLdr
    | (with_reducible apply Keeps.foldl; intro _ _ _)
    | split

theorem rehive (hive : W64) (h : Keeps r₀ s) : Keeps r₀ (s.rehive hive) := by
  unfold State.rehive
  try dsimp -iota -proj only
  repeat' first
    | with_reducible assumption
    | with_reducible apply Keeps.modLink
    | with_reducible apply Keeps.modSec
    | with_reducible apply Keeps.sendHiveKey
    | (with_reducible apply Keeps.foldl; intro _ _ _)
    | split

theorem becomeManager (h : Keeps r₀ s) : Keeps r₀ (s.becomeManager) := by
  unfold State.becomeManager
  try dsimp -iota -proj only
  repeat' first
    | with_reducible assumption
    | with_reducible apply Keeps.draw_snd
    | with_reducible apply Keeps.modMgr
    | with_reducible apply Keeps.modSec
    | with_reducible apply Keeps.ruleRetract
    | with_reducible apply Keeps.post
    | with_reducible apply Keeps.runPlacement
    | (with_reducible apply Keeps.foldl; intro _ _ _)
    | split

end Sys2Proof.Machine.Keeps
end

