-- ==== Sys2Proof/Laws/KeepsPower.lean ====
section
/-! SUPPORT. What the operations of power, registers, sessions and fault handling keep (Keeps.lean). -/

namespace Sys2Proof.Machine.Keeps

variable {r₀ s t : State}

theorem pwrEv (half : Nat) (cls : Nat) (detail : W64) (h : Keeps r₀ s) : Keeps r₀ (s.pwrEv half cls detail) := by
  unfold State.pwrEv
  try dsimp -iota -proj only
  repeat' first
    | with_reducible assumption
    | with_reducible apply Keeps.post

theorem closeSessions (f : Session → Bool) (h : Keeps r₀ s) : Keeps r₀ (s.closeSessions f) := by
  unfold State.closeSessions
  try dsimp -iota -proj only
  repeat' first
    | with_reducible assumption
    | with_reducible apply Keeps.modSec
    | with_reducible apply Keeps.say
    | (with_reducible apply Keeps.foldl; intro _ _ _)

theorem funcReset (h : Keeps r₀ s) : Keeps r₀ s.funcReset :=
  (Keeps.closeSessions (fun _ => true) h).same rfl rfl rfl

theorem railsOff (h : Keeps r₀ s) : Keeps r₀ (s.railsOff) := by
  unfold State.railsOff
  try dsimp -iota -proj only
  repeat' first
    | with_reducible assumption
    | with_reducible apply Keeps.funcReset
    | with_reducible apply Keeps.modPwr
    | with_reducible apply Keeps.keepMem

theorem railTrip (cls : Nat) (bit : Nat) (detail : W64) (f : Pwr → Pwr) (h : Keeps r₀ s) : Keeps r₀ (s.railTrip cls bit detail f) := by
  unfold State.railTrip
  try dsimp -iota -proj only
  repeat' first
    | with_reducible assumption
    | with_reducible apply Keeps.drainModule
    | with_reducible apply Keeps.modEv
    | with_reducible apply Keeps.modPwr
    | with_reducible apply Keeps.railsOff
    | with_reducible apply Keeps.alert
    | with_reducible apply Keeps.pwrEv
    | split

theorem wipe (h : Keeps r₀ s) : Keeps r₀ s.wipe := by
  unfold State.wipe
  dsimp -iota -proj only
  refine Keeps.modLdr _ (Keeps.modSec _ (Keeps.modEv _ ?_))
  exact (Keeps.keepMem (fun _ => false) (fun _ => false) (Keeps.draw_snd 16 (Keeps.draw_snd 256 h))).same rfl rfl rfl

theorem boot (k : Nat) (h : Keeps r₀ s) : Keeps r₀ (s.boot k) := by
  unfold State.boot
  try dsimp -iota -proj only
  repeat' first
    | with_reducible assumption
    | with_reducible apply Keeps.modSec
    | with_reducible apply Keeps.alert
    | split

theorem setVin (mv : W16) (h : Keeps r₀ s) : Keeps r₀ (s.setVin mv) := by
  unfold State.setVin
  try dsimp -iota -proj only
  repeat' first
    | with_reducible assumption
    | with_reducible apply Keeps.modFf

theorem halfFail (half : Nat) (h0 : StartHalf) (h : Keeps r₀ s) : Keeps r₀ (s.halfFail half h0) := by
  unfold State.halfFail
  try dsimp -iota -proj only
  repeat' first
    | with_reducible assumption
    | with_reducible apply Keeps.alert
    | with_reducible apply Keeps.pwrEv
    | with_reducible apply Keeps.modPwr
    | split

theorem latchStraps (w : StartHalf) (e0 : StartHalf) (h : Keeps r₀ s) : Keeps r₀ (s.latchStraps w e0) := by
  unfold State.latchStraps
  try dsimp -iota -proj only
  repeat' first
    | with_reducible assumption
    | with_reducible apply Keeps.modFf
    | with_reducible apply Keeps.post
    | split

theorem compareLcs (h : Keeps r₀ s) : Keeps r₀ (s.compareLcs) := by
  unfold State.compareLcs
  try dsimp -iota -proj only
  repeat' first
    | with_reducible assumption
    | with_reducible apply Keeps.pwrEv
    | split

theorem decideLead (east : Bool) (h : Keeps r₀ s) : Keeps r₀ (s.decideLead east) := by
  unfold State.decideLead
  try dsimp -iota -proj only
  repeat' first
    | with_reducible assumption
    | with_reducible apply Keeps.modFf
    | with_reducible apply Keeps.modPwr

theorem splitHalf (half : Nat) (h : Keeps r₀ s) : Keeps r₀ (s.splitHalf half) := by
  unfold State.splitHalf
  try dsimp -iota -proj only
  repeat' first
    | with_reducible assumption
    | with_reducible apply Keeps.mgmt
    | with_reducible apply Keeps.alert
    | with_reducible apply Keeps.modFf

theorem arbitrate (w : StartHalf) (e0 : StartHalf) (h : Keeps r₀ s) : Keeps r₀ (s.arbitrate w e0) := by
  unfold State.arbitrate
  try dsimp -iota -proj only
  repeat' first
    | with_reducible assumption
    | with_reducible apply Keeps.modFf
    | with_reducible apply Keeps.splitHalf
    | with_reducible apply Keeps.modPwr
    | with_reducible apply Keeps.decideLead
    | split

theorem startRails (w : StartHalf) (e0 : StartHalf) (h : Keeps r₀ s) : Keeps r₀ (s.startRails w e0) := by
  unfold State.startRails
  try dsimp -iota -proj only
  repeat' first
    | with_reducible assumption
    | with_reducible apply Keeps.modPwr
    | with_reducible apply Keeps.modFf
    | with_reducible apply Keeps.halfFail
    | with_reducible apply Keeps.wipe
    | with_reducible apply Keeps.keepMem
    | split

theorem startSessions (h : Keeps r₀ s) : Keeps r₀ (s.startSessions) := by
  unfold State.startSessions
  try dsimp -iota -proj only
  repeat' first
    | with_reducible assumption
    | with_reducible apply Keeps.draw_snd
    | with_reducible apply Keeps.modFf
    | with_reducible apply Keeps.modPwr
    | with_reducible apply Keeps.modLink

theorem startIdle (h : Keeps r₀ s) : Keeps r₀ (s.startIdle) := by
  unfold State.startIdle
  try dsimp -iota -proj only
  repeat' first
    | with_reducible assumption
    | with_reducible apply Keeps.modPwr
    | with_reducible apply Keeps.becomeManager
    | split

theorem startStep (w e0 : StartHalf) (k : Nat) (h : Keeps r₀ s) : Keeps r₀ (State.startStep w e0 s k) := by
  unfold State.startStep
  repeat' first
    | with_reducible assumption
    | with_reducible apply Keeps.modPwr
    | with_reducible apply Keeps.startRails
    | with_reducible apply Keeps.startSessions
    | with_reducible apply Keeps.startIdle
    | with_reducible apply Keeps.arbitrate
    | with_reducible apply Keeps.latchStraps
    | with_reducible apply Keeps.compareLcs
    | with_reducible apply Keeps.wipe
    | with_reducible apply Keeps.halfFail
    | with_reducible apply Keeps.decideLead
    | split

theorem startTo (w : StartHalf) (e0 : StartHalf) (n : Nat) (h : Keeps r₀ s) : Keeps r₀ (s.startTo w e0 n) := by
  unfold State.startTo
  try dsimp -iota -proj only
  repeat' first
    | with_reducible assumption
    | with_reducible apply Keeps.startStep
    | (with_reducible apply Keeps.foldl; intro _ _ _)

theorem holdReset (h : Keeps r₀ s) : Keeps r₀ (s.holdReset) := by
  unfold State.holdReset
  try dsimp -iota -proj only
  repeat' first
    | with_reducible assumption
    | with_reducible apply Keeps.funcReset
    | with_reducible apply Keeps.modPwr

theorem releaseReset (h : Keeps r₀ s) : Keeps r₀ (s.releaseReset) := by
  unfold State.releaseReset
  try dsimp -iota -proj only
  repeat' first
    | with_reducible assumption
    | with_reducible apply Keeps.modPwr
    | with_reducible apply Keeps.closeSessions

theorem levelsChanged (old : FfHalf) (new : FfHalf) (h : Keeps r₀ s) : Keeps r₀ (s.levelsChanged old new) := by
  unfold State.levelsChanged
  try dsimp -iota -proj only
  repeat' first
    | with_reducible assumption
    | with_reducible apply Keeps.railsOff
    | with_reducible apply Keeps.holdReset
    | with_reducible apply Keeps.releaseReset
    | with_reducible apply Keeps.modPwr
    | with_reducible apply Keeps.railTrip
    | split

theorem inputs (half : Nat) (h0 : FfHalf) (h : Keeps r₀ s) : Keeps r₀ (s.inputs half h0) := by
  unfold State.inputs
  try dsimp -iota -proj only
  repeat' first
    | with_reducible assumption
    | with_reducible apply Keeps.modFf
    | with_reducible apply Keeps.levelsChanged
    | split

theorem pinTo (half : Nat) (k : Nat) (v : Bool) (h : Keeps r₀ s) : Keeps r₀ (s.pinTo half k v) := by
  unfold State.pinTo
  try dsimp -iota -proj only
  repeat' first
    | with_reducible assumption
    | with_reducible apply Keeps.modFf
    | with_reducible apply Keeps.inputs
    | with_reducible apply Keeps.modPwr
    | with_reducible apply Keeps.post
    | split

theorem clearLatches (half : Nat) (bits : W32) (h : Keeps r₀ s) : Keeps r₀ (s.clearLatches half bits) := by
  unfold State.clearLatches
  try dsimp -iota -proj only
  repeat' first
    | with_reducible assumption
    | with_reducible apply Keeps.inputs
    | (with_reducible apply Keeps.foldl; intro _ _ _)
    | split

theorem moveDie (die : Nat) (cause : Nat) (watts : Nat) (f : Die → Die) (h : Keeps r₀ s) : Keeps r₀ (s.moveDie die cause watts f) := by
  unfold State.moveDie
  try dsimp -iota -proj only
  repeat' first
    | with_reducible assumption
    | with_reducible apply Keeps.modDie
    | with_reducible apply Keeps.modFf
    | with_reducible apply Keeps.alert
    | with_reducible apply Keeps.pwrEv
    | split

theorem takeTemps (die : Nat) (t0 : DieTemps) (h : Keeps r₀ s) : Keeps r₀ (s.takeTemps die t0) := by
  unfold State.takeTemps
  try dsimp -iota -proj only
  repeat' first
    | with_reducible assumption
    | with_reducible apply Keeps.modPwr

theorem goDark (h : Keeps r₀ s) : Keeps r₀ s.goDark := by
  have k : ∀ t p, Keeps r₀ t → Keeps r₀ (if (t.port p).en then t.portDown p .down else t) := by
    intro t p ht
    split
    · exact Keeps.portDown _ _ ht
    · exact ht
  unfold State.goDark
  have k1 := Keeps.keepMem (fun a => !lostAt a) (fun a => !lostAt a) (Keeps.foldl k h (List.range 24))
  generalize List.foldl _ s (List.range 24) = u at k1 ⊢
  exact k1.same rfl rfl rfl

theorem setLead (h0 : Nat) (h : Keeps r₀ s) : Keeps r₀ (s.setLead h0) := by
  unfold State.setLead
  try dsimp -iota -proj only
  repeat' first
    | with_reducible assumption
    | with_reducible apply Keeps.modPwr
    | with_reducible apply Keeps.closeSessions
    | split

theorem learnLead (half : Nat) (lead : Nat) (h : Keeps r₀ s) : Keeps r₀ (s.learnLead half lead) := by
  unfold State.learnLead
  try dsimp -iota -proj only
  repeat' first
    | with_reducible assumption
    | with_reducible apply Keeps.modFf
    | with_reducible apply Keeps.setLead

theorem resumeWork (h : Keeps r₀ s) : Keeps r₀ (s.resumeWork) := by
  unfold State.resumeWork
  try dsimp -iota -proj only
  repeat' first
    | with_reducible assumption
    | with_reducible apply Keeps.gateApply
    | with_reducible apply Keeps.hearRetract
    | with_reducible apply Keeps.managerHear
    | with_reducible apply Keeps.modMgr
    | (with_reducible apply Keeps.foldl; intro _ _ _)
    | split

theorem resumeStart (h : Keeps r₀ s) : Keeps r₀ (s.resumeStart) := by
  unfold State.resumeStart
  try dsimp -iota -proj only
  repeat' first
    | with_reducible assumption
    | with_reducible apply Keeps.startSessions
    | with_reducible apply Keeps.modPwr
    | with_reducible apply Keeps.startIdle
    | split

theorem splitEv (half : Nat) (lead : Nat) (h : Keeps r₀ s) : Keeps r₀ (s.splitEv half lead) := by
  unfold State.splitEv
  try dsimp -iota -proj only
  repeat' first
    | with_reducible assumption
    | with_reducible apply Keeps.pwrEv

theorem regRead (r : RegAt) (h : Keeps r₀ s) : Keeps r₀ (s.regRead r) := by
  unfold State.regRead
  try dsimp -iota -proj only
  repeat' first
    | with_reducible assumption
    | with_reducible apply Keeps.modCore
    | with_reducible apply Keeps.modDie
    | split

theorem startScan (die : Nat) (pos : Nat) (h : Keeps r₀ s) : Keeps r₀ (s.startScan die pos) := by
  unfold State.startScan
  try dsimp -iota -proj only
  repeat' first
    | with_reducible assumption
    | with_reducible apply Keeps.modEv

theorem setMax (die : Nat) (max_ : Nat) (h : Keeps r₀ s) : Keeps r₀ (s.setMax die max_) := by
  unfold State.setMax
  try dsimp -iota -proj only
  repeat' first
    | with_reducible assumption
    | with_reducible apply Keeps.moveDie

theorem writeScanctl (v : W64) (h : Keeps r₀ s) : Keeps r₀ (s.writeScanctl v) := by
  unfold State.writeScanctl
  try dsimp -iota -proj only
  repeat' first
    | with_reducible assumption
    | with_reducible apply Keeps.modEv
    | with_reducible apply Keeps.startScan
    | split

theorem writeUnit_eq {r : RegAt} {v : W64} {va} (h : Keeps r₀ s) (e : s.writeUnit r v = (va, t)) : Keeps r₀ t := by
  unfold State.writeUnit at e
  try dsimp -iota -proj only at e
  repeat' first
    | with_reducible assumption
    | with_reducible apply Keeps.modCore
    | with_reducible apply Keeps.modDie
    | with_reducible apply Keeps.modUnit
    | (with_reducible injection e with _ e; subst e)
    | split at e
theorem writeUnit_snd (r : RegAt) (v : W64) (h : Keeps r₀ s) : Keeps r₀ (s.writeUnit r v).2 := writeUnit_eq h Prod.mk.eta.symm

theorem writeLnk_eq {p : Nat} {o : Nat} {v : W64} {va} (h : Keeps r₀ s) (e : s.writeLnk p o v = (va, t)) : Keeps r₀ t := by
  unfold State.writeLnk at e
  try dsimp -iota -proj only at e
  repeat' first
    | with_reducible assumption
    | with_reducible apply Keeps.modPort
    | with_reducible apply Keeps.writeLnkCfg
    | (with_reducible injection e with _ e; subst e)
    | split at e
theorem writeLnk_snd (p : Nat) (o : Nat) (v : W64) (h : Keeps r₀ s) : Keeps r₀ (s.writeLnk p o v).2 := writeLnk_eq h Prod.mk.eta.symm

theorem writeFf_eq {half : Nat} {o : Nat} {v : W64} {va} (h : Keeps r₀ s) (e : s.writeFf half o v = (va, t)) : Keeps r₀ t := by
  unfold State.writeFf at e
  try dsimp -iota -proj only at e
  repeat' first
    | with_reducible assumption
    | with_reducible apply Keeps.modEv
    | with_reducible apply Keeps.writeScanctl
    | with_reducible apply Keeps.clearLatches
    | with_reducible apply Keeps.modFf
    | (with_reducible injection e with _ e; subst e)
    | split at e
theorem writeFf_snd (half : Nat) (o : Nat) (v : W64) (h : Keeps r₀ s) : Keeps r₀ (s.writeFf half o v).2 := writeFf_eq h Prod.mk.eta.symm

theorem writeMgt_eq {role : Nat} {o : Nat} {v : W64} {va} (h : Keeps r₀ s) (e : s.writeMgt role o v = (va, t)) : Keeps r₀ t := by
  unfold State.writeMgt at e
  try dsimp -iota -proj only at e
  repeat' first
    | with_reducible assumption
    | with_reducible apply Keeps.modSec
    | (with_reducible injection e with _ e; subst e)
    | split at e
theorem writeMgt_snd (role : Nat) (o : Nat) (v : W64) (h : Keeps r₀ s) : Keeps r₀ (s.writeMgt role o v).2 := writeMgt_eq h Prod.mk.eta.symm

theorem writePwr_eq {half : Nat} {o : Nat} {v : W64} {va} (h : Keeps r₀ s) (e : s.writePwr half o v = (va, t)) : Keeps r₀ t := by
  unfold State.writePwr at e
  try dsimp -iota -proj only at e
  repeat' first
    | with_reducible assumption
    | with_reducible apply Keeps.modPwr
    | with_reducible apply Keeps.setMax
    | (with_reducible injection e with _ e; subst e)
    | split at e
theorem writePwr_snd (half : Nat) (o : Nat) (v : W64) (h : Keeps r₀ s) : Keeps r₀ (s.writePwr half o v).2 := writePwr_eq h Prod.mk.eta.symm

theorem writeReg_eq {role : Nat} {r : RegAt} {v : W64} {va} (h : Keeps r₀ s) (e : s.writeReg role r v = (va, t)) : Keeps r₀ t := by
  unfold State.writeReg at e
  try dsimp -iota -proj only at e
  repeat' first
    | with_reducible assumption
    | with_reducible apply Keeps.modSyn
    | with_reducible apply Keeps.writeLnk_snd
    | with_reducible apply Keeps.writeFf_snd
    | with_reducible apply Keeps.writeMgt_snd
    | with_reducible apply Keeps.writePwr_snd
    | with_reducible apply Keeps.writeUnit_snd
    | (with_reducible injection e with _ e; subst e)
    | with_reducible refine Keeps.writeLnk_eq ?_ e
    | with_reducible refine Keeps.writeFf_eq ?_ e
    | with_reducible refine Keeps.writeMgt_eq ?_ e
    | with_reducible refine Keeps.writePwr_eq ?_ e
    | with_reducible refine Keeps.writeUnit_eq ?_ e
    | split at e
theorem writeReg_snd (role : Nat) (r : RegAt) (v : W64) (h : Keeps r₀ s) : Keeps r₀ (s.writeReg role r v).2 := writeReg_eq h Prod.mk.eta.symm

theorem sayGap (sid : W32) (a : W64) (b : W64) (h : Keeps r₀ s) : Keeps r₀ (s.sayGap sid a b) := by
  unfold State.sayGap
  try dsimp -iota -proj only
  repeat' first
    | with_reducible assumption
    | with_reducible apply Keeps.alert
    | with_reducible apply Keeps.say

theorem sayEvents (sid : W32) (es : List EvRec) (h : Keeps r₀ s) : Keeps r₀ (s.sayEvents sid es) := by
  unfold State.sayEvents
  try dsimp -iota -proj only
  repeat' first
    | with_reducible assumption
    | with_reducible apply Keeps.say
    | (with_reducible apply Keeps.foldl; intro _ _ _)

theorem deliverTo (k : Session) (h : Keeps r₀ s) : Keeps r₀ (s.deliverTo k) := by
  unfold State.deliverTo
  try dsimp -iota -proj only
  repeat' first
    | with_reducible assumption
    | with_reducible apply Keeps.sayGap
    | with_reducible apply Keeps.sayEvents
    | with_reducible apply Keeps.modSec
    | split

theorem deliverEvents (h : Keeps r₀ s) : Keeps r₀ (s.deliverEvents) := by
  unfold State.deliverEvents
  try dsimp -iota -proj only
  repeat' first
    | with_reducible assumption
    | with_reducible apply Keeps.deliverTo
    | (with_reducible apply Keeps.foldl; intro _ _ _)

theorem unreadCheck (h : Keeps r₀ s) : Keeps r₀ (s.unreadCheck) := by
  unfold State.unreadCheck
  try dsimp -iota -proj only
  repeat' first
    | with_reducible assumption
    | with_reducible apply Keeps.modSec
    | split

theorem command (m : CmdHdr) (c : CmdKind) {go : Session → State → SessOut × State} {after : Session → Byte → State → State}
    (hafter : ∀ k t o, Keeps r₀ t → t.gateCmd k c = none → Keeps r₀ (after k (go k t).1.status ((go k t).2.say o))) (h : Keeps r₀ s) :
    Keeps r₀ (s.command m c go after) := by
  unfold State.command
  dsimp -iota -proj only
  repeat' split
  · exact h
  · exact Keeps.say _ (Keeps.modSec _ h)
  · rename_i hq
    refine hafter _ _ _ (Keeps.modSec _ h) ?_
    split at hq
    · cases hq
    · exact hq

theorem cmd (m : CmdHdr) (c : CmdKind) {go : Session → State → SessOut × State}
    (hgo : ∀ k t, Keeps r₀ t → t.gateCmd k c = none → Keeps r₀ (go k t).2) (h : Keeps r₀ s) : Keeps r₀ (s.cmd m c go) :=
  Keeps.command m c (fun k t _ ht hg => Keeps.say _ (hgo k t ht hg)) h

theorem dropSessions (f : Session → Bool) (h : Keeps r₀ s) : Keeps r₀ (s.dropSessions f) := by
  unfold State.dropSessions
  try dsimp -iota -proj only
  repeat' first
    | with_reducible assumption
    | with_reducible apply Keeps.modSec

theorem report_eq {nonce : W256} {va} (h : Keeps r₀ s) (e : s.report nonce = (va, t)) : Keeps r₀ t := by
  unfold State.report at e
  try dsimp -iota -proj only at e
  repeat' first
    | with_reducible assumption
    | with_reducible apply Keeps.sign_snd
    | (with_reducible injection e with _ e; subst e)
    | with_reducible refine Keeps.sign_eq ?_ e
    | split at e
theorem report_snd (nonce : W256) (h : Keeps r₀ s) : Keeps r₀ (s.report nonce).2 := report_eq h Prod.mk.eta.symm

theorem closeSlot (slot : Nat) (k : Session) (st : Byte) (h : Keeps r₀ s) : Keeps r₀ (State.closeSlot slot k st s) := by
  unfold State.closeSlot
  split
  · exact Keeps.closeSessions _ h
  · exact h

theorem softReset (h : Keeps r₀ s) : Keeps r₀ (s.softReset) := by
  unfold State.softReset
  try dsimp -iota -proj only
  repeat' first
    | with_reducible assumption
    | with_reducible apply Keeps.modPwr
    | with_reducible apply Keeps.funcReset

theorem advanceLcs {target : Nat} (hl : s.lcs ≤ target) (ht : target < 8) (h : Keeps r₀ s) : Keeps r₀ (s.advanceLcs target) := by
  refine Keeps.modFuse h ⟨?_, ?_, BitVec.le_refl _, rfl, rfl, rfl⟩ <;>
  · show _ ≤ BitVec.ofNat 3 target
    rw [BitVec.le_def, BitVec.toNat_ofNat, Nat.mod_eq_of_lt ht]
    unfold State.lcs at hl
    omega

theorem transition {target : Nat} (hl : s.lcs ≤ target) (ht : target < 8) (h : Keeps r₀ s) : Keeps r₀ (s.transition target) := by
  have h1 := Keeps.advanceLcs hl ht h
  unfold State.transition
  dsimp -iota -proj only
  repeat' first
    | exact h1
    | with_reducible apply Keeps.modLdr
    | with_reducible apply Keeps.wipe
    | with_reducible apply Keeps.softReset
    | with_reducible apply Keeps.modMgr
    | with_reducible apply Keeps.modSec
    | refine Keeps.modFuse ?_ ⟨BitVec.le_refl _, BitVec.le_refl _, BitVec.le_refl _, rfl, rfl, rfl⟩
    | split

theorem logRecord (half : Nat) (e0 : EvRec) (h : Keeps r₀ s) : Keeps r₀ (s.logRecord half e0) := by
  unfold State.logRecord
  try dsimp -iota -proj only
  repeat' first
    | with_reducible assumption
    | with_reducible apply Keeps.modEv
    | with_reducible apply Keeps.record
    | split

theorem pin (p : Nat) (step : W64) (h : Keeps r₀ s) : Keeps r₀ (s.pin p step) := by
  unfold State.pin
  try dsimp -iota -proj only
  repeat' first
    | with_reducible assumption
    | with_reducible apply Keeps.modEv

theorem askTwins (die : Nat) (h : Keeps r₀ s) : Keeps r₀ (s.askTwins die) := by
  unfold State.askTwins
  try dsimp -iota -proj only
  repeat' first
    | with_reducible assumption
    | with_reducible apply Keeps.mgmt
    | (with_reducible apply Keeps.foldl; intro _ _ _)

theorem noteEscal (u : W32) (p : Nat) (h : Keeps r₀ s) : Keeps r₀ (s.noteEscal u p) := by
  unfold State.noteEscal
  try dsimp -iota -proj only
  repeat' first
    | with_reducible assumption
    | with_reducible apply Keeps.tryRewind
    | with_reducible apply Keeps.modPart
    | split

theorem escalateCore (p : Nat) (u : W32) (h : Keeps r₀ s) : Keeps r₀ (s.escalateCore p u) := by
  unfold State.escalateCore
  try dsimp -iota -proj only
  repeat' first
    | with_reducible assumption
    | with_reducible apply Keeps.noteEscal
    | with_reducible apply Keeps.substituteNow_snd
    | with_reducible apply Keeps.fence
    | with_reducible apply Keeps.mask
    | split

theorem escalateHub (p : Nat) (cls : Nat) (u : W32) (die : Nat) (h : Keeps r₀ s) : Keeps r₀ (s.escalateHub p cls u die) := by
  unfold State.escalateHub
  try dsimp -iota -proj only
  repeat' first
    | with_reducible assumption
    | with_reducible apply Keeps.drainModule
    | with_reducible apply Keeps.mask
    | with_reducible apply Keeps.fence
    | with_reducible apply Keeps.askTwins
    | with_reducible apply Keeps.noteEscal
    | (with_reducible apply Keeps.foldl; intro _ _ _)
    | split

theorem escalateUnit (e0 : EvRec) (p : Nat) (u : W32) (h : Keeps r₀ s) : Keeps r₀ (s.escalateUnit e0 p u) := by
  unfold State.escalateUnit
  try dsimp -iota -proj only
  repeat' first
    | with_reducible assumption
    | with_reducible apply Keeps.escalateCore
    | with_reducible apply Keeps.drainModule
    | with_reducible apply Keeps.modEv
    | with_reducible apply Keeps.escalateHub
    | with_reducible apply Keeps.writeLnkCfg
    | split

theorem handleE (e0 : EvRec) (u : W32) (h : Keeps r₀ s) : Keeps r₀ (s.handleE e0 u) := by
  unfold State.handleE
  try dsimp -iota -proj only
  repeat' first
    | with_reducible assumption
    | with_reducible apply Keeps.modPart
    | with_reducible apply Keeps.escalateUnit
    | split

theorem handleBounds (e0 : EvRec) (h : Keeps r₀ s) : Keeps r₀ (s.handleBounds e0) := by
  unfold State.handleBounds
  try dsimp -iota -proj only
  repeat' first
    | with_reducible assumption
    | with_reducible apply Keeps.modPart
    | with_reducible apply Keeps.stopJob
    | split

theorem stepAction (e0 : EvRec) (h : Keeps r₀ s) : Keeps r₀ (s.stepAction e0) := by
  unfold State.stepAction
  try dsimp -iota -proj only
  repeat' first
    | with_reducible assumption
    | with_reducible apply Keeps.handleE
    | with_reducible apply Keeps.drainModule
    | with_reducible apply Keeps.abortDue
    | with_reducible apply Keeps.handleBounds
    | with_reducible apply Keeps.stopJob
    | (with_reducible apply Keeps.foldl; intro _ _ _)
    | split

theorem ringPut (r : CapRec) (h : Keeps r₀ s) : Keeps r₀ (s.ringPut r) := by
  unfold State.ringPut
  try dsimp -iota -proj only
  repeat' first
    | with_reducible assumption
    | with_reducible apply Keeps.modEv
    | with_reducible apply Keeps.capsuleEv
    | split

theorem resumeEscalations (h : Keeps r₀ s) : Keeps r₀ (s.resumeEscalations) := by
  unfold State.resumeEscalations
  try dsimp -iota -proj only
  repeat' first
    | with_reducible assumption
    | with_reducible apply Keeps.runEscalations
    | (with_reducible apply Keeps.foldl; intro _ _ _)
    | split

end Sys2Proof.Machine.Keeps
end

