-- ==== Sys2Proof/Laws/KeepsLoad.lean ====
section
/-! SUPPORT. What the operations of loading, releasing and switching partitions keep (Keeps.lean). -/

namespace Sys2Proof.Machine.Keeps

variable {r₀ s t : State}

theorem zeroRange (lo : Nat) (hi : Nat) (h : Keeps r₀ s) : Keeps r₀ (s.zeroRange lo hi) := by
  unfold State.zeroRange
  try dsimp -iota -proj only
  repeat' first
    | with_reducible assumption
    | with_reducible apply Keeps.keepMem

theorem clearCore (k : Nat) (h : Keeps r₀ s) : Keeps r₀ (s.clearCore k) := by
  unfold State.clearCore
  try dsimp -iota -proj only
  repeat' first
    | with_reducible assumption
    | with_reducible apply Keeps.modCore
    | with_reducible apply Keeps.zeroRange

theorem placeCore (key : Nat) (pos : Nat) (h : Keeps r₀ s) : Keeps r₀ (s.placeCore key pos) := by
  unfold State.placeCore
  try dsimp -iota -proj only
  repeat' first
    | with_reducible assumption
    | with_reducible apply Keeps.modCore
    | with_reducible apply Keeps.clearCore
    | split

theorem applySpares (m : Img) (h : Keeps r₀ s) : Keeps r₀ (s.applySpares m) := by
  unfold State.applySpares
  try dsimp -iota -proj only
  repeat' first
    | with_reducible assumption
    | with_reducible apply Keeps.placeCore
    | (with_reducible apply Keeps.foldl; intro _ _ _)
    | split

theorem setPlanes (m : Img) (h : Keeps r₀ s) : Keeps r₀ (s.setPlanes m) := by
  unfold State.setPlanes
  try dsimp -iota -proj only
  repeat' first
    | with_reducible assumption
    | with_reducible apply Keeps.modLink

theorem allocSync (x : Part) (mirrored : Nat → Bool) (again : Bool) (r : List Byte) (h : Keeps r₀ s) : Keeps r₀ (s.allocSync x mirrored again r) := by
  unfold State.allocSync
  try dsimp -iota -proj only
  repeat' first
    | with_reducible assumption
    | with_reducible apply Keeps.modObj
    | (with_reducible apply Keeps.foldl; intro _ _ _)

theorem allocPart (m : Img) (p : Nat) (x : Part) (again : Bool) (h : Keeps r₀ s) : Keeps r₀ (s.allocPart m p x again) := by
  unfold State.allocPart
  try dsimp -iota -proj only
  repeat' first
    | with_reducible assumption
    | with_reducible apply Keeps.allocSync
    | (with_reducible apply Keeps.foldl; intro _ _ _)

theorem preview (m : Img) (h : Keeps r₀ s) : Keeps r₀ (s.preview m) := by
  unfold State.preview
  try dsimp -iota -proj only
  repeat' first
    | with_reducible assumption
    | with_reducible apply Keeps.modObj
    | with_reducible apply Keeps.setPlanes
    | with_reducible apply Keeps.applySpares
    | with_reducible apply Keeps.modPart
    | with_reducible apply Keeps.allocPart
    | (with_reducible apply Keeps.foldl; intro _ _ _)

theorem tagCore (k : Nat) (t0 : Nat) (h : Keeps r₀ s) : Keeps r₀ (s.tagCore k t0) := by
  unfold State.tagCore
  try dsimp -iota -proj only
  repeat' first
    | with_reducible assumption
    | with_reducible apply Keeps.modLdr

theorem tagGran (g : Nat) (t0 : Nat) (h : Keeps r₀ s) : Keeps r₀ (s.tagGran g t0) := by
  unfold State.tagGran
  try dsimp -iota -proj only
  repeat' first
    | with_reducible assumption
    | with_reducible apply Keeps.modLdr

theorem tagTurn (p : Nat) (h : Keeps r₀ s) : Keeps r₀ (s.tagTurn p) := by
  unfold State.tagTurn
  try dsimp -iota -proj only
  repeat' first
    | with_reducible assumption
    | with_reducible apply Keeps.tagGran
    | with_reducible apply Keeps.tagCore
    | (with_reducible apply Keeps.foldl; intro _ _ _)

theorem scrubPart (p : Nat) (x : Part) (h : Keeps r₀ s) : Keeps r₀ (s.scrubPart p x) := by
  unfold State.scrubPart
  try dsimp -iota -proj only
  repeat' first
    | with_reducible assumption
    | with_reducible apply Keeps.tagCore
    | with_reducible apply Keeps.clearCore
    | with_reducible apply Keeps.tagGran
    | with_reducible apply Keeps.zeroRange
    | (with_reducible apply Keeps.foldl; intro _ _ _)
    | split

theorem dropTransfers (p : Nat) (h : Keeps r₀ s) : Keeps r₀ (s.dropTransfers p) := by
  unfold State.dropTransfers
  try dsimp -iota -proj only
  repeat' first
    | with_reducible assumption
    | with_reducible apply Keeps.modDie
    | with_reducible apply Keeps.updNext
    | with_reducible apply Keeps.modUnit
    | (with_reducible apply Keeps.foldl; intro _ _ _)

theorem dropExchange (p : Nat) (h : Keeps r₀ s) : Keeps r₀ (s.dropExchange p) := by
  unfold State.dropExchange
  try dsimp -iota -proj only
  repeat' first
    | with_reducible assumption
    | with_reducible apply Keeps.dropTransfers
    | with_reducible apply Keeps.modDie
    | with_reducible apply Keeps.modUnit
    | (with_reducible apply Keeps.foldl; intro _ _ _)

theorem freeObjs (p : Nat) (h : Keeps r₀ s) : Keeps r₀ (s.freeObjs p) := by
  unfold State.freeObjs
  try dsimp -iota -proj only
  repeat' first
    | with_reducible assumption
    | with_reducible apply Keeps.modObj
    | with_reducible apply Keeps.modSyn
    | (with_reducible apply Keeps.foldl; intro _ _ _)

theorem unload (p : Nat) (h : Keeps r₀ s) : Keeps r₀ (s.unload p) := by
  unfold State.unload
  try dsimp -iota -proj only
  repeat' first
    | with_reducible assumption
    | with_reducible apply Keeps.modCore
    | with_reducible apply Keeps.modPart
    | with_reducible apply Keeps.freeObjs
    | with_reducible apply Keeps.dropExchange
    | (with_reducible apply Keeps.foldl; intro _ _ _)

theorem applyRoutes (m : Img) (h : Keeps r₀ s) : Keeps r₀ (s.applyRoutes m) := by
  unfold State.applyRoutes
  try dsimp -iota -proj only
  repeat' first
    | with_reducible assumption
    | with_reducible apply Keeps.reportNews
    | with_reducible apply Keeps.activate
    | with_reducible apply Keeps.modPort
    | with_reducible apply Keeps.setPlanes
    | (with_reducible apply Keeps.foldl; intro _ _ _)
    | split

theorem seedScale (p : Nat) (x : Part) (h : Keeps r₀ s) : Keeps r₀ (s.seedScale p x) := by
  unfold State.seedScale
  try dsimp -iota -proj only
  repeat' first
    | with_reducible assumption
    | with_reducible apply Keeps.modUnit
    | (with_reducible apply Keeps.foldl; intro _ _ _)

theorem loadRecords (p : Nat) (x : Part) (b : List Byte) (h : Keeps r₀ s) : Keeps r₀ (s.loadRecords p x b) := by
  unfold State.loadRecords
  try dsimp -iota -proj only
  repeat' first
    | with_reducible assumption
    | with_reducible apply Keeps.record
    | with_reducible apply Keeps.stepOpen

theorem install (m : Img) (p : Nat) (x : Part) (again : Bool) (h : Keeps r₀ s) : Keeps r₀ (s.install m p x again) := by
  unfold State.install
  try dsimp -iota -proj only
  repeat' first
    | with_reducible assumption
    | with_reducible apply Keeps.allocPart
    | with_reducible apply Keeps.modDie
    | with_reducible apply Keeps.modCore
    | with_reducible apply Keeps.modPart
    | with_reducible apply Keeps.setCore
    | with_reducible apply Keeps.writeMem
    | (with_reducible apply Keeps.foldl; intro _ _ _)
    | split

theorem keyFirst (b : List Byte) (h : Keeps r₀ s) : Keeps r₀ (s.keyFirst b) := by
  unfold State.keyFirst
  try dsimp -iota -proj only
  repeat' first
    | with_reducible assumption
    | with_reducible apply Keeps.giveKey
    | with_reducible apply Keeps.mgmt
    | split

theorem submit (sid : W32) (seq : W64) (b : List Byte) (h : Keeps r₀ s) : Keeps r₀ (s.submit sid seq b) := by
  unfold State.submit
  try dsimp -iota -proj only
  repeat' first
    | with_reducible assumption
    | with_reducible apply Keeps.keyFirst
    | with_reducible apply Keeps.modLdr

theorem announce (p : Nat) (x : Part) (h : Keeps r₀ s) : Keeps r₀ (s.announce p x) := by
  unfold State.announce
  try dsimp -iota -proj only
  repeat' first
    | with_reducible assumption
    | with_reducible apply Keeps.mgmt

theorem leaveJobs (jobs : List W64) (h : Keeps r₀ s) : Keeps r₀ (s.leaveJobs jobs) := by
  unfold State.leaveJobs
  try dsimp -iota -proj only
  repeat' first
    | with_reducible assumption
    | with_reducible apply Keeps.leaveSlot
    | (with_reducible apply Keeps.foldl; intro _ _ _)
    | split

theorem applyImage (b : List Byte) (h : Keeps r₀ s) : Keeps r₀ (s.applyImage b) := by
  unfold State.applyImage
  try dsimp -iota -proj only
  repeat' first
    | with_reducible assumption
    | with_reducible apply Keeps.unload
    | with_reducible apply Keeps.applySpares
    | with_reducible apply Keeps.scrubPart
    | with_reducible apply Keeps.applyRoutes
    | with_reducible apply Keeps.leaveJobs
    | with_reducible apply Keeps.install
    | with_reducible apply Keeps.announce
    | with_reducible apply Keeps.loadRecords
    | with_reducible apply Keeps.seedScale
    | with_reducible apply Keeps.openChunks
    | with_reducible apply Keeps.replayStage
    | with_reducible apply Keeps.modPwr
    | with_reducible apply Keeps.settlePower
    | (with_reducible apply Keeps.foldl; intro _ _ _)

theorem showReport (hs : List Nat) (rep32 : List Byte) (one : Bool) (h : Keeps r₀ s) : Keeps r₀ (s.showReport hs rep32 one) := by
  unfold State.showReport
  try dsimp -iota -proj only
  repeat' first
    | with_reducible assumption
    | with_reducible apply Keeps.modFf
    | (with_reducible apply Keeps.foldl; intro _ _ _)

theorem report32 (hs : List Nat) (sid : W32) (seq : W64) (rep32 : List Byte) (one : Bool) (h : Keeps r₀ s) : Keeps r₀ (s.report32 hs sid seq rep32 one) := by
  unfold State.report32
  try dsimp -iota -proj only
  repeat' first
    | with_reducible assumption
    | with_reducible apply Keeps.showReport
    | with_reducible apply Keeps.post
    | with_reducible apply Keeps.say
    | split

theorem pllsOff (cores : List Nat) (h : Keeps r₀ s) : Keeps r₀ (s.pllsOff cores) := by
  unfold State.pllsOff
  try dsimp -iota -proj only
  repeat' first
    | with_reducible assumption
    | with_reducible apply Keeps.modDie
    | (with_reducible apply Keeps.foldl; intro _ _ _)
    | split

theorem saveOut (p : Nat) (h : Keeps r₀ s) : Keeps r₀ (s.saveOut p) := by
  unfold State.saveOut
  try dsimp -iota -proj only
  repeat' first
    | with_reducible assumption
    | with_reducible apply Keeps.readCw_snd
    | with_reducible apply Keeps.dropTransfers
    | with_reducible apply Keeps.keepMem
    | with_reducible apply Keeps.modCore
    | with_reducible apply Keeps.modPart
    | (with_reducible apply Keeps.foldl; intro _ _ _)

theorem sendResume (p : Nat) (h : Keeps r₀ s) : Keeps r₀ (s.sendResume p) := by
  unfold State.sendResume
  try dsimp -iota -proj only
  repeat' first
    | with_reducible assumption
    | with_reducible apply Keeps.emit
    | (with_reducible apply Keeps.foldl; intro _ _ _)
    | split

theorem sendAgain (p : Nat) (h : Keeps r₀ s) : Keeps r₀ (s.sendAgain p) := by
  unfold State.sendAgain
  try dsimp -iota -proj only
  repeat' first
    | with_reducible assumption
    | with_reducible apply Keeps.countResent
    | with_reducible apply Keeps.emit
    | (with_reducible apply Keeps.foldl; intro _ _ _)
    | split

theorem restoreTransfers (ch : Chrysalis) (h : Keeps r₀ s) : Keeps r₀ (s.restoreTransfers ch) := by
  unfold State.restoreTransfers
  try dsimp -iota -proj only
  repeat' first
    | with_reducible assumption
    | with_reducible apply Keeps.modDie
    | with_reducible apply Keeps.updNext
    | with_reducible apply Keeps.modUnit
    | with_reducible apply Keeps.pushDescs
    | (with_reducible apply Keeps.foldl; intro _ _ _)

theorem restore (p : Nat) (h : Keeps r₀ s) : Keeps r₀ (s.restore p) := by
  unfold State.restore
  try dsimp -iota -proj only
  repeat' first
    | with_reducible assumption
    | with_reducible apply Keeps.modPart
    | with_reducible apply Keeps.tagTurn
    | with_reducible apply Keeps.report32
    | with_reducible apply Keeps.keepMem
    | with_reducible apply Keeps.setCore
    | with_reducible apply Keeps.wr8
    | with_reducible apply Keeps.setErr
    | with_reducible apply Keeps.restoreTransfers
    | with_reducible apply Keeps.uncorrectable
    | with_reducible apply Keeps.modCore
    | with_reducible apply Keeps.sendResume
    | with_reducible apply Keeps.sendAgain
    | with_reducible apply Keeps.handleRetract
    | (with_reducible apply Keeps.foldl; intro _ _ _)
    | split

theorem switchTo (p : Nat) (h : Keeps r₀ s) : Keeps r₀ (s.switchTo p) := by
  unfold State.switchTo
  try dsimp -iota -proj only
  repeat' first
    | with_reducible assumption
    | with_reducible apply Keeps.settlePower
    | with_reducible apply Keeps.restore
    | with_reducible apply Keeps.saveOut
    | split

end Sys2Proof.Machine.Keeps
end

