-- ==== Sys2Proof/Tests/Slice0.lean ====
section
/-! SUPPORT. Tests: commands that are not well formed, worked values of the spec, and for every statement with hypotheses a state and
operands that meet them. -/

namespace Sys2Proof.Tests

set_option Elab.async false

open Sys2Proof Sys2Proof.Machine

/-! ### States the tests start from -/

/-- A module in FIELD that runs, led by West, with an operator's session of each role and keys in its fuses. -/
def live : State :=
  { State.reset with
    fuse := { State.reset.fuse with lcsW := 2, lcsE := 2, serial := 7 }
    pwr := { supply := true, rails := true, state := .run, step := 10, start := false, lead := .west }
    ff0 := { up := true, pinOk := true, sbOk := true, claim := true, selfOk := true, coolOk := true, pwrEn := true, pcieUp := true, vin := 40000 }
    ff1 := { up := true, pinOk := true, sbOk := true, selfOk := true, coolOk := true, pwrEn := true, pcieUp := true, vin := 40000 } }

/-- Partition 0: loaded, resident, with core 0 and windows over all of HBM and its core store. -/
def part0 : Part :=
  { loaded := true, resident := true, job := 5, cores := [0]
    wins := [(0, { base := 0, last := 0x6FFFFFFFFFFF, v := true, wr := true, rd := true })] }

/-- A stream that runs in an image of 256 instructions at address 0, with planned maxima of 8. -/
def runs0 : Stream :=
  { state := .running, imgLen := 4096, smax := Vector.replicate 4 8, a := Vector.ofFn fun k => BitVec.ofNat 64 (256 * k.val)
    s := Vector.replicate 16 64, c := Vector.ofFn fun k => BitVec.ofNat 32 k.val, stime := 100 }

/-- The forward stream of core 0 of die 0. -/
def i0 : StreamId := ⟨0, 0, .fwd⟩

/-- The live module with core 0 ON in partition 0 and its forward stream as given. -/
def withStream (st : Stream) : State :=
  { live with
    parts := [(0, part0)]
    cores := [(0, { pow := .on, part := some 0, wins := part0.wins, fwd := st })] }

/-- An instruction word: family, opcode and the rest. -/
def word (fam op rest : Nat) : W128 := BitVec.ofNat 128 (fam * 2 ^ 125 + op * 2 ^ 120 + rest)

/-- A queue entry of an engine with an instruction word, one repetition and the registers of `runs0`. -/
def entry (e : Engine) (w : W128) : QEntry :=
  { id := 3, cyc := 7, eng := e, op := hOp w, w := w, pc := 16, n := 1, skip := false, a := runs0.a, s := runs0.s, c := runs0.c, shape := runs0.shape
    step := 0, inop := false, opid := 0, attempt := 0, rung := 0, wide := false, fmtA := 1, fmtB := 1, desc := [], due := 100, dueDone := 110
    occ := 1, preload := 0, gap := 0 }

/-- The running stream with one entry in its queue, and one with a completed instruction. -/
def queued (q : QEntry) : Stream := runs0.setQueue q.eng [q]
def running (q : QEntry) : Stream := { runs0 with run := [{ q := q, ready := true }] }

/-- A descriptor of one dimension with a count and strides of 1. -/
def desc1 (count : Nat) : List Byte :=
  leBytes 8 1 ++ leBytes 24 0 ++ leBytes 4 count ++ leBytes 4 1 ++ leBytes 4 1 ++ leBytes 4 0 ++ leBytes 80 0

/-- The live module with a session in slot 2 of a role, and the header of its next message. -/
def ses (role : Nat) : Session :=
  { sid := 9, via := .tcp 1, slot := 2, role := role, accepted := true, nc := 0, nm := 0, ks := 0, lastIn := 0, lastOut := 0
    sub := none, eph := none }
def adm (role : Nat) (s : State) : State := { s with sec := { s.sec with sessions := [ses role] } }
def m1 : CmdHdr := { sid := 9, seq := 1, authentic := true }

/-! ### Commands that are not well formed -/

/-- A stream, core, packet and message of this module, and ones that name a part it lacks. -/
def i12 : StreamId := ⟨12, 0, .fwd⟩
def i64 : StreamId := ⟨0, 64, .fwd⟩
def pkt0 : XPkt := ⟨0, 0, 0, 0, 0, 0, 0, 0, 0, []⟩
def okHalf : StartHalf := { railOk := true, selfOk := true, failUnit := 0, role := 0, rack := 0, slot := 0 }
def temps9 (t : W16) : DieTemps := ⟨List.replicate 9 t, [0, 0]⟩
def msg0 : StepMsg := ⟨5, 0, 0, 0, 0, 0, 0, 0⟩

theorem test_wf_issue : (Instr.ctlNop i12 0).wf = false ∧ (Instr.ctlNop i64 0).wf = false ∧ (Instr.synGwait i12 0).wf = false
    ∧ (Instr.ctlNop ⟨11, 63, .upd⟩ 0).wf = true := by decide +kernel
theorem test_wf_start : (Instr.instructionStart ⟨12, 0⟩ .str []).wf = false ∧ (Instr.instructionStart ⟨0, 0⟩ .str [.flip 0 72 1]).wf = false
    ∧ (Instr.instructionStart ⟨0, 0⟩ .str [.flip (24 * 2 ^ 37) 38 1]).wf = false ∧ (Instr.instructionStart ⟨0, 0⟩ .str [.flip 0 71 1]).wf = true := by
  decide +kernel
theorem test_wf_complete : (Instr.instructionComplete i64 .str).wf = false ∧ (Instr.operationEvaluation i12).wf = false
    ∧ (Instr.operationDecision i12).wf = false ∧ (Instr.chainVerdict i64 0 none).wf = false := by decide +kernel
theorem test_wf_upset : (Instr.instructionStart ⟨0, 0⟩ .mx [.lam 64 0 0 0 1]).wf = false ∧ (Instr.instructionStart ⟨0, 0⟩ .mx [.lam 1536 0 0 0 1]).wf = false
    ∧ (Instr.instructionStart ⟨0, 0⟩ .mx [.lam 0 2 0 0 1]).wf = false ∧ (Instr.instructionStart ⟨0, 0⟩ .mx [.lam 0 0 2048 0 1]).wf = false
    ∧ (Instr.instructionStart ⟨0, 0⟩ .mx [.lam 0 0 4352 0 1]).wf = false ∧ (Instr.instructionStart ⟨0, 0⟩ .mx [.lam 0 0 0 38 1]).wf = false
    ∧ (Instr.instructionStart ⟨0, 0⟩ .mx [.lam 1471 1 4351 37 1]).wf = true := by decide +kernel
theorem test_wf_drain : (Instr.drainStart ⟨12, 0⟩ 0 []).wf = false ∧ (Instr.drainStart ⟨0, 0⟩ 2 []).wf = false
    ∧ (Instr.drainStart ⟨0, 0⟩ 0 [.word 64 0 1]).wf = false ∧ (Instr.drainStart ⟨0, 0⟩ 0 [.word 0 32 1]).wf = false
    ∧ (Instr.drainStart ⟨0, 0⟩ 0 [.residue true 64 1]).wf = false ∧ (Instr.drainStart ⟨0, 0⟩ 0 [.residue false 32 1]).wf = false
    ∧ (Instr.tileVerdict ⟨0, 64⟩ 0).wf = false ∧ (Instr.tileVerdict ⟨0, 0⟩ 2).wf = false ∧ (Instr.chainRow ⟨0, 64⟩ ⟨0, [], []⟩).wf = false := by
  decide +kernel
theorem test_wf_core : (Instr.syncOperation 2 { index := 0 }).wf = false ∧ (Instr.coreGate ⟨0, 64⟩).wf = false ∧ (Instr.updStart ⟨12, 0⟩ []).wf = false
    ∧ (Instr.updStart ⟨0, 0⟩ [.flip 0 72 1]).wf = false ∧ (Instr.mergeWindowExpiry ⟨12, 0⟩).wf = false := by decide +kernel
theorem test_wf_channel : (Instr.descriptorFetch 12 0).wf = false ∧ (Instr.descriptorFetch 0 32).wf = false
    ∧ (Instr.descriptorComplete 12 0 []).wf = false ∧ (Instr.descriptorComplete 0 32 []).wf = false
    ∧ (Instr.descriptorComplete 0 0 [.flip 0 72 1]).wf = false ∧ (Instr.patrolScrub 12 []).wf = false
    ∧ (Instr.patrolScrub 0 [.flip 0 72 1]).wf = false := by decide +kernel
theorem test_wf_staging : (Instr.stagingAccess 2 false 0 4 ⟨[], []⟩).wf = false ∧ (Instr.stagingAccess 0 true 0 4 ⟨[1], []⟩).wf = false
    ∧ (Instr.stagingAccess 0 false 0 4 ⟨[], []⟩).wf = true ∧ (Instr.stagingAccess 0 false 0 4 ⟨[], [.flip 0 72 1]⟩).wf = false := by decide +kernel
theorem test_wf_packets :
    ((packetRows []).all fun r => !(r 12 0 pkt0).wf && !(r 0 16 pkt0).wf && !(r 0 0 { pkt0 with kind := 10 }).wf
      && !(r 0 0 { pkt0 with srank := 1024 }).wf && !(r 0 0 { pkt0 with coll := 4096 }).wf && (r 11 15 pkt0).wf) = true := by decide +kernel
theorem test_wf_timeouts : (Instr.laggardTimeout 12 0 0 0).wf = false ∧ (Instr.laggardTimeout 0 16 0 0).wf = false
    ∧ (Instr.laggardTimeout 0 0 4096 0).wf = false ∧ (Instr.laggardTimeout 0 0 0 1024).wf = false
    ∧ (Instr.collectiveTimeout 12 0 0 0).wf = false ∧ (Instr.collectiveTimeout 0 16 0 0).wf = false
    ∧ (Instr.collectiveTimeout 0 0 4096 0).wf = false ∧ (Instr.repairTimeout 12 0 0 0).wf = false
    ∧ (Instr.repairTimeout 0 16 0 0).wf = false ∧ (Instr.repairTimeout 0 0 4096 0).wf = false := by decide +kernel
theorem test_wf_steps : (Instr.stepReport 16).wf = false ∧ (Instr.stepReportArrival { msg0 with rank := 1024 }).wf = false
    ∧ (Instr.stepReportArrival { msg0 with part := 16 }).wf = false ∧ (Instr.retractArrival { msg0 with rank := 1024 }).wf = false
    ∧ (Instr.retractHandling { msg0 with part := 16 } []).wf = false ∧ (Instr.retractHandling msg0 [i12]).wf = false
    ∧ (Instr.retractRelease 16).wf = false := by decide +kernel
theorem test_wf_records : (Instr.recordHandling 2).wf = false ∧ (Instr.capsuleRecord 2 true).wf = false ∧ (Instr.deathwatch 16).wf = false
    ∧ (Instr.quantumExpiry 0).wf = false ∧ (Instr.quantumExpiry 5).wf = false ∧ (Instr.switchCommand 16 0).wf = false
    ∧ (Instr.twinSwitch 16 0).wf = false ∧ (Instr.twinSwitch 0 2).wf = false ∧ (Instr.switchTime 16).wf = false := by decide +kernel
theorem test_wf_sessions : (Instr.svclatClear m1 2 0).wf = false ∧ (Instr.release m1 16).wf = false ∧ (Instr.capread m1 16 0 0).wf = false
    ∧ (Instr.capunpin m1 16 0).wf = false ∧ (Instr.slotset m1 8 0 0).wf = false ∧ (Instr.slotclear m1 8).wf = false
    ∧ (Instr.fwactivate m1 2).wf = false ∧ (Instr.lifecycle m1 8 0).wf = false ∧ (Instr.scan m1 12 0).wf = false
    ∧ (Instr.scan m1 0 72).wf = false ∧ (Instr.unfreeze m1 16).wf = false ∧ (Instr.hello (.pcie 2) 0 ⟨0, {}⟩).wf = false
    ∧ (Instr.hello .uart 8 ⟨0, {}⟩).wf = false ∧ (Instr.hello .uart 255 ⟨0, {}⟩).wf = true ∧ (Instr.slotLockoutExpiry 8).wf = false
    ∧ (Instr.transportLoss (.pcie 2)).wf = false := by decide +kernel
theorem test_wf_module : (Instr.spareScanTimer 12 0).wf = false ∧ (Instr.spareScanTimer 0 72).wf = false ∧ (Instr.scanComplete 12 0 true 0).wf = false
    ∧ (Instr.scanComplete 0 72 true 0).wf = false ∧ (Instr.startTimeout ⟨0, okHalf, okHalf⟩).wf = false ∧ (Instr.startTimeout ⟨10, okHalf, okHalf⟩).wf = false
    ∧ (Instr.resetLAssert 2).wf = false ∧ (Instr.perstL 2).wf = false ∧ (Instr.aoRefclkLoss 2 9).wf = false
    ∧ (Instr.thermalThrottle 12 (temps9 0) true).wf = false ∧ (Instr.thermalThrottle 0 ⟨[], [0, 0]⟩ true).wf = false
    ∧ (Instr.thermalThrottle 0 ⟨(temps9 0).rows, []⟩ true).wf = false ∧ (Instr.thermalThrottle 0 (temps9 0) true).wf = true ∧ (Instr.pllLock 12).wf = false ∧ (Instr.pllFail 12).wf = false
    ∧ (Instr.twinHeartbeat 2 0 true true).wf = false ∧ (Instr.twinHeartbeat 0 2 true true).wf = false
    ∧ (Instr.heartbeatPathLoss 2 0).wf = false ∧ (Instr.heartbeatPathLoss 0 2).wf = false ∧ (Instr.bridgeSegmentFailure 2).wf = false
    ∧ (Instr.leadQuery 1024 0).wf = false ∧ (Instr.leadQuery 0 2).wf = false ∧ (Instr.leadRuling 1024).wf = false
    ∧ (Instr.leadRulingReceipt 2 0).wf = false ∧ (Instr.leadRulingReceipt 0 2).wf = false := by decide +kernel
theorem test_wf_links : (Instr.signalDetect 24).wf = false ∧ (Instr.lnkCfgWrite 24 0).wf = false ∧ (Instr.laneFailure 24 0).wf = false
    ∧ (Instr.laneFailure 0 8).wf = false ∧ (Instr.linkCredit 24 1).wf = false ∧ (Instr.linkAck 24 0).wf = false ∧ (Instr.ackTimer 24).wf = false
    ∧ (Instr.resume 24 0 0).wf = false ∧ (Instr.resume 0 16 0).wf = false ∧ (Instr.resume 0 0 1024).wf = false
    ∧ (Instr.placementVerdict ⟨1024, 0, .serial⟩ [] []).wf = false ∧ (Instr.placementVerdict ⟨0, 0, .serial⟩ [⟨24, true, none⟩] []).wf = false ∧ (Instr.keyDelivery 0 16 false 0).wf = false
    ∧ (Instr.scaleRecordArrival 0 1024 0 ⟨0, 0, 0, 0, 0⟩).wf = false ∧ (Instr.scaleRecordArrival 0 0 16 ⟨0, 0, 0, 0, 0⟩).wf = false := by decide +kernel

/-- No row of the table gives bits, so no word spells a command. -/
theorem test_no_word_spells_a_command : decodeTableWord 128 (7 * 2 ^ 125) = none ∧ State.reset.withFetchWord 128 5 = State.reset := by decide +kernel

/-! ### Worked values of the spec -/

/-- 02 R64: 723 at anchor -6 is 0x53 in E4M3 and 0x4135 in BF16, and -736 is 0xD4. -/
theorem test_rne : cvt fE4M3 ⟨false, 723, -6⟩ false 0 = (0x53, false) ∧ cvt fBF16 ⟨false, 723, -6⟩ false 0 = (0x4135, false)
    ∧ cvt fE4M3 ⟨true, 736, -6⟩ false 0 = (0xD4, false) := by decide +kernel
/-- 02 R65: the same value under stochastic rounding. -/
theorem test_sr : cvt fBF16 ⟨false, 723, -6⟩ true 0xA5C31E08 = (0x4135, false) ∧ cvt fBF16 ⟨false, 723, -6⟩ true 0xD1024B7E = (0x4134, false)
    ∧ cvt fE4M3 ⟨false, 723, -6⟩ true 0xA5C31E08 = (0x53, false) ∧ cvt fE4M3 ⟨false, 723, -6⟩ true 0x1F000000 = (0x54, false) := by
  decide +kernel
/-- 02 R70: 500 saturates in E4M3, and is 0x60 at the next rung E5M2. -/
theorem test_ladder : cvt fE4M3 ⟨false, 500, 0⟩ false 0 = (0x7E, true) ∧ nextRung 0 = some 1 ∧ cvt fE5M2 ⟨false, 500, 0⟩ false 0 = (0x60, false) := by
  decide +kernel
/-- 02 R73, R74: the block of 500 and 3 takes scale byte 0x80, and the two encode as 0x78 and 0x3C. -/
theorem test_block : convertBlock fE4M3 [.fin ⟨false, 500, 0⟩, .fin ⟨false, 3, 0⟩] false [0, 0] = (0x80, [0x78, 0x3C], {}) := by decide +kernel
/-- 03 R85: the three elements align at anchor -8 to 386, -54 and 0; their sum is 0x3FA6 in BF16. -/
theorem test_align : align ⟨false, 193, -7⟩ (-8) = 386 ∧ align ⟨true, 213, -10⟩ (-8) = -54 ∧ align ⟨false, 1, -10⟩ (-8) = 0
    ∧ cvt fBF16 ⟨false, 332, -8⟩ false 0 = (0x3FA6, false) ∧ cvt fBF16 ⟨false, 1332, -10⟩ false 0 = (0x3FA6, false) := by decide +kernel
/-- 03 R98, R99: S1 = 24 and S2 = 270 of four values at anchor -2: mean, variances and deviation in BF16. -/
def finished (mode : Nat) : Nat :=
  match finish mode { n := 24 } { n := 270 } (-2) (-4) 4 ⟨false, 0, 0⟩ with | .val v => (cvt fBF16 v false 0).1 | _ => 0
theorem test_finish : finished 2 = 0x3FC0 ∧ finished 3 = 0x3FFC ∧ finished 4 = 0x4028 ∧ finished 5 = 0x3FB4 := by decide +kernel
/-- 06 R171: the MMA of the encoding example. -/
theorem test_mma_word : ofRow 0x2000000000006089FE36008011C00000 1 0 = true ∧ sfld 0x2000000000006089FE36008011C00000 64 49 = -229
    ∧ fld (0x2000000000006089FE36008011C00000 : W128) 48 31 = 256 := by decide +kernel
/-- 07 R196: a view address and its plain address. 01 R33: the store of core 37 of die 8. -/
theorem test_addresses : plainOfView 0x100000015000 = 0x012000001000 ∧ coreStore (8 * 128 + 37) = 0x500425000000 := by decide +kernel
/-- 01 R33: the logical core 37 with these spares is position 41. -/
theorem test_position : defaultPos (([5, 20, 33, 40, 51, 60, 66, 70] : List Nat).map fun p => (8 * 72 + p, PosKind.spare)) 8 37 = some 41 := by
  decide +kernel
/-- 12 R345: UNIT of the matrix engine of core 17 at position 41 of die 4. -/
theorem test_unit : unitWord 0 1 4 41 17 0x7F = 0x014528FF := by decide +kernel
/-- 09 R263: a commit of step 0x41A2F with 15 for the next step. -/
theorem test_gate : gateWord 0x00041A2F 1 0x0F = 0x41A2F40F := by decide +kernel
/-- 10 R303: the remainder over three steps. -/
theorem test_remainder : splitParam ⟨false, 4093, -12⟩ = (0x3F80, -6144, false) ∧ splitParam ⟨false, 4090, -12⟩ = (0x3F80, -12288, false)
    ∧ splitParam ⟨false, 4087, -12⟩ = (0x3F7F, 28672, false) := by decide +kernel
/-- 10 R307: the clip factor of S2 = 25 x 2^24 at anchor -4 with s = 10 and a limit of 1. -/
theorem test_clip : ((clipFactor (leBytes 20 0 ++ leBytes 4 0x3F800000 ++ [1, 0] ++ leBytes 2 (2 ^ 16 - 4)) 10 { n := 0x19000000 }).map
    fun v => (cvt fFP32 v false 0).1) = some 0x3E4CCCCD := by decide +kernel

/-! ### Witnesses: what meets the hypotheses of the statements. -/

/-! #### Issue -/

/-- An access is clear where no codeword holds an error and its unit is not fenced and carries its partition's epoch. -/
theorem clear_of {s : State} {who : Who} (he : s.errs = [])
    (h : (match who.src with | none => true | some x => !s.masked x.1 && x.2 == (s.part who.part).epoch) = true) : s.clear who := by
  refine ⟨he, fun a => ?_⟩
  unfold State.memDrop
  cases hs : who.src with
  | none => rfl
  | some x =>
    rw [hs] at h
    obtain ⟨h1, h2⟩ := Bool.and_eq_true_iff.mp h
    have h1' : s.masked x.1 = false := by cases hm : s.masked x.1 <;> simp_all
    have h2' : x.2 = (s.part who.part).epoch := eq_of_beq h2
    cases memUnit s.fuse.gradeB a with
    | none => rfl
    | some u => cases u <;> simp [h1', h2']

/-- A command waits, or none does. -/
theorem wit_step : ({ live with pending := [.loadApply, .health m1] } : State).pending = .loadApply :: [.health m1] ∧ live.pending = [] := by
  decide +kernel

theorem wit_step_memory : State.memOk live ∧ step { live with pending := [.pllLock 3] } = exec (.pllLock 3) live := by
  unfold State.memOk; exact ⟨by decide +kernel, rfl⟩

/-- CTL instructions at the start of a stream: a turn, in the image, with no loop open. -/
def s0 : State := withStream runs0

theorem wit_turn : s0.turn i0 none 0 ∧ s0.turn i0 (some .syn) 0 ∧ (s0.stream i0).straight ∧ s0.clear (s0.whoNow i0) :=
  ⟨by unfold State.turn; decide +kernel, by unfold State.turn; decide +kernel, by unfold Stream.straight; decide +kernel,
    clear_of rfl (by decide +kernel)⟩

/-- SETC with SRC = 0b01, whose word the instruction port has read. -/
theorem wit_turn_operand : let s := withStream { runs0 with asked := true }
    let w := word 7 5 (2 ^ 78 + 7 * 2 ^ 74 + 2 ^ 70 + 6)
    opndNeed w = 4 ∧ s.turn i0 none (opndNeed w) ∧ (s.stream i0).straight ∧ s.clear (s.whoNow i0) :=
  ⟨by decide +kernel, by unfold State.turn; decide +kernel, by unfold Stream.straight; decide +kernel, clear_of rfl (by decide +kernel)⟩

theorem wit_no_turn : State.reset.runs i0 = false ∧ (withStream { runs0 with state := .held }).runs i0 = false := by decide +kernel

/-- Sixteen entries in a queue, and an instruction past its due point. -/
theorem wit_stalled :
    let s := withStream (runs0.setQueue .str (List.replicate 16 (entry .str (word 0 1 0))))
    let t := withStream (runs0.setQueue .str [{ entry .str (word 0 1 0) with due := 99 }])
    (s.runs i0 = true ∧ (s.stream i0).idleLeft = 0 ∧ (s.stream i0).phase = .none ∧ s.stallCause i0 (some .str) (issueNeed (word 0 1 0) 0 1) ≠ 0)
      ∧ (t.runs i0 = true ∧ (t.stream i0).idleLeft = 0 ∧ (t.stream i0).phase = .none ∧ t.stallCause i0 none 0 ≠ 0) := by decide +kernel

/-- A word of each row that enters a queue. -/
def ccw : Nat := 6 * 2 ^ 12 + 6 * 2 ^ 8 + 2 ^ 6
def words : List W128 :=
  [word 0 0 (5 * 2 ^ 59), word 0 1 (5 * 2 ^ 59), 0x2000000000006089FE36008011C00000]
    ++ [0, 1, 2, 3, 4, 5, 6, 7].map (fun op => word 2 op (6 * 2 ^ 76 + ccw * 2 ^ 60)) ++ [8, 9, 10].map (fun op => word 2 op (6 * 2 ^ 76))
    ++ [word 2 11 (9 * 2 ^ 76), word 2 12 (9 * 2 ^ 76), word 2 13 ((9 * 2 ^ 12 + 9 * 2 ^ 8) * 2 ^ 60)]
    ++ [16, 17, 18].map (fun op => word 2 op (3 * 2 ^ 38)) ++ [word 2 19 0, word 2 24 (2 * 2 ^ 76 + ccw * 2 ^ 60)]
    ++ [word 3 0 (ccw * 2 ^ 62 + 64 * 2 ^ 37)] ++ [0, 1, 2, 3, 4].map (fun op => word 4 op (2 ^ 24))
    ++ [word 5 0 (6 * 2 ^ 48 + 6 * 2 ^ 44 + 1)] ++ [0, 1, 2, 3, 4, 5].map (fun op => word 6 op (70000 * 2 ^ 63))

/-- The stream in a core that holds a descriptor at its A5, which the instruction port has read. -/
def sI : State :=
  { withStream { runs0 with asked := true } with mem := [(coreStore 0 + 0x500, 1), (coreStore 0 + 0x520, 1), (coreStore 0 + 0x528, 1)] }

def formB (s : State) (i : StreamId) (w : W128) (fam op : Nat) : Bool :=
  let st := s.stream i
  match fam with
  | 0 => match st.operandFmt (bit w 56) (fld w 55 48) 0 with
    | some f => descOk (s.descAt (skey i) (st.areg (tAdesc w))) (if bit w 56 then fmtBytes f else ewBytes (dEw (s.descAt (skey i) (st.areg (tAdesc w))))) (op == 1)
    | none => false
  | 1 => match st.operandFmt (bit w 20) (fld w 19 12) (fld w 72 69), st.operandFmt (bit w 11) (fld w 10 3) (fld w 68 65) with
    | some a, some b => !mmaForceBad w a b && !s.fuse.gradeB
    | _, _ => false
  | 2 => match (if op ≤ 10 then st.operandFmt (bit w 21) (fld w 20 13) (fld w 79 76) else some (fld w 79 76)) with
    | some f => !vecForceBad op f (if vecConverts op then st.outRung (vCcw w) else (0 : BitVec 4)).toNat
    | none => false
  | 4 => !st.inop && !s.fuse.absent.contains (xchUnit i.die)
  | 5 => !st.inop && (updUnits s.fuse.gradeB i.die (st.entry 0 0 w .upd { occ := 2 * uLen w * st.reps w, lat := 2 * uLen w * st.reps w + 400 })).all
      fun u => !s.fuse.absent.contains (updUnitWord u)
  | _ => true

theorem not_true {a : Bool} (h : (!a) = true) : a = false := by cases a; rfl; cases h
theorem not_both {a b : Bool} (h : (!a && !b) = true) : a = false ∧ b = false := by cases a <;> cases b <;> first | exact ⟨rfl, rfl⟩ | cases h

theorem formOk_of_formB (s : State) (i : StreamId) (w : W128) (op : Nat) : ∀ fam, formB s i w fam op = true → s.formOk i w fam op
  | 0, h => by
    dsimp only [formB] at h
    dsimp only [State.formOk]
    generalize (s.stream i).operandFmt (bit w 56) (fld w 55 48) 0 = o at h ⊢
    cases o with
    | none => cases h
    | some f => exact ⟨f, rfl, h⟩
  | 1, h => by
    dsimp only [formB] at h
    dsimp only [State.formOk]
    generalize (s.stream i).operandFmt (bit w 20) (fld w 19 12) (fld w 72 69) = o at h ⊢
    generalize (s.stream i).operandFmt (bit w 11) (fld w 10 3) (fld w 68 65) = o' at h ⊢
    cases o with
    | none => cases h
    | some a => cases o' with
      | none => cases h
      | some b =>
        have k := not_both (show (!mmaForceBad w a b && !s.fuse.gradeB) = true from h)
        exact ⟨a, b, rfl, rfl, k.1, fun g => by rw [g] at k; cases k.2⟩
  | 2, h => by
    dsimp only [formB] at h
    dsimp only [State.formOk]
    generalize (if op ≤ 10 then (s.stream i).operandFmt (bit w 21) (fld w 20 13) (fld w 79 76) else some (fld w 79 76)) = o at h ⊢
    cases o with
    | none => cases h
    | some f => exact ⟨f, rfl, not_true h⟩
  | 3, _ => trivial
  | 4, h => not_both h
  | 5, h => by
    obtain ⟨h1, h2⟩ := Bool.and_eq_true_iff.mp h
    exact ⟨not_true h1, fun u hu => not_true (List.all_eq_true.mp h2 u hu)⟩
  | _ + 6, _ => trivial

def issuesB (s : State) (i : StreamId) (x : ((StreamId → W128 → Instr) × Nat × Nat × Engine) × W128) : Bool :=
  let st := s.stream i
  s.runs i && st.idleLeft == 0 && st.phase == .none && s.stallCause i (some x.1.2.2.2) (issueNeed x.2 x.1.2.1 x.1.2.2.1) == 0 && ofRow x.2 x.1.2.1 x.1.2.2.1
    && st.inImage st.pc && !st.edgeBad st.pc && !st.shapeBad x.2 && !st.inop && formB s i x.2 x.1.2.1 x.1.2.2.1

/-- Every row that enters a queue has a word that issues. -/
theorem wit_every_row_issues : i0.wf = true ∧ sI.clear (sI.whoNow i0) ∧ (engineRows.zip words).length = 35
    ∧ ∀ x ∈ engineRows.zip words, sI.issues i0 x.2 x.1.2.1 x.1.2.2.1 x.1.2.2.2 := by
  refine ⟨by decide, clear_of rfl (by decide +kernel), by decide +kernel, fun x hx => ?_⟩
  have h : issuesB sI i0 x = true := List.all_eq_true.mp (by decide +kernel : (engineRows.zip words).all (issuesB sI i0) = true) x hx
  simp only [issuesB, Bool.and_eq_true, beq_iff_eq, Bool.not_eq_true'] at h
  obtain ⟨⟨⟨⟨⟨⟨⟨⟨⟨a, b⟩, c⟩, d⟩, e⟩, f⟩, g⟩, k⟩, l⟩, m⟩ := h
  exact ⟨⟨a, b, c, d⟩, e, ⟨f, g⟩, k, fun n => absurd (l.symm.trans n) (by decide), formOk_of_formB _ _ _ _ _ m⟩

/-- 06 R168: the family and opcode of the encoding example pick MMA, and a reserved opcode picks no row. -/
theorem test_issue_row : issueRow i0 0x2000000000006089FE36008011C00000 = some (.mma i0 0x2000000000006089FE36008011C00000)
    ∧ issueRow i0 (word 2 14 0) = none := by decide +kernel

/-- A word of no row. -/
theorem wit_encoding_fault : s0.turn i0 (some .str) 0 ∧ s0.turn i0 none 0 ∧ ofRow (word 0 7 0) 0 0 = false ∧ ofRow (word 7 20 0) 7 0 = false := by
  unfold State.turn; decide +kernel

/-- Words of the CTL rows (their turn is `wit_turn`). -/
theorem wit_ctl_words : ofRow (word 7 0 0) 7 0 = true ∧ ofRow (word 7 1 9) 7 1 = true ∧ ofRow (word 7 2 (3 * 2 ^ 74 + 5)) 7 2 = true
    ∧ ofRow (word 7 3 (2 * 2 ^ 78 + 3 * 2 ^ 74 + 4 * 2 ^ 67 + 2 ^ 64 - 16)) 7 3 = true ∧ ofRow (word 7 4 (15 * 2 ^ 74 + 5)) 7 4 = true
    ∧ ofRow (word 7 5 (2 ^ 78 + 7 * 2 ^ 74 + 2 ^ 70 + 6)) 7 5 = true ∧ ofRow (word 7 6 (2 * 2 ^ 78 + 7 * 2 ^ 74 + 6 * 2 ^ 67 + 6)) 7 6 = true
    ∧ ofRow (word 7 7 (4 * 2 ^ 64 + 3)) 7 7 = true ∧ ofRow (word 7 8 (2 ^ 24 - 3)) 7 8 = true
    ∧ ofRow (word 7 9 (5 * 2 ^ 76 + 2 * 2 ^ 73 + 6 * 2 ^ 24 + 2)) 7 9 = true ∧ ofRow (word 7 10 (2 * 2 ^ 76 + 2)) 7 10 = true
    ∧ ofRow (word 7 11 0) 7 11 = true ∧ ofRow (word 7 12 0) 7 12 = true ∧ ofRow (word 7 13 (3 * 2 ^ 72 + 100 * 2 ^ 55 + 5 * 2 ^ 35)) 7 13 = true
    ∧ ofRow (word 7 14 0) 7 14 = true ∧ ofRow (word 7 15 0) 7 15 = true := by decide +kernel

/-- Loops: the last instruction of a body with one and with two rounds left, and another address. -/
def loop2 (n : W32) : LoopEnt := ⟨0x100, 5, n⟩
theorem wit_loop_next : (0x140 : W64) = (loop2 2).start + BitVec.ofNat 64 (16 * ((loop2 2).len - 1)) ∧ 1 < (loop2 2).count.toNat
    ∧ (loop2 1).count.toNat ≤ 1 ∧ (0x130 : W64) ≠ (loop2 1).start + BitVec.ofNat 64 (16 * ((loop2 1).len - 1)) := by decide +kernel

/-- LOOP with count 0, with a count on an empty stack, and with a count on a full one. -/
theorem wit_loop :
    let full := withStream { runs0 with loops := List.replicate 4 (loop2 3) }
    (s0.stream i0).edgeBad (16 * 5) = false ∧ (s0.stream i0).loops.length < 4 ∧ (s0.stream i0).inImage (s0.stream i0).pc = true
      ∧ full.turn i0 none 0 ∧ (full.stream i0).inImage (full.stream i0).pc = true ∧ 4 ≤ (full.stream i0).loops.length := by
  unfold State.turn; decide +kernel

/-- Branches from address 0x100: three back, and back out of the image. -/
theorem wit_branch :
    let s := withStream { runs0 with pc := 0x100 }
    s.turn i0 none 0 ∧ (s.stream i0).inImage (s.stream i0).pc = true ∧ (s.stream i0).branchBad (0x100 - 48) = false
      ∧ (s.stream i0).branchBad (0x100 - 0x110) = true ∧ (s.stream i0).edgeBad (s.stream i0).pc = false := by
  unfold State.turn; decide +kernel

/-- IDLE with no due point ahead; LDSHAPE on a core of no partition, within the planned maxima of 8 and beyond them. -/
def sShape (v : Byte) : State :=
  { s0 with cores := [(0, { pow := .on, part := none, fwd := runs0 })], mem := [(coreStore 0, v), (coreStore 0 + 12, 1)] }
theorem wit_idle_shape : (s0.stream i0).nextDue = none ∧ (sShape 8).turn i0 none 0 ∧ ((sShape 8).stream i0).straight
    ∧ ((sShape 8).stream i0).inop = false ∧ (sShape 8).clear ((sShape 8).whoNow i0) ∧ ((sShape 8).core (skey i0)).part = none
    ∧ (sShape 9).turn i0 none 0 ∧ ((sShape 9).stream i0).smax.getD 0 0 < 9 :=
  ⟨by decide +kernel, by unfold State.turn; decide +kernel, by unfold Stream.straight; decide +kernel, by decide +kernel,
    clear_of rfl (by decide +kernel), by decide +kernel, by unfold State.turn; decide +kernel, by decide +kernel⟩

/-- An IDLE that has cycles left, and OPEND with its attempt retired and its due points past. -/
theorem wit_idle_left : let s := withStream { runs0 with idleLeft := 7 }
    s.runs i0 = true ∧ (s.stream i0).phase = .none ∧ s.stallCause i0 none 0 = 0 ∧ (s.stream i0).idleLeft = 7 := by decide +kernel
theorem wit_opend_waits : let s := withStream { runs0 with inop := true, phase := .ended }
    s.runs i0 = true ∧ (s.stream i0).phase ≠ .none ∧ (s.stream i0).attemptDue = false ∧ (s.stream i0).attemptLeft = []
      ∧ (s.stream i0).inImage (s.stream i0).pc = true := by decide +kernel

/-- Inside an operation. -/
def sOp : State := withStream { runs0 with inop := true, snap := some ⟨runs0.a, runs0.s, runs0.c, [], 0⟩ }
theorem wit_inside : sOp.turn i0 none 0 ∧ (sOp.stream i0).straight ∧ (sOp.stream i0).inop = true ∧ (s0.stream i0).inop = false := by
  unfold State.turn Stream.straight; decide +kernel

/-! #### Engines -/

theorem sole {s : State} {e : Engine} {q : QEntry} {rest : List QEntry} (h : (s.stream i0).queue e = q :: rest ∧
    (s.stream ⟨0, 0, .bwd⟩).queue e = [] ∧ (s.stream ⟨0, 0, .upd⟩).queue e = [] ∧ s.canStart i0 q = true) : s.soleHead i0 e q rest :=
  ⟨h.1, fun p hp => by cases p; exacts [absurd rfl hp, h.2.1, h.2.2.1], h.2.2.2⟩

/-- SYN.SET outside and inside an operation. -/
def qSet (inop : Bool) : QEntry := { entry .syn (word 6 1 (70000 * 2 ^ 63 + 9 * 2 ^ 24)) with inop := inop }
def sSet (inop : Bool) : State := withStream { queued (qSet inop) with inop := inop }
theorem wit_syn_write : i0.wf = true ∧ (sSet false).soleHead i0 .syn (qSet false) [] ∧ (sSet true).soleHead i0 .syn (qSet true) []
    ∧ (qSet true).skip = false ∧ (qSet true).op = 1 ∧ ((sSet true).stream i0).inop = true ∧ ((sSet true).stream i0).state ≠ .halted :=
  ⟨by decide, sole (by decide +kernel), sole (by decide +kernel), by decide +kernel⟩

/-- WAIT, GWAIT, FADD and OPLD: satisfied and not. -/
def qSyn (op rest : Nat) : QEntry := entry .syn (word 6 op (70000 * 2 ^ 63 + rest))
def sSyn (q : QEntry) (t : ObjType) (v : W32) : State :=
  { withStream (queued q) with objs := [(70000, { type := t, alloc := true, part := 0, l0 := some v })] }
def qWait : QEntry := qSyn 0 (2 ^ 60 + 9 * 2 ^ 24)
def synCase (x : QEntry × ObjType × W32) : Prop := let s := sSyn x.1 x.2.1 x.2.2
  s.soleHead i0 .syn x.1 [] ∧ x.1.eng = .syn ∧ x.1.skip = false ∧ s.synDenied (skey i0) (fld x.1.w 79 63) = false
    ∧ s.objReached i0 (fld x.1.w 79 63) = true ∧ s.clear (s.whoOf i0 x.1) ∧ s.memOk
theorem wit_syn_starts : ∀ x ∈ [(qWait, ObjType.count, (9 : W32)), (qSyn 5 0, .gate, 0x400), (qSyn 3 0, .work, 5), (qSyn 4 0, .work, 5)], synCase x := by
  intro x hx
  simp only [List.mem_cons, List.not_mem_nil, or_false] at hx
  rcases hx with rfl | rfl | rfl | rfl <;>
    exact ⟨sole (by decide +kernel), by decide +kernel, by decide +kernel, by decide +kernel, by decide +kernel, clear_of rfl (by decide +kernel),
      by unfold State.memOk; decide +kernel⟩
theorem wit_syn_met : let met := fun (q : QEntry) (v : W32) => if q.op = 5 then gateRules v q.step else waitCond (fld q.w 62 60) v (synValue q)
    met qWait ((sSyn qWait .count 8).obj 70000).value = true ∧ met qWait ((sSyn qWait .count 9).obj 70000).value = false
      ∧ met (qSyn 5 0) ((sSyn (qSyn 5 0) .gate 0x400).obj 70000).value = true ∧ met (qSyn 5 0) ((sSyn (qSyn 5 0) .gate 0x1400).obj 70000).value = false := by
  decide +kernel

/-- A FILL that has completed: with and without a completion write, and in an operation; a PACK that has. -/
def qDone (sig : Nat) (inop : Bool) : QEntry := { entry .str (word 0 1 (sig * 2 ^ 106 + 33 * 2 ^ 89 + 2 * 2 ^ 63)) with inop := inop }
def sDone (sig : Nat) (inop : Bool) : State := withStream { running (qDone sig inop) with inop := inop }
theorem wit_complete : ∀ sig ∈ [0, 1], ∀ inop ∈ [false, true], ((sDone sig inop).stream i0).run = [{ q := qDone sig inop, ready := true }]
    ∧ (qDone sig inop).eng = .str ∧ (sDone sig inop).engineRuns i0 = true ∧ hSig (qDone sig inop).w = (sig == 1) ∧ (qDone sig inop).n ≠ 0
    ∧ ((sDone sig inop).stream i0).inop = inop ∧ ((sDone sig inop).stream i0).state ≠ .halted := by decide +kernel
theorem wit_complete_pack : let q := entry .pack (word 3 0 (64 * 2 ^ 37))
    let s := withStream (running q)
    (s.stream i0).run = [{ q := q, ready := true }] ∧ q.eng = .pack ∧ s.engineRuns i0 = true ∧ (s.core (skey i0)).writeFree q = true := by decide +kernel

/-- A FILL and a COPY of five elements in the own core store. -/
def qMove (op : Nat) : QEntry :=
  { entry .str (word 0 op (5 * 2 ^ 71 + (1 - op) * 2 ^ 67 + 2 * 2 ^ 63 + op * 0x11223344)) with
    desc := desc1 5, fmtA := 2 - op, a := Vector.ofFn fun k => BitVec.ofNat 64 (coreStore 0 + 64 * k.val) }
def sMove (op : Nat) : State := { withStream (queued (qMove op)) with mem := (List.range 10).map fun k => (coreStore 0 + 64 + k, BitVec.ofNat 8 (k + 1)) }
theorem wit_move : ∀ op, (op = 0 ∨ op = 1) → (sMove op).memOk ∧ (sMove op).clear ((sMove op).whoOf i0 (qMove op))
    ∧ (sMove op).soleHead i0 .str (qMove op) []
    ∧ (qMove op).eng = .str ∧ (qMove op).op = op ∧ (qMove op).n ≠ 0 ∧ (qMove op).skip = false ∧ ((sMove op).core (skey i0)).ctxFree (qMove op) = true
    ∧ (∀ p, ((sMove op).stream ⟨0, 0, p⟩).run = [])
    ∧ (∀ j, j < (qMove op).n → (sMove op).floorMet i0 (qMove op) j = true ∧ (sMove op).repReaches i0 (qMove op) j = true)
    ∧ overlaps (movedElems (sMove op).fuse.gradeB ((sMove op).core (skey i0)).wins (qMove op)) = false := by
  unfold State.memOk
  rintro op (rfl | rfl)
  · exact ⟨by decide +kernel, clear_of rfl (by decide +kernel), sole (by decide +kernel), rfl, by decide +kernel, by decide +kernel, by decide +kernel,
      by decide +kernel, fun p => by cases p <;> rfl, by decide +kernel, by decide +kernel⟩
  · exact ⟨by decide +kernel, clear_of rfl (by decide +kernel), sole (by decide +kernel), rfl, by decide +kernel, by decide +kernel, by decide +kernel,
      by decide +kernel, fun p => by cases p <;> rfl, by decide +kernel, by decide +kernel⟩
/-- A FILL before its floor. -/
theorem wit_floor : (withStream { queued (qMove 1) with stime := 99 }).floorMet i0 (qMove 1) 0 = false := by decide +kernel

/-- LZERO, LNEG and LRED of slot 3. -/
def qLane (op : Nat) : QEntry := entry .vec (word 2 op (3 * 2 ^ 38))
theorem wit_lane : ∀ op, (op = 16 ∨ op = 17 ∨ op = 18) → (withStream (queued (qLane op))).soleHead i0 .vec (qLane op) [] ∧ (qLane op).n ≠ 0
    ∧ (qLane op).skip = false ∧ (qLane op).op = op ∧ twf ({} : LW) [(3, { n := 5 }), (11, { n := 7, nan := true })] = true := by
  rintro op (rfl | rfl | rfl) <;> exact ⟨sole (by decide +kernel), by decide +kernel⟩

/-- An MMA without repetitions; a bank with a row and a column. -/
def qMma : QEntry := { entry .mx (word 1 0 (2 ^ 78 + 2 ^ 77 + 32 * 2 ^ 31)) with n := 0 }
theorem wit_mma : (withStream (queued qMma)).soleHead i0 .mx qMma [] ∧ qMma.n = 0 ∧ qMma.eng = .mx
    ∧ ((withStream (queued qMma)).core (skey i0)).bankTurn .fwd qMma = .start
    ∧ ((withStream (queued qMma)).core (skey i0)).chainReady qMma = true
    ∧ (withStream (queued qMma)).clear ((withStream (queued qMma)).whoOf i0 qMma) :=
  ⟨sole (by decide +kernel), by decide +kernel, by decide +kernel, by decide +kernel, by decide +kernel, clear_of rfl (by decide +kernel)⟩
/-- The other VEC opcodes: an element opcode, ACC, SUMSQ, MOMENTS, LWADD, LWLD, LWST, REANCHOR and FINISH, of slot 3. -/
def qVec (op : Nat) : QEntry := { entry .vec (word 2 op (6 * 2 ^ 76 + 5 * 2 ^ 44 + 3 * 2 ^ 38)) with fmtA := 6, rung := 6 }
theorem wit_vec : ∀ op ∈ [0, 1, 2, 3, 4, 5, 6, 7, 8, 9, 10, 11, 12, 13, 19, 24], let q := qVec op
    let s := withStream (queued q)
    s.soleHead i0 .vec q [] ∧ q.n = 1 ∧ q.skip = false ∧ q.op = op ∧ sbBlock q.fmtA = 0 ∧ vSlot q.w ≤ 6 ∧ s.clear (s.whoOf i0 q) ∧ s.memOk := by
  intro op hop
  simp only [List.mem_cons, List.not_mem_nil, or_false] at hop
  rcases hop with rfl | rfl | rfl | rfl | rfl | rfl | rfl | rfl | rfl | rfl | rfl | rfl | rfl | rfl | rfl | rfl <;>
    exact ⟨sole (by decide +kernel), by decide +kernel, by decide +kernel, by decide +kernel, by decide +kernel, by decide +kernel, clear_of rfl (by decide +kernel),
      by unfold State.memOk; decide +kernel⟩
/-- The words that LWST tells apart, and the numbers that FINISH does. -/
theorem wit_words : ({ n := 5, nan := true } : LW).nan = true ∧ (2 ^ 255 - 1 : Int).natAbs ≤ 2 ^ 255 - 1 ∧ 2 ^ 255 - 1 < (-(2 ^ 255) : Int).natAbs
    ∧ (2 * 5 - 3 * 3 : Int) = 1 ∧ (2 * 4 - 3 * 3 : Int) < 0 ∧ (⟨false, 129, -20⟩ : Exact).neg = false ∧ (0 : Int) ≤ 0 := by decide +kernel
/-- A row and a column of 32 elements in blocks of 32, and of FP32 in blocks of one. -/
theorem wit_beat : ∀ x ∈ [(32, false), (1, true)], let bk : Bank := { blk := x.1 }
    let a := [List.replicate 32 (Elem.fin ⟨false, 3, -1⟩)]
    0 < a.length ∧ a.length ≤ 32 ∧ (∀ r ∈ a ++ a, r.length = 32) ∧ bk.blk ≠ 0 ∧ 32 % bk.blk = 0 ∧ (x.2 = true → bk.blk = 1) := by decide +kernel

/-- A PACK of bank 0, and one that chains; the verdict of a checked tile. -/
def packW (ch : Nat) : W128 :=
  word 3 0 (ch * 2 ^ 78 + (2 ^ 12 + 2 ^ 8) * 2 ^ 62 + (1 - ch) * (2 ^ 58 + 2 * 2 ^ 54) + 64 * 2 ^ 37 + 77 * 2 ^ 21)
def bk0 : Bank := { state := .closed, owner := some .fwd, fmtA := 1, fmtB := 1, blk := 32, lw := [(0, { n := 2 ^ 140 })], ran := true, checked := false }
def qPack (ch : Nat) : QEntry := { entry .pack (packW ch) with rung := 1 }
def sPack (ch : Nat) : State := (withStream (queued (qPack ch))).modCore 0 fun c => { c with b0 := bk0 }
theorem wit_drain : ∀ ch, (ch = 0 ∨ ch = 1) → (sPack ch).clear ((sPack ch).whoOf i0 (qPack ch)) ∧ (sPack ch).soleHead i0 .pack (qPack ch) [] ∧ (qPack ch).skip = false
    ∧ 0 ∈ banksOf (qPack ch).w (qPack ch).wide ∧ ((sPack ch).core (ckey ⟨0, 0⟩)).bankTurn .fwd (qPack ch) = .start
    ∧ ((sPack ch).core (ckey ⟨0, 0⟩)).writeFree (qPack ch) = true ∧ pChout (qPack ch).w = (ch == 1) := by
  rintro ch (rfl | rfl) <;> exact ⟨clear_of rfl (by decide +kernel), sole (by decide +kernel), by decide +kernel⟩
/-- The bytes of its tile: rows apart, within the store, at a pitch that holds them; values on either side of the largest. -/
theorem wit_tile_values : ((sPack 0).core (ckey ⟨0, 0⟩)).lam = [] ∧ (qPack 0).rung.toNat ≤ 9 ∧ 32 * fmtBytes 1 ≤ pPitch (qPack 0).w
    ∧ (32 - 1) * pPitch (qPack 0).w + 32 * fmtBytes 1 ≤ 2 ^ 21 ∧ sbBlock 1 = 0 ∧ Memory.wf (sPack 0).mem = true := by decide +kernel
theorem wit_nearest : nearestEven 2 (5 / 2) ∧ ¬ nearestEven 3 (5 / 2) ∧ (723 : Nat) ≠ 0 ∧ (0xA5C31E08 : Nat) < 2 ^ 32 := by
  unfold nearestEven; norm_num
def dig0 : DigestRec := ⟨0, 77, 0, 0, 3, 1, false, 0, 0, 0, 0, 5, false, 0x0114528F, 0, 0⟩
def drain0 : Drain :=
  { bank := 0, pass := .fwd, id := 3, checked := true, skip := false, badRow := none, badCol := none, ord := 0, flags := {}, pol := 0, rung := 1
    ceil := 1, inop := false, iaddr := 0, dig := dig0 }
theorem wit_verdict :
    let s := (withStream runs0).modCore 0 fun c => { c with drains := [drain0], b0 := { bk0 with state := .draining } }
    i0.wf = true ∧ (s.core (ckey ⟨0, 0⟩)).pow = .on ∧ (s.core (ckey ⟨0, 0⟩)).drains = [drain0] ∧ drain0.dig.wide = false
      ∧ ((s.core (ckey ⟨0, 0⟩)).bank 0).state = .draining ∧ (tget {} s.ev.capCfg drain0.dig.part).tile = false ∧ s.ev.replay = none := by decide +kernel

/-- Core 1 chains to core 0: a buffer that the row fills exactly, one that it overfills, and a row of another epoch. -/
def row0 (ep : W16) : ChainRow := ⟨ep, List.replicate 64 1, []⟩
def sChain (buf : Nat) (ep : W16) : State :=
  { s0 with
    parts := [(0, { part0 with chains := [(1, 0)] })]
    cores := [(0, { s0.core 0 with chainBuf := [⟨0, List.replicate buf 0, []⟩] }),
      (1, { pow := .on, part := some 0, chainOut := [row0 ep], chainVs := [(0, some (2, false))] })] }
def chainUsed (s : State) : Nat := ((s.core 0).chainBuf.map fun r => r.bytes.length + r.scales.length).foldl (· + ·) 0
theorem wit_chain : (∀ x ∈ [(8128, 0), (8129, 0), (1, 1)], let s := sChain x.1 (BitVec.ofNat 16 x.2)
      s.producer (ckey ⟨0, 0⟩) = some 1 ∧ 1 ≠ ckey ⟨0, 0⟩ ∧ (s.core (ckey ⟨0, 0⟩)).pow = .on ∧ (s.core 1).chainOut = row0 (BitVec.ofNat 16 x.2) :: []
        ∧ (s.core 1).chainVs = ((s.core (skey i0)).epoch, some (2, false)) :: [])
    ∧ chainUsed (sChain 8128 0) + 64 ≤ 8192 ∧ 8192 < chainUsed (sChain 8129 0) + 64 ∧ (row0 1).epoch ≠ ((sChain 1 1).core 0).epoch
    ∧ (row0 0).epoch = ((sChain 8128 0).core 0).epoch := by decide +kernel

/-- An attempt that is over, with Wide and Range, with a mismatch, and in a verdict group; its decision. -/
def ended : Stream :=
  { runs0 with
    inop := true, phase := .ended, opFlags := { sat := true, wide := true }, opPol := 0, rung := 1, opCeil := 3, opG := 100
    snap := some ⟨runs0.a, runs0.s, runs0.c, [], 0⟩ }
theorem wit_evaluation : (withStream ended).attemptOver i0 = true ∧ (withStream { ended with mismatch := true }).attemptOver i0 = true
    ∧ (withStream { ended with opN := 2 }).attemptOver i0 = true ∧ ((withStream { ended with opN := 2 }).stream i0).opN ≠ 0
    ∧ ((withStream ended).stream i0).mismatch = false
    ∧ (((withStream ended).modCore (skey i0) fun c => { c with pow := .gated }).core (skey i0)).pow = .gated
    ∧ ((withStream ended).modCore (skey i0) fun c => { c with pow := .gated }).attemptOver i0 = true := by decide +kernel
def evaluated (w g : Bool) : Stream := { ended with phase := .evaluated w g }
theorem wit_decision_repeats : (∀ wg ∈ [(true, true), (true, false), (false, true)], let s := withStream (evaluated wg.1 wg.2)
      (s.stream i0).phase = .evaluated wg.1 wg.2 ∧ (s.stream i0).state = .running ∧ (s.stream i0).opN = 0
        ∧ (s.stream i0).snap = some ⟨runs0.a, runs0.s, runs0.c, [], 0⟩ ∧ (s.stream i0).chained = false)
    ∧ ∀ w ∈ [false, true], let s := withStream { evaluated w false with chained := true, chainV := [some (2, true)] }
      (s.stream i0).phase = .evaluated w false ∧ (s.stream i0).state = .running ∧ (s.stream i0).opN = 0 ∧ (s.stream i0).chained = true
        ∧ (s.stream i0).chainV.head?.join = some (2, true) := by decide +kernel
theorem wit_decision_completes : let s := withStream { evaluated false false with opFlags := {} }
    (s.stream i0).phase = .evaluated false false ∧ (s.stream i0).state = .running ∧ (s.stream i0).opN = 0 ∧ (s.stream i0).chained = false := by
  decide +kernel
theorem wit_decision_waits : let s := withStream { evaluated false true with opN := 2 }
    (s.stream i0).phase = .evaluated false true ∧ (s.stream i0).opN ≠ 0 ∧ s.readGroup i0 (s.stream i0) = none := by decide +kernel

/-! #### Sync objects -/

def req0 : SyncReq :=
  { obj := 70000, kind := .add, value := 9, step := 5, epoch := 0, part := 0, unit := 0x0014528F, src := some i0, srcId := 3, link := false }
def sSync (r : SyncReq) (t : ObjType) (lim np v : W32) (fence : List W32) : State :=
  { s0 with
    parts := [(0, { part0 with openStep := 6 })], syn1 := { net := [r], fence := fence }
    objs := [(70000, { type := t, alloc := true, l1 := some v, limit := lim, npart := np })] }
theorem wit_sync : ∀ x ∈ [(SyncKind.set, ObjType.flag), (.add, .count)], let r := { req0 with kind := x.1 }
    let s := sSync r x.2 0 0 1 []
    (s.syn 1).net = r :: [] ∧ 1 = halfOfObj r.obj ∧ s.crosses (unitHalf r.unit) 1 = true ∧ s.synDrop r.obj r.unit r.epoch = none
      ∧ (s.obj r.obj).alloc = true ∧ r.kind = x.1 ∧ (s.obj r.obj).type = x.2 := by decide +kernel
theorem wit_sync_dropped : (let s := sSync req0 .count 0 0 1 [req0.unit]
      (s.syn 1).net = req0 :: [] ∧ 1 = halfOfObj req0.obj ∧ s.crosses (unitHalf req0.unit) 1 = true ∧ req0.kind = .add ∧ s.masked req0.unit = true)
    ∧ (let s := sSync { req0 with epoch := 1 } .count 0 0 1 []
      (s.syn 1).net = { req0 with epoch := 1 } :: [] ∧ s.crosses (unitHalf req0.unit) 1 = true ∧ (s.obj 70000).fence ≠ 1) := by decide +kernel
def rFadd : SyncReq := { req0 with kind := .fadd 64, step := 6 }
theorem wit_fadd : ∀ x ∈ [((0, 0, 8) : Nat × Nat × Nat), (10, 2, 8), (10, 2, 11)],
    let s := sSync rFadd .work (BitVec.ofNat 32 x.1) (BitVec.ofNat 32 x.2.1) (BitVec.ofNat 32 x.2.2) []
    ((s.syn 1).net = rFadd :: [] ∧ 1 = halfOfObj rFadd.obj ∧ s.crosses (unitHalf rFadd.unit) 1 = true ∧ s.synDrop rFadd.obj rFadd.unit rFadd.epoch = none
      ∧ (s.obj rFadd.obj).alloc = true ∧ (s.obj rFadd.obj).type = .work ∧ rFadd.kind = .fadd 64 ∧ rFadd.src = some i0 ∧ s.errs = []
      ∧ Memory.wf s.mem = true ∧ (s.obj rFadd.obj).limit.toNat = x.1 ∧ (s.obj rFadd.obj).value.toNat = x.2.2)
      ∧ (match (some (rFadd.unit, rFadd.epoch) : Option (W32 × W16)) with
          | none => true | some y => !s.masked y.1 && y.2 == (s.part rFadd.part).epoch) = true := by decide +kernel
theorem wit_fadd_clear : (sSync rFadd .work 10 2 8 []).clear { part := rFadd.part, src := some (rFadd.unit, rFadd.epoch) } :=
  clear_of rfl (by decide +kernel)

/-- A core whose one running stream waits, and one whose stream runs. -/
theorem wit_gate : let s := withStream { runs0 with stall := 5 }
    (s.core (ckey ⟨0, 0⟩)).pow = .on ∧ (s.core (ckey ⟨0, 0⟩)).fwd.stall = 5 ∧ (s.core (ckey ⟨0, 0⟩)).fwd.run = [] ∧ (s.core (ckey ⟨0, 0⟩)).bwd.state ≠ .running
      ∧ (s.core (ckey ⟨0, 0⟩)).bwd.run = [] ∧ (s.core (ckey ⟨0, 0⟩)).upd.state ≠ .running ∧ (s.core (ckey ⟨0, 0⟩)).upd.run = []
      ∧ (s0.core (ckey ⟨0, 0⟩)).pow = .on ∧ (s0.core (ckey ⟨0, 0⟩)).fwd.state = .running ∧ (s0.core (ckey ⟨0, 0⟩)).fwd.stall = 0 := by decide +kernel

/-- An UPD under each verdict: COMMIT with the exponent of its step, and another. -/
def qUpd : QEntry := entry .upd (word 5 0 (5 * 2 ^ 23 + 2 ^ 73 + 2 * 2 ^ 69 + 4 * 2 ^ 53 + 8 * 2 ^ 48 + 8 * 2 ^ 44 + 1))
def sUpd (v : Nat) : State :=
  { withStream (queued qUpd) with
    objs := [(5, { type := .gate, alloc := true, l0 := some (BitVec.ofNat 32 (v * 1024)) })] }
theorem wit_upd : ∀ v, (v = 1 ∨ v = 2) → (sUpd v).soleHead i0 .upd qUpd [] ∧ (sUpd v).updReady i0 qUpd = true ∧ qUpd.n ≠ 0 ∧ qUpd.skip = false
    ∧ ((sUpd v).stream i0).run = [] ∧ (sUpd v).upds = []
    ∧ (sUpd v).errs = [] ∧ (fld ((sUpd v).obj (fld qUpd.w 39 23)).value 11 10 = 1 ↔ v = 1)
    ∧ ∀ u ∈ updUnits (sUpd v).fuse.gradeB i0.die qUpd,
        (((sUpd v).unit u).entry (((sUpd v).core (skey i0)).part.getD 0xFF) qUpd.step).isSome = true := by
  rintro v (rfl | rfl)
  · exact ⟨sole (by decide +kernel), by decide +kernel, by decide +kernel, by decide +kernel, by decide +kernel, by decide +kernel, by decide +kernel,
      by decide +kernel, fun _ _ => rfl⟩
  · exact ⟨sole (by decide +kernel), by decide +kernel, by decide +kernel, by decide +kernel, by decide +kernel, by decide +kernel, by decide +kernel,
      by decide +kernel, fun _ _ => rfl⟩
/-- Its unit with the record and a granule in the cache of its channel. -/
def run0 : UpdRun := { at_ := i0, q := qUpd, part := 0, elems := (updElems qUpd).take 2, sexp := 0 }
def updDesc (act : DescAct) (len : W32) : PDesc :=
  { src := 256, dst := 0, len0 := len, cnt1 := 1, sstr1 := 0, dstr1 := 0, dl := 0, rate := 0, part := 0, signal := false, sobj := 0, at_ := i0, id := 3
    act := act, drank := 0, hdr := { kind := 0, retry := 0, srank := 0, step := 0, sig := 0, coll := 0, anchor := 0, pos := 0, csum := 0, body := [] } }
def sUpdRun (x : PDesc) : State :=
  { s0 with dies := [(0, { chans := [(16, { cache := [x] })] })], upds := [(0, { run := [run0] })] }
theorem wit_upd_serves : ∀ x ∈ [updDesc .record 64, updDesc (.granule true) 4096],
    (((sUpdRun x).die 0).chan 16).cache = x :: [] ∧ 0 = 2 * 0 + (if 16 < 24 then 0 else 1)
      ∧ (((sUpdRun x).unit 0).run.find? fun r => r.at_ == x.at_ && r.q.id == x.id) = some run0
      ∧ (sUpdRun x).clear ((sUpdRun x).updWho 0 run0.part) ∧ (sUpdRun x).dmaReaches 0 x.part false x.src.toNat x.len0.toNat = true
      ∧ ∀ e ∈ run0.elems.filter (fun e => decide (x.src.toNat ≤ e.2.2) && decide (e.2.2 < x.src.toNat + x.len0.toNat)),
          (sUpdRun x).updReaches 0 run0.part run0.q e = true := by
  intro x hx
  rcases List.mem_cons.mp hx with rfl | hx
  · exact ⟨rfl, by decide +kernel, by decide +kernel, clear_of rfl (by decide +kernel), by decide +kernel, by decide +kernel⟩
  · rcases List.mem_cons.mp hx with rfl | hx
    · exact ⟨rfl, by decide +kernel, by decide +kernel, clear_of rfl (by decide +kernel), by decide +kernel, by decide +kernel⟩
    · cases hx

/-- The UPD that a unit runs is the first of its list. -/
theorem wit_upd_first : ((sUpdRun (updDesc .record 64)).unit 0).run.head? = some run0 ∧ run0.at_ = (updDesc .record 64).at_
    ∧ run0.q.id = (updDesc .record 64).id := by decide +kernel

/-! #### Collectives -/

/-- An all-reduce, gather or mirror entry of two members, as an image gives it, and a packet of it from rank 1. -/
def collRec (kind : Nat) : List Byte :=
  [0, BitVec.ofNat 8 kind] ++ leBytes 2 12 ++ leBytes 2 (6 * 4096 + 6 * 256) ++ leBytes 2 0 ++ leBytes 4 256 ++ leBytes 4 64 ++ leBytes 8 4096 ++ leBytes 8 0
    ++ leBytes 2 4 ++ leBytes 2 2 ++ leBytes 1 1 ++ leBytes 3 0 ++ leBytes 16 0 ++ leBytes 4 500 ++ leBytes 4 8 ++ leBytes 4 (2 ^ 31 + 40) ++ leBytes 60 0
    ++ leBytes 1 3 ++ leBytes 127 0
def sColl (kind : Nat) : State := { s0 with parts := [(0, { part0 with colls := [(12, collRec kind)], openStep := 6 })] }
/-- An XCH of each opcode whose range lies in its entry, and one whose range does not. -/
def qXch (op len : Nat) : QEntry :=
  { entry .xch (word 4 op (12 * 2 ^ 68 + 5 * 2 ^ 64 + 9 * 2 ^ 60 + len * 2 ^ 24)) with a := runs0.a.setIfInBounds 9 4096 }
def sXch (op len : Nat) : State :=
  { withStream (queued (qXch op len)) with parts := [(0, { part0 with colls := [(12, collRec (if op = 1 then 1 else 0))], openStep := 6 })] }
theorem wit_xch : ∀ op ∈ [0, 1, 2, 3, 4], let q := qXch op 1
    let s := sXch op 1
    s.soleHead i0 .xch q [] ∧ s.xchReady i0 = true ∧ q.eng = .xch ∧ q.op ≤ 4 ∧ q.n = 1 ∧ s.errs = [] := by
  intro op hop
  simp only [List.mem_cons, List.not_mem_nil, or_false] at hop
  rcases hop with rfl | rfl | rfl | rfl | rfl <;> exact ⟨sole (by decide +kernel), by decide +kernel⟩
theorem wit_xch_range : let dst := fun (q : QEntry) => (q.addr (fld q.w 63 60) (bit q.w 58) 0).toNat
    let r := collRec 0
    collBase r ≤ dst (qXch 2 1) ∧ (dst (qXch 2 1) - collBase r) % collW r = 0 ∧ (dst (qXch 2 1) - collBase r) / collW r % 64 = 0
      ∧ 64 * 1 ≤ collElems r ∧ collElems r < 64 * 5 ∧ fld (qXch 2 5).w 39 24 = 5 := by decide +kernel

def pz (kind : Nat) : XPkt := { kind := kind, retry := 0, srank := 1, step := 6, sig := 0, coll := 12, anchor := 0, pos := 0, csum := 0, body := [] }
def signed (c : Nat) (p : XPkt) : XPkt := { p with sig := collSig (collRec c) }
theorem coll0 (c : Nat) (h : c = 0 ∨ c = 1 ∨ c = 2) : ((sColl c).coll 0 12).getD [] = collRec c := by
  rcases h with rfl | rfl | rfl <;> decide +kernel
theorem step0 (c k : Nat) (p : XPkt) (hc : c = 0 ∨ c = 1 ∨ c = 2) (h : p.kind = k ∧ p.step = 6 ∧ p.retry = 0 ∧ p.coll = 12) :
    (sColl c).inStep 0 (signed c p) ∧ (signed c p).kind = k ∧ (sColl c).errs = [] :=
  ⟨⟨h.2.1, h.2.2.1, Or.inr (by rw [show (signed c p).coll = 12 from h.2.2.2, coll0 c hc]; rfl)⟩, h.1, rfl⟩
theorem wit_packet_checks : (sColl 0).nextPacket 3 0 (pz 2) ∧ ¬ ((9 : W32) = ((sColl 0).part 0).openStep.setWidth 32)
    ∧ ¬ ((9 : W32) = (((sColl 0).part 0).openStep + 1).setWidth 32) ∧ (pz 2).step = ((sColl 0).part 0).openStep.setWidth 32
    ∧ (pz 2).retry = ((sColl 0).part 0).retry ∧ 2 ≤ (pz 2).kind :=
  ⟨⟨by decide +kernel, Or.inl (by decide +kernel)⟩, by decide +kernel⟩
/-- A signature that differs from the entry's. -/
theorem wit_other_signature : collSig (((sColl 0).coll 0 12).getD []) + 1 ≠ collSig (((sColl 0).coll 0 12).getD []) := by
  generalize collSig _ = x
  exact fun h => absurd (BitVec.add_right_eq_self.mp h) (by decide)
/-- Packets arrive from outside; one on a link goes before a later one of its sender. -/
theorem wit_next (c : Nat) (p : XPkt) : (sColl c).nextPacket 3 0 p := ⟨rfl, Or.inl rfl⟩
theorem wit_next_in_order : let s := { sColl 0 with link := { (sColl 0).link with xin := [(0, pz 2), (0, pz 3)] } }
    s.nextPacket 3 0 (pz 2) ∧ ¬ s.nextPacket 3 0 (pz 3) :=
  ⟨⟨by decide +kernel, Or.inl rfl⟩, fun h => absurd h.1 (by decide +kernel)⟩
def result (csum : W64) : XPkt := { pz 2 with pos := posWord 64 64 1, csum := csum, body := leBytes 2 7 ++ List.replicate 126 (0 : Byte) }
theorem wit_landing : (sColl 0).inStep 0 (signed 0 (pz 0)) ∧ (sColl 0).inStep 0 (signed 0 (result 7)) ∧ (sColl 1).inStep 0 (signed 1 (pz 3))
    ∧ (sColl 0).clear ((sColl 0).xchWho 3 0) ∧ codesSum (elemCodes (collW (collRec 0)) (result 7).body) = 7
    ∧ ¬ codesSum (elemCodes (collW (collRec 0)) (result 8).body) = 8 ∧ 2 ≤ (result 7).kind
    ∧ (sColl 0).dmaReaches 3 0 true (collBase (collRec 0) + 64 * collW (collRec 0)) 128 = true :=
  ⟨(step0 0 0 _ (by decide) (by decide +kernel)).1, (step0 0 2 _ (by decide) (by decide +kernel)).1, (step0 1 3 _ (by decide) (by decide +kernel)).1,
    clear_of rfl (by decide +kernel), by decide +kernel⟩
/-- A PUT packet whose destination lies on the other half, with both bridge segments dead. -/
theorem wit_no_bridge : let s := { sColl 0 with link := { (sColl 0).link with bridgeN := false, bridgeS := false } }
    let p := { pz 0 with pos := 12 * 2 ^ 37, body := leBytes 8 0 ++ [1] }
    s.dmaReaches 3 0 true p.pos.toNat (p.body.drop 8).length = false ∧ p.step = (s.part 0).openStep.setWidth 32 ∧ s.errs = [] := by decide +kernel
/-- An RSIG write goes to a FLAG of the partition. -/
theorem wit_put_signals : let s := { sColl 0 with objs := [(503, { type := .flag, alloc := true, part := 0 })] }
    let p := { pz 0 with body := leBytes 8 (2 ^ 31 + 503) ++ [1] }
    recNat p.body 0 8 / 2 ^ 31 % 2 = 1 ∧ (s.obj (recNat p.body 0 8 % 2 ^ 17)).alloc = true ∧ (s.obj (recNat p.body 0 8 % 2 ^ 17)).part = 0
      ∧ (s.obj (recNat p.body 0 8 % 2 ^ 17)).type = .flag := by decide +kernel
def sMirror (t : ObjType) : State := { sColl 2 with objs := [(503, { type := t, alloc := true, l1 := some 4 })] }
theorem wit_mirror : (sColl 2).inStep 0 (signed 2 { pz 4 with pos := 3 }) ∧ (sColl 2).inStep 0 (signed 2 { pz 4 with pos := 3 + 2 ^ 32 })
    ∧ ∀ x ∈ [((3 : W64), ObjType.flag), (3 + 2 ^ 32, .count)], let s := sMirror x.2
      s.parts = (sColl 2).parts ∧ s.link.xin = [] ∧ collKind (collRec 2) = 2 ∧ fld x.1 16 0 < collCount (collRec 2)
        ∧ s.synDrop 503 (xchUnit 3) (tget 0 (s.die 3).epochs 0) = none ∧ collFirst (collRec 2) + fld x.1 16 0 = 503 ∧ (s.obj 503).alloc = true
        ∧ (s.obj 503).type = x.2 ∧ (fld x.1 33 32 = 0 ↔ x.2 = .flag) :=
  ⟨(step0 2 4 _ (by decide) (by decide +kernel)).1, (step0 2 4 _ (by decide) (by decide +kernel)).1, by decide +kernel⟩

/-- Contributions of rank 1, and of rank 0 that owns the chunk; one that this owner holds already. -/
def pc (r : Nat) : XPkt := { pz 1 with srank := r, pos := posWord 0 0 0 }
def zeros : List (Int × Bool) := List.replicate 64 (0, false)
def held0 : OwnChunk :=
  { part := 0, coll := 12, chunk := 0, step := 6, high := List.replicate 64 0, tag := List.replicate 64 false, seen := [(1, pc 1)] }
def sHeld : State := { sColl 0 with dies := [(collDie (collRec 0), { chunks := [held0] })] }
theorem wit_contrib : (∀ r ∈ [0, 1], (pc r).kind = 1 ∧ (pc r).step = ((sColl 0).part 0).openStep.setWidth 32 ∧ (pc r).retry = ((sColl 0).part 0).retry
      ∧ (collOwner (collRec 0) (posFirst (pc r))).1 = (sColl 0).rank ∧ (collMembers (collRec 0)).contains (pc r).srank = true
      ∧ contribElems (pc r) = some zeros)
    ∧ ((sHeld.chunkOf 0 (collRec 0) (pc 1)).seen.find? fun x => x.1 == (pc 1).srank) = some (1, pc 1) ∧ { pc 1 with csum := 1 } ≠ pc 1 := by decide +kernel
/-- A contribution for a chunk of the other rank, one of no member, and one for an owner core across a dead midline. -/
theorem wit_contrib_elsewhere : let p := { pc 1 with pos := posWord 64 0 1 }
    p.kind = 1 ∧ (collOwner (collRec 0) (posFirst p)).1 ≠ (sColl 0).rank ∧ ({ pc 1 with srank := 9 } : XPkt).srank ∉ collMembers (collRec 0)
      ∧ (let s := { sColl 0 with link := { (sColl 0).link with bridgeN := false, bridgeS := false } }
        s.ownerReached 11 (collRec 0) (posFirst (pc 1) / 64) = false ∧ s.contribFits 0 (pc 1) = true
          ∧ (sColl 0).ownerReached 11 (collRec 0) (posFirst (pc 1) / 64) = true) := by decide +kernel
/-- A MIRROR packet at a die of the other half, with both bridge segments dead. -/
theorem wit_mirror_unreached : let s := { sMirror .flag with link := { (sMirror .flag).link with bridgeN := false, bridgeS := false } }
    collKind (collRec 2) = 2 ∧ fld (3 : W64) 16 0 < collCount (collRec 2) ∧ s.crosses (halfOfDie 9) (halfOfObj (collFirst (collRec 2) + 3)) = false := by
  decide +kernel

/-- Rank 1 waits for rank 0, whose contribution is added first. -/
theorem wit_contrib_turns : let c := (sColl 0).chunkOf 0 (collRec 0) (pc 1)
    (c.seen = [] ∧ c.staged = [] ∧ c.finished = false ∧ c.next = 0 ∧ 2 ≤ (collMembers (collRec 0)).length
      ∧ (collMembers (collRec 0))[0]? = some (pc 0).srank ∧ (collMembers (collRec 0))[0]? ≠ some (pc 1).srank
      ∧ (sColl 0).freeSlot (collRec 0) c false = some 0 ∧ (sColl 0).freeSlot (collRec 0) c true = some 0
      ∧ Memory.wf (sColl 0).mem = true ∧ (pc 0).anchor.toInt = collAnchor (collRec 0)
      ∧ low64sum (zeros.map fun e => if e.2 then 0 else e.1) = (pc 0).csum) := by decide +kernel
theorem wit_contrib_clear : (sColl 0).clear ((sColl 0).ownerWho 0 (chunkCore (collRec 0) 0)) := clear_of rfl (by decide +kernel)
/-- The owner's own contribution with the entry's signature. -/
theorem wit_contrib_signed : (signed 0 (pc 0)).sig = collSig (((sColl 0).coll 0 12).getD []) ∧ (sColl 0).inStep 0 (signed 0 (pc 0)) :=
  ⟨by rw [coll0 0 (by decide)]; rfl, (step0 0 1 _ (by decide) (by decide +kernel)).1⟩

/-- A transfer of two receivers with one chunk outstanding: CREDIT and ACK of rank 1. -/
def swarm0 : Swarm :=
  { part := 0, coll := 12, kind := 2, step := 6, tid := 0, total := 2, receivers := [1, 2], sent := [pz 2], outstanding := [(1, 1)], rsig := none
    at_ := i0, id := 0 }
def sSwarm : State := { sColl 0 with dies := [(4, { swarms := [swarm0] })] }
theorem wit_credit : sSwarm.inStep 0 (signed 0 (pz 5)) ∧ sSwarm.inStep 0 (signed 0 (pz 6))
    ∧ (sSwarm.anySwarm (sSwarm.creditFor 0 (collRec 0) 6 (signed 0 { pz 5 with pos := posWord 0 64 0 }))) = some (4, 0, swarm0) ∧ swarm0.unsent = []
    ∧ ({ swarm0 with outstanding := tset 0 swarm0.outstanding 1 (tget 0 swarm0.outstanding 1 - 1) } : Swarm).over = false
    ∧ (sSwarm.anySwarm fun x => x.part == 0 && x.coll == 12 && x.step == 6 && x.kind == 2 && (2 == 2 || x.tid == leadTid (pz 6))) = some (4, 0, swarm0)
    ∧ swarm0.acked.contains 1 = false ∧ ({ swarm0 with acked := swarm0.acked ++ [1] } : Swarm).over = false :=
  ⟨(step0 0 5 _ (by decide) (by decide +kernel)).1, (step0 0 6 _ (by decide) (by decide +kernel)).1, by decide +kernel⟩
def sLack : State :=
  { sColl 0 with dies := [(3, { rx := [{ part := 0, coll := 12, kind := 2, step := 6, tid := 1, src := 1, total := 2, dropped := true }] })] }
def lost1 (kind : Nat) : XPkt := { pz kind with pos := posWord 64 64 1 }
theorem wit_repair : sSwarm.inStep 0 (signed 0 (pz 8)) ∧ sLack.inStep 0 (signed 0 (pz 9)) ∧ 2 ≤ (pz 7).kind
    ∧ dataKind (collRec 0) = 2
    ∧ sSwarm.heldChunk (newRx (collRec 0) 0 2 (signed 0 (pz 8))) (chunkId 2 (signed 0 (pz 8))) = some (pz 2)
    ∧ (sColl 0).heldChunk (newRx (collRec 0) 0 2 (signed 0 (pz 8))) (chunkId 2 (signed 0 (pz 8))) = none
    ∧ (newRx (collRec 0) 0 2 (signed 0 (pz 8))).tid = (sColl 0).rank
    ∧ (sColl 0).heldChunk (newRx (collRec 0) 0 2 (signed 0 (lost1 8))) (chunkId 2 (signed 0 (lost1 8))) = none
    ∧ (newRx (collRec 0) 0 2 (signed 0 (lost1 8))).tid ≠ (sColl 0).rank
    ∧ (let x := sLack.getRx 3 (newRx (collRec 0) 0 2 (signed 0 (lost1 9)))
      x.dropped = true ∧ (x.missing (collRec 0)).contains (chunkId x.kind (signed 0 (lost1 9))) = true)
    ∧ ((sColl 0).getRx 3 (newRx (collRec 0) 0 2 (signed 0 (lost1 9)))).dropped = false :=
  ⟨(step0 0 8 _ (by decide) (by decide +kernel)).1, (step0 0 9 _ (by decide) (by decide +kernel)).1, by decide +kernel⟩

/-- A laggard, a chunk that rank 0 owes, and a transfer that lacks a chunk. -/
def swarm1 : Swarm := { swarm0 with unsent := [pz 2], outstanding := [(1, 2)] }
theorem wit_timeouts :
    (({ sColl 0 with dies := [(3, { swarms := [swarm1] })] } : State).findSwarm 3 (fun w => w.part == 0 && w.coll == 12 && w.kind != 1 && !w.unsent.isEmpty
        && (w.live.filter (w.blocked (max 1 (collCredit (collRec 0))))) == [1] && decide (1 < w.live.length)) = some (0, swarm1))
    ∧ ((sHeld.die (collDie (collRec 0))).chunks.find? fun c => c.part == 0 && c.coll == 12 && c.chunk == 0
        && c.step == (sHeld.part 0).openStep.setWidth 32 && !c.finished) = some held0
    ∧ ((collMembers (collRec 0)).find? fun m => !(held0.seen.any fun x => x.1 == m)) = some 0
    ∧ ((sLack.die 3).rx.find? fun x => x.part == 0 && x.coll == 12 && x.dropped && (x.missing (collRec 0)).contains 1).isSome = true := by decide +kernel

/-! #### Memory -/

/-- A channel with a full and an over-full cache; a descriptor with an empty one behind it. -/
def pd0 : PDesc :=
  { src := 8192, dst := 0, len0 := 4, cnt1 := 1, sstr1 := 0, dstr1 := 0, dl := 0, rate := 0, part := 0, signal := false, sobj := 0, at_ := i0, id := 3
    act := .send true true false, drank := 1, hdr := { pz 0 with body := leBytes 8 0 } }
def sChan (n : Nat) : State := { sColl 0 with dies := [(3, { chans := [(2, { ring := List.replicate 40 pd0, cache := List.replicate n pd0 })] })] }
theorem wit_channel : (((sChan 32).die 3).chan 2).wait = [] ∧ (((sChan 32).die 3).chan 2).cache.length ≤ 32 ∧ (sChan 32).errs = []
    ∧ 32 < (((sChan 33).die 3).chan 2).cache.length
    ∧ (((sChan 1).die 3).chan 2).cache = pd0 :: [] ∧ pd0.act = .send true true false ∧ pd0.hdr.kind = 0 ∧ pd0.cnt1 = 1 ∧ pd0.signal = false
    ∧ (sChan 1).dmaReaches 3 pd0.part false pd0.src.toNat pd0.len0.toNat = true
    ∧ outOfWindow ((sChan 1).dmaBytes pd0.part false pd0.src.toNat pd0.len0.toNat) = [] := by decide +kernel
theorem wit_channel_clear : (sChan 1).clear ((sChan 1).xchWho 3 pd0.part) := clear_of rfl (by decide +kernel)
theorem wit_patrol : ({ s0 with errs := [(64, [(3, 9)])] } : State).errs = [(64, [(3, 9)])] ∧ patrolled s0.fuse.gradeB 0 64 = true
    ∧ (s0.die 0).scrubEn = true ∧ s0.fabricOn = true ∧ cwState 64 [(3, 9)] = .corrected
    ∧ ((s0.modDie 0 fun d => { d with scrubEn := false }).die 0).scrubEn = false := by decide +kernel

/-- A staging window of one granule at 4096, and an access that runs over its end; an endpoint that is down. -/
def sStage : State := { s0 with parts := [(0, { part0 with swins := [(0, { base := 4096, last := 4096, v := true, wr := true, rd := true })] })] }
theorem wit_staging : sStage.errs = [] ∧ (sStage.ff 0).pcieUp = true ∧ (State.reset.ff 0).pcieUp = false
    ∧ (∃ a, sStage.stageByte 0 true 8191 = .inl a) ∧ (∃ c, 2 < 4 ∧ sStage.stageByte 0 true (8190 + 2) = .inr c)
    ∧ (∃ c, 0 < 3 ∧ sStage.stageByte 0 false (4095 + 0) = .inr c) := by
  refine ⟨by decide +kernel, by decide +kernel, by decide +kernel, ?_, ?_, ?_⟩
  · exact ⟨(8191, 0), by decide +kernel⟩
  · exact ⟨0, by decide, by decide +kernel⟩
  · exact ⟨0, by decide, by decide +kernel⟩

/-! #### Steps -/

/-- A Retract of a step and retry in progress. -/
def retr (step : W64) (retry : Byte) (seen rewound : Bool) : Retracting :=
  { step := step, retry := retry, gateSeen := seen, rewound := rewound, escalation := [] }

/-- Digest records: a tile without a ticket, one that is the first, one of an equal and one of another digest, and a full tracker. -/
def sTile (r : DigestRec) (seen : List DigestRec) : State := s0.modEv fun v => { v with digRecs := [r], tracker := seen }
theorem wit_tile : (sTile dig0 []).ev.digRecs = dig0 :: [] ∧ ({ dig0 with ticket := 0 } : DigestRec).ticket = 0 ∧ dig0.ticket ≠ 0 ∧ dig0.failed = false
    ∧ dig0.part < 16 ∧ ((sTile dig0 []).ev.tracker.find? fun x => sameTile x dig0) = none
    ∧ ((sTile dig0 [dig0]).ev.tracker.find? fun x => sameTile x dig0) = some dig0
    ∧ ((sTile dig0 [{ dig0 with digest := 7 }]).ev.tracker.find? fun x => sameTile x dig0) = some { dig0 with digest := 7 }
    ∧ ({ dig0 with digest := 7 } : DigestRec).digest ≠ dig0.digest := by decide +kernel
theorem wit_tile_full : let s := sTile dig0 (List.replicate 65536 { dig0 with tid := 9 })
    s.ev.digRecs = dig0 :: [] ∧ (s.ev.tracker.find? fun x => sameTile x dig0) = none ∧ 65536 ≤ s.ev.tracker.length := by
  refine ⟨rfl, List.find?_eq_none.mpr fun x hx => ?_, le_of_eq (List.length_replicate ..).symm⟩
  rw [List.eq_of_mem_replicate (show x ∈ List.replicate 65536 _ from hx)]
  decide +kernel

/-- A partition at its gate with every record delivered, and one that is not. -/
def sGate (ev : Bool) (sc : W16) : State := { s0 with parts := [(0, { part0 with gate := some 9, stepEvent := ev, scaleEv := sc, waiters := [] })] }
theorem wit_report : (∀ x ∈ [(true, 0), (false, 3), (false, 0)], let s := sGate x.1 (BitVec.ofNat 16 x.2)
      (s.part 0).loaded = true ∧ s.managing = true ∧ (s.part 0).reported = false ∧ (s.part 0).retracting = none ∧ s.atGate 0 = true ∧ s.delivered 0 = true)
    ∧ s0.atGate 0 = false := by decide +kernel

/-- A job of two partitions that the manager collects: a stale report, the first, the last with each verdict, and Retracts. -/
def job0 : Job := { job := 5, members := [(0, 0), (1, 2)], step := 0, started := true, recRank := 0 }
def sJob (j : Job) : State := s0.modMgr fun g => { g with acting := true, jobs := [j] }
def jobHeard : Job := { job0 with reports := [msg0] }
theorem wit_manager : (sJob job0).findJob msg0.job = some job0 ∧ job0.started = true ∧ msg0.status.toNat < 2 ∧ (sJob job0).mgr.acting = true
    ∧ job0.stopped = false ∧ job0.step = msg0.step ∧ job0.retry = msg0.retry ∧ job0.retry ≠ ({ msg0 with retry := 1 } : StepMsg).retry
    ∧ (job0.members.all fun x => (job0.reports ++ [msg0]).any fun r => r.rank == x.1 && r.part == x.2) = false
    ∧ (sJob jobHeard).findJob 5 = some jobHeard
    ∧ (∀ c ∈ [(0 : Nat), 1], let m := { msg0 with rank := 1, part := 2, status := BitVec.ofNat 8 c }
        m.status.toNat < 2 ∧ (jobHeard.members.all fun x => (jobHeard.reports ++ [m]).any fun r => r.rank == x.1 && r.part == x.2) = true)
    ∧ (sJob jobHeard).ev.replay = none ∧ job0.retry.toNat < 3
    ∧ (sJob { job0 with retry := 3 }).findJob msg0.job = some { job0 with retry := 3 } ∧ 3 ≤ ({ job0 with retry := 3 } : Job).retry.toNat := by
  decide +kernel

/-- A module whose leading half is in a split without a ruling. -/
def deaf (s : State) : State := s.modFf s.leadHalf fun h => { h with split := true }
theorem wit_managing : s0.managing = true ∧ (deaf s0).managing = false ∧ (sJob job0).managing = true ∧ (deaf (sJob job0)).managing = false
    ∧ job0.drained = [] ∧ (sTile dig0 []).ev.slots = [] := by decide +kernel

/-- Loss-scale states within the window, at its end, above and at the least exponent. -/
def rec0 : ScaleRec := { s0 := 10, smin := 0xE0, smax := 16, up := 1, window := 1000 }
def ls0 (clean : W16) (sexp : Byte) : LsState := { clean := clean, sexp := sexp, disc := 0, floor := 0 }
theorem wit_loss_scale : (ls0 998 10).sexp.toInt ≤ rec0.smax.toInt ∧ (ls0 998 10).clean.toNat + 1 < rec0.window.toNat
    ∧ rec0.window.toNat ≤ (ls0 999 10).clean.toNat + 1 ∧ rec0.smin.toInt < (ls0 0 0xE1).sexp.toInt ∧ (ls0 0 0xE0).sexp = rec0.smin
    ∧ (ls0 999 16).sexp.toInt ≤ rec0.smax.toInt := by decide +kernel

/-- A partition at step 6 with a gate; values for this step with each verdict, and for the next. -/
def sValue : State :=
  { s0 with
    objs := [(9, { type := .gate, alloc := true })]
    parts := [(0, { part0 with gate := some 9, openStep := 6, retry := 2, owedRetract := some msg0, retracting := some (retr 6 2 false true) })] }
theorem wit_gate_value : sValue.jobParts 5 = [0] ∧ (sValue.part 0).loaded = true
    ∧ (∀ v ∈ [0, 1, 2, 3], fld (BitVec.ofNat 32 (6 * 4096 + v * 1024 + 5) : W32) 31 12 = (sValue.part 0).openStep.toNat % 2 ^ 20
        ∧ fld (BitVec.ofNat 32 (6 * 4096 + v * 1024 + 5) : W32) 11 10 = v)
    ∧ ¬ fld (BitVec.ofNat 32 (7 * 4096 + 1024 + 5) : W32) 31 12 = (sValue.part 0).openStep.toNat % 2 ^ 20 := by decide +kernel

/-- A job with two partitions on the module. -/
theorem wit_gate_two : let s := { sValue with parts := (3, { part0 with openStep := 6 }) :: sValue.parts }
    s.managing = true ∧ 0 ∈ s.jobParts 5 ∧ 3 ∈ s.jobParts 5 ∧ (s.part 3).openStep = 6 := by decide +kernel
/-- A Retract whose handling an event has interrupted. -/
theorem wit_retract_due : let r := { retr 0 0 false true with interrupted := true }
    let s : State := { s0 with parts := [(0, { part0 with retracting := some r })] }
    (s.part 0).retracting = some r ∧ r.interrupted = true ∧ r.aborted = false ∧ (s.part 0).openStep = 0 ∧ (s.part 0).retry ≠ 1
      ∧ (s.part 0).resident = true := by decide +kernel

/-- A Retract of a retry not in force, resident and not; a rewound partition with and without its value; a stream stalled at OPEND. -/
def sRewound (seen : Bool) : State :=
  { withStream { runs0 with state := .stopped } with parts := [(0, { part0 with retracting := some (retr 0 1 seen true) })] }
theorem wit_retract : s0.jobParts msg0.job = [0] ∧ (s0.part 0).loaded = true ∧ (s0.part 0).retry = msg0.retry ∧ (s0.part 0).openStep = msg0.step
    ∧ (s0.part 0).retry ≠ (1 : Byte) ∧ (s0.part 0).jobStop = false ∧ (s0.part 0).resident = true ∧ (s0.part 0).escal = [] ∧ i0 ∈ s0.partStreams 0
    ∧ i0.wf = true ∧ (s0.core (skey i0)).pow = .on
    ∧ (let n : State := { s0 with parts := [(0, { part0 with resident := false })] }
      n.jobParts msg0.job = [0] ∧ (n.part 0).loaded = true ∧ (n.part 0).openStep = msg0.step ∧ (n.part 0).retry ≠ 1 ∧ (n.part 0).resident = false)
    ∧ (∀ seen ∈ [true, false], ((sRewound seen).part 0).retracting = some (retr 0 1 seen true) ∧ ((sRewound seen).part 0).loaded = true
        ∧ (sRewound seen).ev.drain = false ∧ ((sRewound seen).part 0).jobStop = false ∧ i0 ∈ (sRewound seen).partStreams 0)
    ∧ (s0.partStreams 0).all (fun i => (s0.stream i).stalledAt.isNone) = true
    ∧ (((withStream { runs0 with stall := 6 }).stream i0).stalledAt).isSome = true ∧ i0 ∈ (withStream { runs0 with stall := 6 }).partStreams 0 := by
  decide +kernel

/-! #### Records -/

/-- A record ready in its slot; a queue whose domain is up, down and split; Capsule buffers. -/
def e0 : EvRec := { seq := 3, cls := 1, cause := 0, unit := 0, part := 0 }
def sReady : State := s0.post (s0.coreEv i0 0 0x06 1 0 16 0 0)
theorem wit_record : (s0.ready.find? fun x => s0.roomFor x) = none ∧ (sReady.ready.find? fun x => sReady.roomFor x) = some ((s0.unitCore 0 0).toNat, true)
    ∧ (tget {} sReady.ev.slots (s0.unitCore 0 0).toNat).ret.isSome = true ∧ (tget {} sReady.ev.slots (s0.unitCore 0 0).toNat).retOver = 0 := by
  decide +kernel
/-- A record that counts toward escalation: an uncorrectable error. -/
theorem wit_record_escalates : let e := s0.coreEv i0 4 0x03 1 0 16 0 0
    let s := s0.post e
    (s.ready.find? fun x => s.roomFor x) = some ((s0.unitCore 0 4).toNat, true) ∧ s.isE e = true ∧ e.part.toNat < 16 := by decide +kernel
theorem wit_queue : let s := s0.modEv fun v => { v with q0 := [e0], q1 := [e0] }
    s.ev.queueOf 0 = e0 :: [] ∧ s.ev.queueOf 1 = e0 :: [] ∧ (s.ff 0).up = true ∧ (s.ff 0).split = false ∧ e0.part.toNat < 16 ∧ stepClass e0 = true
      ∧ ((s.modFf 0 fun h => { h with up := false }).ff 0).up = false ∧ ((s.modFf 0 fun h => { h with split := true }).ff 0).split = true
      ∧ ((s.modFf 0 fun h => { h with split := true }).ff 0).ruled = false := by decide +kernel
def cap0 : CapRec := { type := 9, part := 0, step := 3, body := [1, 2] }
theorem wit_capsule : let s := s0.modEv fun v => { v with cap0 := [cap0], cap1 := [cap0, cap0] }
    s.ev.cap0 = cap0 :: [] ∧ s.ev.cap1 = cap0 :: [cap0] ∧ s.ev.pins.contains (cap0.part.toNat, cap0.step) = false
      ∧ (s.ev.ring.map fun x => capSize x.1).sum + capSize cap0 ≤ 6 * 2 ^ 30 := by decide +kernel

/-! #### Partitions -/

theorem wit_admits : ∀ r, (r = 0 ∨ r = 1 ∨ r = 2) → (adm r s0).admits m1 (heldCmd 2) (ses r) ∧ (adm r s0).admits m1 (fieldCmd 2) (ses r)
    ∧ (adm 0 s0).admits m1 (fieldCmd 0) (ses 0) ∧ (adm 1 s0).admits m1 (fieldCmd 1) (ses 1) := by
  unfold State.admits
  rintro r (rfl | rfl | rfl) <;> decide +kernel

/-- LOAD on a module that takes images, and on ones that do not; the queue with an image that a check rejects. -/
def sQueue (b : List Byte) : State := (adm 1 s0).modLdr fun l => { l with queue := [(9, 1, b)] }
theorem wit_load : (adm 1 s0).ev.drain = false ∧ (adm 1 s0).fabricOn = true ∧ (adm 1 s0).noAdmission = false
    ∧ ((adm 1 s0).modEv fun v => { v with drain := true }).ev.drain = true ∧ (sQueue [1]).ldr.queue = (9, 1, [1]) :: []
    ∧ imgParts [1] = [] ∧ (checkImage ((sQueue [1]).modLdr fun l => { l with queue := [] }) [1]).isSome = true := by decide +kernel

/-- Bytes filled up with zeros, and a directory entry (08 R230). -/
def pad (n : Nat) (b : List Byte) : List Byte := b ++ List.replicate (n - b.length) 0
def dirE (t l o : Nat) : List Byte := leBytes 2 t ++ leBytes 2 0 ++ leBytes 4 l ++ leBytes 8 o
/-- An image of partition 0: core 0, a window over two granules of its store, one FLAG, and a forward stream of one HALT. -/
def goodImage (digest : List Byte) : List Byte :=
  leBytes 4 0x54434150 ++ leBytes 2 1 ++ leBytes 2 0 ++ leBytes 8 0x380 ++ leBytes 2 1 ++ leBytes 2 0 ++ leBytes 4 4 ++ leBytes 8 5
    ++ (digest ++ (List.replicate 48 (0 : Byte)
    ++ dirE 1 128 0xC0 ++ dirE 4 24 0x140 ++ dirE 5 24 0x180 ++ dirE 9 400 0x1C0
    ++ pad 128 (leBytes 8 0 ++ leBytes 8 1)
    ++ pad 64 ([0, 0, 0, 3] ++ leBytes 4 0 ++ leBytes 8 (coreStore 0) ++ leBytes 8 (coreStore 0 + 0x1000))
    ++ pad 64 ([0, 3] ++ leBytes 2 0 ++ leBytes 4 9 ++ leBytes 4 1)
    ++ pad 0x1C0 (pad 384 (leBytes 4 0 ++ leBytes 4 384 ++ leBytes 4 16) ++ leBytes 16 (15 * 2 ^ 120 + 7 * 2 ^ 125))))

/-- A number as its bytes gives the number. -/
theorem leNat_leBytes (n v : Nat) : leNat (leBytes n v) = v % 256 ^ n := by
  induction n generalizing v with
  | zero => simp [leBytes, leNat, Nat.mod_one]
  | succ n ih =>
    have h : (BitVec.ofNat 8 v).toNat = v % 256 := by simp
    rw [leBytes, leNat, ih, h, Nat.pow_succ', Nat.mod_mul]
theorem foldr_leNat (l : List Byte) : l.foldr (fun x a => a * 256 + x.toNat) 0 = leNat l := by
  induction l with
  | nil => rfl
  | cons x l ih => rw [List.foldr_cons, ih, leNat, Nat.mul_comm, Nat.add_comm]
theorem digest_bytes (d : W384) : BitVec.ofNat 384 ((beBytes 48 d.toNat).foldl (fun a x => a * 256 + x.toNat) 0) = d := by
  rw [beBytes, List.foldl_reverse, foldr_leNat, leNat_leBytes, Nat.mod_eq_of_lt (d.isLt.trans_le (by decide +kernel))]
  exact BitVec.eq_of_toNat_eq (by rw [BitVec.toNat_ofNat, Nat.mod_eq_of_lt d.isLt])
/-- The image with its own digest passes every check of the loader. -/
def image0 : List Byte := goodImage (beBytes 48 (Config.sha384 (goodImage (List.replicate 48 0))).toNat)
theorem digest_ok : digestOf image0 = imgDigest image0 := by
  have h : imgDigest image0 = BitVec.ofNat 384 ((beBytes 48 (Config.sha384 (goodImage (List.replicate 48 0))).toNat).foldl (fun a x => a * 256 + x.toNat) 0) := rfl
  rw [h, digest_bytes]
  exact congrArg Config.sha384 (by decide +kernel)
def sEmpty : State := { adm 1 live with parts := [], cores := [] }
theorem firstFail_nil (d : List Sect) : firstFail d [] = none := rfl
theorem image_ok : checkImage sEmpty image0 = none := by
  have h1 : check01 image0 false = [] := by decide +kernel
  have h2 : check02 image0 = [] := if_pos digest_ok
  have h3 : check03 image0 = [] := by decide +kernel
  have h4 : headChecks image0 false = none := by
    simp only [headChecks, firstReject, h1, h2, h3, firstFail_nil]
  unfold checkImage
  rw [h4]
  decide +kernel
/-- An image that passes, one for a partition that is rewound, and one for a partition with a fetched descriptor. -/
theorem wit_load_passes : (sEmpty.modLdr fun l => { l with queue := [(9, 1, image0)] }).ldr.queue = (9, 1, image0) :: [] ∧ sEmpty.ev.drain = false
    ∧ imgParts image0 = [0] ∧ (sEmpty.part 0).retracting = none ∧ sEmpty.fetched 0 = false ∧ checkImage sEmpty image0 = none :=
  ⟨rfl, by decide +kernel, by decide +kernel, by decide +kernel, by decide +kernel, image_ok⟩
theorem wit_load_waits : let s : State := { adm 1 s0 with parts := [(0, { part0 with retracting := some (retr 0 1 false false) })] }
    s.ev.drain = false ∧ 0 ∈ imgParts image0 ∧ (s.part 0).retracting.isSome = true ∧ (s.part 0).jobStop = false ∧ (sChan 1).fetched 0 = true := by
  decide +kernel

/-- A loaded partition and one that is not; slice groups: partition 1 waits with its saved state, partition 0 is resident. -/
theorem wit_release : ((adm 1 s0).part 0).loaded = true ∧ ((adm 1 s0).part 0).sgrp = 0 ∧ 0 ∈ ((adm 1 s0).part 0).cores ∧ ((adm 1 s0).part 3).loaded = false := by
  decide +kernel
def win77 : Win := { base := 0x40000, last := 0x5F000, v := true, wr := true, rd := true }
/-- A saved-out partition with a granule that only its tag tells; its group's resident member. -/
theorem wit_release_saved : let s : State := { adm 1 s0 with
      parts := [(0, { part0 with sgrp := 1, wins := [(0, win77)] }), (1, { part0 with sgrp := 1, tenant := 4, resident := false, wins := [], cores := [], saved := some { digest := 8, cores := [], bytes := [], errs := [], chans := [] } })]
      ldr := { (adm 1 s0).ldr with granTag := [(77, 5)] } }
    (s.part 1).saved.isSome = true ∧ (s.part 1).loaded = true ∧ (77, 5) ∈ s.ldr.granTag ∧ 5 = (s.part 1).tenant.toNat + 1 ∧ s.mgr.asks = [] ∧ s.errs = []
      ∧ 77 ∉ s.releaseGrans 1 ∧ 77 ∈ ({ s with parts := [(1, s.part 1)] } : State).releaseGrans 1
      ∧ inGrans ((s.part 0).granules s.fuse.gradeB) 77 = true := by decide +kernel

def chrys1 : Chrysalis := { digest := 8, cores := [(0, { pow := .on, part := some 1, fwd := { runs0 with pc := 64 } })], bytes := [], errs := [], chans := [] }
def sSlice (mode1 : Bool) (at_ : Option Nat) : State :=
  { s0 with
    parts := [(0, { part0 with sgrp := 1 }),
      (1, { part0 with sgrp := 1, digest := 8, resident := false, saved := some chrys1, mode1 := mode1, switchAt := at_.map (BitVec.ofNat 64) })] }
def nextMember (s : State) : Option Nat :=
  ((List.range 16).map fun k => (0 + 1 + k) % 16).find? fun y => (s.part y).loaded && (s.part y).sgrp == 1 && !(s.part y).mode1 && (s.part y).hasWork
theorem wit_switch : (∀ x ∈ [(true, some 77), (true, none), (false, none)], let s := sSlice x.1 x.2
      (s.part 1).sgrp = 1 ∧ s.residentOf 1 = some 0 ∧ (s.part 1).resident = false ∧ (s.part 1).saved = some chrys1 ∧ chrys1.digest = (s.part 1).digest
        ∧ (s.part 1).loaded = true ∧ (s.part 1).mode1 = x.1 ∧ ((s.part 1).switchAt.map (·.toNat)) = x.2 ∧ s.switchWaits 1 = false)
    ∧ nextMember (sSlice false none) = some 1 ∧ nextMember (sSlice true none) = none := by decide +kernel
/-- Twins: none of a half, one that passes the checks now, and one whose core another partition holds. -/
def sTwin (other : List (Nat × Part)) : State := { s0 with parts := (0, { part0 with twins := [(0, image0)], openStep := 6 }) :: other }
theorem wit_twin_checks : (sTwin []).ev.drain = false ∧ ((sTwin []).part 0).loaded = true ∧ (((sTwin []).part 0).twins.find? fun e => e.1 == 0) = some (0, image0)
    ∧ bodyChecks { m := parseImg image0, s := sTwin [], sub := true } (fun _ => []) = none
    ∧ (bodyChecks { m := parseImg image0, s := sTwin [(1, part0)], sub := true } (fun _ => [])).isSome = true :=
  ⟨by decide +kernel, by decide +kernel, rfl, by decide +kernel, by decide +kernel⟩
theorem wit_twin : let s : State := { s0 with parts := [(0, { part0 with twins := [(0, [1, 2])], openStep := 6 })] }
    (s.part 0).loaded = true ∧ ((s.part 0).twins.find? fun e => e.1 == 0) = some (0, [1, 2]) ∧ (∀ e ∈ (s.part 0).twins, e.1 ≠ 1)
      ∧ (s.part 5).loaded = false := by decide +kernel

/-! #### Sessions -/

/-- A module in a life-cycle state, held in reset or not, with both halves failed or not. -/
def sLife (l role : Nat) (held failed : Bool) : State :=
  let s := adm role s0
  { s with fuse := { s.fuse with lcsW := BitVec.ofNat 3 l, lcsE := BitVec.ofNat 3 l }, pwr := { s.pwr with inReset := held, wFail := failed, eFail := failed } }
def split0 (s : State) : State := { s with ff0 := { s.ff0 with split := true } }
theorem wit_shell : s0.sessionKind (.health m1) = some (m1, heldCmd 2) ∧ (({ s0 with ff0 := {}, ff1 := {} } : State).ff0.up = false) ∧ m1.sid ≠ 0
    ∧ (s0.sec.sessions.find? fun k => k.sid == m1.sid) = none ∧ ((adm 1 s0).sec.sessions.find? fun k => k.sid == m1.sid) = some (ses 1)
    ∧ (ses 1).slot ≠ 255 ∧ ({ m1 with seq := 0 } : CmdHdr).seq ≤ (ses 1).lastIn ∧ ({ m1 with authentic := false } : CmdHdr).authentic = false := ⟨rfl, by decide +kernel⟩
/-- NOTLEAD, REFUSED twice, BUSY, ROLE. -/
theorem wit_turned : (split0 (adm 1 s0)).sessionOf m1 = some (ses 1) ∧ (split0 (adm 1 s0)).ff0.split = true ∧ (split0 (adm 1 s0)).ff0.ruled = false
    ∧ (sLife 3 1 false false).sessionOf m1 = some (ses 1) ∧ (sLife 3 1 false false).lcs ∉ (fieldCmd 1).states
    ∧ (sLife 2 1 false true).sessionOf m1 = some (ses 1) ∧ (sLife 2 1 false true).bothFailed = true ∧ (fieldCmd 1).failed = false
    ∧ (sLife 2 1 true false).sessionOf m1 = some (ses 1) ∧ (sLife 2 1 true false).lcs ∈ (fieldCmd 1).states ∧ (sLife 2 1 true false).bothFailed = false
    ∧ (sLife 2 1 true false).pwr.inReset = true ∧ (fieldCmd 1).held = false ∧ (sLife 2 1 false false).pwr.inReset = false
    ∧ (sLife 2 2 false false).sessionOf m1 = some (ses 2) ∧ (fieldCmd 1).role < (ses 2).role ∧ (sLife 2 2 false false).ff0.split = false
    ∧ (sLife 2 2 false false).ff1.split = false := by decide +kernel

/-- A header and a code that Tables 13-4 and 13-5 do not have. -/
theorem wit_header : headGood m1.head = true ∧ headGood { magic := 0 } = false ∧ codeUnlisted m1 = false ∧ codeUnlisted { m1 with code := some 0xEE } = true
    ∧ (split0 (adm 1 s0)).sessionOf { m1 with code := some 0xEE } = some (ses 1) := by decide +kernel
/-- The service latches are cleared in a reset by a latched RESET_L too. -/
theorem wit_latch_kind : let s := { sLife 2 1 true false with ff0 := { (sLife 2 1 true false).ff0 with rstF := true } }
    s.admits m1 s.latchKind (ses 1) := by
  unfold State.admits; decide +kernel

/-- Each command kind is admitted, in FIELD, and IDENT also in SCRAPPED. -/
def kIdent : CmdKind := { role := 2, states := [1, 2, 3, 4], held := true, failed := true }
theorem wit_reads : (sLife 2 2 false false).admits m1 kIdent (ses 2) ∧ (sLife 2 2 false false).lcs ≠ 4 ∧ (sLife 4 2 false false).admits m1 kIdent (ses 2)
    ∧ (sLife 4 2 false false).lcs = 4 ∧ (sLife 3 2 true false).admits m1 { role := 2, states := [1, 2, 3], held := true } (ses 2)
    ∧ (sLife 2 2 true false).admits m1 (heldCmd 2) (ses 2) ∧ (sLife 2 2 true true).admits m1 { role := 2, states := [2], held := true, failed := true } (ses 2)
    ∧ (sLife 2 2 false false).admits m1 (fieldCmd 2) (ses 2) := by
  unfold State.admits; decide +kernel

/-- Registers: an address between words, one that has a register and one without a block; an operator's role. -/
theorem wit_wrreg : (adm 1 s0).admits m1 (fieldCmd 1) (ses 1) ∧ (regBase + 3 : W64).toNat % 8 ≠ 0 ∧ (8 : W64).toNat % 8 = 0
    ∧ (adm 1 s0).regAt (8 : W64).toNat = none ∧ (11 < 12 ∧ 55 < 56) ∧ (0x80 : W64).getLsbD 7 = true ∧ (0x7F : W64).getLsbD 7 = false ∧ (ses 1).role ≠ 0
    ∧ (adm 1 s0).regAt (BitVec.ofNat 64 (coreRegs + 0x2000)).toNat = some (.core 0 0x2000) := by
  unfold State.admits; decide +kernel

/-- A log of three records: a subscription past them and one of the last two; acknowledgements of a subscriber and of another. -/
def sLog : State := (adm 2 s0).modEv fun v => { v with log := [e0, { e0 with seq := 4 }, { e0 with seq := 5 }] }
theorem wit_subscribe : sLog.admits m1 (heldCmd 2) (ses 2) ∧ (sLog.ev.log.head?.map (·.seq)).getD sLog.ev.seq = 3 ∧ (∀ e ∈ sLog.ev.log, e.seq < 6)
    ∧ (sLog.ev.log.filter fun x => decide ((4 : W64) ≤ x.seq)) = [{ e0 with seq := 4 }, { e0 with seq := 5 }] ∧ (∀ x ∈ sLog.ev.log, x.seq ≤ 5) := by
  unfold State.admits; decide +kernel
/-- A subscription from before the oldest record. -/
theorem wit_subscribe_gap : (1 : W64) < (sLog.ev.log.head?.map (·.seq)).getD sLog.ev.seq ∧ sLog.ev.log.length ≤ 64
    ∧ (∀ x ∈ sLog.ev.log, (3 : W64) ≤ x.seq ∧ x.seq ≤ 5) ∧ sLog.ev.log.getLast? = some { e0 with seq := 5 } := by decide +kernel

def sSub : State := { sLog with sec := { sLog.sec with sessions := [{ ses 2 with sub := some (6, [4]) }], alert := 1, unreadSeq := 5 } }
theorem wit_acknowledge : sSub.sessionOf m1 = some { ses 2 with sub := some (6, [4]) } ∧ (∀ e ∈ sSub.ev.log, e.seq < 6) ∧ ((4 : W64) ≤ 5 ∧ (5 : W64) < 6)
    ∧ sLog.sessionOf m1 = some (ses 2) ∧ (∀ y ∈ sLog.sec.sessions, y.sub = none) ∧ s0.sessionOf m1 = none
    ∧ sSub.sec.unreadSeq < 5 + 1 ∧ ¬ sSub.sec.unreadSeq < 4 + 1 := by decide +kernel

/-- A slot that takes a HELLO, one that is not set, and an open session with failures before it. -/
def slot0 (fails : Byte) (locked : Bool) : OpSlot := { set := true, key := 4, role := 1, fails := fails, locked := locked }
def sSlot (fails : Byte) (locked : Bool) : State :=
  { s0 with sec := { s0.sec with slots := [(2, slot0 fails locked)], sessions := [{ ses 1 with accepted := false }] } }
theorem wit_hello : ((sSlot 0 false).ff0.up || (sSlot 0 false).ff1.up) = true ∧ (sSlot 0 false).helloOk (.tcp 1) 2 = true
    ∧ (sSlot 0 false).helloOk (.tcp 1) 3 = false ∧ (State.reset.ff0.up || State.reset.ff1.up) = false := by decide +kernel
theorem wit_response : ∀ f ∈ [2, 3], ((sSlot (BitVec.ofNat 8 f) false).sec.sessions.find? fun k => k.sid == 9 && !k.accepted && k.slot != 255)
      = some { ses 1 with accepted := false }
    ∧ (tget {} (sSlot (BitVec.ofNat 8 f) false).sec.slots 2).locked = false ∧ ((satAdd (slot0 (BitVec.ofNat 8 f) false).fails 1).toNat < 4 ↔ f = 2) := by
  decide +kernel
/-- A RESPONSE's MAC is right or wrong, and its slot may be locked. -/
theorem wit_mac (s : State) (k : Session) (key : W256) : s.authMac k key + 1 ≠ s.authMac k key ∧ (slot0 9 true).locked = true := by
  generalize s.authMac k key = x
  exact ⟨fun h => absurd (BitVec.add_right_eq_self.mp h) (by decide), rfl⟩

/-- An owner's session; a well-formed map and an ill-formed one; firmware that an owner activated. -/
def map0 : HiveMap := ⟨4, [{ rank := 0, pos := 3, serial := 7, keyDig := 0, peers := List.replicate 24 none }]⟩
theorem wit_owner : (adm 0 s0).admits m1 (fieldCmd 0) (ses 0) ∧ hiveMapOk map0 = true
    ∧ hiveMapOk ⟨4, [{ rank := 2000, pos := 3, serial := 7, keyDig := 0, peers := [] }]⟩ = false ∧ (adm 0 s0).mgr.acting = false := by
  unfold State.admits; decide +kernel
theorem wit_svn : let s : State := { s0 with sec := { s0.sec with ownerActivated := true, fw0 := { svn := 5, valid := true } } }
    s.sec.ownerActivated = true ∧ s.sec.running = s.sec.active ∧ s.sec.fallbk = false ∧ s.fuse.svnFloor < s.fwNow.svn
      ∧ s0.sec.ownerActivated = false := by decide +kernel

/-- The life cycle: FIELD and RETURN with an OWNER, PROVISIONED with the UART's key agreement, and BLANK. -/
theorem wit_life : (sLife 2 0 false false).admits m1 { role := 0, states := [2, 3] } (ses 0) ∧ (sLife 3 0 false false).admits m1 { role := 0, states := [2, 3] } (ses 0)
    ∧ (sLife 1 0 false false).admits m1 { role := 0, states := [1] } (ses 0) ∧ (sLife 0 0 false false).lcs = 0
    ∧ ((sLife 0 0 false false).ff0.up || (sLife 0 0 false false).ff1.up) = true ∧ (sLife 2 0 false false).lcs ≠ 0 := by
  unfold State.admits; decide +kernel

/-! #### Orders -/

theorem wit_orders : (adm 1 s0).admits m1 (fieldCmd 1) (ses 1) ∧ ((3 : W64) < 4) ∧ (adm 1 s0).ev.replay = none
    ∧ (let s := (adm 1 s0).modEv fun v => { v with replay := some { job := 5, s0 := 3, s1 := 4, records := [], divergence := none, sid := 9, ended := false } }
      ∃ r, s.ev.replay = some r ∧ r.ended = false)
    ∧ ((adm 1 s0).part 0).jobStop = false ∧ (((adm 1 s0).modPart 0 fun x => { x with jobStop := true }).part 0).jobStop = true
    ∧ ((adm 1 s0).part 0).loaded = true ∧ (adm 1 s0).ev.drain = false ∧ i0 ∈ (adm 1 s0).partStreams 0 := by
  refine ⟨(wit_admits 1 (by decide)).2.2.2, by decide, by decide +kernel, ⟨_, rfl, rfl⟩, by decide +kernel⟩
/-- POWER: MALFORMED, BUSY, REFUSED and each target. -/
def sIdle : State := { adm 1 live with pwr := { live.pwr with state := .idle } }
theorem wit_power : sIdle.admits m1 (fieldCmd 1) (ses 1) ∧ 2 ≤ (2 : Byte).toNat ∧ 3 ≤ (3 : Byte).toNat ∧ ((adm 1 s0).parts.any fun x => x.2.loaded) = true
    ∧ (sIdle.parts.any fun x => x.2.loaded) = false ∧ sIdle.fabricOn = true ∧ (sIdle.pwr.supLat || sIdle.pwr.tripLat || sIdle.pwr.coolLat) = false
    ∧ (sIdle.modPwr fun p => { p with coolLat := true }).pwr.coolLat = true := by
  unfold State.admits; decide +kernel

/-- Scans: a position in use, a dark one, a die with two scans, one in progress, and a fenced one. -/
def sScan (n : List Nat) : State := (adm 1 s0).modEv fun v => { v with scanning := n }
theorem wit_scan : (sScan []).admits m1 (fieldCmd 1) (ses 1) ∧ (sScan []).dark 0 0 = false ∧ (sScan [65, 66]).dark 0 64 = true
    ∧ (sScan [65, 66]).canScan 0 64 = false ∧ (sScan []).canScan 0 64 = true ∧ (0 : Nat) = fld (BitVec.ofNat 32 (64 * 2 ^ 16) : W32) 27 24
    ∧ (64 : Nat) = fld (BitVec.ofNat 32 (64 * 2 ^ 16) : W32) 22 16 ∧ (sScan []).ev.scanPeriod ≠ 0 ∧ (sScan []).posUsed 0 64 = false ∧ (sScan []).posUsed 0 0 = true
    ∧ (sScan []).ev.scanning.contains 64 = false ∧ (sScan [64]).ev.scanning.contains 64 = true ∧ (∀ x ∈ (sScan [64]).parts, x.2.retracting = none)
    ∧ ({ sScan [64] with syn0 := { fence := [unitWord 0 0xF 0 64 3 127] } } : State).posFenced 0 64 = true := by
  unfold State.admits; decide +kernel

/-! #### Power -/

/-- Before the supply rises, with a running image and without; at P, with a good half, the other, and neither. -/
def sUp : State :=
  match exec (.supplyRise 5) State.reset with
  | .next t => { t with ff0 := { t.ff0 with pwrEn := true, coolOk := true }, ff1 := { t.ff1 with pwrEn := true, coolOk := true } }
  | _ => State.reset
def half0 (good : Bool) : StartHalf := { okHalf with selfOk := good, role := 1, rack := 3, slot := 4 }
theorem wit_start : s0.pwr.supply = true ∧ State.reset.pwr.supply = false ∧ State.reset.bootImage = some 0
    ∧ ({ State.reset with sec := { State.reset.sec with fw0 := {} } } : State).bootImage = none ∧ s0.atP = false ∧ sUp.atP = true
    ∧ startOk (half0 true) = true ∧ startOk (half0 false) = false ∧ sUp.parts = [] ∧ sUp.pwr.supply = true ∧ sUp.pwr.start = true
    ∧ sUp.pwr.step.toNat < 3 ∧ ¬ sUp.pwr.step.toNat < 1 := by decide +kernel
theorem wit_trip : s0.pwr.supply = true ∧ s0.pwr.rails = true ∧ 62000 < (62001 : W16).toNat ∧ (38000 ≤ (38000 : W16).toNat ∧ (38000 : W16).toNat < 40000)
    ∧ ¬ (62000 < (62000 : W16).toNat ∨ (38000 ≤ (62000 : W16).toNat ∧ (62000 : W16).toNat < 40000))
    ∧ ¬ (62000 < (37999 : W16).toNat ∨ (38000 ≤ (37999 : W16).toNat ∧ (37999 : W16).toNat < 40000))
    ∧ 920 ≤ (920 : W16).toInt ∧ (919 : W16).toInt < 920 ∧ s0.pwr.coolTimer = false ∧ State.reset.pwr.supply = false
    ∧ (let s : State := { s0 with pwr := { s0.pwr with coolTimer := true }, ff0 := { s0.ff0 with coolOk := false } }
      s.pwr.coolTimer = true ∧ (s.ff s.leadHalf).coolOk = false ∧ s.pwr.state ≠ .standby ∧ s.pwr.rails = true ∧ s.pwr.inReset = false) := by decide +kernel

/-- Two sound halves that do not hear each other; late steps of 1, of 4 and of 8, and of 6 after a split at step 5. -/
theorem wit_deaf : let w := { half0 true with sbOk := false, pinOk := false }
    startOk w = true ∧ startOk (half0 true) = true ∧ w.sbOk = false ∧ w.pinOk = false ∧ (half0 true).sbOk = true := by decide +kernel
theorem wit_late : (let s := { sUp with pwr := { sUp.pwr with step := 0 } }
      s.pwr.supply = true ∧ s.pwr.start = true ∧ s.pwr.stopped = false ∧ s.pwr.step = 0 ∧ s.atP = false)
    ∧ (let s := { sUp with pwr := { sUp.pwr with step := 5 } }
      s.pwr.supply = true ∧ s.pwr.start = true ∧ s.pwr.stopped = false ∧ s.pwr.step = 5 ∧ s.atP = false)
    ∧ sUp.pwr.stopped = false ∧ sUp.atP = true := by decide +kernel
/-- An input between 38 V and 40 V with PWR_EN deasserted, and a fault that waits for it. -/
theorem wit_waiting_fault : let s := s0.modFf 0 fun h => { h with pwrEn := false }
    s.pwr.supply = true ∧ (38000 ≤ (38000 : W16).toNat ∧ (38000 : W16).toNat < 40000) ∧ (s.ff s.leadHalf).pwrEn = false
      ∧ (s.modPwr fun p => { p with supDue := some 38000 }).pwr.supDue.isSome = true := by decide +kernel

/-- A service input at a level, with few changes and with eight in the last second, latched, and its half down; the other half. -/
def sPin (half kind : Nat) (cur : Bool) (changes : Nat) : State :=
  ((adm 1 s0).modPwr fun p => { p with ffTime := 500 }).modFf half fun h =>
    let h1 := h.setPin kind cur
    match kind with
    | 0 => { h1 with resetIn := cur, chgS := List.replicate changes 0 }
    | 1 => { h1 with pwrEn := cur, chgP := List.replicate changes 0 }
    | _ => { h1 with coolOk := cur, chgC := List.replicate changes 0 }
theorem wit_input : (∀ half ∈ [0, 1], ∀ kind ∈ [0, 1, 2], ∀ v ∈ [true, false], let few := (sPin half kind (!v) 7).ff half
      let many := (sPin half kind (!v) 8).ff half
      few.up = true ∧ few.latched kind = false ∧ few.level kind ≠ v ∧ (few.recent 500 kind).length < 8
        ∧ many.up = true ∧ many.latched kind = false ∧ many.level kind ≠ v ∧ ¬ (many.recent 500 kind).length < 8
        ∧ ((sPin half kind v 0).ff half).level kind = v)
    ∧ (State.reset.ff 0).up = false ∧ (sPin 0 0 true 0).leadHalf = 0
    ∧ (let h := { (sPin 0 0 true 0).ff 0 with rstF := true }
      h.latched 0 = true) := by decide +kernel

/-- Averages above, below and under 95 % of the cap, and dies that each limit holds. -/
def sLim (cap th : Nat) (low : Nat) : State :=
  s0.modDie 4 fun d => { d with oppCur := BitVec.ofNat 2 (min cap th), capLim := BitVec.ofNat 2 cap, thLim := BitVec.ofNat 2 th, lowered := low }
theorem wit_points : (∀ x ∈ [(⟨3200, 3201⟩ : InputPower), ⟨3200, 3200⟩, ⟨3000, 3079⟩, ⟨3000, 3080⟩], x.west.toNat + x.east.toNat ∈ [6401, 6400, 6079, 6080]) := by decide +kernel
theorem wit_limits : min s0.pwr.cap.toNat (if s0.fuse.gradeB then 5700 else 6400) = 6400 ∧ 6079 * 100 < 95 * 6400 ∧ 95 * 6400 ≤ 6080 * 100
    ∧ ((sLim 2 2 0).die 4).oppCur ≠ 0 ∧ ((sLim 2 2 0).die 4).lowered ≠ 2 ∧ ((sLim 2 1 2).die 4).lowered = 2 ∧ ((sLim 0 2 0).die 4).oppCur = 0
    ∧ ((List.range 12).find? fun k => decide (((sLim 1 2 0).die k).capLim.toNat < min ((sLim 1 2 0).die k).oppMax.toNat ((sLim 1 2 0).die k).thLim.toNat)) = some 4
    ∧ ((List.range 12).find? fun k => decide (((sLim 1 1 0).die k).capLim.toNat < min ((sLim 1 1 0).die k).oppMax.toNat ((sLim 1 1 0).die k).thLim.toNat)) = none := by
  decide +kernel
/-- Readings at, above and below the limits. -/
theorem wit_temps : (∀ k ∈ [800, 799, 720, 719], (temps9 (BitVec.ofNat 16 k)).rows.length = 9 ∧ (temps9 (BitVec.ofNat 16 k)).hbm.length = 2)
    ∧ 800 ≤ (800 : W16).toInt ∧ (799 : W16).toInt < 800 ∧ (719 : W16).toInt < 720 ∧ 720 ≤ (720 : W16).toInt := by decide +kernel
theorem wit_cold : (((temps9 719).rows ++ (temps9 719).hbm).all fun t => decide (t.toInt < 720)) = true ∧ ((sLim 2 1 2).die 4).thLim.toNat < 2 ∧ ((sLim 2 2 1).die 4).lowered = 1 := by
  decide +kernel
theorem wit_clock : (s0.ff 1).up = true ∧ (State.reset.ff 1).up = false ∧ s0.partsOnDie 0 = [0] := by decide +kernel

/-- A half that hears both paths, one and none, and a split without a ruling; a manager with a query of each half. -/
def sHears (half : Nat) (pin sb : Bool) : State := s0.modFf half fun h => { h with pinOk := pin, sbOk := sb }
def sSplit (half : Nat) : State := s0.modFf half fun h => { h with split := true }
def sQuery (half : Nat) : State := s0.modMgr fun g => { g with acting := true, queries := [(5, half)] }
theorem wit_split : (∀ half ∈ [0, 1], (s0.ff half).up = true ∧ (State.reset.ff half).up = false ∧ s0.pwr.lead ≠ .undecided
      ∧ (s0.ff half).pinOk = true ∧ (s0.ff half).sbOk = true ∧ ((sHears half false true).ff half).pinOk = false
      ∧ ((sHears half false true).ff half).sbOk = true ∧ ((sHears half true false).ff half).sbOk = false
      ∧ ((sSplit half).ff half).split = true ∧ ((sSplit half).ff half).ruled = false ∧ (s0.ff half).split = false
      ∧ (sQuery half).mgr.acting = true ∧ ((sQuery half).mgr.queries.any fun q => q.1 == 5) = true) ∧ s0.mgr.acting = false := by decide +kernel

/-- Each command of the twin domains has a next state. -/
theorem wit_lead : ∀ c ∈ [Instr.twinHeartbeat 0 0 true true, .heartbeatPathLoss 0 0, .leadQuery 5 0, .leadRuling 5, .leadRulingReceipt 0 1,
    .splitDefault 0, .fireflyWatchdog 0], ∃ t, exec c s0 = .next t := by
  intro c hc
  simp only [List.mem_cons, List.not_mem_nil, or_false] at hc
  rcases hc with rfl | rfl | rfl | rfl | rfl | rfl | rfl <;> exact ⟨_, rfl⟩

/-! #### Ports -/

/-- Port 3 in each state, with lanes 0 to 3 in use. -/
def sPort (x : PState) (fails : Byte) : State :=
  { s0 with link := { s0.link with ports := [(3, { state := x, fails := fails, lport := 3, lanes := 0x0F, peer := 99, peerPort := 4 })] } }
theorem wit_port : (∀ x ∈ [PState.down, .train, .discover, .active, .miswired, .quarantine, .failed, .disabled], ((sPort x 0).port 3).state = x)
    ∧ trainedLanes 0xFF = some 0xFF ∧ trainedLanes 0x0F = some 0x0F ∧ trainedLanes 0xF0 = some 0xF0 ∧ trainedLanes 0x77 = none
    ∧ ((sPort .active 0).port 3).lanes.getLsbD 3 = true ∧ ((sPort .active 0).port 3).lanes.getLsbD 4 = false
    ∧ 8 ≤ ((sPort .failed 8).port 3).fails.toNat ∧ ¬ 8 ≤ ((sPort .failed 7).port 3).fails.toNat ∧ (0x140000 : W32).getLsbD 0 = false
    ∧ (0x140001 : W32).getLsbD 0 = true ∧ BitVec.ofNat 8 (fld (0x140001 : W32) 15 8) = ((sPort .active 0).port 3).btag := by decide +kernel

/-- A beacon of the peer that port 3 knows, of another, and of another version. -/
def beacon (serial : W64) (port : Nat) (vmaj : Byte) : Beacon :=
  withBeaconCrc { serial := serial, hive := 0, port := port, vmaj := vmaj, vmin := 0, vlow := 0, rank := 0, role := 0, posr := 0, poss := 0, btag := 0
                  best := 0, mgr := 0, crc := 0 }
theorem wit_beacon : (∀ b ∈ [beacon 99 4 0, beacon 99 4 1, beacon 98 4 0, beacon 99 5 0], b.crc = crc32 (beaconBody b))
    ∧ (sPort .active 0).alien (beacon 99 4 0) = false ∧ (sPort .active 0).alien (beacon 99 4 1) = true
    ∧ ((sPort .active 0).port 3).peer ≠ (beacon 98 4 0).serial ∧ ((sPort .active 0).port 3).peer = (beacon 99 4 0).serial
    ∧ ((sPort .active 0).port 3).peerPort.toNat = (beacon 99 4 0).port ∧ ((sPort .active 0).port 3).peerPort.toNat ≠ (beacon 99 5 0).port
    ∧ ({ beacon 99 4 0 with crc := (beacon 99 4 0).crc + 1 } : Beacon).crc ≠ crc32 (beaconBody { beacon 99 4 0 with crc := (beacon 99 4 0).crc + 1 }) := by
  decide +kernel

/-- A logical port with two frames to acknowledge: each may be sent again, or the second has been 8 times; frames refused and held. -/
def frame (jslot drank ttl seq : Nat) (pl : List Byte) : Frame :=
  withCrc { lseq := BitVec.ofNat 48 seq, ttl := BitVec.ofNat 8 ttl, hflags := 0, cls := 0, gen := 0, srank := 1, drank := BitVec.ofNat 16 drank
            jslot := BitVec.ofNat 8 jslot, ctr := 0, payload := pl, tag := 0, hcrc := 0 }
def sLp (f : LPort → LPort) : State := (sPort .active 0).modLport 3 f
def sRetry (n : Nat) : State := sLp fun l => { l with retry := [(frame 2 0 5 10 [1], 0), (frame 2 0 5 11 [2], n)] }
theorem wit_hop : (∀ n ∈ [7, 8], (((sRetry n).lport 3).retry.filter fun e => decide (10 ≤ e.1.lseq)).length = 2
      ∧ (((sRetry n).lport 3).retry.all fun e => decide (e.2 < 8)) = (n == 7) ∧ ((sRetry n).members 3).head? = some 3)
    ∧ ((sLp id).lport 3).retry = [] ∧ (s0.link.unacked.find? fun m => m.1 == 4) = none
    ∧ ((s0.modLink fun l => { l with unacked := [(4, 1, .heartbeat, 7)] }).link.unacked.find? fun m => m.1 == 4) = some (4, 1, .heartbeat, 7)
    ∧ ((s0.modLink fun l => { l with unacked := [(4, 1, .heartbeat, 8)] }).link.unacked.find? fun m => m.1 == 4) = some (4, 1, .heartbeat, 8) := by
  decide +kernel
theorem wit_refuse : ((sRetry 0).lport 3).retry = (frame 2 0 5 10 [1], 0) :: [(frame 2 0 5 11 [2], 0)] ∧ (frame 2 0 5 10 [1]).cls = 0
    ∧ ((sRetry 0).lport 3).waiting = [] ∧ ((sRetry 0).lport 3).hold = [] ∧ (frame 2 0 5 10 [1]).lseq < (frame 2 0 5 11 [2]).lseq
    ∧ (((sRetry 0).lport 3).retry.find? fun e => e.1.lseq == 13) = none
    ∧ ((sLp fun l => { l with hold := [((2, 0), [frame 2 0 5 10 [1]])] }).lport 3).hold = [((2, 0), [frame 2 0 5 10 [1]])] := by decide +kernel

/-- Frames at port 3 of rank 0: wrong, repeated, early and in order; with and without a key; for another module. -/
def sFrame (keys : Tab JobKey) (resident : Bool) (expect : Nat) : State :=
  let s := (sPort .active 0).modLport 3 fun l => { l with expect := BitVec.ofNat 48 expect }
  { s with
    link := { s.link with rank := some 0, planes := [(7, 0x8003)] }, sec := { s.sec with jobKeys := keys }
    parts := [(0, { part0 with jslot := some 2, resident := resident })] }
def key0 : Tab JobKey := [(2, { job := 5, key := 9 })]
theorem wit_frame : (frame 2 0 5 0 []).hcrc = crc32 (frameBytes (frame 2 0 5 0 [])) ∧ ((sFrame key0 true 0).port 3).state = .active
    ∧ (frame 2 0 5 0 []).lseq < ((sFrame key0 true 5).lport 3).expect ∧ ((sFrame key0 true 5).lport 3).expect < (frame 2 0 5 6 []).lseq
    ∧ ((sFrame key0 true 5).lport 3).early = [] ∧ (frame 2 0 5 0 []).lseq = ((sFrame key0 true 0).lport 3).expect ∧ (frame 2 0 5 0 []).cls = 0
    ∧ (sFrame key0 true 0).link.rank = some ((frame 2 0 5 0 []).drank.toNat % 1024)
    ∧ (sFrame key0 true 0).sec.jobKeys.find? (fun e => e.1 == 2) = some (2, { job := 5, key := 9 }) ∧ (sFrame key0 true 0).slotPart 2 = some 0
    ∧ ((sFrame key0 false 0).part 0).resident = false ∧ ((sFrame key0 true 0).part 0).resident = true
    ∧ (sFrame [] true 0).sec.jobKeys.find? (fun e => e.1 == 2) = none ∧ (sFrame key0 true 0).link.rank ≠ some ((frame 2 7 1 0 []).drank.toNat % 1024)
    ∧ ({ sFrame key0 true 0 with parts := [] } : State).slotPart 2 = none ∧ (frame 2 7 1 0 []).ttl.toNat ≤ 1 ∧ 1 < (frame 2 7 2 0 []).ttl.toNat ∧ (sFrame key0 true 0).route ((sFrame key0 true 0).part 0).plane 7 = .via 3 := by
  decide +kernel

/-! #### The Hive -/

/-- An elect module that stands and one that has been BEST everywhere; an acting manager with a job that has begun or not. -/
def sElect (standing : Bool) : State :=
  let s := { s0 with ff0 := { s0.ff0 with strapValid := true, role := 2 } }
  s.modMgr fun g => { g with standing := standing, best := if standing then 7 else 0 }
theorem wit_elect : (sElect false).role = 2 ∧ (sElect false).mgr.acting = false ∧ (sElect false).mgr.mgrSerial = 0 ∧ (sElect false).mgr.heartbeat = false
    ∧ (({ sElect false with link := (sPort .discover 0).link } : State).port 3).state.beacons = true ∧ (sElect true).mgr.acting = false ∧ (sElect true).mgr.mgrSerial = 0
    ∧ (sElect true).mgr.heartbeat = false ∧ (sElect true).mgr.standing = true ∧ (sElect true).mgr.best = (sElect true).fuse.serial
    ∧ (∀ p, p < 24 → ((sElect true).port p).state = .discover ∨ ((sElect true).port p).state = .active → ((sElect true).port p).peer ≠ 0 →
        ((sElect true).port p).peerBest = (sElect true).fuse.serial)
    ∧ s0.role ≠ 2 ∧ s0.mgr.standing = false ∧ (sElect true).managing = true := by decide +kernel
theorem wit_jobs : (sJob job0).mgr.acting = true ∧ s0.mgr.acting = false ∧ (sJob job0).findJob 5 = some job0 ∧ job0.started = true
    ∧ (sJob job0).findJob 6 = none ∧ (sJob { job0 with started := false }).findJob 5 = some { job0 with started := false }
    ∧ ({ job0 with started := false } : Job).stopped = false ∧ (sJob job0).mgr.map = none
    ∧ ((sJob job0).modMgr fun g => { g with map := some map0 }).mgr.map.isSome = true ∧ (99 : W64) ≠ s0.fuse.serial := by decide +kernel
/-- The frame's way out lies on the half of its port; a job frame whose die is cut off. -/
theorem wit_frame_half : (sFrame key0 true 0).crosses (portHalf 3) (3 / 12) = true
    ∧ (let s := { sFrame key0 true 0 with link := { (sFrame key0 true 0).link with bridgeN := false, bridgeS := false } }
      s.crosses (portHalf 3) (halfOfDie (s.pktDie 0 { pkt0 with kind := 4 })) = true ∧ s.crosses (portHalf 3) (halfOfDie 9) = false) := by decide +kernel
/-- A module with an admission list, which may serve, and an acting manager whose own key the list does not begin with. -/
def sList (acting : Bool) (ds : List W384) : State := (sPort .discover 0).modMgr fun g => { g with acting := acting, admission := some (5, ds) }
theorem wit_placed : (sPort .discover 0).mgr.admission = none ∧ (sList false [7]).mgr.admission.isSome = true ∧ (sList false [7]).listed = true
    ∧ (sList true []).listed = false ∧ (([⟨3, true, none⟩, ⟨4, false, none⟩] : List PortVerdict).map (·.port)).Nodup
    ∧ ((sList false [7]).port 3).state = .discover ∧ ((sList false [7]).port 3).accepted = none := by decide +kernel
theorem wit_members : ([((1 : Nat), (5 : W64), (0 : Nat)), (2, 6, 0)].map (·.2.1)).Nodup ∧ (sJob { job0 with stopped := true }).findJob 5 = some { job0 with stopped := true }
    ∧ (sJob job0).managing = true ∧ (deaf (sJob job0)).managing = false ∧ (sElect false).managing = true := by decide +kernel

end Sys2Proof.Tests
end

section
/-! SUPPORT. A write of a register word reads the value in its writable positions alone (00 R18): for each block of registers, masking
the value with `writableBits` changes nothing of what the write does. -/

namespace Sys2Proof.Machine

/-! ### What a masked word still reads

The write functions read a value in three ways: one bit, the low bits, and a field. Each reads the same of the masked value when the
mask holds ones in the positions that it takes. -/

theorem getLsbD_and_of_set {n : Nat} (v : BitVec n) {m : BitVec n} {i : Nat} (hm : m.getLsbD i = true) :
    (v &&& m).getLsbD i = v.getLsbD i := by
  rw [BitVec.getLsbD_and, hm, Bool.and_true]

theorem setWidth_and_of_ones {n k : Nat} (v : BitVec n) {m : BitVec n} (hm : m.setWidth k = BitVec.allOnes k) :
    (v &&& m).setWidth k = v.setWidth k := by
  rw [BitVec.setWidth_and, hm, BitVec.and_allOnes]

theorem fld_and_of_ones {n : Nat} (v : BitVec n) {m : BitVec n} {hi lo : Nat} (hm : fld m hi lo = 2 ^ (hi + 1 - lo) - 1) :
    fld (v &&& m) hi lo = fld v hi lo := by
  unfold fld at hm ⊢
  rw [BitVec.toNat_and, Nat.and_div_two_pow, Nat.and_mod_two_pow, hm, Nat.and_two_pow_sub_one_eq_mod, Nat.mod_mod]

/-! ### The operations that take a whole value -/

variable (s : State)

/-- LNK_CFG holds RTO in [31:16], BTAG in [15:8] and EN in bit 0 (11 Table 11-7). -/
theorem State.writeLnkCfg_and_writable (p : Nat) (v : W32) : s.writeLnkCfg p (v &&& 0xFFFFFF01#32) = s.writeLnkCfg p v := by
  simp (disch := decide) only [State.writeLnkCfg, getLsbD_and_of_set, fld_and_of_ones]

/-- FF_SVCLAT latches three inputs, in bits 2 to 0 (15 Table 15-11). -/
theorem State.clearLatches_and_writable (half : Nat) (v : W32) : s.clearLatches half (v &&& 0x7#32) = s.clearLatches half v := by
  refine List.foldl_ext _ _ s fun t k hk => ?_
  have hset : (0x7#32).getLsbD k = true := by
    rw [List.mem_range] at hk
    decide +revert
  simp only [getLsbD_and_of_set v hset]

/-- FF_SCANCTL holds GO in bit 31, the die in [27:24], the position in [22:16] and the period in [15:8] (12 Table 12-8). -/
theorem State.writeScanctl_and_writable (v : W64) : s.writeScanctl (v &&& 0x8F7FFF00) = s.writeScanctl v := by
  simp (disch := decide) only [State.writeScanctl, getLsbD_and_of_set, fld_and_of_ones]

/-! ### The blocks -/

/-- Core and die blocks: each of their writable words reads its own positions, and any other word is refused. -/
theorem State.writeUnit_and_writable (r : RegAt) (v : W64) : s.writeUnit r (v &&& writableBits r) = s.writeUnit r v := by
  unfold State.writeUnit
  split
  all_goals simp (disch := decide) only [writableBits, getLsbD_and_of_set, setWidth_and_of_ones, fld_and_of_ones]

/-- A port's block: the flags of LNK_STATE, and LNK_CFG (11 Table 11-7). -/
theorem State.writeLnk_and_writable (p h : Nat) {o : Nat} (v : W64) (ho : o / 0x100000 = 1) :
    s.writeLnk p (o % 0x10000) (v &&& writableBits (.ctl h o)) = s.writeLnk p (o % 0x10000) v := by
  unfold State.writeLnk
  split
  case h_1 hw => simp (disch := decide) only [writableBits, ho, hw, if_true, getLsbD_and_of_set]
  case h_2 hw =>
    have hmask : writableBits (.ctl h o) = 0xFFFFFF01 := by
      simp only [writableBits, ho, hw, Nat.reduceEqDiff, if_false]
    simp only [hmask, BitVec.setWidth_and, BitVec.reduceSetWidth, State.writeLnkCfg_and_writable]
  case h_3 => rfl

/-- The FF block of a half (12 Table 12-8, 15 Table 15-11). -/
theorem State.writeFf_and_writable (h : Nat) {o : Nat} (v : W64) (ho : o / 0x100000 = 2) :
    s.writeFf h (o % 0x100000) (v &&& writableBits (.ctl h o)) = s.writeFf h (o % 0x100000) v := by
  unfold State.writeFf
  split
  case isTrue => rfl
  case isFalse =>
    split
    case h_1 hw => simp (disch := decide) only [writableBits, ho, hw, getLsbD_and_of_set]
    case h_2 hw => simp (disch := decide) only [writableBits, ho, hw, setWidth_and_of_ones]
    case h_3 hw => simp only [writableBits, ho, hw, State.writeScanctl_and_writable]
    case h_4 hw =>
      simp only [writableBits, ho, hw, BitVec.setWidth_and, BitVec.reduceSetWidth, State.clearLatches_and_writable]
    case h_5 hw => simp (disch := decide) only [writableBits, ho, hw, getLsbD_and_of_set]
    case h_6 =>
      have hmask : writableBits (.ctl h o) = 0xFF000007 := by simp only [writableBits, ho]
      simp (disch := decide) only [hmask, getLsbD_and_of_set, fld_and_of_ones]

/-- The MGT block: MGT_ALERT, MGT_ALERTMASK and MGT_NET (13 Table 13-9). -/
theorem State.writeMgt_and_writable (role h : Nat) {o : Nat} (v : W64) (ho : o / 0x100000 = 3) :
    s.writeMgt role (o % 0x100000) (v &&& writableBits (.ctl h o)) = s.writeMgt role (o % 0x100000) v := by
  unfold State.writeMgt
  split
  case h_1 hw =>
    simp (disch := decide) only [writableBits, ho, hw, Nat.reduceEqDiff, if_false, getLsbD_and_of_set, setWidth_and_of_ones]
  case h_2 hw => simp (disch := decide) only [writableBits, ho, hw, Nat.reduceEqDiff, if_false, setWidth_and_of_ones]
  case h_3 hw =>
    simp (disch := decide) only [writableBits, ho, hw, if_true, getLsbD_and_of_set, setWidth_and_of_ones, fld_and_of_ones]
  case h_4 => rfl

/-- The PWR block of a half: PWR_CAP, which the lead's holds, and the PWR_OPP of its dies (14 Table 14-9). -/
theorem State.writePwr_and_writable (h : Nat) {o : Nat} (v : W64) (ho : o / 0x100000 = 4) :
    s.writePwr h (o % 0x100000) (v &&& writableBits (.ctl h o)) = s.writePwr h (o % 0x100000) v := by
  unfold State.writePwr
  split
  case isTrue hcap => simp (disch := decide) only [writableBits, ho, hcap.1, if_true, setWidth_and_of_ones]
  case isFalse =>
    split
    case isTrue hopp =>
      have hcap : o % 0x100000 ≠ 0x008 := by omega
      simp (disch := decide) only [writableBits, ho, hcap, if_false, fld_and_of_ones]
    case isFalse => rfl

/-- Every register word: the status of the reply and the state are those of the write with the reserved positions at zero. -/
theorem State.writeReg_and_writable (role : Nat) (r : RegAt) (v : W64) :
    s.writeReg role r (v &&& writableBits r) = s.writeReg role r v := by
  cases r with
  | core k o => exact s.writeUnit_and_writable _ v
  | die d o => exact s.writeUnit_and_writable _ v
  | ctl h o =>
    unfold State.writeReg
    dsimp only
    split
    case h_1 ho =>
      simp (disch := decide) only [writableBits, ho, getLsbD_and_of_set]
    case h_2 ho => rw [s.writeLnk_and_writable _ h v ho]
    case h_3 ho => rw [s.writeFf_and_writable h v ho]
    case h_4 ho => rw [s.writeMgt_and_writable role h v ho]
    case h_5 ho => rw [s.writePwr_and_writable h v ho]
    case h_6 => rfl

/-! ### The command -/

/-- A command runs its own effect on the session that takes it and on the state with the message number noted, and on nothing else. -/
theorem State.cmd_congr (m : CmdHdr) (c : CmdKind) {go go' : Session → State → SessOut × State}
    (hgo : ∀ k, go k (s.noted m) = go' k (s.noted m)) : s.cmd m c go = s.cmd m c go' := by
  unfold State.cmd State.command
  cases s.sessionOf m with
  | none => rfl
  | some k =>
    dsimp only
    rw [show go k (s.modSec _) = go' k (s.modSec _) from hgo k]

/-- Which registers exist is a matter of the fuses, so noting a message leaves it. -/
@[simp] theorem State.noted_regAt (m : CmdHdr) (a : Nat) : (s.noted m).regAt a = s.regAt a := rfl

theorem exec_wrreg (m : CmdHdr) (a v : W64) : exec (.wrreg m a v) s = execWrreg m a v s := rfl

/-- Settles O42: the command's shell never looks at the value, and the write itself reads its writable positions alone. -/
theorem reservedPositionsAreWrittenAsZero : Obligations.ReservedPositionsAreWrittenAsZero := by
  intro s m a v r hr
  simp only [exec_wrreg, execWrreg]
  refine congrArg Host.Outcome.next (s.cmd_congr m _ fun k => ?_)
  simp only [State.noted_regAt, hr, State.writeReg_and_writable]

end Sys2Proof.Machine
end

section
/-! SUPPORT. What sending a message or posting an event leaves of the link layer (11 R318 to R321, R330): the host's outbox, the route
planes and the midline bridge. A record of no partition changes the event unit alone. -/

namespace Sys2Proof.Machine

variable (s : State)

/-- The link layer after sending: only what a frame goes through on its way out differs. -/
def Link.Sent (l m : Link) : Prop :=
  ∃ tx lp out fc fl un nx,
    m = { l with txCtr := tx, lports := lp, out := out, floodCtr := fc, flooded := fl, unacked := un, nextMsg := nx }

namespace Link.Sent

variable {l m n : Link}

theorem refl (l : Link) : l.Sent l := ⟨_, _, _, _, _, _, _, rfl⟩

theorem trans (a : l.Sent m) (b : m.Sent n) : l.Sent n := by
  obtain ⟨_, _, _, _, _, _, _, rfl⟩ := a
  obtain ⟨_, _, _, _, _, _, _, rfl⟩ := b
  exact ⟨_, _, _, _, _, _, _, rfl⟩

theorem host_eq (h : l.Sent m) : m.host = l.host := by
  obtain ⟨_, _, _, _, _, _, _, rfl⟩ := h
  rfl

theorem planes_eq (h : l.Sent m) : m.planes = l.planes := by
  obtain ⟨_, _, _, _, _, _, _, rfl⟩ := h
  rfl

end Link.Sent

theorem State.pushFrame_sent (lp : Nat) (f : Frame) : s.link.Sent (s.pushFrame lp f).link := ⟨_, _, _, _, _, _, _, rfl⟩

theorem State.linkSend_sent (lp : Nat) (f : Frame) : s.link.Sent (s.linkSend lp f).link := by
  unfold State.linkSend
  dsimp only
  split
  · exact ⟨_, _, _, _, _, _, _, rfl⟩
  · split
    · exact s.pushFrame_sent lp f
    · exact ⟨_, _, _, _, _, _, _, rfl⟩

theorem State.floodPorts_sent (e : Nat) (f : Frame) : s.link.Sent (s.floodPorts e f).link := by
  unfold State.floodPorts
  refine List.foldlRecOn (motive := fun t : State => s.link.Sent t.link) _ _ (.refl _) fun t ht q _ => ht.trans ?_
  split
  · exact .refl _
  · split
    · exact t.linkSend_sent _ _
    · exact ⟨_, _, _, _, _, _, _, rfl⟩
    · exact .refl _

theorem State.floodNew_sent (rank : Nat) (body : List Byte) : s.link.Sent (s.floodNew rank body).link := by
  unfold State.floodNew
  dsimp only
  refine Link.Sent.trans ?_ (State.floodPorts_sent _ _ _)
  exact ⟨_, _, _, _, _, _, _, rfl⟩

theorem State.sendMgmt_sent (rank id : Nat) (m : MgmtMsg) : s.link.Sent (s.sendMgmt rank id m).link := by
  unfold State.sendMgmt
  split
  · exact .refl _
  · split
    · split
      · exact Link.Sent.trans ⟨_, _, _, _, _, _, _, rfl⟩ (State.linkSend_sent _ _ _)
      · exact .refl _
    · split
      · exact s.floodNew_sent _ _
      · exact State.floodNew_sent (s.skipFree 1) _ _

theorem State.mgmt_sent (rank : Nat) (m : MgmtMsg) : s.link.Sent (s.mgmt rank m).link := by
  unfold State.mgmt
  refine Link.Sent.trans ?_ (State.sendMgmt_sent _ _ _ _)
  exact ⟨_, _, _, _, _, _, _, rfl⟩

theorem State.sendRetract_sent (p : Nat) : s.link.Sent (s.sendRetract p).link := by
  unfold State.sendRetract
  split
  · exact .refl _
  · exact s.mgmt_sent _ _

theorem State.post_sent (e : EvRec) : s.link.Sent (s.post e).link := by
  unfold State.post
  dsimp only
  split
  · exact State.sendRetract_sent _ _
  · exact .refl _

/-- A record that concerns no partition raises no line and sends nothing (12 R344, R349). -/
theorem State.post_of_no_part {e : EvRec} (h : 16 ≤ e.part.toNat) : s.post e = s.holdRec (s.formRec e) := by
  unfold State.post
  rw [if_neg fun hc => absurd hc.2 (by omega)]

/-- Whatever else a record's class brings about, the event unit changes only by holding it. -/
theorem State.post_ev (e : EvRec) : (s.post e).ev = (s.holdRec (s.formRec e)).ev := by
  unfold State.post
  dsimp only
  split
  · simp
  · rfl

/-- A class that retracts takes the retracting slot of its unit (12 R346). -/
theorem State.holdRec_ret_isSome {e : EvRec} (h : clsRetracting e.cls.toNat e.cause.toNat = true) :
    (tget {} (s.holdRec e).ev.slots e.unit.toNat).ret.isSome = true := by
  show (tget {} (tset ({} : Slots) _ _ _) _).ret.isSome = true
  rw [tget_tset]
  unfold Slots.put slotPut
  rw [if_pos h]
  cases (tget ({} : Slots) s.ev.slots e.unit.toNat).ret with
  | none => rfl
  | some x => dsimp only; split <;> rfl

/-- An event of power and clocks, which concerns no partition, changes the event unit alone (14 Table 14-7). -/
theorem State.pwrEv_eq (half cls : Nat) (detail : W64) : ∃ v, s.pwrEv half cls detail = { s with ev := v } :=
  ⟨_, s.post_of_no_part (by simp [State.unitEv])⟩

@[simp] theorem State.ff_modFf (half : Nat) (f : FfHalf → FfHalf) : (s.modFf half f).ff half = f (s.ff half) := by
  unfold State.modFf State.ff
  split <;> simp

@[simp] theorem State.die_modDie (d : Nat) (f : Die → Die) : (s.modDie d f).die d = f (s.die d) := tget_tset _ _ _ _

theorem State.die_modDie_ne {d k : Nat} (f : Die → Die) (h : k ≠ d) : (s.modDie d f).die k = s.die k := tget_tset_ne _ _ _ h

theorem State.part_modPart (p k : Nat) (f : Part → Part) : (s.modPart p f).part k = if k = p then f (s.part k) else s.part k := by
  show tget {} (tset ({} : Part) _ _ _) _ = _
  rw [tget_tset_if]
  split
  · rename_i h; subst h; rfl
  · rfl

end Sys2Proof.Machine
end

section
/-! SUPPORT. Staging accesses (07 R227, 01 R45). A write is followed through the code of memory: with no error before it, the only
patterns it can meet are the poison that its own bytes with bad parity leave (07 R221), and poison lies in check symbols alone, so no
byte outside the windows changes. A read meets no error at all, so it changes nothing but the posted record and the host's outbox. -/

namespace Sys2Proof.Machine

variable (s : State)

/-! ### Accesses of a host -/

/-- No check point compares the epoch of an access that no unit of a partition makes (09 R269). -/
@[simp] theorem State.memDrop_host (k a : Nat) : s.memDrop { part := k } a = none := rfl

@[simp] theorem State.landing_host (k : Nat) (ws : List (Nat × Byte)) : s.landing { part := k } ws = ws := by
  simp [State.landing]

@[simp] theorem State.dropLog_host (k : Nat) (as : List Nat) : s.dropLog { part := k } as = s := rfl

theorem State.clear_host (k : Nat) (h : s.errs = []) : s.clear { part := k } := ⟨h, fun _ => rfl⟩

/-! ### Poison -/

/-- Every codeword is intact or poisoned (07 R221). -/
def State.poisonOnly (s : State) : Prop := ∀ cw, tget [] s.errs cw = [] ∨ tget [] s.errs cw = poison cw

/-- Poison lies in check symbols alone. -/
theorem cwData_le_of_mem_poison {cw : Nat} {x : Nat × Byte} (h : x ∈ poison cw) : cwData cw ≤ x.1 := by
  unfold poison at h
  rw [List.zipWith_eq_zipWith_take_min] at h
  obtain ⟨i, hi, rfl⟩ := List.getElem_of_mem h
  simp

/-- The decoder tells poison from every other pattern (07 R221). -/
theorem cwState_poison (cw : Nat) : cwState cw (poison cw) = .poisoned := by
  unfold cwState poison cwData cwSyms
  by_cases h : cw < 24 * 2 ^ 37
  · simp only [if_pos h]
    decide
  · simp only [if_neg h]
    decide

/-! ### What a host write leaves -/

/-- A host write that lands in `lands`, with the upsets `fs`, has brought `r` to `s`: other bytes, the host's outbox and the sync objects
are as they were, and without upsets so are the cores. -/
structure HostWrites (fs : List PhysFault) (lands : List Nat) (r s : State) : Prop where
  poison : s.poisonOnly
  bytes : ∀ a, a ∉ lands → s.rd8 a = r.rd8 a
  host : s.link.host = r.link.host
  objs : s.objs = r.objs
  clean : fs = [] → s.errs = [] ∧ s.cores = r.cores

namespace HostWrites

variable {s} {r t : State} {fs : List PhysFault} {lands : List Nat}

theorem refl (lands : List Nat) (h : r.errs = []) : HostWrites fs lands r r :=
  ⟨fun cw => .inl (by rw [h]; rfl), fun _ _ => rfl, rfl, rfl, fun _ => ⟨h, rfl⟩⟩

/-- An update of nothing that a host write is followed through. -/
theorem same (h : HostWrites fs lands r s) (hm : t.mem = s.mem) (he : t.errs = s.errs) (hl : t.link.host = s.link.host)
    (ho : t.objs = s.objs) (hc : fs = [] → t.cores = s.cores) : HostWrites fs lands r t where
  poison cw := by rw [he]; exact h.poison cw
  bytes a ha := by
    rw [← h.bytes a ha]
    unfold State.rd8
    rw [hm]
  host := hl.trans h.host
  objs := ho.trans h.objs
  clean hf := ⟨he.trans (h.clean hf).1, (hc hf).trans (h.clean hf).2⟩

theorem post (h : HostWrites fs lands r s) (e : EvRec) : HostWrites fs lands r (s.post e) :=
  h.same (by simp) (by simp) (s.post_sent e).host_eq (by simp) fun _ => by simp

theorem wr8 (h : HostWrites fs lands r s) {a : Nat} (ha : a ∈ lands) (b : Byte) : HostWrites fs lands r (s.wr8 a b) where
  poison := h.poison
  bytes k hk := by rw [s.rd8_wr8_ne b (fun e : k = a => hk (e ▸ ha)), h.bytes k hk]
  host := h.host
  objs := h.objs
  clean := h.clean

/-- A codeword becomes valid or poisoned, which takes an upset. -/
theorem setErr (h : HostWrites fs lands r s) (hf : fs ≠ []) {cw : Nat} {e : ErrPat} (he : e = [] ∨ e = Sys2Proof.Machine.poison cw) :
    HostWrites fs lands r (s.setErr cw e) where
  poison k := by
    simp only [State.setErr_errs, tget_tset_if]
    split
    · rename_i hk
      rwa [hk]
    · exact h.poison k
  bytes := h.bytes
  host := h.host
  objs := h.objs
  clean hn := absurd hn hf

theorem modEcc (h : HostWrites fs lands r s) (hf : fs ≠ []) (a : Nat) (f : EccCnt → EccCnt) : HostWrites fs lands r (s.modEcc a f) := by
  unfold State.modEcc
  split
  · exact h.same rfl rfl rfl rfl fun _ => rfl
  · exact h.same rfl rfl rfl rfl fun _ => rfl
  · exact h.same rfl rfl rfl rfl fun hn => absurd hn hf
  · exact h

/-- A core notes what its store has met. -/
theorem noteStore (h : HostWrites fs lands r s) (hf : fs ≠ []) (m : Option MemUnit) (f : Core → Core) :
    HostWrites fs lands r (match m with | some (.coreStore k) => s.modCore k f | _ => s) := by
  split
  · exact h.same rfl rfl rfl rfl fun hn => absurd hn hf
  · exact h

theorem uncorrectable (h : HostWrites fs lands r s) (hf : fs ≠ []) (cw : Nat) (who : Who) (poisoned partialW chry : Bool) :
    HostWrites fs lands r (s.uncorrectable cw who poisoned partialW chry) :=
  ((h.modEcc hf cw _).noteStore hf _ _).post _

/-- A partial write of a poisoned codeword leaves its data as it is stored (07 R219). -/
theorem cwPoisoned (h : HostWrites fs lands r s) (hf : fs ≠ []) (who : Who) (cw : Nat) :
    HostWrites fs lands r (s.cwPoisoned who cw (Sys2Proof.Machine.poison cw) true) := by
  unfold State.cwPoisoned
  rw [foldl_fixed fun x hx => if_neg (Nat.not_lt.mpr (cwData_le_of_mem_poison hx))]
  exact (h.setErr hf (.inr rfl)).uncorrectable hf _ _ _ _ _

theorem cwWrite (h : HostWrites fs lands r s) (who : Who) (ws : List (Nat × Byte)) (cw : Nat) :
    HostWrites fs lands r (s.cwWrite who ws cw) := by
  unfold State.cwWrite
  dsimp only
  split
  · exact h
  · rename_i he
    have hf : fs ≠ [] := fun hn => he (by rw [(h.clean hn).1]; rfl)
    split
    · exact h.setErr hf (.inl rfl)
    · have hp := (h.poison cw).resolve_left he
      rw [hp, cwState_poison]
      exact h.cwPoisoned hf who cw

/-- A write through the code changes the bytes that it names (07 R219). -/
theorem writeMem (h : HostWrites fs lands r s) (k : Nat) {ws : List (Nat × Byte)} (hw : ∀ x ∈ ws, x.1 ∈ lands) :
    HostWrites fs lands r (s.writeMem { part := k } ws) := by
  unfold State.writeMem
  rw [State.landing_host, State.dropLog_host]
  refine List.foldlRecOn _ _ (List.foldlRecOn _ _ h fun t ht cw _ => ht.cwWrite _ _ cw) fun t ht x hx => ?_
  exact ht.wr8 (hw x hx) _

theorem parityWrites (h : HostWrites fs lands r s) (who : Who) (written : List Nat) :
    HostWrites fs lands r (s.parityWrites who written fs) := by
  unfold State.parityWrites
  refine List.foldlRecOn (motive := HostWrites fs lands r) _ _ h fun t ht f hmem => ?_
  have hf : fs ≠ [] := List.ne_nil_of_mem hmem
  split
  · split
    · exact (((ht.setErr hf (.inr rfl)).modEcc hf _ _).noteStore hf _ _).post _
    · exact ht
  · exact ht

theorem extNote (h : HostWrites fs lands r s) (p : Nat) (ws : List (Nat × Byte)) : HostWrites fs lands r (s.extNote p ws) := by
  unfold State.extNote
  refine List.foldlRecOn (motive := HostWrites fs lands r) _ _ h fun t ht x _ => ?_
  dsimp only
  split
  · exact ht
  · exact ht.same rfl rfl rfl rfl fun _ => rfl

theorem stageBounds (h : HostWrites fs lands r s) (half : Nat) (bad : List (Nat × Nat)) :
    HostWrites fs lands r (s.stageBounds half bad) := by
  unfold State.stageBounds State.boundsUnit
  split
  · exact h
  · exact h.post _

end HostWrites

/-! ### Bytes that fail -/

/-- The endpoint's unit has posted (12 R344). -/
theorem State.stageBounds_posts (half : Nat) {bad : List (Nat × Nat)} (h : bad ≠ []) :
    (tget {} (s.stageBounds half bad).ev.slots (pcieUnit half).toNat).ret.isSome = true := by
  obtain ⟨x, bad, rfl⟩ := List.exists_cons_of_ne_nil h
  unfold State.stageBounds State.boundsUnit
  dsimp only
  rw [State.post_ev]
  exact State.holdRec_ret_isSome _ rfl

/-- The addresses at which `n` bytes of an access land. -/
def State.stageLands (s : State) (half : Nat) (write : Bool) (addr n : Nat) : List Nat :=
  (List.range n).filterMap fun k => match s.stageByte half write (addr + k) with | .inl x => some x.1 | .inr _ => none

theorem State.mem_stageLands {half : Nat} {write : Bool} {addr n k : Nat} {x : Nat × Nat} (hk : k < n)
    (hx : s.stageByte half write (addr + k) = .inl x) : x.1 ∈ s.stageLands half write addr n :=
  List.mem_filterMap.mpr ⟨k, List.mem_range.mpr hk, by rw [hx]⟩

/-- A host write changes what its windows admit, and a byte that fails is posted (07 R227). -/
theorem State.stageWrite_spec (half addr : Nat) (data : List Byte) (fs : List PhysFault) (h : s.errs = []) :
    HostWrites fs (s.stageLands half true addr data.length) s (s.stageWrite half addr data fs)
      ∧ ((∃ k c, k < data.length ∧ s.stageByte half true (addr + k) = .inr c) →
        (tget {} (s.stageWrite half addr data fs).ev.slots (pcieUnit half).toNat).ret.isSome = true) := by
  unfold State.stageWrite
  dsimp only
  constructor
  · refine HostWrites.stageBounds ?_ _ _
    refine List.foldlRecOn (motive := HostWrites fs _ s) _ _ (.refl _ h) fun t ht k _ => ?_
    refine HostWrites.extNote (HostWrites.parityWrites (ht.writeMem k fun x hx => ?_) _ _) _ _
    simp only [List.mem_map, List.mem_filter, List.mem_filterMap, Prod.exists, List.mem_zipIdx_iff_getElem?] at hx
    obtain ⟨_, p, b, ⟨⟨_, _, _, ⟨_, j, hj, he⟩, hm⟩, -⟩, rfl⟩ := hx
    simp only [Prod.mk.injEq] at he
    obtain ⟨rfl, rfl, rfl⟩ := he
    split at hm
    · rename_i hb
      cases hm
      exact s.mem_stageLands (List.getElem?_eq_some_iff.mp hj).1 hb
    · cases hm
  · rintro ⟨k, c, hk, hc⟩
    refine State.stageBounds_posts _ _ (List.ne_nil_of_mem (a := (addr + k, c)) ?_)
    simp only [List.mem_map, List.mem_filterMap, Prod.exists, List.mem_zipIdx_iff_getElem?]
    exact ⟨_, _, _, ⟨_, k, List.getElem?_eq_getElem hk, rfl⟩, by rw [hc]⟩

/-- What a host read has gathered: the state is as it was, and each value is of a byte that a window admits. -/
def State.ReadsAdmitted (s : State) (half : Nat) (acc : List (Nat × Byte) × State) : Prop :=
  acc.2 = s ∧ ∀ v ∈ acc.1, ∃ y, s.stageByte half false v.1 = .inl y

/-- A host read changes nothing but the record of its failing bytes, and gives zero for those (07 R227). -/
theorem State.stageRead_spec (half addr len : Nat) (h : s.errs = []) :
    ∃ bad, (s.stageRead half addr len).2 = s.stageBounds half bad
      ∧ ((∃ k c, k < len ∧ s.stageByte half false (addr + k) = .inr c) → bad ≠ [])
      ∧ (s.stageRead half addr len).1.length = len
      ∧ ∀ k, k < len → ∀ c, s.stageByte half false (addr + k) = .inr c → (s.stageRead half addr len).1[k]? = some 0 := by
  unfold State.stageRead
  dsimp only
  generalize hr : List.foldl _ _ _ = r
  have key : s.ReadsAdmitted half r := by
    rw [← hr]
    refine List.foldlRecOn (motive := s.ReadsAdmitted half) _ _ ⟨rfl, fun _ hv => nomatch hv⟩ fun acc hacc k _ => ?_
    obtain ⟨hs, hv⟩ := hacc
    rw [hs, s.readMem_clear (s.clear_host k h)]
    refine ⟨rfl, fun v hmem => (List.mem_append.mp hmem).elim (hv v) fun hz => ?_⟩
    have hin := (List.of_mem_zip hz).1
    simp only [List.mem_map, List.mem_filter, List.mem_filterMap, Prod.exists] at hin
    obtain ⟨_, _, ⟨_, _, _, ⟨⟨_, _, ⟨j, _, he⟩, hm⟩, -⟩, hp⟩, hv1⟩ := hin
    obtain ⟨rfl, rfl⟩ := Prod.mk.inj he
    obtain ⟨rfl, rfl⟩ := Prod.mk.inj hp
    rw [← hv1]
    split at hm
    · rename_i hb
      cases hm
      exact ⟨_, hb⟩
    · cases hm
  obtain ⟨hs, hv⟩ := key
  refine ⟨_, by rw [hs], ?_, by simp, fun k hk c hc => ?_⟩
  · rintro ⟨k, c, hk, hc⟩
    refine List.ne_nil_of_mem (a := (addr + k, c)) ?_
    simp only [List.mem_map, List.mem_filterMap, Prod.exists]
    exact ⟨_, _, ⟨k, List.mem_range.mpr hk, rfl⟩, by rw [hc]⟩
  · have hnone : r.1.find? (fun v => v.1 == addr + k) = none :=
      List.find?_eq_none.mpr fun v hmem he => by
        obtain ⟨y, hy⟩ := hv v hmem
        rw [beq_iff_eq.mp he, hc] at hy
        cases hy
    simp [hk, hnone]

/-! ### The command -/

theorem exec_stagingAccess (half : Nat) (write : Bool) (addr : W64) (len : Nat) (data : HostData) :
    exec (.stagingAccess half write addr len data) s = execStagingAccess half write addr len data s := rfl

theorem State.exec_staging_down {half : Nat} (h : (s.ff half).pcieUp = false) (write : Bool) (addr : W64) (len : Nat) (data : HostData) :
    exec (.stagingAccess half write addr len data) s = .next s := by
  simp [exec_stagingAccess, execStagingAccess, h]

theorem State.exec_staging_write {half : Nat} (h : (s.ff half).pcieUp = true) (addr : W64) (len : Nat) (data : HostData) :
    exec (.stagingAccess half true addr len data) s = .next (s.stageWrite half addr.toNat data.bytes data.faults) := by
  simp [exec_stagingAccess, execStagingAccess, h]

theorem State.exec_staging_read {half : Nat} (h : (s.ff half).pcieUp = true) (addr : W64) (len : Nat) (data : HostData) :
    exec (.stagingAccess half false addr len data) s = .next ((s.stageRead half addr.toNat len).2.modLink fun l =>
      { l with host := l.host ++ [(half, (s.stageRead half addr.toNat len).1)] }) := by
  simp [exec_stagingAccess, execStagingAccess, h]

/-- Posting the bytes of a read that fail leaves memory and the host's outbox. -/
theorem State.stageBounds_mem (half : Nat) (bad : List (Nat × Nat)) : (s.stageBounds half bad).mem = s.mem := by
  unfold State.stageBounds State.boundsUnit
  split
  · rfl
  · simp

theorem State.stageBounds_host (half : Nat) (bad : List (Nat × Nat)) : (s.stageBounds half bad).link.host = s.link.host := by
  unfold State.stageBounds State.boundsUnit
  split
  · rfl
  · exact (s.post_sent _).host_eq

/-- Settles O30: a write is followed through the code of memory (`HostWrites`), and a read meets no error (`stageRead_spec`). -/
theorem stagingStaysInItsWindows : Obligations.StagingStaysInItsWindows := by
  intro s half addr len data fs herrs lands fails posted
  refine ⟨fun hdown write => s.exec_staging_down hdown write addr len _, fun hup => ?_, fun hup => ?_⟩
  · obtain ⟨hw, hposts⟩ := s.stageWrite_spec half addr.toNat data fs herrs
    exact ⟨_, s.exec_staging_write hup addr len _, hw.bytes, hposts, hw.host, hw.objs, fun hf => (hw.clean hf).2⟩
  · obtain ⟨bad, hs, hbad, hlen, hzero⟩ := s.stageRead_spec half addr.toNat len herrs
    refine ⟨_, _, s.exec_staging_read hup addr len _, ?_, ?_, hlen, fun hf => ?_, hzero⟩
    · rw [State.modLink_mem, hs, s.stageBounds_mem]
    · rw [State.modLink_link, hs, s.stageBounds_host]
    · show (tget _ (State.modLink _ _).ev.slots _).ret.isSome = true
      rw [State.modLink_ev, hs]
      exact s.stageBounds_posts half (hbad hf)

end Sys2Proof.Machine
end

section
/-! SUPPORT. Clocks, straps, PERST_L, the bridge and the operating points (14 R398 to R400, R408, R409, 15 R414, R422). A controller of
the operating points moves one die, and what else a move leaves or counts is said once (`Throttled`). -/

namespace Sys2Proof.Machine

variable (s : State)

/-! ### Straps, PERST_L, the bridge -/

theorem State.modFf_id (half : Nat) : s.modFf half (fun h => h) = s := by
  unfold State.modFf
  split <;> rfl

theorem exec_strapChange (half : Nat) :
    exec (.strapChange half) s = .next (if (s.ff half).strapValid then s.modFf half fun h => { h with strapChg := true } else s) := by
  show Host.Outcome.next (s.modFf half _) = _
  congr 1
  unfold State.ff State.modFf
  split <;> split <;> simp_all

/-- Saying CLOSE to a session and closing it change the sessions alone. -/
theorem State.closeSessions_eq (f : Session → Bool) : ∃ x, s.closeSessions f = { s with sec := x } := by
  unfold State.closeSessions
  have key : ∃ x, (s.sec.sessions.filter f).foldl (fun s k => s.say { sid := k.sid, type := 7 }) s = { s with sec := x } := by
    refine List.foldlRecOn (motive := fun t : State => ∃ x, t = { s with sec := x }) _ _ ⟨_, rfl⟩ fun t ht k _ => ?_
    obtain ⟨x, rfl⟩ := ht
    exact ⟨_, rfl⟩
  obtain ⟨x, hx⟩ := key
  rw [hx]
  exact ⟨_, rfl⟩

/-- The sessions that a test leaves open are those that fail it, where the test does not look at the number of the last message. -/
theorem State.closeSessions_sids (f : Session → Bool) (hf : ∀ k n, f { k with lastOut := n } = f k) :
    (s.closeSessions f).sec.sessions.map (·.sid) = (s.sec.sessions.filter fun k => !f k).map (·.sid) := by
  unfold State.closeSessions
  refine List.foldlRecOn (motive := fun t : State =>
    (t.sec.sessions.filter fun k => !f k).map (·.sid) = (s.sec.sessions.filter fun k => !f k).map (·.sid)) _ _ rfl fun t ht k _ => ?_
  rw [← ht]
  simp only [State.say, State.modSec_sec, List.filter_map, List.map_map]
  refine congrArg₂ List.map (funext fun x => ?_) (List.filter_congr fun x _ => ?_)
  · simp only [Function.comp_apply]
    split <;> rfl
  · simp only [Function.comp_apply]
    split
    · rw [hf]
    · rfl

theorem exec_perstL (half : Nat) : exec (.perstL half) s
    = .next ((s.modLink fun l => { l with host := l.host.filter fun e => e.1 != half }).closeSessions fun k => k.via == .pcie half) := rfl

theorem State.perstL_spec (half : Nat) : ∃ t, exec (.perstL half) s = .next t ∧ t.ff half = s.ff half
    ∧ t.link.host = s.link.host.filter (fun e => e.1 != half)
    ∧ t.sec.sessions.map (·.sid) = (s.sec.sessions.filter fun k => k.via != .pcie half).map (·.sid)
    ∧ t.mem = s.mem ∧ t.parts = s.parts := by
  refine ⟨_, exec_perstL s half, ?_⟩
  have hsids := (s.modLink fun l => { l with host := l.host.filter fun e => e.1 != half }).closeSessions_sids
    (fun k => k.via == .pcie half) fun _ _ => rfl
  obtain ⟨x, hx⟩ := (s.modLink fun l => { l with host := l.host.filter fun e => e.1 != half }).closeSessions_eq
    fun k => k.via == .pcie half
  rw [hx] at hsids ⊢
  exact ⟨rfl, rfl, hsids, rfl, rfl⟩

theorem State.bridgeSegmentFailure_spec (seg : Nat) : ∃ t, exec (.bridgeSegmentFailure seg) s = .next t
    ∧ t.link.bridgeN = (if seg = 0 then false else s.link.bridgeN) ∧ t.link.bridgeS = (if seg = 0 then s.link.bridgeS else false)
    ∧ t.mem = s.mem ∧ t.parts = s.parts := by
  refine ⟨_, rfl, ?_⟩
  rw [State.post_of_no_part _ (by simp [State.unitEv])]
  simp only [State.holdRec_link, State.holdRec_mem, State.holdRec_parts, State.modLink_link, State.modLink_mem, State.modLink_parts,
    and_true]
  split <;> exact ⟨rfl, rfl⟩

/-! ### Clocks -/

theorem State.aoRefclkLoss_spec {half : Nat} (freq : W32) (h : (s.ff half).up = true) : ∃ t, exec (.aoRefclkLoss half freq) s = .next t
    ∧ (t.ff half).clkInt = true ∧ t.sec.alert = s.sec.alert ||| 0x2000 ∧ t.parts = s.parts ∧ t.mem = s.mem := by
  refine ⟨_, congrArg Host.Outcome.next (if_pos h), ?_⟩
  obtain ⟨v, hv⟩ := (s.modFf half fun h => { h with clkInt := true }).pwrEv_eq half 0x25 (freq.setWidth 64)
  rw [hv]
  refine ⟨?_, ?_, ?_, ?_⟩
  · show ((s.modFf half _).ff half).clkInt = true
    rw [s.ff_modFf]
  · show (s.modFf half _).sec.alert ||| _ = _
    rw [s.modFf_sec]
    rfl
  · exact s.modFf_parts half _
  · exact s.modFf_mem half _

theorem State.alert_part (bit p : Nat) : (s.alert bit).part p = s.part p := rfl

/-- A partition's open step is to be retracted (12 R349, 09 R266). -/
def State.stepEnds (s : State) (p : Nat) : Prop := (s.part p).stepEvent = true ∧ (s.part p).retractSent = true

theorem State.raiseLine_part (p half : Nat) (stops : Bool) (q : Nat) :
    ((s.raiseLine p half stops).part q).stepEvent = (q == p || (s.part q).stepEvent)
      ∧ ((s.raiseLine p half stops).part q).retractSent = (s.part q).retractSent := by
  unfold State.raiseLine
  rw [State.part_modPart]
  split
  · rename_i h
    simp [h]
  · rename_i h
    simp [h]

theorem State.sendRetract_part (p q : Nat) :
    ((s.sendRetract p).part q).stepEvent = (s.part q).stepEvent
      ∧ ((s.sendRetract p).part q).retractSent = (q == p || (s.part q).retractSent) := by
  unfold State.sendRetract
  split
  · rename_i h
    by_cases hq : q = p
    · subst hq; simp [h]
    · simp [hq]
  · have hm : ∀ k, (s.mgmt s.mgrRank (.step (s.stepMsg p 3))).part k = s.part k := fun k => by
      unfold State.part
      rw [State.mgmt_parts]
    rw [State.alert_part, State.part_modPart, hm]
    split
    · rename_i h
      simp [h]
    · rename_i h
      simp [h]

/-- A record ends the step of its partition, and no record takes that back. -/
theorem State.post_stepEnds {e : EvRec} {q : Nat}
    (h : s.stepEnds q ∨ (clsRetracting e.cls.toNat e.cause.toNat = true ∧ e.part.toNat < 16 ∧ q = e.part.toNat)) :
    (s.post e).stepEnds q := by
  unfold State.post
  dsimp only
  split
  · obtain ⟨r1, r2⟩ := (s.holdRec (s.formRec e)).raiseLine_part e.part.toNat (unitHalf e.unit) (e.cls != 0x14) q
    obtain ⟨t1, t2⟩ := State.sendRetract_part ((s.holdRec (s.formRec e)).raiseLine e.part.toNat (unitHalf e.unit) (e.cls != 0x14))
      e.part.toNat q
    have hp : (s.holdRec (s.formRec e)).part q = s.part q := rfl
    unfold State.stepEnds
    rw [t1, t2, r1, r2, hp]
    rcases h with ⟨h1, h2⟩ | ⟨-, -, h3⟩
    · simp [h1, h2]
    · simp [h3]
  · rename_i hn
    exact h.resolve_right fun hc => hn ⟨hc.1, hc.2.1⟩

/-- The record of a die's PLL for a partition (14 Table 14-7). -/
def State.pllEv (s : State) (die p : Nat) : State := s.post (s.unitEv (unitDie 5 die) 0x2A 0 p (BitVec.ofNat 64 die))

theorem exec_pllFail (die : Nat) : exec (.pllFail die) s = .next
    ((if (s.partsOnDie die).isEmpty then [0xFF] else s.partsOnDie die).foldl (fun t p => t.pllEv die p)
      (s.modDie die fun d => { d with pll := false })) := rfl

/-- Records for a list of partitions end the step of each. -/
theorem State.pllEvs_stepEnds (die : Nat) (ps : List Nat) {p : Nat} (hp : p < 16) (h : s.stepEnds p ∨ p ∈ ps) :
    (ps.foldl (fun t p => t.pllEv die p) s).stepEnds p := by
  induction ps generalizing s with
  | nil => exact h.resolve_right List.not_mem_nil
  | cons q ps ih =>
    refine ih _ ?_
    rcases h with h | h
    · exact .inl (s.post_stepEnds (.inl h))
    · rcases List.mem_cons.mp h with rfl | h
      · have hn : p = (BitVec.ofNat 8 p).toNat := by
          rw [BitVec.toNat_ofNat, Nat.mod_eq_of_lt (by omega)]
        exact .inl (s.post_stepEnds (.inr ⟨rfl, by show (BitVec.ofNat 8 p).toNat < 16; rwa [← hn], hn⟩))
      · exact .inr h

theorem State.pllFail_spec (die : Nat) : ∃ t, exec (.pllFail die) s = .next t
    ∧ t.dies = (s.modDie die fun d => { d with pll := false }).dies ∧ t.mem = s.mem
    ∧ ∀ p ∈ s.partsOnDie die, p < 16 → (t.part p).stepEvent = true ∧ (t.part p).retractSent = true := by
  refine ⟨_, exec_pllFail s die, ?_, ?_, fun p hp hlt => ?_⟩
  · exact List.foldlRecOn (motive := fun t : State => t.dies = (s.modDie die fun d => { d with pll := false }).dies) _ _ rfl
      fun t ht p _ => (t.post_dies _).trans ht
  · exact List.foldlRecOn (motive := fun t : State => t.mem = s.mem) _ _ rfl fun t ht p _ => (t.post_mem _).trans ht
  · rw [if_neg (by rw [List.isEmpty_iff]; exact List.ne_nil_of_mem hp)]
    exact State.pllEvs_stepEnds _ die _ hlt (.inr hp)

/-! ### What moving a die does -/

/-- A controller has put die `k` at `d`: no other die moves, the lowering counts as a throttle of its half (14 R410), and memory,
partitions, power state and power readings are as they were. -/
structure State.Throttled (s t : State) (k : Nat) (d : Die) : Prop where
  die : t.die k = d
  others : ∀ j, j ≠ k → t.die j = s.die j
  mem : t.mem = s.mem
  parts : t.parts = s.parts
  pwr : t.pwr = s.pwr
  reading : ∀ h, (t.ff h).pwrW = (s.ff h).pwrW
  throttles : (t.ff (halfOfDie k)).throttles
    = if d.oppCur < (s.die k).oppCur then satAdd (s.ff (halfOfDie k)).throttles 1 else (s.ff (halfOfDie k)).throttles

theorem State.Throttled.refl (k : Nat) : s.Throttled s k (s.die k) :=
  ⟨rfl, fun _ _ => rfl, rfl, rfl, rfl, fun _ => rfl, (if_neg (BitVec.lt_irrefl _)).symm⟩

/-- A change of a die that leaves its operating point. -/
theorem State.Throttled.modDie (k : Nat) (f : Die → Die) (h : (f (s.die k)).oppCur = (s.die k).oppCur) :
    s.Throttled (s.modDie k f) k (f (s.die k)) where
  die := s.die_modDie k f
  others j hj := s.die_modDie_ne f hj
  mem := rfl
  parts := rfl
  pwr := rfl
  reading _ := rfl
  throttles := by
    rw [h, if_neg (BitVec.lt_irrefl _)]
    rfl

/-- The throttle counter of a half after a change of an operating point. -/
def FfHalf.counted (h : FfHalf) (lowers : Bool) : FfHalf := if lowers then { h with throttles := satAdd h.throttles 1 } else h

theorem FfHalf.counted_pwrW (h : FfHalf) (lowers : Bool) : (h.counted lowers).pwrW = h.pwrW := by
  cases lowers <;> rfl

theorem FfHalf.counted_throttles (h : FfHalf) (lowers : Bool) :
    (h.counted lowers).throttles = if lowers then satAdd h.throttles 1 else h.throttles := by
  cases lowers <;> rfl

/-- A field that an update of a half leaves is the same in both halves. -/
theorem State.ff_modFf_keeps {α : Type} (g : FfHalf → α) {f : FfHalf → FfHalf} (hg : ∀ h, g (f h) = g h) (half k : Nat) :
    g ((s.modFf half f).ff k) = g (s.ff k) := by
  unfold State.modFf State.ff
  split
  · split
    · exact hg _
    · rfl
  · split
    · rfl
    · exact hg _

/-- A move that management has not brought about counts when it lowers the die (14 R410; log 156). -/
theorem State.modFf_counted (half : Nat) {cause : Nat} (hc : cause ≠ 3) (new old : BitVec 2) :
    (if new < old ∧ cause ≠ 3 then s.modFf half fun h => { h with throttles := satAdd h.throttles 1 } else s)
      = s.modFf half fun h => h.counted (decide (new < old)) := by
  by_cases hl : new < old
  · rw [if_pos ⟨hl, hc⟩, decide_eq_true hl]
    rfl
  · rw [if_neg fun h => hl h.1, decide_eq_false hl]
    exact (s.modFf_id half).symm

/-- What a change of a die's limits does to the state: the die, the counter of its half, and the event unit and alerts with the record. -/
theorem State.moveDie_eq (die watts : Nat) {cause : Nat} (hc : cause ≠ 3) (f : Die → Die) :
    ∃ v x, s.moveDie die cause watts f
      = { (s.modDie die fun d => (f d).moved cause).modFf (halfOfDie die) fun h =>
            h.counted (decide (((f (s.die die)).moved cause).oppCur < (s.die die).oppCur)) with ev := v, sec := x } := by
  unfold State.moveDie
  simp only [State.die_modDie]
  split
  · rename_i he
    rw [he]
    simp only [BitVec.lt_irrefl, decide_false]
    exact ⟨_, _, (State.modFf_id _ _).symm⟩
  · rw [State.modFf_counted _ _ hc]
    split
    · obtain ⟨v, hv⟩ := State.pwrEv_eq _ _ _ _
      rw [hv]
      exact ⟨_, _, rfl⟩
    · obtain ⟨v, hv⟩ := State.pwrEv_eq _ _ _ _
      rw [hv]
      exact ⟨_, _, rfl⟩

theorem State.Throttled.moveDie (die watts : Nat) {cause : Nat} (hc : cause ≠ 3) (f : Die → Die) {d : Die}
    (hd : (f (s.die die)).moved cause = d) : s.Throttled (s.moveDie die cause watts f) die d := by
  obtain ⟨v, x, h⟩ := s.moveDie_eq die watts hc f
  rw [h, ← hd]
  exact
    { die := by
        show tget {} (State.modFf _ _ _).dies die = _
        rw [State.modFf_dies]
        exact s.die_modDie die _
      others := fun j hj => by
        show tget {} (State.modFf _ _ _).dies j = _
        rw [State.modFf_dies]
        exact s.die_modDie_ne _ hj
      mem := State.modFf_mem _ _ _
      parts := State.modFf_parts _ _ _
      pwr := State.modFf_pwr _ _ _
      reading := fun k => by
        show ((State.modFf _ _ _).ff k).pwrW = _
        exact State.ff_modFf_keeps _ FfHalf.pwrW (fun h => FfHalf.counted_pwrW h _) _ _
      throttles := by
        show ((State.modFf _ _ _).ff _).throttles = _
        rw [State.ff_modFf, FfHalf.counted_throttles]
        simp only [decide_eq_true_eq]
        rfl }

/-! ### The cap -/

/-- The mark of a controller on a die that it has lowered, 1 for the cap and 2 for the temperature, ends in the other's period (14 R409). -/
def Die.settled (mark : Nat) (d : Die) : Die := { d with lowered := if d.lowered = mark then 0 else d.lowered }

/-- The limits of a die as the cap takes it one point down and one up (14 R400). -/
def Die.capDown (d : Die) : Die := { d with capLim := d.oppCur - 1, lowered := 1 }
def Die.capUp (d : Die) : Die := { d with capLim := d.capLim + 1 }

/-- The power averages are kept (14 R410). -/
def State.takePower (s : State) (avg : InputPower) : State :=
  (s.modFf 0 fun h => { h with pwrW := avg.west }).modFf 1 fun h => { h with pwrW := avg.east }

theorem State.takePower_throttles (avg : InputPower) (h : Nat) : ((s.takePower avg).ff h).throttles = (s.ff h).throttles := by
  unfold State.ff
  split <;> rfl

/-- The mark of the temperature on a die ends. -/
def State.settleDie (s : State) (k : Nat) : State := if (s.die k).lowered = 2 then s.modDie k fun d => { d with lowered := 0 } else s

theorem State.settleDie_eq (k : Nat) :
    ∃ D, s.settleDie k = { s with dies := D } ∧ ∀ j, tget {} D j = if j = k then (s.die j).settled 2 else s.die j := by
  unfold State.settleDie
  split
  · rename_i hl
    refine ⟨_, rfl, fun j => ?_⟩
    rw [tget_tset_if]
    split
    · rename_i hj
      simp only [hj, Die.settled, hl, if_true]
    · rfl
  · rename_i hl
    refine ⟨_, rfl, fun j => ?_⟩
    split
    · rename_i hj
      simp only [hj, Die.settled, hl, if_false]
      rfl
    · rfl

/-- The marks of the temperature on the first `n` dies end. -/
def State.settleDies (s : State) (n : Nat) : State := (List.range n).foldl State.settleDie s

theorem State.settleDies_eq (n : Nat) :
    ∃ D, s.settleDies n = { s with dies := D } ∧ ∀ j, tget {} D j = if j < n then (s.die j).settled 2 else s.die j := by
  induction n with
  | zero => exact ⟨s.dies, rfl, fun j => rfl⟩
  | succ n ih =>
    obtain ⟨D, hs, hD⟩ := ih
    obtain ⟨E, ht, hE⟩ := State.settleDie_eq { s with dies := D } n
    refine ⟨E, ?_, fun j => ?_⟩
    · unfold State.settleDies at hs ⊢
      rw [List.range_succ, List.foldl_append, hs]
      exact ht
    · have hj : State.die { s with dies := D } j = if j < n then (s.die j).settled 2 else s.die j := hD j
      rw [hE, hj]
      by_cases h : j = n
      · rw [if_pos h, if_neg (by omega), if_pos (by omega)]
      · rw [if_neg h]
        congr 1
        simp only [eq_iff_iff]
        omega

/-- The highest operating point that three limits allow. -/
def leastPoint (a b c : Nat) : BitVec 2 := BitVec.ofNat 2 (min a (min b c))

theorem Die.limit_eq (d : Die) : d.limit = leastPoint d.oppMax.toNat d.capLim.toNat d.thLim.toNat := rfl

theorem leastPoint_lt {a b c n : Nat} (h : b < n ∨ c < n) (hn : n < 4) : (leastPoint a b c).toNat < n := by
  unfold leastPoint
  rw [BitVec.toNat_ofNat]
  omega

/-- A limit one below the point of a die. -/
theorem toNat_pred {x : BitVec 2} (h : x ≠ 0) : (x - 1).toNat = x.toNat - 1 ∧ x.toNat - 1 < x.toNat := by
  bv_omega

theorem toNat_succ {x : BitVec 2} (h : x.toNat < 3) : (x + 1).toNat = x.toNat + 1 := by
  bv_omega

/-- A die whose cap limit goes one below its point runs there, or lower (14 R400). -/
theorem Die.capDown_moved (d : Die) (h : d.oppCur ≠ 0) :
    d.capDown.moved 1 = { d with capLim := d.oppCur - 1, lowered := 1, oppCause := 1
                                 oppCur := leastPoint d.oppMax.toNat (d.oppCur.toNat - 1) d.thLim.toNat } := by
  obtain ⟨hp, hlt⟩ := toNat_pred h
  have hne : leastPoint d.oppMax.toNat (d.oppCur.toNat - 1) d.thLim.toNat ≠ d.oppCur := fun he =>
    absurd (leastPoint_lt (a := d.oppMax.toNat) (c := d.thLim.toNat) (.inl hlt) d.oppCur.isLt) (by rw [he]; omega)
  unfold Die.moved Die.capDown
  simp only [Die.limit_eq, hp]
  rw [if_neg hne]
  rfl

theorem Die.capUp_moved (d : Die) (h : d.capLim.toNat < 3) :
    let pt := leastPoint d.oppMax.toNat (d.capLim.toNat + 1) d.thLim.toNat
    d.capUp.moved 1 = { d with capLim := d.capLim + 1, oppCur := pt, oppCause := if pt = d.oppCur then d.oppCause else 1 } := by
  unfold Die.moved Die.capUp
  simp only [Die.limit_eq, toNat_succ h]
  rfl

variable {avg : InputPower} {hot : Nat} {long : Bool}

theorem exec_capThrottle : exec (.capThrottle avg hot long) s = execCapThrottle avg hot long s := rfl

/-- The average above the cap, and a hottest die that this controller may lower (14 R400, R409). -/
theorem exec_capThrottle_lowers (hw : s.capW < avg.west.toNat + avg.east.toNat)
    (hl : hot < 12 ∧ (s.die hot).oppCur ≠ 0 ∧ (s.die hot).lowered ≠ 2) :
    exec (.capThrottle avg hot long) s
      = .next (((s.takePower avg).moveDie hot 1 (avg.west.toNat + avg.east.toNat) Die.capDown).settleDies 12) := by
  rw [exec_capThrottle]
  unfold execCapThrottle
  dsimp only
  rw [if_pos hw, if_pos hl]
  rfl

/-- The average below 95 % of the cap for its time, and a die that the cap holds down. -/
theorem exec_capThrottle_raises {k : Nat} (hw : ¬ s.capW < avg.west.toNat + avg.east.toNat) (hl : long = true)
    (hu : (avg.west.toNat + avg.east.toNat) * 100 < 95 * s.capW) (hk : s.capRaise = some k) :
    exec (.capThrottle avg hot long) s
      = .next (((s.takePower avg).moveDie k 1 (avg.west.toNat + avg.east.toNat) Die.capUp).settleDies 12) := by
  rw [exec_capThrottle]
  unfold execCapThrottle
  dsimp only
  rw [if_neg hw, if_pos (by simp [hl, hu]), hk]
  rfl

/-- No die to lower, or none to raise. -/
theorem exec_capThrottle_holds
    (h : (s.capW < avg.west.toNat + avg.east.toNat ∧ ¬ (hot < 12 ∧ (s.die hot).oppCur ≠ 0 ∧ (s.die hot).lowered ≠ 2))
      ∨ (¬ s.capW < avg.west.toNat + avg.east.toNat
        ∧ (long = false ∨ 95 * s.capW ≤ (avg.west.toNat + avg.east.toNat) * 100 ∨ s.capRaise = none))) :
    exec (.capThrottle avg hot long) s = .next ((s.takePower avg).settleDies 12) := by
  rw [exec_capThrottle]
  unfold execCapThrottle
  dsimp only
  rcases h with ⟨hw, hl⟩ | ⟨hw, hr⟩
  · rw [if_pos hw, if_neg hl]
    rfl
  · rw [if_neg hw]
    split
    · rename_i hc
      simp only [Bool.and_eq_true, decide_eq_true_eq] at hc
      rw [(hr.resolve_left (by simp [hc.1])).resolve_left (by omega)]
      rfl
    · rfl

/-- What the cap controller shows of a period in which it has put a die at `d`. -/
theorem State.capThrottle_becomes {u : State} {k : Nat} {d : Die} (hk : k < 12) (hs : (s.takePower avg).Throttled u k d)
    (he : exec (.capThrottle avg hot long) s = .next (u.settleDies 12)) :
    ∃ t, exec (.capThrottle avg hot long) s = .next t ∧ t.die k = d.settled 2
      ∧ (∀ j, j ≠ k → j < 12 → t.die j = (s.die j).settled 2) ∧ t.mem = s.mem ∧ t.parts = s.parts ∧ t.pwr = s.pwr
      ∧ (t.ff 0).pwrW = avg.west ∧ (t.ff 1).pwrW = avg.east
      ∧ (t.ff (halfOfDie k)).throttles = (if d.oppCur < (s.die k).oppCur then satAdd (s.ff (halfOfDie k)).throttles 1
          else (s.ff (halfOfDie k)).throttles) := by
  obtain ⟨D, ht, hD⟩ := u.settleDies_eq 12
  refine ⟨_, he, ?_⟩
  rw [ht]
  refine ⟨?_, fun j hj hlt => ?_, hs.mem, hs.parts, hs.pwr, hs.reading 0, hs.reading 1, ?_⟩
  · rw [State.die, hD, if_pos hk, hs.die]
  · rw [State.die, hD, if_pos hlt, hs.others j hj]
    rfl
  · have hth := hs.throttles
    rw [s.takePower_throttles] at hth
    exact hth

/-- The die that the controller raises has a cap limit below the others. -/
theorem State.capRaise_some {k : Nat} (h : s.capRaise = some k) : k < 12 ∧ (s.die k).capLim.toNat < 3 := by
  have hlt := List.find?_some h
  have hmem := List.mem_of_find?_eq_some h
  simp only [decide_eq_true_eq] at hlt
  have := (s.die k).oppMax.isLt
  exact ⟨List.mem_range.mp hmem, by omega⟩

/-! ### The temperature -/

/-- The limits of a die as the temperature takes it one point down and one up, which ends the cap's mark (14 R400, R409). -/
def Die.thDown (d : Die) : Die := { d with thLim := d.oppCur - 1, lowered := 2 }
def Die.thUp (d : Die) : Die := ({ d with thLim := d.thLim + 1 } : Die).settled 1

theorem Die.thDown_moved (d : Die) (h : d.oppCur ≠ 0) :
    d.thDown.moved 2 = { d with thLim := d.oppCur - 1, lowered := 2, oppCause := 2
                                oppCur := leastPoint d.oppMax.toNat d.capLim.toNat (d.oppCur.toNat - 1) } := by
  obtain ⟨hp, hlt⟩ := toNat_pred h
  have hne : leastPoint d.oppMax.toNat d.capLim.toNat (d.oppCur.toNat - 1) ≠ d.oppCur := fun he =>
    absurd (leastPoint_lt (a := d.oppMax.toNat) (b := d.capLim.toNat) (.inr hlt) d.oppCur.isLt) (by rw [he]; omega)
  unfold Die.moved Die.thDown
  simp only [Die.limit_eq, hp]
  rw [if_neg hne]
  rfl

theorem Die.thUp_moved (d : Die) (h : d.thLim.toNat < 3) :
    let pt := leastPoint d.oppMax.toNat d.capLim.toNat (d.thLim.toNat + 1)
    d.thUp.moved 2 = ({ d with
      thLim := d.thLim + 1, oppCur := pt, oppCause := if pt = d.oppCur then d.oppCause else 2 } : Die).settled 1 := by
  unfold Die.moved Die.thUp Die.settled
  simp only [Die.limit_eq, toNat_succ h]
  rfl

/-- A table of sensors holds, from `b` on, the readings of a list of `n`, and elsewhere what it held. -/
theorem tget_readings (b n : Nat) (l : List W16) (i : Nat) (m : Tab W16) (hn : i + l.length ≤ n) (j : Nat) :
    tget 0 ((l.zipIdx i).foldl (fun m x => tset 0 m (b + x.2 % n) x.1) m) j
      = if b + i ≤ j ∧ j < b + i + l.length then l.getD (j - (b + i)) 0 else tget 0 m j := by
  induction l generalizing i m with
  | nil =>
    rw [if_neg (by simp)]
    rfl
  | cons v l ih =>
    simp only [List.length_cons] at hn
    rw [List.zipIdx_cons, List.foldl_cons, ih _ _ (by omega), tget_tset_if, Nat.mod_eq_of_lt (by omega), List.length_cons]
    by_cases hj : j = b + i
    · subst hj
      rw [if_neg (by omega), if_pos rfl, if_pos (by omega), Nat.sub_self]
      rfl
    · by_cases hr : b + (i + 1) ≤ j ∧ j < b + (i + 1) + l.length
      · rw [if_pos hr, if_pos (by omega), show j - (b + i) = (j - (b + (i + 1))) + 1 by omega]
        rfl
      · rw [if_neg hr, if_neg hj, if_neg (by omega)]

/-- The sensors of a die hold its readings (14 R401). -/
theorem State.takeTemps_temps {die : Nat} {x : DieTemps} (hd : die < 12) (hr : x.rows.length = 9) (hb : x.hbm.length = 2) :
    (∀ k, k < 9 → tget 0 (s.takeTemps die x).pwr.temps (9 * die + k) = x.rows.getD k 0)
      ∧ ∀ k, k < 2 → tget 0 (s.takeTemps die x).pwr.temps (108 + 2 * die + k) = x.hbm.getD k 0 := by
  constructor
  · intro k hk
    show tget 0 (List.foldl _ _ _) _ = _
    rw [tget_readings _ 2 _ 0 _ (by omega), if_neg (by omega), tget_readings _ 9 _ 0 _ (by omega), if_pos (by omega)]
    congr 1
    omega
  · intro k hk
    show tget 0 (List.foldl _ _ _) _ = _
    rw [tget_readings _ 2 _ 0 _ (by omega), if_pos (by omega)]
    congr 1
    omega

variable {die : Nat} {x : DieTemps}

theorem exec_thermalThrottle : exec (.thermalThrottle die x long) s = execThermalThrottle die x long s := rfl

theorem any_hot_iff (l : List W16) : (l.any fun t => decide (800 ≤ t.toInt)) = true ↔ ∃ t ∈ l, 800 ≤ t.toInt := by
  simp only [List.any_eq_true, decide_eq_true_eq]

/-- A sensor at 100 °C, and a die that this controller may lower (14 R400, R409). -/
theorem exec_thermalThrottle_lowers (hh : ∃ t ∈ x.rows ++ x.hbm, 800 ≤ t.toInt)
    (hl : (s.die die).oppCur ≠ 0 ∧ (s.die die).lowered ≠ 1) :
    exec (.thermalThrottle die x long) s
      = .next ((s.takeTemps die x).moveDie die 2 0 Die.thDown) := by
  rw [exec_thermalThrottle]
  unfold execThermalThrottle
  dsimp only
  rw [if_pos ((any_hot_iff _).mpr hh), if_pos hl]
  rfl

/-- Every sensor below 90 °C for its time, and a die that the temperature holds down. -/
theorem exec_thermalThrottle_raises (hh : ¬ ∃ t ∈ x.rows ++ x.hbm, 800 ≤ t.toInt)
    (hc : long = true ∧ (∀ t ∈ x.rows ++ x.hbm, t.toInt < 720) ∧ (s.die die).thLim.toNat < 2) :
    exec (.thermalThrottle die x long) s
      = .next ((s.takeTemps die x).moveDie die 2 0 Die.thUp) := by
  rw [exec_thermalThrottle]
  unfold execThermalThrottle
  dsimp only
  rw [if_neg (mt (any_hot_iff _).mp hh), if_pos]
  · rfl
  · obtain ⟨h1, h2, h3⟩ := hc
    simp only [Bool.and_eq_true, decide_eq_true_eq, List.all_eq_true]
    exact ⟨⟨h1, h2⟩, h3⟩

/-- No die to lower, or none to raise. -/
theorem exec_thermalThrottle_holds
    (h : ((∃ t ∈ x.rows ++ x.hbm, 800 ≤ t.toInt) ∧ ¬ ((s.die die).oppCur ≠ 0 ∧ (s.die die).lowered ≠ 1))
      ∨ ((¬ ∃ t ∈ x.rows ++ x.hbm, 800 ≤ t.toInt)
        ∧ ¬ (long = true ∧ (∀ t ∈ x.rows ++ x.hbm, t.toInt < 720) ∧ (s.die die).thLim.toNat < 2))) :
    exec (.thermalThrottle die x long) s = .next ((s.takeTemps die x).modDie die (Die.settled 1)) := by
  rw [exec_thermalThrottle]
  unfold execThermalThrottle
  dsimp only
  rcases h with ⟨hh, hl⟩ | ⟨hh, hc⟩
  · rw [if_pos ((any_hot_iff _).mpr hh), if_neg hl]
    rfl
  · rw [if_neg (mt (any_hot_iff _).mp hh), if_neg]
    · rfl
    · simp only [Bool.and_eq_true, decide_eq_true_eq, List.all_eq_true]
      exact fun hn => hc ⟨hn.1.1, hn.1.2, hn.2⟩

/-- What the temperature controller shows of a period in which it has put its die at `d`. -/
theorem State.thermalThrottle_becomes {u : State} {d : Die} (hd : die < 12) (hr : x.rows.length = 9) (hb : x.hbm.length = 2)
    (hs : (s.takeTemps die x).Throttled u die d) (he : exec (.thermalThrottle die x long) s = .next u) :
    ∃ t, exec (.thermalThrottle die x long) s = .next t ∧ t.die die = d
      ∧ (∀ j, j ≠ die → t.die j = s.die j) ∧ t.mem = s.mem ∧ t.parts = s.parts ∧ t.pwr = { s.pwr with temps := t.pwr.temps }
      ∧ (∀ k, k < 9 → tget 0 t.pwr.temps (9 * die + k) = x.rows.getD k 0)
      ∧ (∀ k, k < 2 → tget 0 t.pwr.temps (108 + 2 * die + k) = x.hbm.getD k 0)
      ∧ (t.ff (halfOfDie die)).throttles = (if d.oppCur < (s.die die).oppCur then satAdd (s.ff (halfOfDie die)).throttles 1
          else (s.ff (halfOfDie die)).throttles) := by
  obtain ⟨hrows, hhbm⟩ := s.takeTemps_temps hd hr hb
  refine ⟨u, he, hs.die, hs.others, hs.mem, hs.parts, ?_, ?_, ?_, hs.throttles⟩
  · rw [hs.pwr]
    rfl
  · rw [hs.pwr]
    exact hrows
  · rw [hs.pwr]
    exact hhbm

theorem State.pllLock_eq (die : Nat) : exec (.pllLock die) s
    = .next (if s.pwr.state = .idle ∨ s.pwr.state = .run then s.modDie die fun d => { d with pll := true } else s) := by
  show Host.Outcome.next (if (s.pwr.state == .idle || s.pwr.state == .run) = true then _ else _) = _
  simp only [Bool.or_eq_true, beq_iff_eq]

/-- Settles O52: each controller moves one die as `Throttled` says, to the point that its limits allow. -/
theorem clocksAndOperatingPoints : Obligations.ClocksAndOperatingPoints := by
  refine ⟨fun s half die seg freq _ => ?_, fun s avg hot long => ?_, fun s die x long hd hr hb => ?_⟩
  · exact ⟨exec_strapChange s half, s.perstL_spec half, s.aoRefclkLoss_spec freq,
      fun h => congrArg Host.Outcome.next (if_neg (by simp [h])), rfl, s.pllLock_eq die,
      s.pllFail_spec die, s.bridgeSegmentFailure_spec seg⟩
  · intro cap w rest least raises becomes lowers
    refine ⟨fun hw hl => ?_, fun k hw hlong hu hk => ?_, fun h k hk => ?_⟩
    · exact s.capThrottle_becomes hl.1 (.moveDie _ hot w (by decide) _ (Die.capDown_moved _ hl.2.1))
        (exec_capThrottle_lowers s hw hl)
    · obtain ⟨hlt, hcap⟩ := s.capRaise_some hk
      exact s.capThrottle_becomes hlt (.moveDie _ k w (by decide) _ (Die.capUp_moved _ hcap))
        (exec_capThrottle_raises s (Nat.not_lt.mpr hw) hlong hu hk)
    · exact s.capThrottle_becomes hk (.refl _ k)
        (exec_capThrottle_holds s (h.imp id (And.imp_left Nat.not_lt.mpr)))
  · intro d all rest least becomes hot cold
    refine ⟨fun hh hp hl => ?_, fun hh hc => ?_, fun h => ?_⟩
    · exact s.thermalThrottle_becomes hd hr hb (.moveDie _ die 0 (by decide) _ (Die.thDown_moved _ hp))
        (exec_thermalThrottle_lowers s hh ⟨hp, hl⟩)
    · exact s.thermalThrottle_becomes hd hr hb (.moveDie _ die 0 (by decide) _ (Die.thUp_moved _ (Nat.lt_succ_of_lt hc.2.2)))
        (exec_thermalThrottle_raises s hh hc)
    · exact s.thermalThrottle_becomes hd hr hb (.modDie _ die _ rfl)
        (exec_thermalThrottle_holds s (h.imp (And.imp_right fun ho hn => ho.elim hn.1 hn.2) id))

end Sys2Proof.Machine
end

section
/-! SUPPORT. The twin domains and the data plane (01 R48): what a change of lead, a split and its end leave as it was, one lemma for an
operation of the arbitration (14 R405). -/

namespace Sys2Proof.Machine

/-- The data plane and the loaded structures of `t` are those of `s`, and so are the management work and the start-up step that wait. -/
structure Undisturbed (s t : State) : Prop where
  cores : t.cores = s.cores
  dies : t.dies = s.dies
  upds : t.upds = s.upds
  objs : t.objs = s.objs
  syn0 : t.syn0 = s.syn0
  syn1 : t.syn1 = s.syn1
  mem : t.mem = s.mem
  errs : t.errs = s.errs
  parts : t.parts = s.parts
  planes : t.link.planes = s.link.planes
  ldr : t.ldr = s.ldr
  deferred : t.mgr.deferred = s.mgr.deferred
  step : t.pwr.step = s.pwr.step

namespace Undisturbed

variable {r s t : State}

theorem refl (s : State) : Undisturbed s s := ⟨rfl, rfl, rfl, rfl, rfl, rfl, rfl, rfl, rfl, rfl, rfl, rfl, rfl⟩

theorem trans (a : Undisturbed r s) (b : Undisturbed s t) : Undisturbed r t where
  cores := b.cores.trans a.cores
  dies := b.dies.trans a.dies
  upds := b.upds.trans a.upds
  objs := b.objs.trans a.objs
  syn0 := b.syn0.trans a.syn0
  syn1 := b.syn1.trans a.syn1
  mem := b.mem.trans a.mem
  errs := b.errs.trans a.errs
  parts := b.parts.trans a.parts
  planes := b.planes.trans a.planes
  ldr := b.ldr.trans a.ldr
  deferred := b.deferred.trans a.deferred
  step := b.step.trans a.step

/-- Which streams run is a matter of the cores (05 R140). -/
theorem runs (h : Undisturbed s t) (i : StreamId) : t.runs i = s.runs i := by
  unfold State.runs State.stream State.core
  rw [h.cores]

theorem ite {c : Prop} [Decidable c] {u : State} (ht : Undisturbed s t) (hu : Undisturbed s u) :
    Undisturbed s (if c then t else u) := by
  split
  · exact ht
  · exact hu

/-! ### Operations on one part of the state -/

theorem modFf (h : Undisturbed r s) (k : Nat) (f : FfHalf → FfHalf) : Undisturbed r (s.modFf k f) := by
  unfold State.modFf
  split
  · exact { h with }
  · exact { h with }

theorem modPwr (h : Undisturbed r s) (f : Pwr → Pwr) (hf : (f s.pwr).step = s.pwr.step) : Undisturbed r (s.modPwr f) :=
  { h with step := hf.trans h.step }

theorem modMgr (h : Undisturbed r s) (f : Mgr → Mgr) (hf : (f s.mgr).deferred = s.mgr.deferred) : Undisturbed r (s.modMgr f) :=
  { h with deferred := hf.trans h.deferred }

theorem modEv (h : Undisturbed r s) (f : Events → Events) : Undisturbed r (s.modEv f) := { h with }

theorem modSec (h : Undisturbed r s) (f : Sec → Sec) : Undisturbed r (s.modSec f) := { h with }

theorem pwrEv (h : Undisturbed r s) (half cls : Nat) (detail : W64) : Undisturbed r (s.pwrEv half cls detail) := by
  obtain ⟨v, hv⟩ := s.pwrEv_eq half cls detail
  rw [hv]
  exact { h with }

theorem closeSessions (h : Undisturbed r s) (f : Session → Bool) : Undisturbed r (s.closeSessions f) := by
  obtain ⟨x, hx⟩ := s.closeSessions_eq f
  rw [hx]
  exact { h with }

theorem mgmt (h : Undisturbed r s) (rank : Nat) (m : MgmtMsg) : Undisturbed r (s.mgmt rank m) :=
  h.trans
    { cores := by simp, dies := by simp, upds := by simp, objs := by simp, syn0 := by simp, syn1 := by simp, mem := by simp
      errs := by simp, parts := by simp, planes := (s.mgmt_sent rank m).planes_eq, ldr := by simp, deferred := by simp, step := by simp }

/-! ### Arbitration -/

theorem decideLead (h : Undisturbed r s) (east : Bool) : Undisturbed r (s.decideLead east) := by
  unfold State.decideLead
  exact ((h.modPwr _ rfl).modFf _ _).modFf _ _

theorem splitHalf (h : Undisturbed r s) (half : Nat) : Undisturbed r (s.splitHalf half) := by
  unfold State.splitHalf
  exact ((h.modFf _ _).modSec _).mgmt _ _

theorem learnLead (h : Undisturbed r s) (half lead : Nat) : Undisturbed r (s.learnLead half lead) := by
  unfold State.learnLead State.setLead
  refine modFf ?_ _ _
  dsimp only
  split
  · exact h.modPwr _ rfl
  · exact (h.modPwr _ rfl).closeSessions _

/-- With no work that waits, the end of a split takes none up (log 159). -/
theorem resumeWork (h : Undisturbed r s) (hd : r.mgr.deferred = []) : Undisturbed r s.resumeWork := by
  have hs : s.mgr.deferred = [] := h.deferred.trans hd
  unfold State.resumeWork
  split
  · exact h
  · rw [hs]
    exact h.modMgr _ hs.symm

/-- A start-up goes on from step 5 alone (14 Table 14-4). -/
theorem resumeStart (h : Undisturbed r s) (hs : r.pwr.step ≠ 5) : Undisturbed r s.resumeStart := by
  unfold State.resumeStart
  rw [if_neg fun hc => hs (h.step ▸ hc.2.2.1)]
  exact h

/-- A split half learns its ruling; the half that leads posts the split (14 R405). -/
theorem ruled (h : Undisturbed r s) (hd : r.mgr.deferred = []) (hs : r.pwr.step ≠ 5) (half lead : Nat) :
    Undisturbed r (if half = lead then (s.learnLead half lead).splitEv half lead
      else s.learnLead half lead).resumeWork.resumeStart := by
  refine (resumeWork ?_ hd).resumeStart hs
  split
  · exact (h.learnLead half lead).pwrEv _ _ _
  · exact h.learnLead half lead

end Undisturbed

variable (s : State)

/-! ### A domain that restarts -/

/-- The firmware of a domain starts again, from the image that the boot ROM finds (13 R390). -/
def State.rebooted (s : State) : State := match s.bootImage with | some k => s.boot k | none => s

/-- It changes what the sessions' domain shows alone. -/
theorem State.rebooted_eq : ∃ x, s.rebooted = { s with sec := x } := by
  unfold State.rebooted
  split
  · unfold State.boot
    dsimp only
    split
    · exact ⟨_, rfl⟩
    · exact ⟨_, rfl⟩
  · exact ⟨_, rfl⟩

/-- Levels that stay have no effect (15 Table 15-6). -/
theorem State.levelsChanged_same {old new : FfHalf} (hr : new.resetIn = old.resetIn) (hp : new.pwrEn = old.pwrEn)
    (hc : new.coolOk = old.coolOk) : s.levelsChanged old new = s := by
  unfold State.levelsChanged
  have falls : ∀ b : Bool, ¬ (b = true ∧ (!b) = true) := by decide
  have rises : ∀ b : Bool, ¬ ((!b) = true ∧ b = true) := by decide
  simp only [hr, hp, hc, falls, rises, if_false]
  split <;> rfl

theorem Undisturbed.inputs {r s : State} (h : Undisturbed r s) {half : Nat} {x : FfHalf}
    (hx : half = s.leadHalf → x.resetIn = (s.ff half).resetIn ∧ x.pwrEn = (s.ff half).pwrEn ∧ x.coolOk = (s.ff half).coolOk) :
    Undisturbed r (s.inputs half x) := by
  unfold State.inputs
  dsimp only
  split
  · rename_i hc
    obtain ⟨hr, hp, hk⟩ := hx hc.1
    rw [State.levelsChanged_same _ hr hp hk]
    exact h.modFf _ _
  · exact h.modFf _ _

/-! ### The commands of the twin domains -/

section
variable {s} {t : State} (half : Nat)

/-- A heartbeat ends a split, and where start-up has left the lead open, the self-check decides it. -/
theorem exec_twinHeartbeat_undisturbed (path : Nat) (selfOk claims : Bool) (hd : s.mgr.deferred = []) (hs : s.pwr.step ≠ 5)
    (h : exec (.twinHeartbeat half path selfOk claims) s = .next t) : Undisturbed s t := by
  have hr := Undisturbed.refl s
  have h1 := hr.modFf half fun h => if path = 0 then { h with sbOk := true } else { h with pinOk := true }
  cases h
  refine .ite hr (.ite (.ite ?_ h1) ?_)
  · exact ((((h1.modFf _ _).modFf _ _).decideLead _).resumeWork hd).resumeStart hs
  · refine (Undisturbed.resumeWork ((h1.modPwr _ ?_).modFf _ _) hd).resumeStart hs
    split <;> rfl

theorem exec_heartbeatPathLoss_undisturbed (path : Nat) (h : exec (.heartbeatPathLoss half path) s = .next t) : Undisturbed s t := by
  have hr := Undisturbed.refl s
  cases h
  exact .ite hr (.ite ((hr.modFf _ _).pwrEv _ _ _) ((hr.modFf _ _).splitHalf _))

theorem exec_leadQuery_undisturbed (rank : Nat) (h : exec (.leadQuery rank half) s = .next t) : Undisturbed s t := by
  have hr := Undisturbed.refl s
  cases h
  exact .ite (hr.modMgr _ rfl) hr

theorem exec_leadRuling_undisturbed (rank : Nat) (h : exec (.leadRuling rank) s = .next t) : Undisturbed s t := by
  have hr := Undisturbed.refl s
  cases h
  exact .ite ((hr.modMgr _ rfl).mgmt _ _) hr

theorem exec_leadRulingReceipt_undisturbed (lead : Nat) (hd : s.mgr.deferred = []) (hs : s.pwr.step ≠ 5)
    (h : exec (.leadRulingReceipt half lead) s = .next t) : Undisturbed s t := by
  have hr := Undisturbed.refl s
  cases h
  exact .ite (hr.ruled hd hs half lead) hr

/-- The default rules for West (14 R405). -/
theorem exec_splitDefault_undisturbed (hd : s.mgr.deferred = []) (hs : s.pwr.step ≠ 5)
    (h : exec (.splitDefault half) s = .next t) : Undisturbed s t := by
  have hr := Undisturbed.refl s
  cases h
  exact .ite (hr.ruled hd hs half 0) hr

/-- A domain that restarts loses its own registers, and its inputs at their levels bring nothing about. -/
theorem exec_fireflyWatchdog_undisturbed (hl : half = s.leadHalf → ∀ k, k < 3 → (s.ff half).pin k = (s.ff half).level k)
    (h : exec (.fireflyWatchdog half) s = .next t) : Undisturbed s t := by
  have hr := Undisturbed.refl s
  obtain ⟨x, hx⟩ := s.rebooted_eq
  have hb : Undisturbed s s.rebooted := by
    rw [hx]
    exact { hr with }
  have levels : half = s.rebooted.leadHalf → (s.ff half).pinReset = (s.rebooted.ff half).resetIn
      ∧ (s.ff half).pinPwr = (s.rebooted.ff half).pwrEn ∧ (s.ff half).pinCool = (s.rebooted.ff half).coolOk := by
    rw [hx]
    exact fun hh => ⟨hl hh 0 (by decide), hl hh 1 (by decide), hl hh 2 (by decide)⟩
  cases h
  refine .ite hr (.ite (((Undisturbed.inputs hb ?_).modEv _).closeSessions _) ((Undisturbed.inputs hb ?_).modEv _))
  · exact levels
  · exact levels

end

/-- Settles O54: every command of the twin domains leaves the data plane undisturbed. -/
theorem leadChangesLeaveTheDataPlane : Obligations.LeadChangesLeaveTheDataPlane := by
  intro s t half path rank lead selfOk claims hd hs hl c hc h
  have hu : Undisturbed s t := by
    simp only [List.mem_cons, List.not_mem_nil, or_false] at hc
    rcases hc with rfl | rfl | rfl | rfl | rfl | rfl | rfl
    · exact exec_twinHeartbeat_undisturbed half path selfOk claims hd hs h
    · exact exec_heartbeatPathLoss_undisturbed half path h
    · exact exec_leadQuery_undisturbed half rank h
    · exact exec_leadRuling_undisturbed rank h
    · exact exec_leadRulingReceipt_undisturbed half lead hd hs h
    · exact exec_splitDefault_undisturbed half hd hs h
    · exact exec_fireflyWatchdog_undisturbed half hl h
  exact ⟨hu.runs, hu.cores, hu.dies, hu.upds, hu.objs, hu.syn0, hu.syn1, hu.mem, hu.errs, hu.parts, hu.planes, hu.ldr⟩

end Sys2Proof.Machine
end

section
/-! SUPPORT. The decision of an operation (05 R158): what a Ladder report, a repeat and a completion leave of the state, one lemma for an
operation, and the decision that each outcome of an attempt brings about. -/

namespace Sys2Proof.Machine

variable (s : State) (i : StreamId)

/-! ### A core wakes, and a report is made -/

theorem State.core_of_cores {s t : State} (h : t.cores = s.cores) (k : Nat) : t.core k = s.core k := by
  unfold State.core
  rw [h]

/-- A change of a core that leaves its streams leaves the stream. -/
theorem State.stream_modCore {f : Core → Core} (h : ∀ c p, (f c).stream p = c.stream p) : (s.modCore (skey i) f).stream i = s.stream i := by
  unfold State.stream
  rw [State.core_modCore, h]

@[simp] theorem State.stream_modStream (f : Stream → Stream) : (s.modStream i f).stream i = f (s.stream i) := s.stream_setStream i _

theorem State.stream_of_cores {s t : State} (h : t.cores = s.cores) (i : StreamId) : t.stream i = s.stream i := by
  unfold State.stream
  rw [State.core_of_cores h]

/-- Waking a core changes no field of it but its power, and of the module nothing but cores and power (14 R397). -/
theorem State.wakeCore_core (k : Nat) : ∃ pow, (s.wakeCore k).core k = { s.core k with pow := pow } := by
  unfold State.wakeCore
  split
  · exact ⟨.on, s.core_modCore k fun c => { c with pow := .on }⟩
  · exact ⟨_, rfl⟩

theorem State.wakeCore_frame (k : Nat) : s.wakeCore k = { s with cores := (s.wakeCore k).cores, pwr := (s.wakeCore k).pwr } := by
  unfold State.wakeCore
  split
  · rfl
  · rfl

@[simp] theorem State.wakeCore_mem (k : Nat) : (s.wakeCore k).mem = s.mem := by rw [s.wakeCore_frame k]
@[simp] theorem State.wakeCore_objs (k : Nat) : (s.wakeCore k).objs = s.objs := by rw [s.wakeCore_frame k]
@[simp] theorem State.wakeCore_syn0 (k : Nat) : (s.wakeCore k).syn0 = s.syn0 := by rw [s.wakeCore_frame k]
@[simp] theorem State.wakeCore_syn1 (k : Nat) : (s.wakeCore k).syn1 = s.syn1 := by rw [s.wakeCore_frame k]
@[simp] theorem State.wakeCore_link (k : Nat) : (s.wakeCore k).link = s.link := by rw [s.wakeCore_frame k]

@[simp] theorem State.wakeCore_chainBuf (k : Nat) : ((s.wakeCore k).core k).chainBuf = (s.core k).chainBuf := by
  obtain ⟨pow, h⟩ := s.wakeCore_core k
  rw [h]

@[simp] theorem State.wakeCore_stream : (s.wakeCore (skey i)).stream i = s.stream i := by
  obtain ⟨pow, h⟩ := s.wakeCore_core (skey i)
  unfold State.stream
  rw [h]
  cases i.pass <;> rfl

/-- Objects and the way to them are no matter of a core's power (05 R158). -/
@[simp] theorem State.wakeCore_readGroup (k : Nat) (st : Stream) : (s.wakeCore k).readGroup i st = s.readGroup i st := by
  unfold State.readGroup State.objReached State.crosses State.obj
  simp only [State.wakeCore_objs, State.wakeCore_link]

section
variable (st : Stream)
@[simp] theorem State.ladderRecord_cores : (s.ladderRecord i st).cores = s.cores := by unfold State.ladderRecord; split <;> simp
@[simp] theorem State.ladderRecord_mem : (s.ladderRecord i st).mem = s.mem := by unfold State.ladderRecord; split <;> simp
@[simp] theorem State.ladderRecord_objs : (s.ladderRecord i st).objs = s.objs := by unfold State.ladderRecord; split <;> simp
@[simp] theorem State.ladderRecord_syn0 : (s.ladderRecord i st).syn0 = s.syn0 := by unfold State.ladderRecord; split <;> simp
@[simp] theorem State.ladderRecord_syn1 : (s.ladderRecord i st).syn1 = s.syn1 := by unfold State.ladderRecord; split <;> simp
end

section
variable (r : BitVec 4) (cause : Nat)
@[simp] theorem State.ladderLog_cores : (s.ladderLog i r cause).cores = s.cores := by simp [State.ladderLog]
@[simp] theorem State.ladderLog_mem : (s.ladderLog i r cause).mem = s.mem := by simp [State.ladderLog]
@[simp] theorem State.ladderLog_objs : (s.ladderLog i r cause).objs = s.objs := by simp [State.ladderLog]
@[simp] theorem State.ladderLog_syn0 : (s.ladderLog i r cause).syn0 = s.syn0 := by simp [State.ladderLog]
@[simp] theorem State.ladderLog_syn1 : (s.ladderLog i r cause).syn1 = s.syn1 := by simp [State.ladderLog]
@[simp] theorem State.ladderLog_core (k : Nat) : (s.ladderLog i r cause).core k = s.core k :=
  State.core_of_cores (s.ladderLog_cores i r cause) k
@[simp] theorem State.ladderLog_stream : (s.ladderLog i r cause).stream i = s.stream i :=
  State.stream_of_cores (s.ladderLog_cores i r cause) i
end

/-! ### A repeat (05 R154) -/

section
variable (told : Bool) (r : BitVec 4) (wide : Bool)

@[simp] theorem State.repeatOp_mem : (s.repeatOp i told r wide).mem = s.mem := rfl
@[simp] theorem State.repeatOp_objs : (s.repeatOp i told r wide).objs = s.objs := rfl
@[simp] theorem State.repeatOp_syn0 : (s.repeatOp i told r wide).syn0 = s.syn0 := rfl
@[simp] theorem State.repeatOp_syn1 : (s.repeatOp i told r wide).syn1 = s.syn1 := rfl

@[simp] theorem Core.setStream_chainBuf (c : Core) (p : Pass) (st : Stream) : (c.setStream p st).chainBuf = c.chainBuf := by cases p <;> rfl

@[simp] theorem State.repeatOp_stream : (s.repeatOp i told r wide).stream i = (s.stream i).again r wide := by
  unfold State.repeatOp
  exact (State.stream_modCore _ _ fun c p => by cases p <;> rfl).trans (s.stream_modStream i _)

@[simp] theorem State.repeatOp_chainBuf :
    ((s.repeatOp i told r wide).core (skey i)).chainBuf = if told then [] else (s.core (skey i)).chainBuf := by
  unfold State.repeatOp State.modStream
  rw [State.core_modCore, State.core_setStream]
  simp

end

@[simp] theorem State.modStream_chainBuf (f : Stream → Stream) :
    ((s.modStream i f).core (skey i)).chainBuf = (s.core (skey i)).chainBuf := by
  unfold State.modStream
  rw [State.core_setStream, Core.setStream_chainBuf]

/-! ### Completion (05 R158) -/

section
variable (part k : Nat)
@[simp] theorem State.countScale_cores : (s.countScale part k).cores = s.cores := by unfold State.countScale; split <;> simp
@[simp] theorem State.countScale_mem : (s.countScale part k).mem = s.mem := by unfold State.countScale; split <;> simp
@[simp] theorem State.countScale_objs : (s.countScale part k).objs = s.objs := by unfold State.countScale; split <;> simp
@[simp] theorem State.countScale_syn0 : (s.countScale part k).syn0 = s.syn0 := by unfold State.countScale; split <;> simp
@[simp] theorem State.countScale_syn1 : (s.countScale part k).syn1 = s.syn1 := by unfold State.countScale; split <;> simp
end

/-- Operations that are sent change nothing but the lists of the halves. -/
theorem State.sendSyncs_frame (rs : List SyncReq) :
    rs.foldl (fun s r => s.sendSync r) s
      = { s with syn0 := (rs.foldl (fun s r => s.sendSync r) s).syn0, syn1 := (rs.foldl (fun s r => s.sendSync r) s).syn1 } := by
  induction rs generalizing s with
  | nil => rfl
  | cons r rs ih =>
    rw [List.foldl_cons, ih]
    unfold State.sendSync State.modSyn
    split <;> rfl

/-- Each half takes the operations on its objects, in order (09 R260). -/
theorem State.sendSyncs_net0 (rs : List SyncReq) :
    (rs.foldl (fun s r => s.sendSync r) s).syn0.net = s.syn0.net ++ rs.filter fun r => decide (r.obj < 65536) := by
  induction rs generalizing s with
  | nil => simp
  | cons r rs ih =>
    rw [List.foldl_cons, ih]
    unfold State.sendSync State.modSyn halfOfObj
    by_cases h : r.obj < 65536 <;> simp [h]

theorem State.sendSyncs_net1 (rs : List SyncReq) :
    (rs.foldl (fun s r => s.sendSync r) s).syn1.net = s.syn1.net ++ rs.filter fun r => !decide (r.obj < 65536) := by
  induction rs generalizing s with
  | nil => simp
  | cons r rs ih =>
    rw [List.foldl_cons, ih]
    unfold State.sendSync State.modSyn halfOfObj
    by_cases h : r.obj < 65536 <;> simp [h]

/-- The stream that a completion leaves, but for the reads at the instruction port. -/
def Stream.completed (st : Stream) : Stream :=
  { { st with
      optab := tset 0 st.optab st.opid.toNat (opEntryWord st.rung st.wide), inop := false, phase := .none, wbuf := [], snap := none
      opScale := 0, chainV := if st.chained then st.chainV.drop 1 else st.chainV }.issued none st.pc 0 with stime := st.stime }

theorem Stream.completed_next (st : Stream) : (st.completed.pc, st.completed.loops) = loopNext st.pc st.loops :=
  Stream.issued_pc_loops _ _ 0

theorem Stream.completed_optab (st : Stream) :
    st.completed.optab
      = tset 0 st.optab st.opid.toNat (BitVec.ofNat 32 (st.rung.toNat + (if st.wide then 16 else 0) + 2 ^ 31)) := by
  unfold Stream.completed Stream.issued opEntryWord
  dsimp only

/-- The state in which a completion has reported and sent all it has to, outside a verdict group. -/
def State.owedSent (s : State) (i : StreamId) : State :=
  let st := s.stream i
  let s0 := if st.ladderTop then s.ladderLog i st.rung 1 else s
  (st.wbuf.foldl (fun s r => s.sendSync r) s0).countScale (s0.syncReq i st.step 0 (st.opG + 5) .set (opEntryWord st.rung st.wide)).part
    st.opScale

theorem State.owedSent_cores : (s.owedSent i).cores = s.cores := by
  unfold State.owedSent
  rw [State.countScale_cores, State.sendSyncs_frame]
  split <;> simp
theorem State.owedSent_mem : (s.owedSent i).mem = s.mem := by
  unfold State.owedSent
  rw [State.countScale_mem, State.sendSyncs_frame]
  split <;> simp
theorem State.owedSent_objs : (s.owedSent i).objs = s.objs := by
  unfold State.owedSent
  rw [State.countScale_objs, State.sendSyncs_frame]
  split <;> simp
theorem State.owedSent_net0 :
    (s.owedSent i).syn0.net = s.syn0.net ++ (s.stream i).wbuf.filter fun r => decide (r.obj < 65536) := by
  unfold State.owedSent
  rw [State.countScale_syn0, State.sendSyncs_net0]
  split <;> simp
theorem State.owedSent_net1 :
    (s.owedSent i).syn1.net = s.syn1.net ++ (s.stream i).wbuf.filter fun r => !decide (r.obj < 65536) := by
  unfold State.owedSent
  rw [State.countScale_syn1, State.sendSyncs_net1]
  split <;> simp

theorem State.owedSent_stream : (s.owedSent i).stream i = s.stream i := State.stream_of_cores (s.owedSent_cores i) i

/-- Outside a verdict group a completion reports and sends, and its stream and core go on. -/
theorem State.completeOp_alone (hn : (s.stream i).opN = 0) :
    s.completeOp i = (((s.owedSent i).setStream i (s.stream i).completed).portJump i).modCore (skey i) fun c =>
      if (s.stream i).chout then { c with chainVs := c.chainVs ++ [(c.epoch, none)] } else c := by
  have h := s.owedSent_stream i
  unfold State.owedSent at h
  unfold State.completeOp State.modStream State.owedSent
  dsimp only at h ⊢
  rw [if_pos hn, h]
  rfl

theorem State.stream_completeOp (hn : (s.stream i).opN = 0) : ∃ late left,
    (s.completeOp i).stream i = { (s.stream i).completed with portLate := late, portLeft := left } := by
  obtain ⟨late, left, h⟩ := State.stream_portJump (s := (s.owedSent i).setStream i (s.stream i).completed) (i := i)
  refine ⟨late, left, ?_⟩
  rw [s.completeOp_alone i hn, State.stream_modCore _ _ fun c p => by split <;> cases p <;> rfl, h, State.stream_setStream]

theorem State.completeOp_frame (hn : (s.stream i).opN = 0) :
    s.completeOp i = { s.owedSent i with cores := (s.completeOp i).cores } := by
  rw [s.completeOp_alone i hn]
  unfold State.modCore State.setCore
  rw [State.portJump_frame]
  rfl

/-! ### The decision (05 R158, R159) -/

variable {s i}

/-- Without a verdict group the outcome that the stream holds is decided on, on a core that is awake. -/
theorem exec_operationDecision_alone {w g : Bool} (hp : (s.stream i).phase = .evaluated w g) (hr : (s.stream i).state = .running)
    (hn : (s.stream i).opN = 0) : exec (.operationDecision i) s = .next ((s.wakeCore (skey i)).decideOp i w g) := by
  show execOperationDecision i s = _
  unfold execOperationDecision
  simp only [hp, hr, hn, ne_eq, not_true_eq_false, if_false, if_true]

/-- In a verdict group that has not all its arrivals the decision waits (05 R158). -/
theorem exec_operationDecision_waits {w g : Bool} (hp : (s.stream i).phase = .evaluated w g) (hn : (s.stream i).opN ≠ 0)
    (hg : s.readGroup i (s.stream i) = none) : exec (.operationDecision i) s = .next s := by
  show execOperationDecision i s = _
  unfold execOperationDecision
  simp only [hp, hn, if_false, State.wakeCore_readGroup, hg, ite_self]

/-- The verdict of a chain that an operation has to follow; none when it is complete or there is no chain (05 R159). -/
def Stream.chainSays (st : Stream) : Option (BitVec 4 × Bool) := if st.chained then st.chainV.head?.join else none

theorem State.decideOp_chain {w g wide : Bool} {r : BitVec 4} (h : (s.stream i).chainSays = some (r, wide)) :
    s.decideOp i w g = (s.modStream i fun st => { st with chainV := st.chainV.drop 1 }).repeatOp i true
      (if w then r else (s.stream i).rung) (if w then true else (s.stream i).wide) := by
  unfold Stream.chainSays at h
  unfold State.decideOp
  simp only [h]
  split <;> rfl

theorem State.decideOp_wide {g : Bool} (h : (s.stream i).chainSays = none) :
    s.decideOp i true g = s.repeatOp i false (s.stream i).rung true := by
  unfold Stream.chainSays at h
  unfold State.decideOp
  simp only [h, if_true]

theorem State.decideOp_range (h : (s.stream i).chainSays = none) :
    s.decideOp i false true =
      let r := BitVec.ofNat 4 ((nextRung (s.stream i).rung.toNat).getD (s.stream i).rung.toNat)
      ((s.ladderLog i r 0).modStream i fun st => { st with opLadder := st.opLadder + 1 }).repeatOp i false r (s.stream i).wide := by
  unfold Stream.chainSays at h
  unfold State.decideOp
  simp [h]

theorem State.decideOp_complete (h : (s.stream i).chainSays = none) : s.decideOp i false false = s.completeOp i := by
  unfold Stream.chainSays at h
  unfold State.decideOp
  simp [h]

/-- Settles O19: the decision follows the chain's verdict, else Wide, else Range, each by a repeat, and else completes. -/
theorem decisionRepeatsOrCompletes : Obligations.DecisionRepeatsOrCompletes := by
  refine ⟨fun s i w g sn hp hr hn hs => ?_, fun s i hp hr hn hc => ?_, fun s i w g hp hn hg => exec_operationDecision_waits hp hn hg⟩
  · rw [exec_operationDecision_alone hp hr hn]
    refine ⟨fun r wide hc => ⟨_, rfl, ?_⟩, fun hc hw => ⟨_, rfl, ?_⟩, fun hc hw hg => ⟨_, rfl, ?_⟩⟩
    · rw [State.decideOp_chain (r := r) (wide := wide) (by rw [State.wakeCore_stream]; exact hc)]
      simp [Stream.again, hs, hc]
    · subst hw
      rw [State.decideOp_wide (by rw [State.wakeCore_stream]; exact hc)]
      simp [Stream.again, hs, hc]
    · subst hw hg
      rw [State.decideOp_range (by rw [State.wakeCore_stream]; exact hc)]
      simp [Stream.again, hs, hc]
  · rw [exec_operationDecision_alone hp hr hn, State.decideOp_complete (by rw [State.wakeCore_stream]; unfold Stream.chainSays; grind)]
    have hn' : ((s.wakeCore (skey i)).stream i).opN = 0 := by rw [State.wakeCore_stream, hn]
    obtain ⟨late, left, ht⟩ := State.stream_completeOp _ i hn'
    rw [State.wakeCore_stream] at ht
    refine ⟨_, rfl, ?_⟩
    rw [ht, State.completeOp_frame _ i hn']
    refine ⟨?_, rfl, rfl, rfl, rfl, (s.stream i).completed_next, rfl, rfl, rfl, rfl, ?_, ?_, ?_, ?_⟩
    · dsimp only
      rw [Stream.completed_optab]
    · simp [State.owedSent_net0]
    · simp [State.owedSent_net1]
    · simp [State.owedSent_mem]
    · simp [State.owedSent_objs]

end Sys2Proof.Machine
end

section
/-! SUPPORT. Exact values as rational numbers (02 R63): what the operations on them compute, and the floor that an aligned addend is (03
R88). -/

namespace Sys2Proof.Machine

/-! ### Powers of two -/

/-- A power with an exponent above another splits at it. -/
theorem two_zpow_split {lo e : Int} (h : lo ≤ e) : (2 : ℚ) ^ e = 2 ^ (e - lo).toNat * (2 : ℚ) ^ lo := by
  rw [← zpow_natCast, ← zpow_add₀ two_ne_zero]
  congr 1
  omega

/-! ### Sign and magnitude -/

theorem Exact.rat_eq_toInt (v : Exact) : v.rat = v.toInt * (2 : ℚ) ^ v.exp := by
  unfold Exact.rat Exact.toInt
  split <;> simp

@[simp] theorem Exact.rat_ofInt (n e : Int) : (Exact.ofInt n e).rat = n * (2 : ℚ) ^ e := by
  have h : (Exact.ofInt n e).toInt = n := by
    unfold Exact.ofInt Exact.toInt
    simp only [decide_eq_true_eq]
    split <;> omega
  rw [Exact.rat_eq_toInt, h]
  rfl

theorem Exact.rat_negate (v : Exact) : v.negate.rat = -v.rat := by
  unfold Exact.negate Exact.rat
  cases v.neg <;> simp

theorem Exact.rat_mul (a b : Exact) : (a.mul b).rat = a.rat * b.rat := by
  unfold Exact.mul Exact.rat
  rw [zpow_add₀ two_ne_zero]
  cases a.neg <;> cases b.neg <;> simp <;> ring

/-- A value is zero where its magnitude is. -/
theorem Exact.rat_eq_zero_iff (v : Exact) : v.rat = 0 ↔ v.mag = 0 := by
  unfold Exact.rat
  have hp : (2 : ℚ) ^ v.exp ≠ 0 := by positivity
  cases v.neg <;> simp [hp]

/-- A value with a magnitude is negative where its sign says so. -/
theorem Exact.rat_neg_iff {v : Exact} (h : v.mag ≠ 0) : v.rat < 0 ↔ v.neg = true := by
  have hp : (0 : ℚ) < v.mag * (2 : ℚ) ^ v.exp := by positivity
  unfold Exact.rat
  cases v.neg
  · simpa using hp.le
  · simpa using hp

/-! ### Sums -/

/-- The signed integer of a value at a lower exponent. -/
def Exact.at (v : Exact) (lo : Int) : Int :=
  if v.neg then -((v.mag * 2 ^ (v.exp - lo).toNat : Nat) : Int) else (v.mag * 2 ^ (v.exp - lo).toNat : Nat)

theorem Exact.rat_eq_at (v : Exact) {lo : Int} (h : lo ≤ v.exp) : v.rat = v.at lo * (2 : ℚ) ^ lo := by
  unfold Exact.rat Exact.at
  rw [two_zpow_split h]
  split <;> push_cast <;> ring

theorem Exact.add_eq (a b : Exact) :
    let lo := min a.exp b.exp
    a.add b = if a.at lo + b.at lo = 0 then ⟨a.neg && b.neg && a.mag == 0 && b.mag == 0, 0, lo⟩ else Exact.ofInt (a.at lo + b.at lo) lo := rfl

theorem Exact.rat_add (a b : Exact) : (a.add b).rat = a.rat + b.rat := by
  have h : a.rat + b.rat = ((a.at (min a.exp b.exp) + b.at (min a.exp b.exp) : Int) : ℚ) * (2 : ℚ) ^ min a.exp b.exp := by
    rw [a.rat_eq_at (min_le_left _ b.exp), b.rat_eq_at (min_le_right a.exp _)]
    push_cast
    ring
  rw [h, a.add_eq b]
  split
  · rename_i h0
    rw [h0]
    simp [Exact.rat]
  · exact Exact.rat_ofInt _ _

/-- A zero sum is negative only where both terms are negative zeros (02 R62). -/
theorem Exact.add_neg_iff {a b : Exact} (h : a.rat + b.rat = 0) :
    (a.add b).neg = true ↔ a.rat = 0 ∧ b.rat = 0 ∧ a.neg = true ∧ b.neg = true := by
  have h0 : a.at (min a.exp b.exp) + b.at (min a.exp b.exp) = 0 := by
    rw [a.rat_eq_at (min_le_left _ b.exp), b.rat_eq_at (min_le_right a.exp _), ← add_mul] at h
    exact_mod_cast (mul_eq_zero.mp h).resolve_right (by positivity)
  rw [a.add_eq b, if_pos h0, a.rat_eq_zero_iff, b.rat_eq_zero_iff]
  simp only [Bool.and_eq_true, beq_iff_eq]
  tauto

/-! ### Alignment -/

/-- An aligned addend is the floor of its value over the weight of the anchor (03 R88). -/
theorem align_eq_floor (v : Exact) (a : Int) : align v a = ⌊v.rat / (2 : ℚ) ^ a⌋ := by
  have hm : align v a = if v.exp - a ≥ 0 then v.toInt * 2 ^ (v.exp - a).toNat else v.toInt.fdiv (2 ^ (-(v.exp - a)).toNat) := rfl
  rw [hm, Exact.rat_eq_toInt]
  split
  · rename_i h
    rw [two_zpow_split (by omega : a ≤ v.exp), ← mul_assoc, mul_div_assoc, div_self (by positivity), mul_one]
    exact_mod_cast (Int.floor_intCast (R := ℚ) _).symm
  · rename_i h
    rw [two_zpow_split (by omega : v.exp ≤ a), mul_div_mul_right _ _ (by positivity), Int.fdiv_eq_ediv_of_nonneg _ (by positivity),
      show a - v.exp = -(v.exp - a) by omega]
    exact_mod_cast (Rat.floor_intCast_div_natCast _ _).symm

end Sys2Proof.Machine
end

section
/-! SUPPORT. The values of the element opcodes (Table 6-9, 02 R59, R61, R62). -/

namespace Sys2Proof.Machine

/-- The order of MAX and MIN is that of the values; equal ones it orders by the sign of a zero (06 R186). -/
theorem elemLess_fin (x y : Exact) :
    (elemLess (.fin x) (.fin y) = true → x.rat ≤ y.rat) ∧ (elemLess (.fin x) (.fin y) = false → y.rat ≤ x.rat) := by
  have hd : (x.add y.negate).rat = x.rat - y.rat := by rw [Exact.rat_add, Exact.rat_negate, sub_eq_add_neg]
  have he : elemLess (.fin x) (.fin y)
      = if (x.add y.negate).mag = 0 then x.mag == 0 && x.neg && y.mag == 0 && !y.neg else (x.add y.negate).neg := rfl
  rw [he]
  split
  · rename_i h
    have : x.rat = y.rat := by rw [← sub_eq_zero, ← hd, Exact.rat_eq_zero_iff, h]
    exact ⟨fun _ => this.le, fun _ => this.ge⟩
  · rename_i h
    have hn := Exact.rat_neg_iff h
    rw [hd, sub_neg] at hn
    exact ⟨fun ht => (hn.mpr ht).le, fun hf => not_lt.mp fun hl => by simp [hn.mp hl] at hf⟩

/-- MAX gives one of its operands, the one of larger value. -/
theorem vecElem_max (x y : Exact) (z : Elem) : ∃ r, vecElem 3 (.fin x) (.fin y) z = .fin r ∧ r.rat = max x.rat y.rat ∧ (r = x ∨ r = y) := by
  have he : vecElem 3 (.fin x) (.fin y) z = if elemLess (.fin x) (.fin y) then .fin y else .fin x := by
    simp [vecElem, Elem.pure]
  obtain ⟨ht, hf⟩ := elemLess_fin x y
  rw [he]
  split
  · rename_i h
    exact ⟨y, rfl, (max_eq_right (ht h)).symm, .inr rfl⟩
  · rename_i h
    exact ⟨x, rfl, (max_eq_left (hf (by simpa using h))).symm, .inl rfl⟩

/-- MIN gives one of its operands, the one of smaller value. -/
theorem vecElem_min (x y : Exact) (z : Elem) : ∃ r, vecElem 4 (.fin x) (.fin y) z = .fin r ∧ r.rat = min x.rat y.rat ∧ (r = x ∨ r = y) := by
  have he : vecElem 4 (.fin x) (.fin y) z = if elemLess (.fin x) (.fin y) then .fin x else .fin y := by
    simp [vecElem, Elem.pure]
  obtain ⟨ht, hf⟩ := elemLess_fin x y
  rw [he]
  split
  · rename_i h
    exact ⟨x, rfl, (min_eq_left (ht h)).symm, .inl rfl⟩
  · rename_i h
    exact ⟨y, rfl, (min_eq_right (hf (by simpa using h))).symm, .inr rfl⟩

/-- An operand that is NaN makes the result of every opcode that reads it NaN (02 R59, R61). -/
theorem vecElem_nan (op : Nat) (x y z : Elem) :
    (op ≤ 7 → x = .nan → vecElem op x y z = .nan) ∧ (op ≤ 4 → y = .nan → vecElem op x y z = .nan)
      ∧ (z = .nan → vecElem 0 x y z = .nan) := by
  refine ⟨fun h hx => ?_, fun h hy => ?_, fun hz => ?_⟩
  · subst hx
    interval_cases op <;> simp [vecElem, elemMul, Elem.pure]
  · subst hy
    interval_cases op <;> cases x <;> simp [vecElem, elemMul]
  · subst hz
    simp [vecElem]

/-- A sum or product with an infinite operand is NaN (02 R59). -/
theorem vecElem_inf {op : Nat} {x y z : Elem} {n : Bool} (h : op ≤ 2) (hi : x = .inf n ∨ y = .inf n ∨ (op = 0 ∧ z = .inf n)) :
    vecElem op x y z = .nan := by
  obtain rfl | rfl | ⟨rfl, rfl⟩ := hi
  · interval_cases op <;> simp [vecElem, elemMul]
  · interval_cases op <;> cases x <;> simp [vecElem, elemMul]
  · simp [vecElem]

end Sys2Proof.Machine
end

section
/-! SUPPORT. Finish (03 R99, R100): a ratio and a root hold their number to 64 bits or more, with what lies below in the last bit. -/

namespace Sys2Proof.Machine

/-! ### Square roots -/

/-- The search from bit `k - 1` down finds the root that lies below `r + 2^k`. -/
theorem isqrtFrom_eq_sqrt (n : Nat) {k r : Nat} (h1 : r * r ≤ n) (h2 : n < (r + 2 ^ k) * (r + 2 ^ k)) :
    isqrtFrom n k r = Nat.sqrt n := by
  induction k generalizing r with
  | zero => exact Nat.eq_sqrt.mpr ⟨h1, h2⟩
  | succ k ih =>
    unfold isqrtFrom
    split
    · rename_i h
      exact ih h (by rwa [show r + 2 ^ k + 2 ^ k = r + 2 ^ (k + 1) by ring])
    · rename_i h
      exact ih h1 (by omega)

theorem isqrt_eq_sqrt (n : Nat) : isqrt n = Nat.sqrt n := by
  refine isqrtFrom_eq_sqrt n (Nat.zero_le _) ?_
  have h : n < 2 ^ (Nat.log2 n + 1) := Nat.lt_log2_self
  calc n < 2 ^ (Nat.log2 n + 1) := h
    _ ≤ 2 ^ (Nat.log2 n / 2 + 1 + (Nat.log2 n / 2 + 1)) := Nat.pow_le_pow_right (by norm_num) (by omega)
    _ = _ := by rw [pow_add, Nat.zero_add]

/-! ### Scaled quotients

Finish scales numerator or denominator by a power of two, so that the whole part of the quotient has the bits that it keeps. -/

/-- The numerator and the denominator of a quotient scaled by `2^k`. -/
def scaledNum (m : Nat) (k : Int) : Nat := if k ≥ 0 then m * 2 ^ k.toNat else m
def scaledDen (d : Nat) (k : Int) : Nat := if k ≥ 0 then d else d * 2 ^ (-k).toNat

theorem scaled_quotient (m d : Nat) (k : Int) : (scaledNum m k : ℚ) / scaledDen d k = m / d * (2 : ℚ) ^ k := by
  unfold scaledNum scaledDen
  split
  · rename_i h
    rw [two_zpow_split h]
    push_cast
    simp
    ring
  · rename_i h
    have e : (2 : ℚ) ^ k = ((2 : ℚ) ^ (-k).toNat)⁻¹ := by rw [← zpow_natCast, ← zpow_neg]; congr 1; omega
    rw [e]
    push_cast
    field_simp

theorem scaledDen_pos {d : Nat} (h : d ≠ 0) (k : Int) : 0 < scaledDen d k := by
  unfold scaledDen
  split <;> positivity

/-- Scaled by `b` more than the difference of their leading bits, a quotient has `b` bits or more. -/
theorem scaled_large {m d b : Nat} {k : Int} (hm : m ≠ 0) (hk : (b : Int) + 1 + msb d - msb m ≤ k) :
    2 ^ b * scaledDen d k ≤ scaledNum m k := by
  have h1 : 2 ^ Nat.log2 m ≤ m := Nat.log2_self_le hm
  have h2 : d ≤ 2 ^ (Nat.log2 d + 1) := Nat.lt_log2_self.le
  unfold msb at hk
  unfold scaledNum scaledDen
  split
  · calc 2 ^ b * d ≤ 2 ^ b * 2 ^ (Nat.log2 d + 1) := Nat.mul_le_mul_left _ h2
      _ ≤ 2 ^ Nat.log2 m * 2 ^ k.toNat := by rw [← pow_add, ← pow_add]; exact Nat.pow_le_pow_right (by norm_num) (by omega)
      _ ≤ m * 2 ^ k.toNat := Nat.mul_le_mul_right _ h1
  · calc 2 ^ b * (d * 2 ^ (-k).toNat) ≤ 2 ^ b * (2 ^ (Nat.log2 d + 1) * 2 ^ (-k).toNat) := by gcongr
      _ ≤ 2 ^ Nat.log2 m := by rw [← pow_add, ← pow_add]; exact Nat.pow_le_pow_right (by norm_num) (by omega)
      _ ≤ m := h1

/-! ### What a value with a sticky last bit holds -/

/-- A quotient against its whole part: equal without a remainder, strictly between it and the next with one. -/
theorem quotient_whole {N D : Nat} (hD : 0 < D) :
    (N % D = 0 → (N : ℚ) / D = (N / D : Nat)) ∧ (N % D ≠ 0 → ((N / D : Nat) : ℚ) < (N : ℚ) / D) ∧ (N : ℚ) / D < (N / D : Nat) + 1 := by
  have hD' : (0 : ℚ) < D := by exact_mod_cast hD
  have hm := Nat.div_add_mod N D
  have hlt := Nat.mod_lt N hD
  refine ⟨fun h => (Nat.cast_div (Nat.dvd_of_mod_eq_zero h) hD'.ne').symm, fun h => ?_, ?_⟩
  · rw [lt_div_iff₀ hD']
    have : N / D * D < N := by rw [Nat.mul_comm]; omega
    exact_mod_cast this
  · rw [div_lt_iff₀ hD']
    have : N < (N / D + 1) * D := by rw [Nat.add_mul, Nat.mul_comm]; omega
    exact_mod_cast this

/-- The whole part of a quotient and a bit for its remainder hold the quotient. -/
theorem holds_quotient (neg : Bool) {N D : Nat} (E : Int) (hD : 0 < D) (hN : 2 ^ 63 * D ≤ N) :
    Exact.holds ⟨neg, N / D * 2 + (if N % D = 0 then 0 else 1), E - 1⟩ ((if neg then -1 else 1) * ((N : ℚ) / D * (2 : ℚ) ^ E)) := by
  obtain ⟨hz, hnz, hlt⟩ := quotient_whole (N := N) hD
  have hq : 2 ^ 63 ≤ N / D := (Nat.le_div_iff_mul_le hD).mpr hN
  have hE : (2 : ℚ) ^ E = 2 * 2 ^ (E - 1) := by rw [mul_comm, ← zpow_add_one₀ two_ne_zero, sub_add_cancel]
  have hE0 : (0 : ℚ) < 2 ^ (E - 1) := by positivity
  have hX : (0 : ℚ) < (N : ℚ) / D * (2 : ℚ) ^ E := by
    have hN0 : (0 : ℚ) < N := by exact_mod_cast lt_of_lt_of_le (by positivity) hN
    have hD0 : (0 : ℚ) < D := by exact_mod_cast hD
    positivity
  have habs : |(if neg then -1 else 1) * ((N : ℚ) / D * (2 : ℚ) ^ E)| = (N : ℚ) / D * (2 : ℚ) ^ E := by
    cases neg <;> simp [abs_of_pos hX, -abs_mul, abs_neg]
  refine ⟨fun h0 => ?_, ?_, fun _ => ⟨by dsimp only; omega, fun he => ?_, fun ho => ?_⟩⟩
  · rw [h0, abs_zero] at habs
    exact absurd habs hX.ne
  · cases neg
    · simpa using hX.le
    · simpa using hX
  · have hr : N % D = 0 := by dsimp only at he; split at he <;> omega
    unfold Exact.rat
    dsimp only
    rw [if_pos hr, hz hr, hE]
    push_cast
    ring
  · have hr : N % D ≠ 0 := by dsimp only at ho; split at ho <;> omega
    rw [habs]
    dsimp only
    rw [if_neg hr, hE]
    push_cast
    have h1 := hnz hr
    constructor
    · calc _ = ((N / D : Nat) : ℚ) * (2 * 2 ^ (E - 1)) := by ring
        _ < _ := by gcongr
    · calc _ < (((N / D : Nat) : ℚ) + 1) * (2 * 2 ^ (E - 1)) := by gcongr
        _ = _ := by ring

/-- The whole part of the root of a quotient and a bit for what it leaves hold the root. -/
theorem holdsRoot_quotient {N D : Nat} (F : Int) (hD : 0 < D) (hN : 2 ^ 126 * D ≤ N) :
    Exact.holdsRoot ⟨false, Nat.sqrt (N / D) * 2 + (if N % D = 0 ∧ Nat.sqrt (N / D) * Nat.sqrt (N / D) = N / D then 0 else 1), F - 1⟩
      ((N : ℚ) / D * (2 : ℚ) ^ (2 * F)) := by
  obtain ⟨hz, hnz, hlt⟩ := quotient_whole (N := N) hD
  have hq : 2 ^ 63 * 2 ^ 63 ≤ N / D := (Nat.le_div_iff_mul_le hD).mpr (by omega)
  have hle : ((N / D : Nat) : ℚ) ≤ (N : ℚ) / D := Nat.cast_div_le
  generalize N / D = x at *
  have hr : 2 ^ 63 ≤ Nat.sqrt x := Nat.le_sqrt.mpr hq
  have hr1 : (Nat.sqrt x : ℚ) * Nat.sqrt x ≤ x := by exact_mod_cast Nat.sqrt_le x
  have hr2 : (x : ℚ) + 1 ≤ (Nat.sqrt x + 1) * (Nat.sqrt x + 1) := by exact_mod_cast Nat.lt_succ_sqrt x
  have hE : (2 : ℚ) ^ (2 * F) = (2 * 2 ^ (F - 1)) ^ 2 := by
    rw [mul_comm 2 ((2 : ℚ) ^ _), ← zpow_add_one₀ two_ne_zero, sub_add_cancel, ← zpow_natCast, ← zpow_mul, mul_comm]
    rfl
  have hE0 : (0 : ℚ) < 2 ^ (F - 1) := by positivity
  have hX : (0 : ℚ) < (N : ℚ) / D * (2 : ℚ) ^ (2 * F) := by
    have : (0 : ℚ) < x := by exact_mod_cast lt_of_lt_of_le (by positivity) hq
    have := this.trans_le hle
    positivity
  refine ⟨rfl, fun h0 => absurd h0 hX.ne', fun _ => ⟨by dsimp only; omega, fun he => ?_, fun ho => ?_⟩⟩
  · have hs : N % D = 0 ∧ Nat.sqrt x * Nat.sqrt x = x := by
      dsimp only at he
      split at he
      · assumption
      · omega
    have hx : (Nat.sqrt x : ℚ) * Nat.sqrt x = x := by exact_mod_cast hs.2
    unfold Exact.rat
    dsimp only
    rw [if_pos hs, hz hs.1, hE, ← hx]
    push_cast
    ring
  · have hs : ¬ (N % D = 0 ∧ Nat.sqrt x * Nat.sqrt x = x) := by
      dsimp only at ho
      split at ho
      · omega
      · assumption
    have hlow : (Nat.sqrt x : ℚ) * Nat.sqrt x < (N : ℚ) / D := by
      by_cases h0 : N % D = 0
      · have : Nat.sqrt x * Nat.sqrt x < x := lt_of_le_of_ne (Nat.sqrt_le x) fun h => hs ⟨h0, h⟩
        exact lt_of_lt_of_le (by exact_mod_cast this) hle
      · exact lt_of_le_of_lt hr1 (hnz h0)
    dsimp only
    rw [if_neg hs, hE]
    push_cast
    constructor
    · calc _ = (Nat.sqrt x : ℚ) * Nat.sqrt x * (2 * 2 ^ (F - 1)) ^ 2 := by ring
        _ < _ := by gcongr
    · calc _ < ((Nat.sqrt x : ℚ) + 1) * (Nat.sqrt x + 1) * (2 * 2 ^ (F - 1)) ^ 2 := by gcongr; exact hlt.trans_le hr2
        _ = _ := by ring

/-! ### Ratio and root (03 R99) -/

/-- `ratio` holds the quotient of its operands. -/
theorem ratio_holds (num : Int) {den : Nat} (e : Int) (hd : den ≠ 0) : (ratio num den e).holds (num / den * (2 : ℚ) ^ e) := by
  by_cases h0 : num = 0
  · subst h0
    simp [ratio, Exact.holds]
  set k := 64 + msb den - msb num.natAbs with hk
  have hr : ratio num den e
      = ⟨decide (num < 0), scaledNum num.natAbs k / scaledDen den k * 2
          + (if scaledNum num.natAbs k % scaledDen den k = 0 then 0 else 1), e - k - 1⟩ := by
    unfold ratio
    rw [if_neg h0]
    rfl
  have hx : (num : ℚ) / den * (2 : ℚ) ^ e
      = (if decide (num < 0) then -1 else 1) * ((scaledNum num.natAbs k : ℚ) / scaledDen den k * (2 : ℚ) ^ (e - k)) := by
    rw [scaled_quotient, mul_assoc, ← zpow_add₀ two_ne_zero, add_sub_cancel, ← mul_assoc, mul_div_assoc']
    congr 2
    have : ((if decide (num < 0) then -1 else 1) * (num.natAbs : Int) : Int) = num := by
      simp only [decide_eq_true_eq]
      split <;> omega
    conv_lhs => rw [← this]
    push_cast
    rw [Nat.cast_natAbs, Int.cast_abs]
  rw [hr, hx]
  exact holds_quotient _ _ (scaledDen_pos hd k) (scaled_large (by omega) (by omega))

/-- `root` holds the root of the quotient of its operands. -/
theorem root_holdsRoot (num : Nat) {den : Nat} (e : Int) (hd : den ≠ 0) : (root num den e).holdsRoot (num / den * (2 : ℚ) ^ e) := by
  by_cases h0 : num = 0
  · subst h0
    simp [root, Exact.holdsRoot]
  obtain ⟨k, hk, he, hr⟩ : ∃ k : Int, 130 + msb den - msb num ≤ k ∧ (e - k) % 2 = 0 ∧ root num den e
      = ⟨false, Nat.sqrt (scaledNum num k / scaledDen den k) * 2
          + (if scaledNum num k % scaledDen den k = 0
              ∧ Nat.sqrt (scaledNum num k / scaledDen den k) * Nat.sqrt (scaledNum num k / scaledDen den k)
                = scaledNum num k / scaledDen den k then 0 else 1), (e - k) / 2 - 1⟩ := by
    refine ⟨if (e - (130 + msb den - msb num)) % 2 = 0 then 130 + msb den - msb num else 130 + msb den - msb num + 1, ?_, ?_, ?_⟩
    · split <;> omega
    · split <;> omega
    · unfold root
      rw [if_neg h0]
      simp only [isqrt_eq_sqrt]
      rfl
  have hx : (num : ℚ) / den * (2 : ℚ) ^ e = (scaledNum num k : ℚ) / scaledDen den k * (2 : ℚ) ^ (2 * ((e - k) / 2)) := by
    rw [scaled_quotient, mul_assoc, ← zpow_add₀ two_ne_zero]
    congr 2
    omega
  rw [hr, hx]
  exact holdsRoot_quotient _ (scaledDen_pos hd k) (scaled_large h0 (by omega))

/-! ### The modes of Finish (03 R99, R100) -/

/-- The numerator of the variance of `n` addends (03 R99). -/
def varNum (s1 s2 : LW) (n : Nat) : Int := n * s2.n - s1.n * s1.n

variable {s1 s2 : LW} {a a2 : Int} {n : Nat} {eps : Exact}

theorem finish_nan {mode : Nat} (h : s2.nan = true ∨ (mode ≠ 1 ∧ s1.nan = true)) : finish mode s1 s2 a a2 n eps = .nanSpecial := by
  unfold finish
  rw [if_pos]
  rcases h with h | ⟨h, h'⟩
  · simp [h]
  · simp [h, h']

section
variable (h1 : s1.nan = false) (h2 : s2.nan = false)
include h1 h2

theorem finish_sum : finish 0 s1 s2 a a2 n eps = .val (Exact.ofInt s1.n a) := by
  simp [finish, h1, h2]

theorem finish_norm : finish 1 s1 s2 a a2 n eps = if s2.n < 0 then .nanSpecial else .val (root s2.n.natAbs 1 a2) := by
  simp [finish, h1, h2]

/-- A mode that divides by the count finds it empty at 0, and an unbiased one at 1 too (03 R100). -/
theorem finish_empty {mode : Nat} (h : (2 ≤ mode ∧ n = 0) ∨ ((mode = 4 ∨ mode = 6) ∧ n = 1)) :
    finish mode s1 s2 a a2 n eps = .nanEmpty := by
  unfold finish
  rw [if_neg (by simp [h1, h2])]
  dsimp only
  rw [if_pos]
  rcases h with ⟨h, h'⟩ | ⟨h, h'⟩
  · simp [h, h']
  · rcases h with rfl | rfl <;> simp [h']

theorem finish_mean (hn : n ≠ 0) : finish 2 s1 s2 a a2 n eps = .val (ratio s1.n n a) := by simp [finish, h1, h2, hn]

theorem finish_var (hn : n ≠ 0) : finish 3 s1 s2 a a2 n eps = .val (ratio (varNum s1 s2 n) (n * n) (2 * a)) := by
  simp [finish, h1, h2, hn, varNum]

theorem finish_std (hn : n ≠ 0) : finish 5 s1 s2 a a2 n eps
    = if varNum s1 s2 n < 0 then .nanSpecial else .val (root (varNum s1 s2 n).natAbs (n * n) (2 * a)) := by
  simp [finish, h1, h2, hn, varNum]

theorem finish_varUnbiased (hn : 2 ≤ n) : finish 4 s1 s2 a a2 n eps = .val (ratio (varNum s1 s2 n) (n * (n - 1)) (2 * a)) := by
  simp [finish, h1, h2, show n ≠ 0 by omega, show n ≠ 1 by omega, varNum]

theorem finish_stdUnbiased (hn : 2 ≤ n) : finish 6 s1 s2 a a2 n eps
    = if varNum s1 s2 n < 0 then .nanSpecial else .val (root (varNum s1 s2 n).natAbs (n * (n - 1)) (2 * a)) := by
  simp [finish, h1, h2, show n ≠ 0 by omega, show n ≠ 1 by omega, varNum]

end

/-- The variance and eps together, over `n` squared, as an integer at their lower exponent (03 R99). -/
def varEps (s1 s2 : LW) (a : Int) (n : Nat) (eps : Exact) : Int :=
  let c := min (2 * a) eps.exp
  varNum s1 s2 n * 2 ^ (2 * a - c).toNat + (eps.mag * (n * n) * 2 ^ (eps.exp - c).toNat : Nat)

theorem finish_rstd (h1 : s1.nan = false) (h2 : s2.nan = false) (hn : n ≠ 0) : finish 7 s1 s2 a a2 n eps
    = if varEps s1 s2 a n eps < 0 then .nanSpecial else if varEps s1 s2 a n eps = 0 then .unbounded
      else .val (root (n * n) (varEps s1 s2 a n eps).natAbs (-min (2 * a) eps.exp)) := by
  simp [finish, h1, h2, hn, varNum, varEps]

theorem varEps_rat (he : eps.neg = false) (hn : n ≠ 0) :
    (varNum s1 s2 n : ℚ) * 2 ^ (2 * a) / n ^ 2 + eps.rat = varEps s1 s2 a n eps * (2 : ℚ) ^ min (2 * a) eps.exp / n ^ 2 := by
  have hn' : (n : ℚ) ≠ 0 := by exact_mod_cast hn
  have hr : eps.rat = eps.mag * (2 : ℚ) ^ eps.exp := by simp [Exact.rat, he]
  rw [hr, two_zpow_split (min_le_left (2 * a) eps.exp), two_zpow_split (min_le_right (2 * a) eps.exp), eq_div_iff (by positivity)]
  unfold varEps
  push_cast
  field_simp

/-- A value with a root that holds a number at least 0. -/
theorem root_natAbs {d : Int} (hd : 0 ≤ d) {den : Nat} (e : Int) (h : den ≠ 0) :
    (root d.natAbs den e).holdsRoot (d / den * (2 : ℚ) ^ e) := by
  have := root_holdsRoot d.natAbs e h
  rwa [Nat.cast_natAbs, abs_of_nonneg hd] at this

/-- What each mode of Finish yields, against the numbers that its operands stand for (03 R99, R100). -/
theorem finish_results (he : eps.neg = false) (h1 : s1.nan = false) (h2 : s2.nan = false) :
    let g := (2 : ℚ) ^ a
    let d : Int := n * s2.n - s1.n * s1.n
    let var : ℚ := d * (2 : ℚ) ^ (2 * a) / n ^ 2
    let vars : ℚ := d * (2 : ℚ) ^ (2 * a) / (n * (n - 1))
    let f := fun mode => finish mode s1 s2 a a2 n eps
    (∃ v, f 0 = .val v ∧ v.rat = s1.n * g)
      ∧ (s2.n < 0 → f 1 = .nanSpecial) ∧ (0 ≤ s2.n → ∃ v, f 1 = .val v ∧ v.holdsRoot (s2.n * (2 : ℚ) ^ a2))
      ∧ (∀ mode, 2 ≤ mode → n = 0 → f mode = .nanEmpty) ∧ (n = 1 → f 4 = .nanEmpty ∧ f 6 = .nanEmpty)
      ∧ (n ≠ 0 → (∃ v, f 2 = .val v ∧ v.holds (s1.n * g / n)) ∧ (∃ v, f 3 = .val v ∧ v.holds var)
        ∧ (d < 0 → f 5 = .nanSpecial) ∧ (0 ≤ d → ∃ v, f 5 = .val v ∧ v.holdsRoot var)
        ∧ (var + eps.rat < 0 → f 7 = .nanSpecial) ∧ (var + eps.rat = 0 → f 7 = .unbounded)
        ∧ (0 < var + eps.rat → ∃ v, f 7 = .val v ∧ v.holdsRoot (1 / (var + eps.rat))))
      ∧ (2 ≤ n → (∃ v, f 4 = .val v ∧ v.holds vars) ∧ (d < 0 → f 6 = .nanSpecial) ∧ (0 ≤ d → ∃ v, f 6 = .val v ∧ v.holdsRoot vars)) := by
  intro g d var vars f
  refine ⟨⟨_, finish_sum h1 h2, Exact.rat_ofInt _ _⟩, fun h => ?_, fun h => ?_, fun mode hm hn => finish_empty h1 h2 (.inl ⟨hm, hn⟩),
    fun hn => ⟨finish_empty h1 h2 (.inr ⟨.inl rfl, hn⟩), finish_empty h1 h2 (.inr ⟨.inr rfl, hn⟩)⟩, fun hn => ?_, fun hn => ?_⟩
  · exact (finish_norm h1 h2).trans (if_pos h)
  · refine ⟨_, (finish_norm h1 h2).trans (if_neg (by omega)), ?_⟩
    simpa using root_natAbs h a2 one_ne_zero
  · have hn' : (n : ℚ) ≠ 0 := by exact_mod_cast hn
    have hvar : var = d / (n * n : Nat) * (2 : ℚ) ^ (2 * a) := by simp only [var]; push_cast; ring
    have hp : n * n ≠ 0 := Nat.mul_ne_zero hn hn
    have hw : var + eps.rat = varEps s1 s2 a n eps * ((2 : ℚ) ^ min (2 * a) eps.exp / n ^ 2) := by
      rw [← mul_div_assoc]
      exact varEps_rat he hn
    have hc : (0 : ℚ) < (2 : ℚ) ^ min (2 * a) eps.exp / n ^ 2 := by positivity
    refine ⟨⟨_, finish_mean h1 h2 hn, ?_⟩, ⟨_, finish_var h1 h2 hn, hvar ▸ ratio_holds _ _ hp⟩,
      fun h => (finish_std h1 h2 hn).trans (if_pos h),
      fun h => ⟨_, (finish_std h1 h2 hn).trans (if_neg (not_lt.mpr h)), hvar ▸ root_natAbs h _ hp⟩, fun h => ?_, fun h => ?_, fun h => ?_⟩
    · rw [mul_div_right_comm]
      exact ratio_holds _ _ hn
    · rw [hw, mul_neg_iff, or_iff_right fun hn => hn.2.not_gt hc, Int.cast_lt_zero] at h
      replace h := h.1
      exact (finish_rstd h1 h2 hn).trans (if_pos h)
    · rw [hw, mul_eq_zero_iff_right hc.ne', Int.cast_eq_zero] at h
      exact (finish_rstd h1 h2 hn).trans (by rw [if_neg (by omega), if_pos h])
    · have hpos := h
      rw [hw, mul_pos_iff_of_pos_right hc, Int.cast_pos] at hpos
      refine ⟨_, (finish_rstd h1 h2 hn).trans (by rw [if_neg (by omega), if_neg (by omega)]), ?_⟩
      have hx : 1 / (var + eps.rat) = (n * n : Nat) / ((varEps s1 s2 a n eps).natAbs : Nat) * (2 : ℚ) ^ (-min (2 * a) eps.exp) := by
        rw [hw, Nat.cast_natAbs, abs_of_pos hpos, zpow_neg]
        push_cast
        field_simp
      rw [hx]
      exact root_holdsRoot _ _ (by omega)
  · have hvars : vars = d / (n * (n - 1) : Nat) * (2 : ℚ) ^ (2 * a) := by
      simp only [vars]
      push_cast [Nat.cast_sub (show 1 ≤ n by omega)]
      ring
    have hp : n * (n - 1) ≠ 0 := Nat.mul_ne_zero (by omega) (by omega)
    refine ⟨⟨_, finish_varUnbiased h1 h2 hn, hvars ▸ ratio_holds _ _ hp⟩, fun h => (finish_stdUnbiased h1 h2 hn).trans (if_pos h),
      fun h => ⟨_, (finish_stdUnbiased h1 h2 hn).trans (if_neg (not_lt.mpr h)), hvars ▸ root_natAbs h _ hp⟩⟩

end Sys2Proof.Machine
end

section
/-! SUPPORT. The start of an instruction that alone heads its queue (05 R141, R145), and the slots of the vector engine: what a fold over
the lanes leaves in each (03 R96). -/

namespace Sys2Proof.Machine

variable {s : State} {i : StreamId} {e : Engine} {q : QEntry} {rest : List QEntry}

/-! ### The sole head of a queue -/

/-- The one head that may start and that `ok` admits is the only candidate. -/
theorem State.soleHead.heads (h : s.soleHead i e q rest) {ok : StreamId → QEntry → Bool} (hk : ok i q = true) :
    s.heads ⟨i.die, i.core⟩ e ok = [(i.pass, q)] := by
  obtain ⟨hq, hp, hs⟩ := h
  obtain ⟨die, core, pass⟩ := i
  unfold State.heads
  cases pass <;> simp_all

theorem State.soleHead.startOldest (h : s.soleHead i e q rest) {ok : StreamId → QEntry → Bool} (hk : ok i q = true)
    (go : StreamId → QEntry → State → State) : s.startOldest ⟨i.die, i.core⟩ e ok go = go i q s := by
  unfold State.startOldest
  rw [h.heads hk]
  rfl

/-- The head of a queue begins. -/
theorem Stream.begin_eq_started {st : Stream} (h : st.queue e = q :: rest) (fl : Flags) (ready : Bool) :
    st.begin e fl ready = st.started e q rest fl ready := by
  unfold Stream.begin
  rw [h]
  rfl

/-- A VEC that alone heads its queue starts with the effect of its opcode; `t` is the state after that, and `F` its flags. -/
theorem exec_vecStart (h : s.soleHead i .vec q rest) {F : Flags} {t : State} (hv : s.vecStart i q [] = (F, t))
    (ht : t.stream i = s.stream i) :
    exec (.instructionStart ⟨i.die, i.core⟩ .vec []) s = .next (t.modStream i fun st => st.started .vec q rest F true) := by
  show execInstructionStart ⟨i.die, i.core⟩ .vec [] s = _
  unfold execInstructionStart State.startEngine
  show Host.Outcome.next (s.startOldest _ _ _ _) = _
  rw [h.startOldest rfl, hv]
  unfold State.modStream
  dsimp only
  rw [ht, Stream.begin_eq_started h.1]

/-! ### Lanes -/

/-- The eight words of a lane. -/
def Core.lane (c : Core) (l : Nat) : Fin 8 → LW := fun j => c.slot j l

theorem Core.slot_setSlot (c : Core) {k j : Nat} (l m : Nat) (v : LW) (hk : k < 8) (hj : j < 8) :
    (c.setSlot k l v).slot j m = if j = k ∧ m = l then v else c.slot j m := by
  unfold Core.slot Core.setSlot
  dsimp only
  rw [tget_tset_if]
  by_cases h : j = k ∧ m = l
  · rw [if_pos h, if_pos (by rw [h.1, h.2])]
  · rw [if_neg h, if_neg (by omega)]

theorem Core.lane_setSlot (c : Core) {k : Nat} (hk : k < 8) (l m : Nat) (v : LW) :
    (c.setSlot k l v).lane m = if m = l then Function.update (c.lane l) ⟨k, hk⟩ v else c.lane m := by
  funext j
  unfold Core.lane
  rw [c.slot_setSlot l m v hk j.isLt]
  by_cases hm : m = l
  · subst hm
    simp [Function.update_apply, Fin.ext_iff, eq_comm]
  · simp [hm]

/-- A fold of changes of one lane each changes every lane by its own change. -/
theorem Core.lane_foldl {step : Core → Nat → Core} {φ : Nat → (Fin 8 → LW) → Fin 8 → LW}
    (h : ∀ c l m, (step c l).lane m = if m = l then φ l (c.lane l) else c.lane m) (n : Nat) (c : Core) (m : Nat) :
    ((List.range n).foldl step c).lane m = if m < n then φ m (c.lane m) else c.lane m := by
  induction n with
  | zero => simp
  | succ n ih =>
    rw [List.range_succ, List.foldl_append, List.foldl_cons, List.foldl_nil, h]
    by_cases hm : m = n
    · subst hm
      simp [ih]
    · rw [if_neg hm, ih]
      simp [show m < n + 1 ↔ m < n by omega]

/-- A change of a slot in every lane, lane by lane. -/
theorem Core.lane_eachLane (c : Core) {k : Nat} (hk : k < 8) (f : Nat → LW → LW) (m : Nat) :
    (c.eachLane k f).lane m = if m < 64 then Function.update (c.lane m) ⟨k, hk⟩ (f m (c.slot k m)) else c.lane m :=
  Core.lane_foldl (φ := fun l u => Function.update u ⟨k, hk⟩ (f l (u ⟨k, hk⟩))) (fun c l m => c.lane_setSlot hk l m _) 64 c m

/-! ### What a fold over the lanes leaves -/

/-- A change of the slots of a core alone. -/
def Core.VecOnly (c d : Core) : Prop := d = { c with vec := d.vec } ∧ (twf {} c.vec = true → twf {} d.vec = true)

theorem Core.VecOnly.refl (c : Core) : c.VecOnly c := ⟨rfl, id⟩

theorem Core.VecOnly.trans {a b c : Core} (h : a.VecOnly b) (k : b.VecOnly c) : a.VecOnly c :=
  ⟨by rw [k.1, h.1], k.2 ∘ h.2⟩

theorem Core.VecOnly.setSlot (c : Core) (k l : Nat) (v : LW) : c.VecOnly (c.setSlot k l v) := ⟨rfl, fun h => twf_tset h _ _⟩

theorem Core.VecOnly.foldl {α : Type} {step : Core → α → Core} (h : ∀ (c : Core) (x : α), c.VecOnly (step c x)) (l : List α) (c : Core) :
    c.VecOnly (l.foldl step c) := by
  induction l generalizing c with
  | nil => exact .refl c
  | cons x l ih => exact (h c x).trans (ih _)

theorem Core.VecOnly.eachLane (c : Core) (k : Nat) (f : Nat → LW → LW) : c.VecOnly (c.eachLane k f) :=
  .foldl (fun c l => Core.VecOnly.setSlot c k l (f l (c.slot k l))) (List.range 64) c

/-- A change of a slot in every lane gives each of the 64 its new word, and leaves every other slot and lane. -/
theorem Core.slot_eachLane (c : Core) {k j : Nat} (l : Nat) (f : Nat → LW → LW) (hk : k < 8) (hj : j < 8) :
    (c.eachLane k f).slot j l = if j = k ∧ l < 64 then f l (c.slot k l) else c.slot j l := by
  have h := congrFun (c.lane_eachLane hk f l) ⟨j, hj⟩
  show (c.eachLane k f).lane l ⟨j, hj⟩ = _
  rw [h]
  by_cases hl : l < 64
  · by_cases hjk : j = k
    · subst hjk
      simp [hl]
    · simp [hl, hjk, Core.lane]
  · simp [hl, Core.lane]

/-! ### What an opcode does at its start -/

theorem State.vecStart_idle (h : q.n = 0 ∨ q.skip = true) : s.vecStart i q [] = ({}, s) := by
  unfold State.vecStart
  dsimp only
  rw [if_pos h]

section
variable (hn : q.n ≠ 0) (hs : q.skip = false)
include hn hs

theorem State.vecStart_elem (ho : q.op ≤ 7) : s.vecStart i q []
    = (List.range q.n).foldl (fun acc j => (Flags.or acc.1 (acc.2.vecRep i q [] j).1, (acc.2.vecRep i q [] j).2)) ({}, s) := by
  simp [State.vecStart, hn, hs, ho]

theorem State.vecStart_acc (ho : q.op = 8 ∨ q.op = 9 ∨ q.op = 10) :
    s.vecStart i q [] = ({}, (List.range q.n).foldl (fun s j => s.accRep i q [] j) s) := by
  rcases ho with ho | ho | ho <;> simp [State.vecStart, hn, hs, ho]

theorem State.vecStart_lwadd (ho : q.op = 11) : s.vecStart i q []
    = ({}, (List.range q.n).foldl (fun s j =>
        let r := s.readWords i q [] (q.addr (vAx q.w) (vInc q.w) j)
        r.2.modCore (skey i) fun c => c.eachLane (vSlot q.w) fun l x => x.join (r.1.getD l {}) q.wide) s) := by
  simp [State.vecStart, hn, hs, ho]

theorem State.vecStart_lwld (ho : q.op = 12) : s.vecStart i q []
    = ({}, (List.range q.n).foldl (fun s j =>
        let r := s.readWords i q [] (q.addr (vAx q.w) (vInc q.w) j)
        r.2.modCore (skey i) fun c => c.eachLane (vSlot q.w) fun l _ => r.1.getD l {}) s) := by
  simp [State.vecStart, hn, hs, ho]

theorem State.vecStart_lwst (ho : q.op = 13) : s.vecStart i q [] = s.lwst i q [] := by
  simp [State.vecStart, hn, hs, ho]

theorem State.vecStart_lzero (ho : q.op = 16) :
    s.vecStart i q [] = ({}, s.modCore (skey i) fun c => c.eachLane (vSlot q.w) fun _ _ => {}) := by
  simp [State.vecStart, hn, hs, ho]

theorem State.vecStart_lneg (ho : q.op = 17) :
    s.vecStart i q [] = ({}, s.modCore (skey i) fun c => c.eachLane (vSlot q.w) fun _ x => { x with n := -x.n }) := by
  simp [State.vecStart, hn, hs, ho]

theorem State.vecStart_lred (ho : q.op = 18) : s.vecStart i q []
    = ({}, s.modCore (skey i) fun c =>
        c.eachLane (vSlot q.w) fun l _ => if l = 0 then lredWord ((List.range 64).map (c.slot (vSlot q.w))) q.wide else {}) := by
  simp [State.vecStart, hn, hs, ho]

theorem State.vecStart_reanchor (ho : q.op = 19) : s.vecStart i q []
    = ({}, s.modCore (skey i) fun c => (List.range 64).foldl (fun c l =>
        c.setSlot (vSlotD q.w) l ((c.slot (vSlot q.w) l).reanchor (vAnchor q.w) (vAnchor2 q.w) q.wide)) c) := by
  simp [State.vecStart, hn, hs, ho]

theorem State.vecStart_finish (ho : q.op = 24) : s.vecStart i q [] = s.finishAll i q [] := by
  simp [State.vecStart, hn, hs, ho]

end

/-- A VEC that changes slots starts with that change. -/
theorem exec_vecStart_slots (h : s.soleHead i .vec q rest) {f : Core → Core} (hf : ∀ c : Core, c.VecOnly (f c))
    (hv : s.vecStart i q [] = ({}, s.modCore (skey i) f)) :
    exec (.instructionStart ⟨i.die, i.core⟩ .vec []) s
      = .next ((s.modCore (skey i) f).modStream i fun st => st.started .vec q rest {} true) :=
  exec_vecStart h hv (State.stream_modCore _ _ fun c p => by rw [(hf c).1]; cases p <;> rfl)

/-- The long-word instructions that change one slot of every lane (03 R96), and a VEC with nothing to run (06 R170, R171). -/
theorem exec_longWord (h : s.soleHead i .vec q rest) :
    let does := fun (f : Core → Nat → LW → LW) =>
      exec (.instructionStart ⟨i.die, i.core⟩ .vec []) s
        = .next ((s.modCore (skey i) fun c => c.eachLane (vSlot q.w) (f c)).modStream i fun st => st.started .vec q rest {} true)
    ((q.n = 0 ∨ q.skip = true) →
        exec (.instructionStart ⟨i.die, i.core⟩ .vec []) s = .next (s.setStream i ((s.stream i).started .vec q rest {} true)))
      ∧ (q.n ≠ 0 → q.skip = false → q.op = 16 → does fun _ _ _ => {})
      ∧ (q.n ≠ 0 → q.skip = false → q.op = 17 → does fun _ _ x => { n := -x.n, nan := x.nan, ovf := x.ovf })
      ∧ (q.n ≠ 0 → q.skip = false → q.op = 18 →
          does fun c l _ => if l = 0 then lredWord ((List.range 64).map fun l => tget {} c.vec (8 * l + vSlot q.w)) q.wide else {}) := by
  refine ⟨fun h0 => exec_vecStart h (State.vecStart_idle h0) rfl, fun hn hs ho => ?_, fun hn hs ho => ?_, fun hn hs ho => ?_⟩
  · exact exec_vecStart_slots h (fun c => .eachLane c _ _) (State.vecStart_lzero hn hs ho)
  · exact exec_vecStart_slots h (fun c => .eachLane c _ _) (State.vecStart_lneg hn hs ho)
  · exact exec_vecStart_slots h (fun c => .eachLane c _ _) (State.vecStart_lred hn hs ho)

end Sys2Proof.Machine
end

section
/-! SUPPORT. The long-word accumulators of the vector engine (03 R88, R96): the elements and words that a repetition reads, and what the
repetitions of ACC, SUMSQ, MOMENTS, LWADD and LWLD leave in each slot. -/

namespace Sys2Proof.Machine

/-! ### Lists by position -/

/-- Numbering the items of a list made from positions gives each its position. -/
theorem map_zipIdx_range {α β : Type} (f : Nat → α) (F : α × Nat → β) (n : Nat) :
    ((List.range n).map f).zipIdx.map F = (List.range n).map fun k => F (f k, k) := by
  apply List.ext_getElem <;> simp

theorem foldl_zipIdx_range {α β : Type} (f : Nat → α) (F : β → α × Nat → β) (n : Nat) (b : β) :
    ((List.range n).map f).zipIdx.foldl F b = (List.range n).foldl (fun b k => F b (f k, k)) b := by
  have h := map_zipIdx_range f id n
  rw [List.map_id] at h
  rw [h, List.foldl_map]
  rfl

theorem flatMap_zipIdx_range {α β : Type} (f : Nat → α) (F : α × Nat → List β) (n : Nat) :
    ((List.range n).map f).zipIdx.flatMap F = (List.range n).flatMap fun k => F (f k, k) := by
  rw [List.flatMap_def, map_zipIdx_range, List.flatMap_def]

/-- Pieces of one length come back from their concatenation. -/
theorem splitEvery_flatten {α : Type} {w n : Nat} (hw : 0 < w) {ls : List (List α)} (hl : ∀ l ∈ ls, l.length = w) (hn : ls.length ≤ n) :
    splitEvery w n ls.flatten = ls := by
  induction ls generalizing n with
  | nil => cases n <;> simp [splitEvery]
  | cons l ls ih =>
    obtain ⟨hlw, hls⟩ := List.forall_mem_cons.mp hl
    obtain _ | n := n
    · simp at hn
    · have hne : (l ++ ls.flatten).isEmpty = false := by
        cases l with
        | nil => simp at hlw; omega
        | cons => rfl
      rw [List.flatten_cons, splitEvery, hne, ← hlw, List.take_left, List.drop_left, hlw, ih hls (by simpa using hn)]
      rfl

/-! ### What a repetition reads -/

variable {s t : State} {i : StreamId} {q : QEntry}

theorem fmtBytes_pos (f : Nat) : 0 < fmtBytes f := by
  unfold fmtBytes
  split <;> decide

@[simp] theorem length_ownBytes (key : Nat) (a : W64) (off n : Nat) : (ownBytes key a off n).length = n := by simp [ownBytes]

/-- The unit scale leaves an element as it is (02 R57). -/
@[simp] theorem scaleElem_unit (e : Elem) : scaleElem 127 e = e := by
  unfold scaleElem
  cases e <;> simp

@[simp] theorem any_parityBad_nil (as : List Nat) : as.any (parityBad []) = false := List.any_eq_false.mpr fun _ _ => Bool.false_ne_true

@[simp] theorem State.parityEvent_nil (sub : Nat) (as : List Nat) : s.parityEvent i sub q [] as = s := rfl

@[simp] theorem State.parityWrites_nil (who : Who) (as : List Nat) : s.parityWrites who as [] = s := rfl

/-- The bytes of the lanes of an operand, lane by lane. -/
theorem splitEvery_laneAddrs (rd : Nat → Byte) (key : Nat) (a : W64) {w : Nat} (hw : 0 < w) (bc : Bool) :
    splitEvery w 64 ((laneAddrs key a w bc).flatten.map rd)
      = (List.range 64).map fun l => (ownBytes key a (if bc then 0 else l * w) w).map rd := by
  rw [List.map_flatten, splitEvery_flatten hw]
  · simp [laneAddrs]
  · simp [laneAddrs]
  · simp [laneAddrs]

/-- Where nothing stands in the way, the lanes of an operand are the elements at their addresses. -/
theorem State.lanes_clear (h : s.clear (s.whoOf i q)) (fmt : Nat) (a : W64) (bc : Bool) (scale : Nat → Option Nat) :
    s.lanes i q [] fmt a bc scale
      = ((List.range 64).map fun l =>
          (scale l).elim .nan fun sc => scaleElem sc (elemAt s.rd8 (skey i) fmt a (if bc then 0 else l * fmtBytes fmt)), s) := by
  unfold State.lanes
  dsimp only
  rw [State.readMem_clear _ h, splitEvery_laneAddrs _ _ _ (fmtBytes_pos fmt), map_zipIdx_range]
  rw [State.parityEvent_nil]
  refine congrArg (·, s) (List.map_congr_left fun l _ => ?_)
  cases scale l with
  | none => rfl
  | some sc => rw [Option.elim_some, any_parityBad_nil]; rfl

/-- The long word at an address, as it is stored. -/
def laneWord (rd : Nat → Byte) (key : Nat) (a : W64) (l : Nat) : LW := LW.load (BitVec.ofNat 256 (leNat ((ownBytes key a (l * 32) 32).map rd)))

theorem State.readWords_clear (h : s.clear (s.whoOf i q)) (a : W64) :
    s.readWords i q [] a = ((List.range 64).map (laneWord s.rd8 (skey i) a), s) := by
  unfold State.readWords
  dsimp only
  rw [State.readMem_clear _ h, splitEvery_laneAddrs _ _ _ (by decide), map_zipIdx_range]
  rw [State.parityEvent_nil]
  refine congrArg (·, s) (List.map_congr_left fun l _ => ?_)
  rw [any_parityBad_nil, if_neg Bool.false_ne_true, laneWord]
  simp only [Bool.false_eq_true, if_false]

/-! ### Addends (03 R88) -/

theorem lwMax_toNat (wide : Bool) : (lwMax wide).toNat = if wide then 2 ^ 511 - 1 else 2 ^ 255 - 1 := by
  cases wide <;> decide +kernel

/-- An aligned value enters a word as its number does. -/
theorem LW.add_align (w : LW) (v : Exact) (a : Int) (wide : Bool) : w.add (align v a) wide = w.takes wide a (some v.rat) := by
  unfold LW.add LW.takes lwMod
  rw [align_eq_floor, lwMax_toNat]

/-- A whole number enters a word at anchor 0. -/
theorem LW.add_int (w : LW) (x : Int) (wide : Bool) : w.add x wide = w.takes wide 0 (some (x : ℚ)) := by
  have h : ⌊(x : ℚ) / (2 : ℚ) ^ (0 : Int)⌋ = x := by rw [zpow_zero, div_one, Int.floor_intCast]
  unfold LW.add LW.takes lwMod
  dsimp only
  rw [lwMax_toNat, h]

/-- The number that an element is; none for a NaN or an infinity. -/
def Elem.rat? (e : Elem) : Option ℚ := match e with | .fin v => some v.rat | _ => none

/-- What ACC and SUMSQ take of an element. -/
theorem Core.accLane_eq (c : Core) {op : Nat} (k : Nat) (a : Int) (wide : Bool) (l : Nat) (e : Elem) (ho : op = 8 ∨ op = 9) :
    c.accLane op k a wide l e
      = c.setSlot k l ((c.slot k l).takes wide a (e.rat?.map fun v => if op = 8 then v else v * v)) := by
  unfold Core.accLane
  obtain rfl | rfl := ho
  · cases e with
    | fin v => exact congrArg (c.setSlot k l) (LW.add_align _ v a wide)
    | nan => rfl
    | inf n => rfl
  · cases e with
    | fin v => exact congrArg (c.setSlot k l) ((LW.add_align _ (v.mul v) a wide).trans (by rw [Exact.rat_mul]; rfl))
    | nan => rfl
    | inf n => rfl

/-- What MOMENTS takes of an element, and the square of that. -/
theorem Core.accLane_moments (c : Core) (k : Nat) (a : Int) (wide : Bool) (l : Nat) (e : Elem) :
    c.accLane 10 k a wide l e
      = (c.setSlot k l ((c.slot k l).takes wide a e.rat?)).setSlot (k + 1) l
          (((c.setSlot k l ((c.slot k l).takes wide a e.rat?)).slot (k + 1) l).takes wide 0
            (e.rat?.map fun v => ((⌊v / (2 : ℚ) ^ a⌋ ^ 2 : Int) : ℚ))) := by
  unfold Core.accLane
  cases e with
  | fin v =>
    dsimp only [Elem.rat?, Option.map_some]
    rw [← LW.add_align, sq, ← align_eq_floor, ← LW.add_int]
    rfl
  | nan => rfl
  | inf n => rfl

/-! ### Repetitions -/

/-- A change of the slots of one core alone. -/
structure State.VecOnly (s t : State) (key : Nat) : Prop where
  core : (s.core key).VecOnly (t.core key)
  rest : t = { s with cores := t.cores }

theorem State.VecOnly.refl (s : State) (key : Nat) : s.VecOnly s key := ⟨.refl _, rfl⟩

theorem State.VecOnly.trans {r : State} {key : Nat} (h : r.VecOnly s key) (k : s.VecOnly t key) : r.VecOnly t key :=
  ⟨h.core.trans k.core, by rw [k.rest, h.rest]⟩

theorem State.VecOnly.modCore (s : State) (key : Nat) {f : Core → Core} (hf : ∀ c : Core, c.VecOnly (f c)) : s.VecOnly (s.modCore key f) key :=
  ⟨by rw [State.core_modCore]; exact hf _, rfl⟩

theorem State.VecOnly.rd8 {key : Nat} (h : s.VecOnly t key) : t.rd8 = s.rd8 := by
  rw [h.rest]
  rfl

/-- An access is made by the same unit, and meets the same, after the slots have changed. -/
theorem State.VecOnly.clear (h : s.VecOnly t (skey i)) (hc : s.clear (s.whoOf i q)) : t.clear (t.whoOf i q) := by
  have hw : t.whoOf i q = s.whoOf i q := by
    unfold State.whoOf State.unitCore State.corePos
    rw [h.core.1, h.rest]
  rw [hw, h.rest]
  exact hc

/-- Repetitions that each change the lanes of a core by `φ` change them by one after the other. -/
theorem State.VecOnly.reps {key : Nat} {step : State → Nat → State} {φ : Nat → Nat → (Fin 8 → LW) → Fin 8 → LW}
    (h : ∀ t j, s.VecOnly t key → t.VecOnly (step t j) key
      ∧ ∀ m, m < 64 → ((step t j).core key).lane m = φ j m ((t.core key).lane m)) (n : Nat) :
    s.VecOnly ((List.range n).foldl step s) key
      ∧ ∀ m, m < 64 → (((List.range n).foldl step s).core key).lane m = (List.range n).foldl (fun u j => φ j m u) ((s.core key).lane m) := by
  induction n with
  | zero => exact ⟨.refl _ _, fun _ _ => rfl⟩
  | succ n ih =>
    obtain ⟨ih1, ih2⟩ := ih
    obtain ⟨h1, h2⟩ := h _ n ih1
    simp only [List.range_succ, List.foldl_append, List.foldl_cons, List.foldl_nil]
    exact ⟨ih1.trans h1, fun m hm => by rw [h2 m hm, ih2 m hm]⟩

/-- Changes of one word of a lane, one after the other. -/
theorem foldl_update {α : Type} (k : Fin 8) (g : α → LW → LW) (l : List α) (u : Fin 8 → LW) :
    l.foldl (fun u j => Function.update u k (g j (u k))) u = Function.update u k (l.foldl (fun w j => g j w) (u k)) := by
  induction l generalizing u with
  | nil => simp
  | cons x l ih => simp [ih]

/-- Changes of two words of a lane, each by itself. -/
theorem foldl_update₂ {α : Type} {k k' : Fin 8} (hk : k' ≠ k) (g g' : α → LW → LW) (l : List α) (u : Fin 8 → LW) :
    l.foldl (fun u j => Function.update (Function.update u k (g j (u k))) k' (g' j (u k'))) u
      = Function.update (Function.update u k (l.foldl (fun w j => g j w) (u k))) k' (l.foldl (fun w j => g' j w) (u k')) := by
  induction l generalizing u with
  | nil => simp
  | cons x l ih =>
    rw [List.foldl_cons, ih]
    funext j
    by_cases h1 : j = k'
    · subst h1; simp
    · by_cases h2 : j = k
      · subst h2; simp [h1]
      · simp [Function.update_of_ne, h1, h2]

/-! ### ACC, SUMSQ and MOMENTS (03 R96, R97) -/

/-- The operand of a plain format has no scale byte. -/
theorem laneX_plain (rd : Nat → Byte) (key : Nat) (h : sbBlock q.fmtA = 0) (j l : Nat) :
    laneX rd key q j l = elemAt rd key q.fmtA (q.addr (vAx q.w) (vInc q.w) j) (l * fmtBytes q.fmtA) := by
  unfold laneX
  dsimp only
  rw [if_pos h]

theorem State.accRep_clear (h : s.clear (s.whoOf i q)) (hb : sbBlock q.fmtA = 0) (j : Nat) :
    s.accRep i q [] j = s.modCore (skey i) fun c =>
      (List.range 64).foldl (fun c l => c.accLane q.op (vSlot q.w) (vAnchor q.w) q.wide l (laneX s.rd8 (skey i) q j l)) c := by
  unfold State.accRep
  dsimp only
  rw [State.lanes_clear h]
  congr 1
  funext c
  rw [foldl_zipIdx_range]
  congr 1
  funext c l
  rw [laneX_plain _ _ hb]
  simp

theorem vSlot_lt (w : W128) : vSlot w < 8 := Nat.mod_lt _ (by decide)

theorem Core.VecOnly.accLane (c : Core) (op k : Nat) (a : Int) (wide : Bool) (l : Nat) (e : Elem) : c.VecOnly (c.accLane op k a wide l e) := by
  have twice : ∀ v v', c.VecOnly ((c.setSlot k l v).setSlot (k + 1) l v') := fun v v' => (Core.VecOnly.setSlot _ _ _ _).trans (.setSlot _ _ _ _)
  unfold Core.accLane
  cases e with
  | fin v =>
    dsimp only
    split
    · exact .setSlot _ _ _ _
    · exact .setSlot _ _ _ _
    · exact twice _ _
  | nan =>
    dsimp only
    split
    · exact twice _ _
    · exact .setSlot _ _ _ _
  | inf n =>
    dsimp only
    split
    · exact twice _ _
    · exact .setSlot _ _ _ _

/-- A repetition of an accumulating opcode whose lanes each change by `φ`. -/
theorem State.accRep_reps (hc : s.clear (s.whoOf i q)) (hb : sbBlock q.fmtA = 0) {φ : Nat → Nat → (Fin 8 → LW) → Fin 8 → LW}
    (h : ∀ (j : Nat) (c : Core) (l m : Nat), (c.accLane q.op (vSlot q.w) (vAnchor q.w) q.wide l (laneX s.rd8 (skey i) q j l)).lane m
      = if m = l then φ j l (c.lane l) else c.lane m) :
    s.VecOnly ((List.range q.n).foldl (fun s j => s.accRep i q [] j) s) (skey i)
      ∧ ∀ m, m < 64 → (((List.range q.n).foldl (fun s j => s.accRep i q [] j) s).core (skey i)).lane m
          = (List.range q.n).foldl (fun u j => φ j m u) ((s.core (skey i)).lane m) := by
  refine State.VecOnly.reps (fun t j ht => ?_) q.n
  rw [State.accRep_clear (ht.clear hc) hb, ht.rd8]
  refine ⟨.modCore _ _ fun c => .foldl (fun c l => .accLane c _ _ _ _ l _) _ c, fun m hm => ?_⟩
  rw [State.core_modCore, Core.lane_foldl (h j), if_pos hm]

/-- The words of one slot after a change of that slot in every lane. -/
theorem Core.slots_update {c d : Core} {k : Nat} (hk : k < 8) {v : Nat → LW}
    (h : ∀ m, m < 64 → d.lane m = Function.update (c.lane m) ⟨k, hk⟩ (v m)) {j l : Nat} (hj : j < 8) (hl : l < 64) :
    d.slot j l = if j = k then v l else c.slot j l := by
  have e := congrFun (h l hl) ⟨j, hj⟩
  by_cases hjk : j = k
  · subst hjk
    simpa [Core.lane] using e
  · rw [Function.update_of_ne (by simpa [Fin.ext_iff] using hjk)] at e
    rw [if_neg hjk]
    exact e

/-- A lane's word after a repetition of ACC or SUMSQ. -/
def accWord (rd : Nat → Byte) (key : Nat) (q : QEntry) (l r : Nat) (w : LW) : LW :=
  w.takes q.wide (vAnchor q.w) ((laneX rd key q r l).rat?.map fun v => if q.op = 8 then v else v * v)

/-- ACC and SUMSQ add the elements of a lane, or their squares, to its slot. -/
theorem State.accReps_slots (hc : s.clear (s.whoOf i q)) (hb : sbBlock q.fmtA = 0) (ho : q.op = 8 ∨ q.op = 9) :
    s.VecOnly ((List.range q.n).foldl (fun s j => s.accRep i q [] j) s) (skey i)
      ∧ ∀ j l, j < 8 → l < 64 → (((List.range q.n).foldl (fun s j => s.accRep i q [] j) s).core (skey i)).slot j l
          = if j = vSlot q.w then (List.range q.n).foldl (fun w r => accWord s.rd8 (skey i) q l r w) ((s.core (skey i)).slot (vSlot q.w) l)
            else (s.core (skey i)).slot j l := by
  have hk := vSlot_lt q.w
  obtain ⟨h1, h2⟩ := State.accRep_reps hc hb
    (φ := fun r l u => Function.update u ⟨vSlot q.w, hk⟩ (accWord s.rd8 (skey i) q l r (u ⟨vSlot q.w, hk⟩))) fun j c l m => by
      rw [Core.accLane_eq _ _ _ _ _ _ ho]
      exact c.lane_setSlot hk l m _
  refine ⟨h1, fun j l hj hl => Core.slots_update hk
    (v := fun l => (List.range q.n).foldl (fun w r => accWord s.rd8 (skey i) q l r w) ((s.core (skey i)).slot (vSlot q.w) l))
    (fun m hm => ?_) hj hl⟩
  rw [h2 m hm, foldl_update _ fun r w => accWord s.rd8 (skey i) q m r w]
  rfl

/-- A lane's words after a repetition of MOMENTS. -/
def momentWord (rd : Nat → Byte) (key : Nat) (q : QEntry) (l r : Nat) (w : LW) : LW :=
  w.takes q.wide (vAnchor q.w) (laneX rd key q r l).rat?
def momentSquare (rd : Nat → Byte) (key : Nat) (q : QEntry) (l r : Nat) (w : LW) : LW :=
  w.takes q.wide 0 ((laneX rd key q r l).rat?.map fun v => ((⌊v / (2 : ℚ) ^ vAnchor q.w⌋ ^ 2 : Int) : ℚ))

/-- MOMENTS adds the elements of a lane to its slot, and the squares of what it added to the next. -/
theorem State.momentsReps_slots (hc : s.clear (s.whoOf i q)) (hb : sbBlock q.fmtA = 0) (ho : q.op = 10) (hk : vSlot q.w ≤ 6) :
    s.VecOnly ((List.range q.n).foldl (fun s j => s.accRep i q [] j) s) (skey i)
      ∧ ∀ j l, j < 8 → l < 64 → (((List.range q.n).foldl (fun s j => s.accRep i q [] j) s).core (skey i)).slot j l
          = if j = vSlot q.w then (List.range q.n).foldl (fun w r => momentWord s.rd8 (skey i) q l r w) ((s.core (skey i)).slot (vSlot q.w) l)
            else if j = vSlot q.w + 1 then
              (List.range q.n).foldl (fun w r => momentSquare s.rd8 (skey i) q l r w) ((s.core (skey i)).slot (vSlot q.w + 1) l)
            else (s.core (skey i)).slot j l := by
  have hlt : vSlot q.w + 1 < 8 := by omega
  have hne : (⟨vSlot q.w + 1, hlt⟩ : Fin 8) ≠ ⟨vSlot q.w, vSlot_lt q.w⟩ := by simp
  obtain ⟨h1, h2⟩ := State.accRep_reps hc hb (φ := fun r l u =>
    Function.update (Function.update u ⟨vSlot q.w, vSlot_lt q.w⟩ (momentWord s.rd8 (skey i) q l r (u ⟨vSlot q.w, vSlot_lt q.w⟩)))
      ⟨vSlot q.w + 1, hlt⟩ (momentSquare s.rd8 (skey i) q l r (u ⟨vSlot q.w + 1, hlt⟩))) fun j c l m => by
      have hs : ∀ v, (c.setSlot (vSlot q.w) l v).slot (vSlot q.w + 1) l = c.slot (vSlot q.w + 1) l := fun v => by
        rw [c.slot_setSlot l l v (vSlot_lt _) hlt, if_neg (by omega)]
      rw [ho, Core.accLane_moments, Core.lane_setSlot _ hlt, hs]
      by_cases hm : m = l
      · rw [if_pos hm, if_pos hm, c.lane_setSlot (vSlot_lt _) l l, if_pos rfl]
        rfl
      · rw [if_neg hm, if_neg hm, c.lane_setSlot (vSlot_lt _) l m, if_neg hm]
  refine ⟨h1, fun j l hj hl => ?_⟩
  have e := congrFun (h2 l hl) ⟨j, hj⟩
  rw [foldl_update₂ hne (fun r w => momentWord s.rd8 (skey i) q l r w) fun r w => momentSquare s.rd8 (skey i) q l r w] at e
  refine e.trans ?_
  by_cases h1 : j = vSlot q.w
  · subst h1
    rw [if_pos rfl, Function.update_of_ne (Ne.symm hne), Function.update_self]
    rfl
  · rw [if_neg h1]
    by_cases h2 : j = vSlot q.w + 1
    · subst h2
      rw [if_pos rfl, Function.update_self]
      rfl
    · rw [if_neg h2, Function.update_of_ne (by simpa [Fin.ext_iff] using h2), Function.update_of_ne (by simpa [Fin.ext_iff] using h1)]
      rfl

/-! ### LWADD, LWLD and REANCHOR (03 R77, R95, R96) -/

/-- The word of a stored number, or of the NaN pattern. -/
def LW.ofStored : Option Int → LW
  | some n => { n := n }
  | none => { nan := true }

/-- A lane's stored word is its number, or the tag for the NaN pattern. -/
theorem laneWord_eq (rd : Nat → Byte) (key : Nat) (a : W64) (l : Nat) : laneWord rd key a l = LW.ofStored (storedAt rd key a l) := by
  unfold laneWord storedAt LW.load
  rw [Nat.mul_comm l 32]
  show (if _ = BitVec.ofNat 256 (2 ^ 255) then _ else _) = _
  split
  · rw [if_pos ‹_›]
    rfl
  · rw [if_neg ‹_›]
    rfl

/-- A stored number is within the range of a word of normal mode. -/
theorem storedAt_le {rd : Nat → Byte} {key : Nat} {a : W64} {l : Nat} {n : Int} (h : storedAt rd key a l = some n) :
    n.natAbs ≤ 2 ^ 255 - 1 := by
  unfold storedAt at h
  dsimp only at h
  generalize BitVec.ofNat 256 (leNat ((ownBytes key a (32 * l) 32).map rd)) = b at h
  split at h
  · cases h
  · rename_i hb
    cases h
    have h1 : -(2 ^ 255 : Int) ≤ b.toInt := BitVec.le_toInt b
    have h2 : b.toInt < (2 ^ 255 : Int) := BitVec.toInt_lt
    have h3 : b.toInt ≠ -(2 ^ 255 : Int) := fun e => hb (BitVec.eq_of_toInt_eq (e.trans (by decide +kernel)))
    omega

/-- A stored word joins a slot by its number and its tag. -/
theorem LW.join_stored (w : LW) (rd : Nat → Byte) (key : Nat) (a : W64) (l : Nat) (wide : Bool) :
    w.join (laneWord rd key a l) wide
      = { n := (w.n + (storedAt rd key a l).getD 0).bmod (if wide then 2 ^ 536 else 2 ^ 280)
          nan := w.nan || (storedAt rd key a l).isNone, ovf := w.ovf } := by
  rw [laneWord_eq]
  have hlt : ∀ n : Int, n.natAbs ≤ 2 ^ 255 - 1 → w.join (LW.ofStored (some n)) wide
      = { n := (w.n + n).bmod (if wide then 2 ^ 536 else 2 ^ 280), nan := w.nan, ovf := w.ovf } := fun n hn => by
    have ho : decide (n.natAbs > if wide then 2 ^ 511 - 1 else 2 ^ 255 - 1) = false := by
      rw [decide_eq_false_iff_not, not_lt]
      refine hn.trans ?_
      cases wide <;> decide +kernel
    have he : w.join (LW.ofStored (some n)) wide
        = { n := (w.n + n).bmod (lwMod wide), nan := w.nan || false, ovf := w.ovf || decide (n.natAbs > (lwMax wide).toNat) || false } := rfl
    rw [he, lwMax_toNat, ho, Bool.or_false, Bool.or_false, Bool.or_false, lwMod]
  cases h : storedAt rd key a l with
  | none =>
    have he : w.join (LW.ofStored none) wide = { w.join (LW.ofStored (some 0)) wide with nan := w.nan || true } := rfl
    rw [he, hlt 0 (Nat.zero_le _)]
    rfl
  | some n =>
    rw [hlt n (storedAt_le h), Option.getD_some, Option.isNone_some, Bool.or_false]

/-- Writing the words of one slot, each by its lane. -/
theorem Core.lane_eachLane_lt (c : Core) {k : Nat} (hk : k < 8) (f : Nat → LW → LW) {m : Nat} (hm : m < 64) :
    (c.eachLane k f).lane m = Function.update (c.lane m) ⟨k, hk⟩ (f m (c.lane m ⟨k, hk⟩)) := by
  rw [c.lane_eachLane hk, if_pos hm]
  rfl

/-- A repetition of LWADD. -/
def State.lwaddRep (s : State) (i : StreamId) (q : QEntry) (j : Nat) : State :=
  let r := s.readWords i q [] (q.addr (vAx q.w) (vInc q.w) j)
  r.2.modCore (skey i) fun c => c.eachLane (vSlot q.w) fun l x => x.join (r.1.getD l {}) q.wide

/-- A lane's word after a repetition of LWADD. -/
def joinWord (rd : Nat → Byte) (key : Nat) (q : QEntry) (l r : Nat) (w : LW) : LW :=
  w.join (laneWord rd key (q.addr (vAx q.w) (vInc q.w) r) l) q.wide

/-- LWADD adds the stored words of its repetitions to a slot. -/
theorem State.lwaddReps_slots (hc : s.clear (s.whoOf i q)) :
    let t := (List.range q.n).foldl (fun s j => s.lwaddRep i q j) s
    s.VecOnly t (skey i) ∧ ∀ j l, j < 8 → l < 64 → (t.core (skey i)).slot j l
      = if j = vSlot q.w then (List.range q.n).foldl (fun w r => joinWord s.rd8 (skey i) q l r w) ((s.core (skey i)).slot (vSlot q.w) l)
        else (s.core (skey i)).slot j l := by
  have hk := vSlot_lt q.w
  have hstep : ∀ t j, s.VecOnly t (skey i) → t.VecOnly (t.lwaddRep i q j) (skey i) ∧ ∀ m, m < 64 → ((t.lwaddRep i q j).core (skey i)).lane m
      = Function.update ((t.core (skey i)).lane m) ⟨vSlot q.w, hk⟩ (joinWord s.rd8 (skey i) q m j ((t.core (skey i)).lane m ⟨vSlot q.w, hk⟩)) :=
    fun t j ht => by
      unfold State.lwaddRep
      dsimp only
      rw [State.readWords_clear (ht.clear hc), ht.rd8]
      refine ⟨.modCore _ _ fun c => .eachLane _ _ _, fun m hm => ?_⟩
      rw [State.core_modCore, Core.lane_eachLane_lt _ hk _ hm]
      simp [hm, joinWord]
  obtain ⟨h1, h2⟩ := State.VecOnly.reps
    (φ := fun r l u => Function.update u ⟨vSlot q.w, hk⟩ (joinWord s.rd8 (skey i) q l r (u ⟨vSlot q.w, hk⟩))) hstep q.n
  refine ⟨h1, fun j l hj hl => Core.slots_update hk
    (v := fun l => (List.range q.n).foldl (fun w r => joinWord s.rd8 (skey i) q l r w) ((s.core (skey i)).slot (vSlot q.w) l))
    (fun m hm => ?_) hj hl⟩
  rw [h2 m hm, foldl_update _ fun r w => joinWord s.rd8 (skey i) q m r w]
  rfl

/-- LWLD puts the stored words of its repetition in a slot. -/
theorem State.lwldRep_slots (hc : s.clear (s.whoOf i q)) :
    let r := s.readWords i q [] (q.addr (vAx q.w) (vInc q.w) 0)
    let t := r.2.modCore (skey i) fun c => c.eachLane (vSlot q.w) fun l _ => r.1.getD l {}
    s.VecOnly t (skey i) ∧ ∀ j l, j < 8 → l < 64 → (t.core (skey i)).slot j l
      = if j = vSlot q.w then laneWord s.rd8 (skey i) (q.addr (vAx q.w) (vInc q.w) 0) l else (s.core (skey i)).slot j l := by
  dsimp only
  rw [State.readWords_clear hc]
  refine ⟨.modCore _ _ fun c => .eachLane _ _ _, fun j l hj hl => ?_⟩
  rw [State.core_modCore, Core.slot_eachLane _ _ _ (vSlot_lt _) hj]
  simp [hl]

/-- REANCHOR moves a word to another anchor: exactly where that is lower, else rounded down. -/
theorem LW.reanchor_eq (w : LW) (a d : Int) (wide : Bool) :
    w.reanchor a d wide
      = let x : Int := if d - a ≤ 0 then w.n * 2 ^ (-(d - a)).toNat else w.n / 2 ^ (d - a).toNat
        { n := x.bmod (if wide then 2 ^ 536 else 2 ^ 280), nan := w.nan
          ovf := w.ovf || decide (x.natAbs > if wide then 2 ^ 511 - 1 else 2 ^ 255 - 1) } := by
  have h : align (Exact.ofInt w.n a) d = if d - a ≤ 0 then w.n * 2 ^ (-(d - a)).toNat else w.n / 2 ^ (d - a).toNat := by
    have hm : (if (Exact.ofInt w.n a).neg then -((Exact.ofInt w.n a).mag : Int) else (Exact.ofInt w.n a).mag) = w.n := by
      unfold Exact.ofInt
      dsimp only
      simp only [decide_eq_true_eq]
      split <;> omega
    unfold align
    dsimp only
    rw [hm, show (Exact.ofInt w.n a).exp = a from rfl, show -(d - a) = a - d by omega, show -(a - d) = d - a by omega]
    by_cases h0 : d - a ≤ 0
    · rw [if_pos h0, if_pos (by omega)]
    · rw [if_neg h0, if_neg (by omega), Int.fdiv_eq_ediv_of_nonneg _ (by positivity)]
  unfold LW.reanchor lwMod
  rw [h, lwMax_toNat]

/-- REANCHOR writes the moved words of one slot to another, or to the same. -/
theorem State.reanchor_slots {j l : Nat} (hj : j < 8) (hl : l < 64) :
    ((s.modCore (skey i) fun c => (List.range 64).foldl (fun c l =>
        c.setSlot (vSlotD q.w) l ((c.slot (vSlot q.w) l).reanchor (vAnchor q.w) (vAnchor2 q.w) q.wide)) c).core (skey i)).slot j l
      = if j = vSlotD q.w then ((s.core (skey i)).slot (vSlot q.w) l).reanchor (vAnchor q.w) (vAnchor2 q.w) q.wide
        else (s.core (skey i)).slot j l := by
  have hk : vSlotD q.w < 8 := Nat.mod_lt _ (by decide)
  rw [State.core_modCore]
  refine Core.slots_update hk (v := fun l => ((s.core (skey i)).slot (vSlot q.w) l).reanchor (vAnchor q.w) (vAnchor2 q.w) q.wide)
    (fun m hm => ?_) hj hl
  refine (Core.lane_foldl (φ := fun l u => Function.update u ⟨vSlotD q.w, hk⟩
    ((u ⟨vSlot q.w, vSlot_lt q.w⟩).reanchor (vAnchor q.w) (vAnchor2 q.w) q.wide)) (fun c l m => c.lane_setSlot hk l m _) 64 _ m).trans ?_
  rw [if_pos hm]
  rfl

end Sys2Proof.Machine
end

section
/-! SUPPORT. The element opcodes of the vector engine (06 R185, R186): a line of values in blocks (02 R74), what a repetition writes, and
the run of all repetitions. -/

namespace Sys2Proof.Machine

/-! ### Blocks of a line -/

/-- A list made from positions, cut into blocks of `w`. -/
theorem map_range_blocks {α : Type} (h : Nat → α) (w m : Nat) :
    (List.range (m * w)).map h = ((List.range m).map fun g => (List.range w).map fun t => h (w * g + t)).flatten := by
  induction m with
  | zero => simp
  | succ m ih =>
    rw [Nat.succ_mul, List.range_add, List.map_append, ih, List.range_succ]
    simp [Nat.mul_comm m w]

theorem splitEvery_range {α : Type} (h : Nat → α) {w m n : Nat} (hw : 0 < w) (hm : m ≤ n) :
    splitEvery w n ((List.range (m * w)).map h) = (List.range m).map fun g => (List.range w).map fun t => h (w * g + t) := by
  rw [map_range_blocks, splitEvery_flatten hw (by simp) (by simpa using hm)]

/-- Blocks of one length in a row, by position. -/
theorem flatMap_range_blocks {α : Type} (L : Nat → List α) {w : Nat} (d : α) (hw : 0 < w) (hl : ∀ g, (L g).length = w) (m : Nat) :
    (List.range m).flatMap L = (List.range (m * w)).map fun l => (L (l / w)).getD (l % w) d := by
  rw [map_range_blocks, List.flatMap_def]
  congr 1
  refine List.map_congr_left fun g _ => ?_
  refine List.ext_getElem (by simp [hl]) fun t h1 h2 => ?_
  have ht : t < w := by rw [← hl g]; exact h1
  simp [Nat.mul_add_div hw, Nat.mod_eq_of_lt ht, Nat.div_eq_of_lt ht, h1]

/-- A block has one code for each of its values (02 R74). -/
theorem length_convertBlock (f : FmtP) {vals : List OutVal} (sr : Bool) {us : List Nat} (h : us.length = vals.length) :
    (convertBlock f vals sr us).2.1.length = vals.length := by
  unfold convertBlock
  split
  · simp
  · simp [h]

/-- Block `g` of a line of values `v` with words `u`. -/
def lineBlock (f : Nat) (sr : Bool) (v : Nat → OutVal) (u : Nat → Nat) (g : Nat) : Nat × List Nat × Flags :=
  convertBlock (fmtP f) ((List.range (sbBlock f)).map fun t => v (sbBlock f * g + t)) sr
    ((List.range (sbBlock f)).map fun t => u (sbBlock f * g + t))

theorem length_lineBlock (f : Nat) (sr : Bool) (v : Nat → OutVal) (u : Nat → Nat) (g : Nat) :
    (lineBlock f sr v u g).2.1.length = sbBlock f := by
  rw [lineBlock, length_convertBlock _ _ (by simp)]
  simp

/-- The blocks of a line whose length is a whole number of them. -/
theorem convertLine_range (f : Nat) (sr : Bool) (v : Nat → OutVal) (u : Nat → Nat) {m : Nat} (hf : sbBlock f ≠ 0) :
    convertLine f sr ((List.range (m * sbBlock f)).map fun l => (v l, u l)) = (List.range m).map (lineBlock f sr v u) := by
  have hpos : 0 < sbBlock f := Nat.pos_of_ne_zero hf
  unfold convertLine
  rw [splitEvery_range _ hpos (by simpa using Nat.le_mul_of_pos_right m hpos), List.map_map]
  refine List.map_congr_left fun g _ => ?_
  simp [Function.comp_def, lineBlock]

/-- A block has 16 or 32 elements (Table 2-1). -/
theorem sbBlock_cases {f : Nat} (h : sbBlock f ≠ 0) : sbBlock f = 16 ∨ sbBlock f = 32 := by
  unfold sbBlock at h ⊢
  split <;> simp_all

theorem blocks_of_64 {f : Nat} (h : sbBlock f ≠ 0) : 64 / sbBlock f * sbBlock f = 64 := by
  obtain h | h := sbBlock_cases h <;> rw [h]

/-! ### Operands -/

variable {s t : State} {i : StreamId} {q : QEntry} {rest : List QEntry}

/-- CVT, NEG and ABS take one operand. -/
theorem vecElem_unary {op : Nat} (h : 5 ≤ op) (x y z y' z' : Elem) : vecElem op x y z = vecElem op x y' z' := by
  unfold vecElem
  match op, h with
  | 5, _ => rfl
  | 6, _ => rfl
  | op + 7, _ => rfl

/-- All opcodes but FMA leave the third operand. -/
theorem vecElem_binary {op : Nat} (h : op ≠ 0) (x y z z' : Elem) : vecElem op x y z = vecElem op x y z' := by
  unfold vecElem
  match op, h with
  | 1, _ => rfl
  | 2, _ => rfl
  | 3, _ => rfl
  | 4, _ => rfl
  | 5, _ => rfl
  | 6, _ => rfl
  | op + 7, _ => rfl

/-- The scale byte that CVT reads for a lane of a scaled operand; the unit scale of a plain one (06 R186). -/
def laneScale (rd : Nat → Byte) (key : Nat) (q : QEntry) (j l : Nat) : Nat :=
  if sbBlock q.fmtA = 0 then 127 else (rd (ownByte key (q.addr (vAy q.w) (vInc q.w) j) (l / sbBlock q.fmtA : Nat))).toNat

theorem laneX_eq (rd : Nat → Byte) (key j l : Nat) :
    laneX rd key q j l = scaleElem (laneScale rd key q j l) (elemAt rd key q.fmtA (q.addr (vAx q.w) (vInc q.w) j) (l * fmtBytes q.fmtA)) := by
  unfold laneX laneScale
  dsimp only
  split
  · rw [scaleElem_unit]
  · rfl

theorem State.readScales_clear (hc : s.clear (s.whoOf i q)) (a : W64) {b : Nat} (hb : b ≠ 0) :
    s.readScales i q [] a b = ((List.range (64 / b)).map fun (g : Nat) => some (s.rd8 (ownByte (skey i) a g)).toNat, s) := by
  unfold State.readScales
  dsimp only
  rw [if_neg hb, State.readMem_clear _ hc]
  refine congrArg (·, s) ?_
  refine List.ext_getElem (by simp) fun g h1 h2 => ?_
  have hg : ((a.toNat : Int) + (g : Nat)).toNat = a.toNat + g := by omega
  simp [ownBytes, ownByte, hg, parityBad]

/-- The scales that a repetition has for its lanes. -/
theorem State.scales_clear (hc : s.clear (s.whoOf i q)) (hb : q.op ≠ 5 → sbBlock q.fmtA = 0) (j : Nat) :
    ∃ ss, (if q.op = 5 then s.readScales i q [] (q.addr (vAy q.w) (vInc q.w) j) (sbBlock q.fmtA) else ([], s)) = (ss, s)
      ∧ ∀ l, l < 64 → (if sbBlock q.fmtA = 0 then some 127 else ss.getD (l / sbBlock q.fmtA) (some 0))
        = some (laneScale s.rd8 (skey i) q j l) := by
  by_cases h0 : sbBlock q.fmtA = 0
  · refine ⟨[], ?_, fun l _ => by rw [if_pos h0, laneScale, if_pos h0]⟩
    split
    · rw [h0]; rfl
    · rfl
  · rw [if_pos (by by_contra h; exact h0 (hb h)), State.readScales_clear hc _ h0]
    refine ⟨_, rfl, fun l hl => ?_⟩
    have hlt : l / sbBlock q.fmtA < 64 / sbBlock q.fmtA := by
      obtain h | h := sbBlock_cases h0 <;> rw [h] <;> omega
    rw [if_neg h0, laneScale, if_neg h0]
    simp [hlt]

/-- A second or third operand, where the opcode has one. -/
theorem State.operand_clear (hc : s.clear (s.whoOf i q)) (p : Prop) [Decidable p] (a : W64) (bc : Bool) :
    (if p then s.lanes i q [] q.fmtA a bc (fun _ => some 127) else ([], s))
      = (if p then (List.range 64).map fun l => elemAt s.rd8 (skey i) q.fmtA a (if bc then 0 else l * fmtBytes q.fmtA) else [], s) := by
  split
  · rw [State.lanes_clear hc]
    simp
  · rfl

/-- The value of a lane is the opcode's of the operands as they are read. -/
theorem laneVal_eq (rd : Nat → Byte) (key j : Nat) {l : Nat} (hl : l < 64) {xs : List Elem} (hx : xs.getD l .nan = laneX rd key q j l) :
    vecElem q.op (xs.getD l .nan)
      ((if q.op ≤ 4 then (List.range 64).map fun l => elemAt rd key q.fmtA (q.addr (vAy q.w) (vInc q.w) j)
          (if (decide (q.op ≤ 4) && bit q.w 42) then 0 else l * fmtBytes q.fmtA) else []).getD l .nan)
      ((if q.op = 0 then (List.range 64).map fun l => elemAt rd key q.fmtA (q.addr (vAz q.w) (vInc q.w) j)
          (if bit q.w 41 then 0 else l * fmtBytes q.fmtA) else []).getD l .nan)
      = laneVal rd key q j l := by
  rw [hx]
  unfold laneVal
  dsimp only
  by_cases h4 : q.op ≤ 4
  · rw [if_pos h4]
    by_cases h0 : q.op = 0
    · rw [if_pos h0]
      simp [hl, h4]
    · rw [vecElem_binary h0 _ _ _ (elemAt rd key q.fmtA (q.addr (vAz q.w) (vInc q.w) j) (if bit q.w 41 then 0 else l * fmtBytes q.fmtA))]
      simp [hl, h4]
  · exact vecElem_unary (by omega) _ _ _ _ _

/-! ### Writes -/

/-- A change of memory alone. -/
def State.MemOnly (s t : State) : Prop := t = { s with mem := t.mem }

theorem State.writes_memOnly (ws : List (Nat × Byte)) : s.MemOnly (ws.foldl (fun (s : State) x => s.wr8 x.1 x.2) s) := by
  induction ws generalizing s with
  | nil => rfl
  | cons x ws ih => exact (ih (s := s.wr8 x.1 x.2)).trans rfl

/-- Memory after writes is what they overlay. -/
theorem State.rd8_writes (ws : List (Nat × Byte)) : (ws.foldl (fun (s : State) x => s.wr8 x.1 x.2) s).rd8 = overlay s.rd8 ws := by
  induction ws generalizing s with
  | nil => rfl
  | cons x ws ih =>
    rw [List.foldl_cons, ih, overlay, overlay, List.foldl_cons]
    congr 1
    funext a
    exact tget_tset_if _ _ _ _ _

theorem State.clear_memOnly (h : s.MemOnly t) (hc : s.clear (s.whoOf i q)) : t.clear (t.whoOf i q) := by
  rw [h]
  exact hc

/-! ### A repetition -/

/-- The word u of a lane, as the repetition draws it. -/
theorem State.laneU_eq (j l : Nat) : (if (ccwRnd (vCcw q.w) == 1) = true then
    cicadaU (s.kslot (skey i) (ccwKslot (vCcw q.w))) 1 q.step (vIndexBase q + 64 * j + l) else 0) = s.laneU (skey i) q j l := by
  unfold State.laneU
  simp only [beq_iff_eq]

/-- A repetition of an element opcode writes each lane's value, converted, and does nothing else. -/
theorem State.vecRep_clear (hc : s.clear (s.whoOf i q)) (hb : q.op ≠ 5 → sbBlock q.fmtA = 0) (j : Nat) :
    s.vecRep i q [] j = ((s.laneOut (skey i) q s.rd8 j).2,
      (s.laneOut (skey i) q s.rd8 j).1.foldl (fun (s : State) x => s.wr8 x.1 x.2) s) := by
  obtain ⟨ss, hss, hscale⟩ := State.scales_clear hc hb j
  have hvals := fun (l : Nat) (hl : l ∈ List.range 64) => laneVal_eq (q := q) s.rd8 (skey i) j (List.mem_range.mp hl)
    (xs := (List.range 64).map fun l => (if sbBlock q.fmtA = 0 then some 127 else ss.getD (l / sbBlock q.fmtA) (some 0)).elim .nan fun sc =>
      scaleElem sc (elemAt s.rd8 (skey i) q.fmtA (q.addr (vAx q.w) (vInc q.w) j) (if false then 0 else l * fmtBytes q.fmtA)))
    (by
      have hl := List.mem_range.mp hl
      rw [laneX_eq, List.getD_eq_getElem?_getD, List.getElem?_map, List.getElem?_range hl, Option.map_some, Option.getD_some, hscale l hl]
      rfl)
  unfold State.vecRep
  dsimp only
  rw [hss]
  dsimp only
  rw [State.lanes_clear hc]
  dsimp only
  rw [State.operand_clear hc]
  dsimp only
  rw [State.operand_clear hc]
  dsimp only
  rw [List.map_congr_left hvals]
  simp only [State.laneU_eq]
  rw [State.writeMem_clear _ hc, State.parityWrites_nil]
  simp only [map_zipIdx_range]
  unfold State.laneOut
  dsimp only
  by_cases hf : sbBlock q.rung.toNat = 0
  · simp only [if_pos hf, List.map_map, List.foldl_map, List.zipIdx_nil, List.map_nil, List.append_nil, flatMap_zipIdx_range]
    rfl
  · have hline := convertLine_range q.rung.toNat (ccwRnd (vCcw q.w) == 1) (laneVal s.rd8 (skey i) q j) (s.laneU (skey i) q j)
      (m := 64 / sbBlock q.rung.toNat) hf
    rw [blocks_of_64 hf] at hline
    simp only [if_neg hf]
    rw [hline, List.flatMap_map, flatMap_range_blocks _ 0 (Nat.pos_of_ne_zero hf) (length_lineBlock _ _ _ _), blocks_of_64 hf]
    simp only [List.map_map, List.foldl_map, flatMap_zipIdx_range, map_zipIdx_range]
    rfl

/-! ### The run of all repetitions -/

theorem State.MemOnly.trans {r : State} (h : r.MemOnly s) (k : s.MemOnly t) : r.MemOnly t := by
  unfold State.MemOnly at *
  rw [k, h]

/-- What a repetition writes depends on memory through what it reads alone. -/
theorem State.MemOnly.laneOut (h : s.MemOnly t) (key : Nat) (rd : Nat → Byte) (j : Nat) : t.laneOut key q rd j = s.laneOut key q rd j := by
  rw [h]
  rfl

/-- The repetitions of an element opcode, one after the other. -/
theorem State.vecReps_run (hc : s.clear (s.whoOf i q)) (hb : q.op ≠ 5 → sbBlock q.fmtA = 0) (n : Nat) :
    ∃ t, (List.range n).foldl (fun acc j => (Flags.or acc.1 (acc.2.vecRep i q [] j).1, (acc.2.vecRep i q [] j).2)) ({}, s)
        = ((s.laneRun (skey i) q n).2, t) ∧ s.MemOnly t ∧ t.rd8 = (s.laneRun (skey i) q n).1 := by
  induction n with
  | zero => exact ⟨s, rfl, rfl, rfl⟩
  | succ n ih =>
    obtain ⟨t, h1, h2, h3⟩ := ih
    refine ⟨(t.laneOut (skey i) q t.rd8 n).1.foldl (fun (s : State) x => s.wr8 x.1 x.2) t, ?_, h2.trans (State.writes_memOnly _), ?_⟩
    · rw [List.range_succ, List.foldl_append, h1, List.foldl_cons, List.foldl_nil, State.vecRep_clear (State.clear_memOnly h2 hc) hb,
        h2.laneOut, h3]
      rfl
    · rw [State.rd8_writes, h2.laneOut, h3]
      rfl

/-! ### What a start leaves -/

/-- A change of the slots of one core, of memory and of the count of free values alone. -/
structure State.VecEffect (s t : State) (key : Nat) : Prop where
  core : (s.core key).VecOnly (t.core key)
  rest : t = { s with cores := t.cores, mem := t.mem, free := t.free }

theorem State.VecEffect.trans {r : State} {key : Nat} (h : r.VecEffect s key) (k : s.VecEffect t key) : r.VecEffect t key :=
  ⟨h.core.trans k.core, by rw [k.rest, h.rest]⟩

theorem State.MemOnly.vecEffect (h : s.MemOnly t) (key : Nat) : s.VecEffect t key := by
  constructor
  · rw [h]
    exact .refl _
  · rw [h]

theorem State.VecOnly.vecEffect {key : Nat} (h : s.VecOnly t key) : s.VecEffect t key := ⟨h.core, by rw [h.rest]⟩

/-- A VEC that alone heads its queue starts with its effect on slots and memory. -/
theorem exec_vec_starts (h : s.soleHead i .vec q rest) {F : Flags} (hv : s.vecStart i q [] = (F, t)) (he : s.VecEffect t (skey i)) :
    ∃ t', exec (.instructionStart ⟨i.die, i.core⟩ .vec []) s = .next t' ∧ t'.stream i = (s.stream i).started .vec q rest F true
      ∧ t'.rd8 = t.rd8 ∧ (∀ j l, (t'.core (skey i)).slot j l = (t.core (skey i)).slot j l) ∧ t'.objs = s.objs := by
  have hst : t.stream i = s.stream i := by
    unfold State.stream
    show (t.core (skey i)).stream i.pass = (s.core (skey i)).stream i.pass
    rw [he.core.1]
    cases i.pass <;> rfl
  refine ⟨_, exec_vecStart h hv hst, by rw [State.stream_modStream, hst], rfl, fun j l => ?_, ?_⟩
  · unfold State.modStream
    rw [State.core_setStream]
    cases i.pass <;> rfl
  · rw [he.rest]
    rfl

end Sys2Proof.Machine
end

section
/-! SUPPORT. What a list of writes leaves at the bytes it names, and LWST (03 R77, R95, R96). -/

namespace Sys2Proof.Machine

variable {s t : State} {i : StreamId} {q : QEntry} {rest : List QEntry}

/-! ### Overlays -/

/-- Writes leave every byte that none of them names. -/
theorem overlay_of_not_mem {rd : Nat → Byte} {ws : List (Nat × Byte)} {a : Nat} (h : a ∉ ws.map (·.1)) : overlay rd ws a = rd a := by
  induction ws generalizing rd with
  | nil => rfl
  | cons x ws ih =>
    rw [List.map_cons, List.mem_cons, not_or] at h
    rw [overlay, List.foldl_cons, ← overlay, ih h.2, if_neg h.1]

/-- A write to a byte that no other write names stands. -/
theorem overlay_of_mem {rd : Nat → Byte} {ws : List (Nat × Byte)} (hn : (ws.map (·.1)).Nodup) {x : Nat × Byte} (h : x ∈ ws) :
    overlay rd ws x.1 = x.2 := by
  induction ws generalizing rd with
  | nil => cases h
  | cons y ws ih =>
    obtain ⟨hy, hn⟩ := List.nodup_cons.mp hn
    rw [overlay, List.foldl_cons, ← overlay]
    obtain rfl | h := List.mem_cons.mp h
    · rw [overlay_of_not_mem hy, if_pos rfl]
    · exact ih hn h

/-- The bytes of a piece of the writes read as they were written. -/
theorem map_overlay {rd : Nat → Byte} {ws : List (Nat × Byte)} (hn : (ws.map (·.1)).Nodup) {as : List Nat} {bs : List Byte}
    (hl : as.length = bs.length) (h : ∀ x ∈ as.zip bs, x ∈ ws) : as.map (overlay rd ws) = bs := by
  refine List.ext_getElem (by simpa using hl) fun k h1 h2 => ?_
  rw [List.getElem_map]
  rw [List.length_map] at h1
  exact overlay_of_mem hn (x := (as[k], bs[k])) (h _ (List.mem_iff_getElem.mpr ⟨k, by simp [h1, h2], by simp⟩))

@[simp] theorem length_leBytes (n v : Nat) : (leBytes n v).length = n := by
  induction n generalizing v with
  | zero => rfl
  | succ n ih => rw [leBytes, List.length_cons, ih]

/-- The little-endian bytes of a number give the number back. -/
theorem leNat_leBytes_of_lt {n v : Nat} (h : v < 256 ^ n) : leNat (leBytes n v) = v := by
  induction n generalizing v with
  | zero => simp [leBytes, leNat]; omega
  | succ n ih =>
    rw [leBytes, leNat, ih (by rw [pow_succ] at h; omega), BitVec.toNat_ofNat]
    omega

theorem map_fst_zip_leBytes (key : Nat) (a : W64) (off w v : Nat) :
    ((ownBytes key a off w).zip (leBytes w v)).map (·.1) = ownBytes key a off w :=
  List.map_fst_zip (by simp)

/-- The bytes of the core store from an address, in pieces of one length. -/
theorem ownBytes_pieces (key : Nat) (a : W64) (w m : Nat) :
    (List.range m).flatMap (fun l => ownBytes key a (w * l) w) = ownBytes key a 0 (m * w) := by
  unfold ownBytes
  rw [map_range_blocks, List.flatMap_def]
  simp [Nat.add_assoc]

/-- No two bytes of a piece of the core store coincide. -/
theorem nodup_ownBytes (key : Nat) (a : W64) (off : Nat) {n : Nat} (h : n ≤ 2 ^ 21) : (ownBytes key a off n).Nodup := by
  refine List.Nodup.map_on (fun x hx y hy e => ?_) List.nodup_range
  rw [List.mem_range] at hx hy
  have e := Nat.add_left_cancel e
  omega

/-! ### Flags -/

/-- What a flag is after the flags of several outputs were joined. -/
theorem foldl_or_flag {α : Type} {g : Flags → Bool} (hg : ∀ a b, g (a.or b) = (g a || g b)) (f : α → Flags) (l : List α) (acc : Flags) :
    g (l.foldl (fun acc o => acc.or (f o)) acc) = (g acc || l.any fun o => g (f o)) := by
  induction l generalizing acc with
  | nil => simp
  | cons x l ih => rw [List.foldl_cons, ih, hg, List.any_cons, Bool.or_assoc]

/-- A flag that one of the outputs raises is raised. -/
theorem foldl_or_flag_of_mem {α : Type} {g : Flags → Bool} (hg : ∀ a b, g (a.or b) = (g a || g b)) {f : α → Flags} {l : List α} {x : α}
    (hx : x ∈ l) (h : g (f x) = true) : g (l.foldl (fun acc o => acc.or (f o)) {}) = true := by
  rw [foldl_or_flag hg, Bool.or_eq_true]
  exact .inr (List.any_eq_true.mpr ⟨x, hx, h⟩)

/-! ### LWST -/

/-- The stored form of lane `l` of a slot, and its flags. -/
def State.laneStored (s : State) (key : Nat) (q : QEntry) (l : Nat) : W256 × Flags :=
  ((s.core key).slot (vSlot q.w) l).store q.wide ((Config.freeValue (s.free + l)).setWidth 256)

/-- The writes of LWST. -/
def State.lwstWrites (s : State) (key : Nat) (q : QEntry) : List (Nat × Byte) :=
  (List.range 64).flatMap fun l => (ownBytes key (q.areg (vAd q.w)) (32 * l) 32).zip (leBytes 32 (s.laneStored key q l).1.toNat)

/-- The count of free values stands in no access's way. -/
theorem State.clear_skipFree {who : Who} (h : s.clear who) (n : Nat) : (s.skipFree n).clear who := h

theorem State.rd8_skipFree (n : Nat) : (s.skipFree n).rd8 = s.rd8 := rfl

/-- Writes that take free values. -/
theorem State.writes_skipFree (key n : Nat) (ws : List (Nat × Byte)) :
    s.VecEffect (ws.foldl (fun (s : State) x => s.wr8 x.1 x.2) (s.skipFree n)) key
      ∧ (ws.foldl (fun (s : State) x => s.wr8 x.1 x.2) (s.skipFree n)).rd8 = overlay s.rd8 ws
      ∧ (ws.foldl (fun (s : State) x => s.wr8 x.1 x.2) (s.skipFree n)).core key = s.core key := by
  have h : s.VecEffect (s.skipFree n) key := ⟨.refl _, rfl⟩
  have hm := State.writes_memOnly (s := s.skipFree n) ws
  exact ⟨h.trans (hm.vecEffect key), by rw [State.rd8_writes, State.rd8_skipFree], by rw [hm]; rfl⟩

theorem State.lwst_clear (hc : s.clear (s.whoOf i q)) : s.lwst i q []
    = ((List.range 64).foldl (fun acc l => acc.or (s.laneStored (skey i) q l).2) {},
      (s.lwstWrites (skey i) q).foldl (fun (s : State) x => s.wr8 x.1 x.2) (s.skipFree 64)) := by
  unfold State.lwst
  dsimp only
  rw [State.writeMem_clear _ (State.clear_skipFree hc 64), State.parityWrites_nil, List.foldl_map, flatMap_zipIdx_range]
  rfl

theorem State.lwstWrites_bytes (key : Nat) : (s.lwstWrites key q).map (·.1) = ownBytes key (q.areg (vAd q.w)) 0 2048 := by
  unfold State.lwstWrites
  rw [List.map_flatMap]
  simp only [map_fst_zip_leBytes]
  exact ownBytes_pieces key _ 32 64

theorem State.lwst_effect (hc : s.clear (s.whoOf i q)) : s.VecEffect (s.lwst i q []).2 (skey i)
    ∧ (s.lwst i q []).2.rd8 = overlay s.rd8 (s.lwstWrites (skey i) q) ∧ (s.lwst i q []).2.core (skey i) = s.core (skey i) := by
  rw [State.lwst_clear hc]
  dsimp only
  exact State.writes_skipFree (skey i) 64 (s.lwstWrites (skey i) q)

/-- What LWST leaves at the place of a lane, as a stored word. -/
theorem State.storedAt_lwst (key : Nat) {l : Nat} (hl : l < 64) : storedAt (overlay s.rd8 (s.lwstWrites key q)) key (q.areg (vAd q.w)) l
    = let v := (s.laneStored key q l).1
      if v = lwNan then none else some v.toInt := by
  have hb : (ownBytes key (q.areg (vAd q.w)) (32 * l) 32).map (overlay s.rd8 (s.lwstWrites key q)) = leBytes 32 (s.laneStored key q l).1.toNat :=
    map_overlay (by rw [State.lwstWrites_bytes]; exact nodup_ownBytes _ _ _ (by decide)) (by simp)
      fun x hx => List.mem_flatMap.mpr ⟨l, List.mem_range.mpr hl, hx⟩
  have hv : BitVec.ofNat 256 (leNat (leBytes 32 (s.laneStored key q l).1.toNat)) = (s.laneStored key q l).1 := by
    have hlt : (s.laneStored key q l).1.toNat < 256 ^ 32 := (s.laneStored key q l).1.isLt.trans_eq (by decide +kernel)
    rw [leNat_leBytes_of_lt hlt, BitVec.ofNat_toNat, BitVec.setWidth_eq]
  unfold storedAt
  rw [hb, hv]
  rfl

/-! ### The stored form of a word (03 R77, R95) -/

/-- A word that its 256 bits hold is stored as its number. -/
theorem toInt_ofInt_256 {n : Int} (h : n.natAbs ≤ 2 ^ 255 - 1) : (BitVec.ofInt 256 n).toInt = n := by
  rw [BitVec.toInt_ofInt]
  have h2 : (2 : Int) ^ 256 = 2 * 2 ^ 255 := by decide +kernel
  refine Int.bmod_eq_of_le ?_ ?_
  · push_cast
    omega
  · push_cast
    omega

theorem lwMax_false : (lwMax false).toNat = 2 ^ 255 - 1 := lwMax_toNat false

theorem LW.store_nan {w : LW} {wide : Bool} {x : W256} (h : w.nan = true) : w.store wide x = (lwNan, { special := true }) := by
  unfold LW.store
  rw [if_pos h]

theorem LW.isWide_eq (w : LW) (wide : Bool) : w.isWide wide = (!w.nan && !wide && (w.ovf || decide (2 ^ 255 - 1 < w.n.natAbs))) := by
  unfold LW.isWide
  rw [lwMax_false]

theorem LW.store_number {w : LW} {wide : Bool} {x : W256} (hn : w.nan = false) (hw : w.isWide wide = false) (h : w.n.natAbs ≤ 2 ^ 255 - 1) :
    w.store wide x = (BitVec.ofInt 256 w.n, {}) := by
  unfold LW.store
  rw [lwMax_false, hn, hw, if_neg Bool.false_ne_true, if_neg Bool.false_ne_true, if_neg (not_lt.mpr h)]

theorem LW.store_range {w : LW} {wide : Bool} {x : W256} (hn : w.nan = false) (hw : w.isWide wide = false) (h : 2 ^ 255 - 1 < w.n.natAbs) :
    w.store wide x = (lwNan, { lwRange := true }) := by
  unfold LW.store
  rw [lwMax_false, hn, hw, if_neg Bool.false_ne_true, if_neg Bool.false_ne_true, if_pos h]

theorem LW.store_wide {w : LW} {wide : Bool} {x : W256} (hn : w.nan = false) (hw : w.isWide wide = true) :
    w.store wide x = (x, { wide := true }) := by
  unfold LW.store
  rw [hn, hw, if_neg Bool.false_ne_true, if_pos rfl]

end Sys2Proof.Machine
end

section
/-! SUPPORT. FINISH on the lanes of a slot (03 R98), and the statement on the instructions of the vector engine. -/

namespace Sys2Proof.Machine

variable {s t : State} {i : StreamId} {q : QEntry} {rest : List QEntry}

/-- SUM and NORM do not read the count (03 R100). -/
theorem finish_count {mode : Nat} (h : mode < 2) (s1 s2 : LW) (a a2 : Int) (n n' : Nat) (eps : Exact) :
    finish mode s1 s2 a a2 n eps = finish mode s1 s2 a a2 n' eps := by
  unfold finish
  match mode, h with
  | 0, _ => rfl
  | 1, _ => rfl

/-- FINISH takes the count from memory where it reads one, and a result that reads none is the same for every count. -/
theorem finish_readCount (rd : Nat → Byte) (key : Nat) (s1 s2 : LW) (a a2 : Int) (eps : Exact) :
    finish (fld q.w 79 76) s1 s2 a a2 (if bit q.w 59 then leNat
        ((if bit q.w 59 && decide (2 ≤ fld q.w 79 76) then ownBytes key (q.areg (fld q.w 55 52)) 0 8 else []).map rd)
      else (q.creg (fld q.w 58 56)).toNat) eps
      = finish (fld q.w 79 76) s1 s2 a a2 (if bit q.w 59 then leNat ((ownBytes key (q.areg (fld q.w 55 52)) 0 8).map rd)
          else (q.creg (fld q.w 58 56)).toNat) eps := by
  by_cases h : 2 ≤ fld q.w 79 76
  · cases hb : bit q.w 59 <;> simp [h]
  · exact finish_count (by omega) _ _ _ _ _ _ _

/-- The word u of a lane of FINISH. -/
theorem State.laneU_zero (key l : Nat) : (if (ccwRnd (vCcw q.w) == 1) = true then
    cicadaU (s.kslot key (ccwKslot (vCcw q.w))) 1 q.step (vIndexBase q + l) else 0) = s.laneU key q 0 l := by
  unfold State.laneU
  simp only [beq_iff_eq, Nat.mul_zero, Nat.add_zero]

/-- The writes of FINISH. -/
def State.finWrites (s : State) (key : Nat) (q : QEntry) : List (Nat × Byte) :=
  (List.range 64).flatMap fun l => (ownBytes key (q.areg (vAd q.w)) (l * fmtBytes q.rung.toNat) (fmtBytes q.rung.toNat)).zip
    (leBytes (fmtBytes q.rung.toNat) (s.laneFin key q l).1)

/-- FINISH writes the result of each lane and does nothing else. -/
theorem State.finishAll_clear (hc : s.clear (s.whoOf i q)) : s.finishAll i q []
    = ((List.range 64).foldl (fun acc l => acc.or (s.laneFin (skey i) q l).2) {},
      (s.finWrites (skey i) q).foldl (fun (s : State) x => s.wr8 x.1 x.2) s) := by
  unfold State.finishAll
  dsimp only
  rw [State.readMem_clear _ hc, State.parityEvent_nil, any_parityBad_nil]
  dsimp only
  rw [State.writeMem_clear _ hc, State.parityWrites_nil, List.foldl_map, flatMap_zipIdx_range]
  simp only [Bool.false_eq_true, if_false, finish_readCount, State.laneU_zero]
  rfl

/-! ### How each opcode starts -/

/-- The start of a VEC that raises `F` and leaves memory and the slots of its core as `rd` and `slots` say, and the objects as they are. -/
def State.VecStarts (s : State) (i : StreamId) (q : QEntry) (rest : List QEntry) (F : Flags) (rd : Nat → Byte) (slots : Nat → Nat → LW) :
    Prop :=
  ∃ t, exec (.instructionStart ⟨i.die, i.core⟩ .vec []) s = .next t
    ∧ t.stream i = (s.stream i).started .vec q rest F true ∧ (∀ a, t.rd8 a = rd a)
    ∧ (∀ j l, j < 8 → l < 64 → (t.core (skey i)).slot j l = slots j l) ∧ t.objs = s.objs

theorem State.VecStarts.congr {F : Flags} {rd : Nat → Byte} {slots slots' : Nat → Nat → LW} (h : s.VecStarts i q rest F rd slots)
    (e : ∀ j l, slots j l = slots' j l) : s.VecStarts i q rest F rd slots' := by
  obtain rfl : slots = slots' := funext₂ e
  exact h

theorem State.vecStarts_of (h : s.soleHead i .vec q rest) {F : Flags} {rd : Nat → Byte} {slots : Nat → Nat → LW}
    (hv : s.vecStart i q [] = (F, t)) (he : s.VecEffect t (skey i)) (hrd : t.rd8 = rd)
    (hs : ∀ j l, j < 8 → l < 64 → (t.core (skey i)).slot j l = slots j l) : s.VecStarts i q rest F rd slots := by
  obtain ⟨t', h1, h2, h3, h4, h5⟩ := exec_vec_starts h hv he
  exact ⟨t', h1, h2, fun a => by rw [h3, hrd], fun j l hj hl => by rw [h4, hs j l hj hl], h5⟩

/-- An effect on memory leaves the slots. -/
theorem State.vecStarts_mem (h : s.soleHead i .vec q rest) {F : Flags} {rd : Nat → Byte} (hv : s.vecStart i q [] = (F, t))
    (he : s.MemOnly t) (hrd : t.rd8 = rd) : s.VecStarts i q rest F rd (s.core (skey i)).slot :=
  State.vecStarts_of h hv (he.vecEffect _) hrd fun j l _ _ => by rw [he]; rfl

/-- An effect on slots leaves memory. -/
theorem State.vecStarts_slots (h : s.soleHead i .vec q rest) {F : Flags} {slots : Nat → Nat → LW} (hv : s.vecStart i q [] = (F, t))
    (he : s.VecOnly t (skey i)) (hs : ∀ j l, j < 8 → l < 64 → (t.core (skey i)).slot j l = slots j l) : s.VecStarts i q rest F s.rd8 slots :=
  State.vecStarts_of h hv he.vecEffect he.rd8 hs

/-- What LWST leaves of a lane, and the flags that it raises for it. -/
theorem State.laneStored_lwst (key : Nat) {l : Nat} (hl : l < 64) :
    let w := (s.core key).slot (vSlot q.w) l
    let v := storedAt (overlay s.rd8 (s.lwstWrites key q)) key (q.areg (vAd q.w)) l
    let F := (List.range 64).foldl (fun acc l => acc.or (s.laneStored key q l).2) ({} : Flags)
    (w.nan = true → v = none ∧ F.special = true)
      ∧ (w.nan = false → w.n.natAbs ≤ 2 ^ 255 - 1 → (q.wide = true ∨ w.ovf = false) → v = some w.n)
      ∧ (w.nan = false → q.wide = true → 2 ^ 255 - 1 < w.n.natAbs → v = none ∧ F.lwRange = true)
      ∧ (w.nan = false → q.wide = false → (w.ovf = true ∨ 2 ^ 255 - 1 < w.n.natAbs) → F.wide = true) := by
  intro w v F
  have hv : v = if (s.laneStored key q l).1 = lwNan then none else some (s.laneStored key q l).1.toInt := State.storedAt_lwst key hl
  have hF : ∀ g : Flags → Bool, (∀ a b, g (a.or b) = (g a || g b)) → g (s.laneStored key q l).2 = true → g F = true :=
    fun g hg h => foldl_or_flag_of_mem hg (List.mem_range.mpr hl) h
  have hsw : s.laneStored key q l = w.store q.wide ((Config.freeValue (s.free + l)).setWidth 256) := rfl
  generalize s.laneStored key q l = o at hv hF hsw
  refine ⟨fun hn => ?_, fun hn hr hw => ?_, fun hn hw hr => ?_, fun hn hw hr => ?_⟩
  · rw [LW.store_nan hn] at hsw
    subst hsw
    exact ⟨hv.trans (if_pos rfl), hF (·.special) (fun _ _ => rfl) rfl⟩
  · have hwide : w.isWide q.wide = false := by
      rw [LW.isWide_eq, decide_eq_false (not_lt.mpr hr)]
      obtain hw | hw := hw <;> rw [hw] <;> simp
    rw [LW.store_number hn hwide hr] at hsw
    subst hsw
    have hne : BitVec.ofInt 256 w.n ≠ lwNan := fun e => by
      have := toInt_ofInt_256 hr
      rw [e, show lwNan.toInt = -2 ^ 255 by decide +kernel] at this
      omega
    rw [hv, if_neg hne, toInt_ofInt_256 hr]
  · have hwide : w.isWide q.wide = false := by rw [LW.isWide_eq, hw]; simp
    rw [LW.store_range hn hwide hr] at hsw
    subst hsw
    exact ⟨hv.trans (if_pos rfl), hF (·.lwRange) (fun _ _ => rfl) rfl⟩
  · have hwide : w.isWide q.wide = true := by
      rw [LW.isWide_eq, hn, hw]
      obtain hr | hr := hr
      · rw [hr]; rfl
      · rw [decide_eq_true hr]; simp
    rw [LW.store_wide hn hwide] at hsw
    subst hsw
    exact hF (·.wide) (fun _ _ => rfl) rfl

section
variable (h : s.soleHead i .vec q rest) (hn : q.n ≠ 0) (hs : q.skip = false) (hc : s.clear (s.whoOf i q))
include h hn hs hc

theorem vecStarts_elem (ho : q.op ≤ 7) (hb : q.op ≠ 5 → sbBlock q.fmtA = 0) :
    s.VecStarts i q rest (s.laneRun (skey i) q q.n).2 (s.laneRun (skey i) q q.n).1 (s.core (skey i)).slot := by
  obtain ⟨t, h1, h2, h3⟩ := State.vecReps_run hc hb q.n
  exact State.vecStarts_mem h ((State.vecStart_elem hn hs ho).trans h1) h2 h3

theorem vecStarts_acc (ho : q.op = 8 ∨ q.op = 9) (hb : sbBlock q.fmtA = 0) :
    s.VecStarts i q rest {} s.rd8 fun j l => if j = vSlot q.w then
        ((List.range q.n).map fun r => laneX s.rd8 (skey i) q r l).foldl (fun w e =>
          w.takes q.wide (vAnchor q.w) (e.rat?.map fun v => if q.op = 8 then v else v * v)) ((s.core (skey i)).slot (vSlot q.w) l)
      else (s.core (skey i)).slot j l := by
  obtain ⟨h1, h2⟩ := State.accReps_slots hc hb ho
  refine State.vecStarts_slots h (State.vecStart_acc hn hs (ho.imp_right .inl)) h1 fun j l hj hl => ?_
  rw [h2 j l hj hl, List.foldl_map]
  rfl

theorem vecStarts_moments (ho : q.op = 10) (hb : sbBlock q.fmtA = 0) (hk : vSlot q.w ≤ 6) :
    s.VecStarts i q rest {} s.rd8 fun j l => if j = vSlot q.w then
        ((List.range q.n).map fun r => laneX s.rd8 (skey i) q r l).foldl (fun w e => w.takes q.wide (vAnchor q.w) e.rat?)
          ((s.core (skey i)).slot (vSlot q.w) l)
      else if j = vSlot q.w + 1 then
        ((List.range q.n).map fun r => laneX s.rd8 (skey i) q r l).foldl (fun w e =>
          w.takes q.wide 0 (e.rat?.map fun v => ((⌊v / (2 : ℚ) ^ vAnchor q.w⌋ ^ 2 : Int) : ℚ))) ((s.core (skey i)).slot (vSlot q.w + 1) l)
      else (s.core (skey i)).slot j l := by
  obtain ⟨h1, h2⟩ := State.momentsReps_slots hc hb ho hk
  refine State.vecStarts_slots h (State.vecStart_acc hn hs (.inr (.inr ho))) h1 fun j l hj hl => ?_
  rw [h2 j l hj hl, List.foldl_map, List.foldl_map]
  rfl

theorem vecStarts_lwadd (ho : q.op = 11) :
    s.VecStarts i q rest {} s.rd8 fun j l => if j = vSlot q.w then
        ((List.range q.n).map fun r => storedAt s.rd8 (skey i) (q.addr (vAx q.w) (vInc q.w) r) l).foldl (fun (w : LW) (x : Option Int) =>
          { n := (w.n + x.getD 0).bmod (if q.wide then 2 ^ 536 else 2 ^ 280), nan := w.nan || x.isNone, ovf := w.ovf })
          ((s.core (skey i)).slot (vSlot q.w) l)
      else (s.core (skey i)).slot j l := by
  obtain ⟨h1, h2⟩ := State.lwaddReps_slots hc
  refine State.vecStarts_slots h (State.vecStart_lwadd hn hs ho) h1 fun j l hj hl => ?_
  refine (h2 j l hj hl).trans ?_
  rw [List.foldl_map]
  simp only [joinWord, LW.join_stored]

theorem vecStarts_lwld (ho : q.op = 12) (h1 : q.n = 1) :
    s.VecStarts i q rest {} s.rd8 fun j l => if j = vSlot q.w then
        LW.ofStored (storedAt s.rd8 (skey i) (q.areg (vAx q.w)) l)
      else (s.core (skey i)).slot j l := by
  have ha : q.addr (vAx q.w) (vInc q.w) 0 = q.areg (vAx q.w) := by
    unfold QEntry.addr
    simp
  obtain ⟨h2, h3⟩ := State.lwldRep_slots hc
  refine State.vecStarts_slots h ((State.vecStart_lwld hn hs ho).trans (by rw [h1]; rfl)) h2 fun j l hj hl => ?_
  rw [h3 j l hj hl, laneWord_eq, ha]

theorem vecStarts_lwst (ho : q.op = 13) : ∃ F rd, s.VecStarts i q rest F rd (s.core (skey i)).slot
    ∧ (∀ a, a ∉ ownBytes (skey i) (q.areg (vAd q.w)) 0 2048 → rd a = s.rd8 a) ∧ ∀ l, l < 64 →
      let w := (s.core (skey i)).slot (vSlot q.w) l
      let v := storedAt rd (skey i) (q.areg (vAd q.w)) l
      (w.nan = true → v = none ∧ F.special = true)
        ∧ (w.nan = false → w.n.natAbs ≤ 2 ^ 255 - 1 → (q.wide = true ∨ w.ovf = false) → v = some w.n)
        ∧ (w.nan = false → q.wide = true → 2 ^ 255 - 1 < w.n.natAbs → v = none ∧ F.lwRange = true)
        ∧ (w.nan = false → q.wide = false → (w.ovf = true ∨ 2 ^ 255 - 1 < w.n.natAbs) → F.wide = true) := by
  obtain ⟨he, hrd, hcore⟩ := State.lwst_effect hc
  have hF := congrArg (·.1) (State.lwst_clear hc)
  refine ⟨(s.lwst i q []).1, _, State.vecStarts_of (t := (s.lwst i q []).2) h (State.vecStart_lwst hn hs ho) he hrd
    fun j l _ _ => by rw [hcore], fun a ha => overlay_of_not_mem (by rwa [State.lwstWrites_bytes]), fun l hl => ?_⟩
  dsimp only at hF ⊢
  rw [hF]
  exact State.laneStored_lwst (skey i) hl

omit hc in
theorem vecStarts_reanchor (ho : q.op = 19) :
    s.VecStarts i q rest {} s.rd8 fun j l => if j = vSlotD q.w then
        let w := (s.core (skey i)).slot (vSlot q.w) l
        let up := vAnchor2 q.w - vAnchor q.w
        let x : Int := if up ≤ 0 then w.n * 2 ^ (-up).toNat else w.n / 2 ^ up.toNat
        { n := x.bmod (if q.wide then 2 ^ 536 else 2 ^ 280), nan := w.nan
          ovf := w.ovf || decide (x.natAbs > if q.wide then 2 ^ 511 - 1 else 2 ^ 255 - 1) }
      else (s.core (skey i)).slot j l := by
  refine State.vecStarts_slots h (State.vecStart_reanchor hn hs ho) (.modCore _ _ fun c => .foldl (fun c l => .setSlot _ _ _ _) _ c)
    fun j l hj hl => ?_
  rw [State.reanchor_slots hj hl, LW.reanchor_eq]

theorem vecStarts_finish (ho : q.op = 24) :
    s.VecStarts i q rest ((List.range 64).foldl (fun acc l => acc.or (s.laneFin (skey i) q l).2) {})
      (overlay s.rd8 (s.finWrites (skey i) q)) (s.core (skey i)).slot :=
  State.vecStarts_mem h ((State.vecStart_finish hn hs ho).trans (State.finishAll_clear hc)) (State.writes_memOnly _) (State.rd8_writes _)

end

/-- The element opcodes on finite operands are exact (02 R59, R62, R63). -/
theorem vecElem_fin (x y z : Exact) :
    let fin := fun (op : Nat) (P : Exact → Prop) => ∃ r, vecElem op (.fin x) (.fin y) (.fin z) = .fin r ∧ P r
    let zeros := fun (a : ℚ) (an : Bool) (b : ℚ) (bn : Bool) (r : Exact) => a + b = 0 → (r.neg = true ↔ a = 0 ∧ b = 0 ∧ an = true ∧ bn = true)
    fin 0 (fun r => r.rat = x.rat * y.rat + z.rat ∧ zeros (x.rat * y.rat) (x.neg != y.neg) z.rat z.neg r)
      ∧ fin 1 (fun r => r.rat = x.rat + y.rat ∧ zeros x.rat x.neg y.rat y.neg r)
      ∧ fin 2 (fun r => r.rat = x.rat * y.rat ∧ r.neg = (x.neg != y.neg))
      ∧ fin 3 (fun r => r.rat = max x.rat y.rat ∧ (r = x ∨ r = y)) ∧ fin 4 (fun r => r.rat = min x.rat y.rat ∧ (r = x ∨ r = y))
      ∧ fin 5 (fun r => r = x) ∧ fin 6 (fun r => r = { x with neg := !x.neg }) ∧ fin 7 (fun r => r = { x with neg := false }) := by
  refine ⟨⟨(x.mul y).add z, rfl, ?_, fun h => ?_⟩, ⟨x.add y, rfl, Exact.rat_add x y, Exact.add_neg_iff⟩,
    ⟨x.mul y, rfl, Exact.rat_mul x y, rfl⟩, vecElem_max x y _, vecElem_min x y _, ⟨x, rfl, rfl⟩, ⟨x.negate, rfl, rfl⟩, ⟨_, rfl, rfl⟩⟩
  · rw [Exact.rat_add, Exact.rat_mul]
  · rw [← Exact.rat_mul] at h ⊢
    exact Exact.add_neg_iff h

/-- Settles O14: every opcode starts with its effect on the slots or on memory, which folds over the lanes; the values are exact. -/
theorem laneInstructionsChangeTheirSlot : Obligations.LaneInstructionsChangeTheirSlot := by
  unfold Obligations.LaneInstructionsChangeTheirSlot
  refine ⟨fun s i q rest _ h => exec_longWord h, fun c k j l f hk hj => ?_, fun s i q rest _ h hn hs hc _ => ?_, fun x y z => ?_,
    fun op x y z => ?_, fun s1 s2 a a2 n eps he => ?_⟩
  · exact ⟨c.slot_eachLane l f hk hj, (Core.VecOnly.eachLane c k f).2, (Core.VecOnly.eachLane c k f).1⟩
  · refine ⟨vecStarts_elem h hn hs hc, ?_, ?_, ?_, ?_, ?_, ?_, ?_⟩
    · exact vecStarts_acc h hn hs hc
    · exact vecStarts_moments h hn hs hc
    · exact vecStarts_lwadd h hn hs hc
    · refine fun ho h1 => (vecStarts_lwld h hn hs hc ho h1).congr fun j l => ?_
      dsimp only
      cases storedAt s.rd8 (skey i) (q.areg (vAx q.w)) l <;> rfl
    · exact fun ho _ => vecStarts_lwst h hn hs hc ho
    · exact vecStarts_reanchor h hn hs
    · exact vecStarts_finish h hn hs hc
  · exact vecElem_fin x y z
  · obtain ⟨h1, h2, h3⟩ := vecElem_nan op x y z
    exact ⟨h1, h2, h3, fun n h hi => vecElem_inf h hi, fun n => ⟨rfl, rfl, rfl⟩⟩
  · exact ⟨fun mode h => finish_nan h, fun h1 h2 => finish_results he h1 h2⟩

end Sys2Proof.Machine
end

section
/-! SUPPORT. Conversion to an element format (02 R58, R61 to R66): an encoding decodes to what it encodes, and a conversion rounds on the
grid of the value's binade and saturates beyond the largest. -/

namespace Sys2Proof.Machine

/-! ### Formats -/

/-- What the five element formats have in common (Table 2-2): the least normal exponent has field 1, the largest finite value lies below
the encodings of infinity and NaN, and its significand has its leading bit. -/
structure FmtP.Ok (f : FmtP) : Prop where
  p : 2 ≤ f.p
  bits : f.p < f.bits
  bias : f.emin + f.bias = 1
  emax : f.emin ≤ f.emax
  field : f.emax + f.bias ≤ 2 ^ (f.bits - f.p) - 1
  fieldInf : f.hasInf = true → f.emax + f.bias ≠ 2 ^ (f.bits - f.p) - 1
  fieldNan : f.emax + f.bias = 2 ^ (f.bits - f.p) - 1 → f.maxsig < 2 ^ f.p - 1
  sig : 2 ^ (f.p - 1) ≤ f.maxsig
  sigTop : f.maxsig < 2 ^ f.p

theorem FmtP.ok_of_mem {f : FmtP} (h : f ∈ [fE4M3, fE5M2, fBF16, fFP16, fFP32]) : f.Ok := by
  simp only [List.mem_cons, List.not_mem_nil, or_false] at h
  obtain rfl | rfl | rfl | rfl | rfl := h <;> constructor <;> decide

/-- The exponent of the grid of the largest binade. -/
def FmtP.qmax (f : FmtP) : Int := f.emax - ((f.p : Int) - 1)

/-- The exponent of the grid of the subnormals. -/
def FmtP.qmin (f : FmtP) : Int := f.emin - ((f.p : Int) - 1)

variable {f : FmtP}

theorem FmtP.Ok.two_pow (h : f.Ok) : 2 ^ f.p = 2 * 2 ^ (f.p - 1) := by
  rw [← pow_succ', Nat.sub_add_cancel (by have := h.p; omega)]

/-! ### Decoding an encoding (02 R52, R64) -/

/-- The fields of a sign, an exponent field and a fraction put together. -/
theorem fields_of_sum {F E e r : Nat} (neg : Bool) (hF : r < F) (hE : e < E) :
    let b := (if neg then F * E else 0) + e * F + r
    ((b / (F * E) % 2 == 1) = neg) ∧ b / F % E = e ∧ b % F = r := by
  have hF0 : 0 < F := by omega
  have hlt : e * F + r < F * E := by nlinarith
  intro b
  have hb : b = (if neg then E else 0) * F + e * F + r := by
    show (if neg then F * E else 0) + e * F + r = _
    cases neg
    · simp
    · simp [Nat.mul_comm E F]
  refine ⟨?_, ?_, ?_⟩
  · have hd : b / (F * E) = if neg then 1 else 0 := by
      have hpos : 0 < F * E := by omega
      rw [Nat.div_eq_iff hpos]
      show _ ≤ (if neg then F * E else 0) + e * F + r ∧ (if neg then F * E else 0) + e * F + r ≤ _
      cases neg <;> simp <;> omega
    rw [hd]
    cases neg <;> rfl
  · rw [hb, show (if neg then E else 0) * F + e * F + r = r + F * ((if neg then E else 0) + e) by ring, Nat.add_mul_div_left _ _ hF0,
      Nat.div_eq_of_lt hF, Nat.zero_add]
    cases neg
    · simpa using Nat.mod_eq_of_lt hE
    · simpa using Nat.mod_eq_of_lt hE
  · rw [hb, ← Nat.add_mul, Nat.mul_comm, Nat.mul_add_mod, Nat.mod_eq_of_lt hF]

/-- An encoding decodes to the number that it encodes: `keep` on the grid `q`, a subnormal on the lowest one. -/
theorem decode_encode (h : f.Ok) {neg : Bool} {keep : Nat} {q : Int} (hk : keep < 2 ^ f.p) (hq : f.qmin ≤ q)
    (hs : keep < 2 ^ (f.p - 1) → q = f.qmin) (ht : q < f.qmax ∨ (q = f.qmax ∧ keep ≤ f.maxsig)) :
    decodeElem f (encodeFmt f neg keep q) = .fin ⟨neg, keep, q⟩ := by
  have hbits : 2 ^ (f.bits - 1) = 2 ^ (f.p - 1) * 2 ^ (f.bits - f.p) := by
    rw [← pow_add]
    congr 1
    have := h.p; have := h.bits
    omega
  have hE : 2 ≤ 2 ^ (f.bits - f.p) := by
    have := h.bits
    calc 2 = 2 ^ 1 := rfl
      _ ≤ 2 ^ (f.bits - f.p) := Nat.pow_le_pow_right (by decide) (by omega)
  have hp := h.two_pow
  have hp2 := h.p
  have hfw : ((f.p - 1 : Nat) : Int) = (f.p : Int) - 1 := by omega
  have hbias := h.bias
  unfold FmtP.qmin at hq hs
  by_cases hlow : keep < 2 ^ (f.p - 1)
  · have henc : encodeFmt f neg keep q = (if neg then 2 ^ (f.p - 1) * 2 ^ (f.bits - f.p) else 0) + 0 * 2 ^ (f.p - 1) + keep := by
      unfold encodeFmt
      rw [if_pos hlow, hbits]
      simp
    obtain ⟨h1, h2, h3⟩ := fields_of_sum neg hlow (show 0 < 2 ^ (f.bits - f.p) by omega)
    unfold decodeElem
    dsimp only
    rw [henc, hbits, h1, h2, h3, if_pos (beq_self_eq_true 0), hfw, hs hlow]
  · have hfield := h.field
    unfold FmtP.qmax at ht
    generalize he : (q + ((f.p : Int) - 1) + f.bias).toNat = e
    have hei : (e : Int) = q + ((f.p : Int) - 1) + f.bias := by omega
    have hlt : e < 2 ^ (f.bits - f.p) := by
      zify
      omega
    have henc : encodeFmt f neg keep q
        = (if neg then 2 ^ (f.p - 1) * 2 ^ (f.bits - f.p) else 0) + e * 2 ^ (f.p - 1) + (keep - 2 ^ (f.p - 1)) := by
      unfold encodeFmt
      rw [if_neg hlow, hbits]
      dsimp only
      rw [he]
    obtain ⟨h1, h2, h3⟩ := fields_of_sum neg (show keep - 2 ^ (f.p - 1) < 2 ^ (f.p - 1) by omega) hlt
    have hinf : ((e == 2 ^ (f.bits - f.p) - 1) && f.hasInf) = false := by
      cases hi : f.hasInf with
      | false => simp
      | true =>
        have := h.fieldInf hi
        rw [Bool.and_true, beq_eq_false_iff_ne]
        intro hc
        zify [show 1 ≤ 2 ^ (f.bits - f.p) by omega] at hc
        omega
    have hnan : ((e == 2 ^ (f.bits - f.p) - 1) && (keep - 2 ^ (f.p - 1) == 2 ^ (f.p - 1) - 1)) = false := by
      rw [Bool.and_eq_false_iff, beq_eq_false_iff_ne, beq_eq_false_iff_ne, ← not_and_or]
      rintro ⟨hc, hc'⟩
      zify [show 1 ≤ 2 ^ (f.bits - f.p) by omega] at hc
      have := h.fieldNan
      omega
    unfold decodeElem
    dsimp only
    rw [henc, hbits, h1, h2, h3, hinf, hnan, if_neg (by simp; omega), if_neg Bool.false_ne_true, if_neg Bool.false_ne_true, hfw, hei]
    congr 2
    · omega
    · ring

/-! ### The grid of a value (02 R63, R64) -/

/-- The exponent of the grid on which a format holds a value. -/
def FmtP.grid (f : FmtP) (v : Exact) : Int := max (msb v.mag + v.exp) f.emin - ((f.p : Int) - 1)

/-- A magnitude on the grid `q`, as a quotient of whole numbers. -/
def gridNum (v : Exact) (q : Int) : Nat := if q - v.exp ≤ 0 then v.mag * 2 ^ (-(q - v.exp)).toNat else v.mag
def gridDen (v : Exact) (q : Int) : Nat := if q - v.exp ≤ 0 then 1 else 2 ^ (q - v.exp).toNat

theorem gridDen_pos (v : Exact) (q : Int) : 0 < gridDen v q := by
  unfold gridDen
  split <;> positivity

theorem grid_quotient (v : Exact) (q : Int) : (gridNum v q : ℚ) / gridDen v q = v.mag * (2 : ℚ) ^ (v.exp - q) := by
  unfold gridNum gridDen
  split
  · rw [Nat.cast_one, div_one, show v.exp - q = ((-(q - v.exp)).toNat : Int) by omega, zpow_natCast]
    push_cast
    rfl
  · rw [show v.exp - q = -((q - v.exp).toNat : Int) by omega, zpow_neg, zpow_natCast, div_eq_mul_inv]
    push_cast
    rfl

/-- Rounding up, to nearest or by a word u (02 R64, R65). -/
def roundsUp (N D : Nat) (sr : Bool) (u : Nat) : Bool :=
  if sr then decide (u < N % D * 2 ^ 32 / D) else decide (D < 2 * (N % D)) || (2 * (N % D) == D && N / D % 2 == 1)

/-- Rounding up where the grid drops `n` bits: the leading 32 of them compare with u, or all of them with half a unit. -/
theorem roundsUp_two_pow (N : Nat) {n : Nat} (hn : n ≠ 0) (sr : Bool) (u : Nat) :
    (if sr then decide ((if n ≥ 32 then N % 2 ^ n / 2 ^ (n - 32) else N % 2 ^ n * 2 ^ (32 - n)) > u)
      else decide (N % 2 ^ n > 2 ^ (n - 1)) || (N % 2 ^ n == 2 ^ (n - 1) && N / 2 ^ n % 2 == 1)) = roundsUp N (2 ^ n) sr u := by
  unfold roundsUp
  generalize N % 2 ^ n = r
  cases sr with
  | true =>
    have h32 : (if n ≥ 32 then r / 2 ^ (n - 32) else r * 2 ^ (32 - n)) = r * 2 ^ 32 / 2 ^ n := by
      split
      · have hs : 2 ^ n = 2 ^ (n - 32) * 2 ^ 32 := by rw [← pow_add]; congr 1; omega
        rw [hs, Nat.mul_div_mul_right _ _ (by decide)]
      · have hs : 2 ^ 32 = 2 ^ (32 - n) * 2 ^ n := by rw [← pow_add]; congr 1; omega
        rw [hs, ← Nat.mul_assoc, Nat.mul_div_cancel _ (by positivity)]
    rw [if_pos rfl, if_pos rfl, h32]
  | false =>
    have hs : 2 ^ n = 2 * 2 ^ (n - 1) := by rw [← pow_succ', Nat.sub_add_cancel (by omega)]
    rw [if_neg Bool.false_ne_true, if_neg Bool.false_ne_true, hs]
    congr 1
    · exact decide_eq_decide.mpr (by omega)
    · congr 1
      rw [Bool.eq_iff_iff, beq_iff_eq, beq_iff_eq]
      omega

/-- The encoding of a rounded significand, or of the largest finite value (02 R66). -/
def FmtP.finish (f : FmtP) (neg : Bool) (k : Nat) (q : Int) : Nat × Bool :=
  let carry := k == 2 ^ f.p
  let keep := if carry then k / 2 else k
  let q' := if carry then q + 1 else q
  if q' > f.qmax || (q' == f.qmax && keep > f.maxsig) then (encodeFmt f neg f.maxsig f.qmax, true) else (encodeFmt f neg keep q', false)

/-- A conversion, by the quotient that the magnitude is on its grid. -/
theorem cvt_eq {v : Exact} (hm : v.mag ≠ 0) (sr : Bool) (u : Nat) : cvt f v sr u =
    let q := f.grid v
    let N := gridNum v q
    let D := gridDen v q
    if sr && (decide (q > f.qmax) || (q == f.qmax && (decide (N / D > f.maxsig) || (N / D == f.maxsig && N % D != 0)))) then
      (encodeFmt f v.neg f.maxsig f.qmax, true)
    else f.finish v.neg (N / D + if roundsUp N D sr u then 1 else 0) q := by
  unfold cvt FmtP.finish
  rw [if_neg (by simpa using hm)]
  have hq : max (msb v.mag + v.exp) f.emin - ((f.p : Int) - 1) = f.grid v := rfl
  dsimp only
  rw [hq]
  generalize f.grid v = q
  have hkeep : (if q - v.exp ≤ 0 then v.mag * 2 ^ (-(q - v.exp)).toNat else v.mag / 2 ^ (q - v.exp).toNat)
      = gridNum v q / gridDen v q := by
    unfold gridNum gridDen
    split <;> simp
  have hdrop : (if q - v.exp ≤ 0 then 0 else v.mag % 2 ^ (q - v.exp).toNat) = gridNum v q % gridDen v q := by
    unfold gridNum gridDen
    split <;> simp [Nat.mod_one]
  have hup : (if q - v.exp ≤ 0 then false
      else if sr then decide ((if (q - v.exp).toNat ≥ 32 then gridNum v q % gridDen v q / 2 ^ ((q - v.exp).toNat - 32)
          else gridNum v q % gridDen v q * 2 ^ (32 - (q - v.exp).toNat)) > u)
      else decide (gridNum v q % gridDen v q > 2 ^ ((q - v.exp).toNat - 1))
        || (gridNum v q % gridDen v q == 2 ^ ((q - v.exp).toNat - 1) && gridNum v q / gridDen v q % 2 == 1))
      = roundsUp (gridNum v q) (gridDen v q) sr u := by
    by_cases hnd : q - v.exp ≤ 0
    · rw [if_pos hnd]
      unfold roundsUp gridDen
      rw [if_pos hnd]
      cases sr <;> simp [Nat.mod_one]
    · rw [if_neg hnd]
      unfold gridDen
      rw [if_neg hnd]
      exact roundsUp_two_pow _ (by omega) sr u
  rw [hkeep, hdrop, hup]
  cases roundsUp (gridNum v q) (gridDen v q) sr u <;> rfl

/-! ### The largest value, on a grid -/

/-- The largest finite value on the grid `q`. -/
def FmtP.topOn (f : FmtP) (q : Int) : ℚ := f.maxsig * (2 : ℚ) ^ (f.qmax - q)

theorem FmtP.Ok.topOn_of_lt (h : f.Ok) {q : Int} (hq : q < f.qmax) : (2 : ℚ) ^ f.p ≤ f.topOn q := by
  have h1 : (2 : ℚ) ^ f.p = 2 ^ (f.p - 1) * (2 : ℚ) ^ (1 : Int) := by
    rw [zpow_one, mul_comm, ← pow_succ', Nat.sub_add_cancel (by have := h.p; omega)]
  rw [h1]
  exact mul_le_mul (by exact_mod_cast h.sig) (zpow_le_zpow_right₀ one_le_two (by omega)) (by positivity) (by positivity)

theorem FmtP.topOn_self : f.topOn f.qmax = f.maxsig := by simp [FmtP.topOn]

theorem FmtP.Ok.topOn_of_gt (h : f.Ok) {q : Int} (hq : f.qmax < q) : f.topOn q < 2 ^ (f.p - 1) := by
  have h1 : (2 : ℚ) ^ (f.p - 1) = 2 ^ f.p * (2 : ℚ) ^ (-1 : Int) := by
    rw [show (2 : ℚ) ^ f.p = 2 ^ (f.p - 1) * 2 by rw [← pow_succ, Nat.sub_add_cancel (by have := h.p; omega)]]
    simp
  rw [h1]
  exact mul_lt_mul (by exact_mod_cast h.sigTop) (zpow_le_zpow_right₀ one_le_two (by omega)) (by positivity) (by positivity)

theorem FmtP.Ok.qmin_le (h : f.Ok) : f.qmin ≤ f.qmax := by
  have := h.emax
  unfold FmtP.qmin FmtP.qmax
  omega

/-- The largest finite value decodes to itself. -/
theorem decode_largest (h : f.Ok) (neg : Bool) : decodeElem f (encodeFmt f neg f.maxsig f.qmax) = .fin ⟨neg, f.maxsig, f.qmax⟩ :=
  decode_encode h h.sigTop h.qmin_le (fun hs => absurd h.sig (not_le.mpr hs)) (.inr ⟨rfl, le_rfl⟩)

/-! ### A rounded significand -/

theorem FmtP.finish_keep (neg : Bool) {k : Nat} (q : Int) (hk : k ≠ 2 ^ f.p) : f.finish neg k q
    = if q > f.qmax ∨ (q = f.qmax ∧ k > f.maxsig) then (encodeFmt f neg f.maxsig f.qmax, true) else (encodeFmt f neg k q, false) := by
  have hc : (k == 2 ^ f.p) = false := by simpa using hk
  unfold FmtP.finish
  rw [hc]
  simp

/-- A significand that rounds up to the next binade has its leading bit alone there. -/
theorem FmtP.Ok.finish_carry (h : f.Ok) (neg : Bool) (q : Int) : f.finish neg (2 ^ f.p) q
    = if q + 1 > f.qmax then (encodeFmt f neg f.maxsig f.qmax, true) else (encodeFmt f neg (2 ^ (f.p - 1)) (q + 1), false) := by
  have hk : 2 ^ f.p / 2 = 2 ^ (f.p - 1) := by rw [h.two_pow, Nat.mul_div_cancel_left _ (by decide)]
  have hs : ¬ 2 ^ (f.p - 1) > f.maxsig := not_lt.mpr h.sig
  unfold FmtP.finish
  simp [hk, hs]

/-- A significand up to the largest value is encoded as it is. -/
theorem FmtP.finish_of_le (h : f.Ok) (neg : Bool) {k : Nat} {q : Int} (hk : k ≤ 2 ^ f.p) (hq : f.qmin ≤ q)
    (hs : k < 2 ^ (f.p - 1) → q = f.qmin) (ht : (k : ℚ) ≤ f.topOn q) :
    (f.finish neg k q).2 = false ∧ ∃ w, decodeElem f (f.finish neg k q).1 = .fin w ∧ w.neg = neg ∧ w.mag * (2 : ℚ) ^ (w.exp - q) = k := by
  have hp := h.two_pow
  have hpos : 0 < 2 ^ (f.p - 1) := by positivity
  have hge : k = 2 ^ f.p ∨ 2 ^ (f.p - 1) ≤ k → q ≤ f.qmax := fun hk' => by
    by_contra hc
    have h1 := h.topOn_of_gt (not_le.mp hc)
    have h2 : (2 ^ (f.p - 1) : Nat) ≤ k := by omega
    have h3 : ((2 ^ (f.p - 1) : Nat) : ℚ) ≤ k := by exact_mod_cast h2
    push_cast at h3
    linarith
  have hqm : q ≤ f.qmax := by
    by_cases hlow : k < 2 ^ (f.p - 1)
    · rw [hs hlow]
      exact h.qmin_le
    · exact hge (.inr (not_lt.mp hlow))
  have hsig : q = f.qmax → k ≤ f.maxsig := fun he => by
    rw [he, FmtP.topOn_self] at ht
    exact_mod_cast ht
  have hsig2 := h.sigTop
  by_cases hc : k = 2 ^ f.p
  · have hlt : q < f.qmax := lt_of_le_of_ne hqm fun he => by have := hsig he; omega
    rw [hc, h.finish_carry, if_neg (by omega)]
    refine ⟨rfl, _, decode_encode h (by omega) (by omega) (fun hl => absurd hl (lt_irrefl _)) ?_, rfl, ?_⟩
    · have := h.sig
      omega
    · rw [add_sub_cancel_left, zpow_one, hp]
      push_cast
      ring
  · rw [FmtP.finish_keep neg q hc, if_neg (by omega)]
    refine ⟨rfl, _, decode_encode h (by omega) hq hs ?_, rfl, by simp⟩
    by_cases he : q = f.qmax
    · exact .inr ⟨he, hsig he⟩
    · exact .inl (by omega)

/-- A significand beyond the largest value saturates (02 R66). -/
theorem FmtP.finish_of_gt (h : f.Ok) (neg : Bool) {k : Nat} {q : Int} (hk : k ≤ 2 ^ f.p) (ht : f.topOn q < k) :
    f.finish neg k q = (encodeFmt f neg f.maxsig f.qmax, true) := by
  have hq : f.qmax ≤ q := by
    by_contra hc
    have h1 := h.topOn_of_lt (not_le.mp hc)
    have h2 : (k : ℚ) ≤ 2 ^ f.p := by exact_mod_cast hk
    linarith
  have hsig : q = f.qmax → f.maxsig < k := fun he => by
    rw [he, FmtP.topOn_self] at ht
    exact_mod_cast ht
  by_cases hc : k = 2 ^ f.p
  · rw [hc, h.finish_carry, if_pos (by omega)]
  · rw [FmtP.finish_keep neg q hc, if_pos (by omega)]

/-! ### The magnitude on its grid -/

theorem FmtP.qmin_le_grid (v : Exact) : f.qmin ≤ f.grid v := by
  unfold FmtP.qmin FmtP.grid
  omega

/-- A magnitude on its grid has at most the bits of a significand. -/
theorem grid_lt (f : FmtP) (v : Exact) : v.mag * (2 : ℚ) ^ (v.exp - f.grid v) < 2 ^ f.p := by
  have h1 : (v.mag : ℚ) < (2 : ℚ) ^ ((Nat.log2 v.mag : Int) + 1) := by
    have := Nat.lt_log2_self (n := v.mag)
    exact_mod_cast this
  have h2 : ((Nat.log2 v.mag : Int) + 1) + (v.exp - f.grid v) ≤ f.p := by
    unfold FmtP.grid msb
    omega
  calc v.mag * (2 : ℚ) ^ (v.exp - f.grid v) < (2 : ℚ) ^ ((Nat.log2 v.mag : Int) + 1) * (2 : ℚ) ^ (v.exp - f.grid v) :=
        mul_lt_mul_of_pos_right h1 (by positivity)
    _ = (2 : ℚ) ^ (((Nat.log2 v.mag : Int) + 1) + (v.exp - f.grid v)) := (zpow_add₀ two_ne_zero _ _).symm
    _ ≤ (2 : ℚ) ^ (f.p : Int) := zpow_le_zpow_right₀ one_le_two h2
    _ = 2 ^ f.p := zpow_natCast _ _

/-- Above the lowest grid it has all of them. -/
theorem le_grid (h : f.Ok) {v : Exact} (hm : v.mag ≠ 0) (hq : f.grid v ≠ f.qmin) : 2 ^ (f.p - 1) ≤ v.mag * (2 : ℚ) ^ (v.exp - f.grid v) := by
  have h1 : (2 : ℚ) ^ (Nat.log2 v.mag : Int) ≤ v.mag := by
    have := Nat.log2_self_le hm
    exact_mod_cast this
  have h2 : ((f.p - 1 : Nat) : Int) ≤ (Nat.log2 v.mag : Int) + (v.exp - f.grid v) := by
    have := h.p
    unfold FmtP.grid FmtP.qmin msb at *
    omega
  calc (2 : ℚ) ^ (f.p - 1) = (2 : ℚ) ^ ((f.p - 1 : Nat) : Int) := (zpow_natCast _ _).symm
    _ ≤ (2 : ℚ) ^ ((Nat.log2 v.mag : Int) + (v.exp - f.grid v)) := zpow_le_zpow_right₀ one_le_two h2
    _ = (2 : ℚ) ^ (Nat.log2 v.mag : Int) * (2 : ℚ) ^ (v.exp - f.grid v) := zpow_add₀ two_ne_zero _ _
    _ ≤ v.mag * (2 : ℚ) ^ (v.exp - f.grid v) := mul_le_mul_of_nonneg_right h1 (by positivity)

/-! ### Rounding (02 R63 to R65) -/

/-- The nearest whole number to a quotient, the even one of two, is its whole part or the next. -/
theorem nearestEven_quotient {N D k : Nat} (hD : 0 < D) (h : nearestEven k ((N : ℚ) / D)) (u : Nat) :
    k = N / D + if roundsUp N D false u then 1 else 0 := by
  have hDq : (0 : ℚ) < D := by exact_mod_cast hD
  have hN : (N : Int) = D * (N / D : Nat) + (N % D : Nat) := by exact_mod_cast (Nat.div_add_mod N D).symm
  have hr : N % D < D := Nat.mod_lt _ hD
  have hnear : (k - (N / D : Nat) : Int) * D - (N % D : Nat) = k * D - N := by rw [hN]; ring
  have habs : 2 * |(k : ℚ) - N / D| * D = ((2 * |(k - (N / D : Nat) : Int) * D - (N % D : Nat)| : Int) : ℚ) := by
    rw [hnear]
    push_cast
    rw [mul_assoc, ← abs_of_pos hDq, ← abs_mul, abs_of_pos hDq, sub_mul, div_mul_cancel₀ _ hDq.ne']
  have hle : 2 * |(k - (N / D : Nat) : Int) * D - (N % D : Nat)| ≤ D ∧
      (2 * |(k - (N / D : Nat) : Int) * D - (N % D : Nat)| = D → k % 2 = 0) := by
    obtain h | ⟨h, he⟩ := h
    · have h1 : 2 * |(k : ℚ) - N / D| * D < 1 * D := mul_lt_mul_of_pos_right h hDq
      rw [habs, one_mul] at h1
      have h2 : 2 * |(k - (N / D : Nat) : Int) * D - (N % D : Nat)| < (D : Int) := by exact_mod_cast h1
      exact ⟨h2.le, fun h3 => absurd h3 h2.ne⟩
    · have h1 : 2 * |(k : ℚ) - N / D| * D = 1 * D := by rw [h]
      rw [habs, one_mul] at h1
      have h2 : 2 * |(k - (N / D : Nat) : Int) * D - (N % D : Nat)| = (D : Int) := by exact_mod_cast h1
      exact ⟨h2.le, fun _ => he⟩
  have hup : roundsUp N D false u = (decide (D < 2 * (N % D)) || (2 * (N % D) == D && N / D % 2 == 1)) := rfl
  rw [hup]
  generalize hm : (k - (N / D : Nat) : Int) = m at hle
  generalize N % D = r at hle hr ⊢
  have hm0 : 0 ≤ m := by
    by_contra hc
    have h1 : m * D ≤ -1 * D := mul_le_mul_of_nonneg_right (by omega) (by omega)
    rw [abs_of_neg (by omega)] at hle
    omega
  have hm1 : m ≤ 1 := by
    by_contra hc
    have h1 : 2 * (D : Int) ≤ m * D := mul_le_mul_of_nonneg_right (by omega) (by omega)
    rw [abs_of_pos (by omega)] at hle
    omega
  obtain rfl | rfl : m = 0 ∨ m = 1 := by omega
  · rw [zero_mul, zero_sub, abs_neg, abs_of_nonneg (by omega)] at hle
    rw [if_neg]
    · omega
    · simp only [Bool.or_eq_true, Bool.and_eq_true, decide_eq_true_eq, beq_iff_eq]
      omega
  · rw [one_mul, abs_of_pos (by omega)] at hle
    rw [if_pos]
    · omega
    · simp only [Bool.or_eq_true, Bool.and_eq_true, decide_eq_true_eq, beq_iff_eq]
      omega

/-- The whole part of a quotient, and the leading 32 bits of the rest. -/
theorem floor_quotient {N D : Nat} (hD : 0 < D) :
    ⌊(N : ℚ) / D⌋ = (N / D : Nat) ∧ ⌊((N : ℚ) / D - ⌊(N : ℚ) / D⌋) * 2 ^ 32⌋ = (N % D * 2 ^ 32 / D : Nat) := by
  have hDq : (D : ℚ) ≠ 0 := by exact_mod_cast hD.ne'
  have hfl : ∀ n : Nat, ⌊(n : ℚ) / D⌋ = (n / D : Nat) := fun n => by
    rw [← Int.natCast_floor_eq_floor (by positivity), Nat.floor_div_eq_div]
  have hN : (N : ℚ) = D * (N / D : Nat) + (N % D : Nat) := by exact_mod_cast (Nat.div_add_mod N D).symm
  refine ⟨hfl N, ?_⟩
  rw [← hfl, hfl N]
  congr 1
  rw [Int.cast_natCast, sub_mul, div_mul_eq_mul_div, eq_div_iff hDq, sub_mul, div_mul_cancel₀ _ hDq]
  nth_rewrite 1 [hN]
  push_cast
  ring

/-- A quotient lies above a whole number where its whole part does, or is that number with a rest. -/
theorem above_quotient {N D m : Nat} (hD : 0 < D) : (N / D > m ∨ (N / D = m ∧ N % D ≠ 0)) ↔ (m : ℚ) < N / D := by
  have hDq : (0 : ℚ) < D := by exact_mod_cast hD
  rw [lt_div_iff₀ hDq, ← Nat.cast_mul, Nat.cast_lt]
  have hN := Nat.div_add_mod N D
  have hr := Nat.mod_lt N hD
  constructor
  · rintro (h | ⟨h, h0⟩)
    · have h1 : D * (m + 1) ≤ D * (N / D) := Nat.mul_le_mul_left D h
      rw [Nat.mul_add, Nat.mul_one] at h1
      rw [Nat.mul_comm]
      linarith [Nat.zero_le (N % D)]
    · rw [← h, Nat.mul_comm]
      omega
  · intro h
    by_contra hc
    obtain ⟨h1, h2⟩ := not_or.mp hc
    obtain h3 | h3 := lt_or_eq_of_le (not_lt.mp h1)
    · have := Nat.mul_le_mul_left D h3
      nlinarith
    · have h0 : N % D = 0 := by by_contra h0; exact h2 ⟨h3, h0⟩
      rw [h3, h0, Nat.mul_comm] at hN
      omega

/-! ### The conversion (02 R63 to R66) -/

/-- A finite value converts to `k` on the grid `q`, with flags `fl`. -/
def FmtP.Gives (f : FmtP) (v : Exact) (u : Nat) (q : Int) (sr : Bool) (k : ℚ) (fl : Flags) : Prop :=
  (convertOut f (.fin v) sr u).2 = fl
    ∧ ∃ w, decodeElem f (convertOut f (.fin v) sr u).1 = .fin w ∧ w.neg = v.neg ∧ w.mag * (2 : ℚ) ^ (w.exp - q) = k

variable {v : Exact} {u : Nat} {sr : Bool}

theorem FmtP.gives_of_top (h : f.Ok) (hc : cvt f v sr u = (encodeFmt f v.neg f.maxsig f.qmax, true)) (q : Int) :
    f.Gives v u q sr (f.topOn q) { sat := true } := by
  unfold FmtP.Gives convertOut
  dsimp only
  rw [hc]
  exact ⟨rfl, _, decode_largest h v.neg, rfl, rfl⟩

theorem FmtP.gives_of_finish (h : f.Ok) {k : Nat} {q : Int} (hc : cvt f v sr u = f.finish v.neg k q) (hk : k ≤ 2 ^ f.p) (hq : f.qmin ≤ q)
    (hs : k < 2 ^ (f.p - 1) → q = f.qmin) (ht : (k : ℚ) ≤ f.topOn q) : f.Gives v u q sr k {} := by
  obtain ⟨h1, h2⟩ := FmtP.finish_of_le h v.neg hk hq hs ht
  unfold FmtP.Gives convertOut
  dsimp only
  rw [hc, h1]
  exact ⟨rfl, h2⟩

section
variable (h : f.Ok) (hm : v.mag ≠ 0)
include h hm

/-- The whole part of a magnitude on its grid lies below a significand's range, and has its leading bit above the lowest grid. -/
theorem grid_whole : gridNum v (f.grid v) / gridDen v (f.grid v) < 2 ^ f.p
    ∧ (gridNum v (f.grid v) / gridDen v (f.grid v) < 2 ^ (f.p - 1) → f.grid v = f.qmin) := by
  have hD := gridDen_pos v (f.grid v)
  have hDq : (0 : ℚ) < gridDen v (f.grid v) := by exact_mod_cast hD
  have hx := grid_quotient v (f.grid v)
  constructor
  · have h1 := grid_lt f v
    rw [← hx, div_lt_iff₀ hDq] at h1
    exact (Nat.div_lt_iff_lt_mul hD).mpr (by exact_mod_cast h1)
  · intro hl
    by_contra hc
    have h1 := le_grid h hm hc
    rw [← hx, le_div_iff₀ hDq] at h1
    exact absurd ((Nat.le_div_iff_mul_le hD).mpr (by exact_mod_cast h1)) (not_le.mpr hl)

/-- To nearest, ties to even (02 R63). -/
theorem cvt_nearest {k : Nat} (hk : nearestEven k (v.mag * (2 : ℚ) ^ (v.exp - f.grid v))) :
    ((k : ℚ) ≤ f.topOn (f.grid v) → f.Gives v u (f.grid v) false k {})
      ∧ (f.topOn (f.grid v) < k → f.Gives v u (f.grid v) false (f.topOn (f.grid v)) { sat := true }) := by
  obtain ⟨hlt, hlow⟩ := grid_whole h hm
  rw [← grid_quotient] at hk
  have hk' := nearestEven_quotient (gridDen_pos v _) hk u
  have hc : cvt f v false u = f.finish v.neg k (f.grid v) := by
    rw [cvt_eq hm]
    dsimp only
    rw [Bool.false_and, if_neg Bool.false_ne_true, ← hk']
  have hle : k ≤ 2 ^ f.p := by
    rw [hk']
    split <;> omega
  refine ⟨fun ht => FmtP.gives_of_finish h hc hle (FmtP.qmin_le_grid v) (fun hl => hlow ?_) ht,
    fun ht => FmtP.gives_of_top h (hc.trans (FmtP.finish_of_gt h v.neg hle ht)) _⟩
  omega

/-- By the dropped fraction and the word u (02 R65). -/
theorem cvt_stochastic :
    let x := v.mag * (2 : ℚ) ^ (v.exp - f.grid v)
    (x ≤ f.topOn (f.grid v) → f.Gives v u (f.grid v) true (⌊x⌋ + if (u : Int) < ⌊(x - ⌊x⌋) * 2 ^ 32⌋ then 1 else 0) {})
      ∧ (f.topOn (f.grid v) < x → f.Gives v u (f.grid v) true (f.topOn (f.grid v)) { sat := true }) := by
  intro x
  have hD := gridDen_pos v (f.grid v)
  have hDq : (0 : ℚ) < gridDen v (f.grid v) := by exact_mod_cast hD
  have hx : (gridNum v (f.grid v) : ℚ) / gridDen v (f.grid v) = x := grid_quotient v (f.grid v)
  obtain ⟨hlt, hlow⟩ := grid_whole h hm
  obtain ⟨hf1, hf2⟩ := floor_quotient (N := gridNum v (f.grid v)) hD
  have hcvt := cvt_eq (f := f) hm true u
  have hqx : f.grid v > f.qmax → f.topOn (f.grid v) < x := fun hq =>
    (h.topOn_of_gt hq).trans_le (le_grid h hm (by have := h.qmin_le; omega))
  have hxq : f.grid v < f.qmax → x < f.topOn (f.grid v) := fun hq => (grid_lt f v).trans_le (h.topOn_of_lt hq)
  have hself : f.grid v = f.qmax → f.topOn (f.grid v) = f.maxsig := fun hq => by rw [hq, FmtP.topOn_self]
  rw [hx] at hf1 hf2
  dsimp only at hcvt
  have hguard : (true && (decide (f.grid v > f.qmax) || (f.grid v == f.qmax && (decide (gridNum v (f.grid v) / gridDen v (f.grid v) > f.maxsig)
      || (gridNum v (f.grid v) / gridDen v (f.grid v) == f.maxsig && gridNum v (f.grid v) % gridDen v (f.grid v) != 0))))) = true
      ↔ f.topOn (f.grid v) < x := by
    simp only [Bool.true_and, Bool.or_eq_true, Bool.and_eq_true, decide_eq_true_eq, beq_iff_eq, bne_iff_ne]
    constructor
    · rintro (hq | ⟨hq, hs⟩)
      · exact hqx hq
      · rw [hself hq, ← hx]
        exact (above_quotient hD).mp hs
    · intro ht
      by_cases hq : f.grid v > f.qmax
      · exact .inl hq
      · by_cases hq' : f.grid v = f.qmax
        · rw [hself hq', ← hx] at ht
          exact .inr ⟨hq', (above_quotient hD).mpr ht⟩
        · exact absurd (hxq (by omega)) (not_lt.mpr ht.le)
  refine ⟨fun ht => ?_, fun ht => FmtP.gives_of_top h (hcvt.trans (if_pos (hguard.mpr ht))) _⟩
  rw [if_neg (mt hguard.mp (not_lt.mpr ht))] at hcvt
  have hval : (⌊x⌋ : ℚ) + (if (u : Int) < ⌊(x - ⌊x⌋) * 2 ^ 32⌋ then 1 else 0)
      = ((gridNum v (f.grid v) / gridDen v (f.grid v)
          + if roundsUp (gridNum v (f.grid v)) (gridDen v (f.grid v)) true u then 1 else 0 : Nat) : ℚ) := by
    rw [hf2, hf1]
    unfold roundsUp
    push_cast
    simp only [if_true, decide_eq_true_eq]
    norm_cast
  rw [hval]
  refine FmtP.gives_of_finish h hcvt (by split <;> omega) (FmtP.qmin_le_grid v) (fun hl => hlow (by omega)) ?_
  by_cases hq : f.grid v < f.qmax
  · refine le_trans ?_ (h.topOn_of_lt hq)
    norm_cast
    split <;> omega
  · have hqe : f.grid v = f.qmax := by
      by_contra hc
      exact absurd (hqx (by omega)) (not_lt.mpr ht)
    rw [hself hqe, ← hx] at ht
    have hab := mt (above_quotient hD).mp (not_lt.mpr ht)
    rw [hself hqe, Nat.cast_le]
    by_cases h0 : gridNum v (f.grid v) % gridDen v (f.grid v) = 0
    · have hup : roundsUp (gridNum v (f.grid v)) (gridDen v (f.grid v)) true u = false := by simp [roundsUp, h0]
      rw [hup, if_neg Bool.false_ne_true]
      omega
    · split <;> omega

end

/-! ### Special values (02 R61, R62) -/

/-- NaN, infinity and zero convert to their encodings. -/
theorem convertOut_special (h : f ∈ [fE4M3, fE5M2, fBF16, fFP16, fFP32]) (n sr : Bool) (u : Nat) (e : Int) :
    convertOut f .nan sr u = (f.qnan, { special := true }) ∧ decodeElem f f.qnan = .nan
      ∧ (convertOut f (.inf n) sr u).2 = { special := true }
      ∧ decodeElem f (convertOut f (.inf n) sr u).1 = (if f.hasInf then .inf n else .nan)
      ∧ (convertOut f (.fin ⟨n, 0, e⟩) sr u).2 = {} ∧ ∃ w, decodeElem f (convertOut f (.fin ⟨n, 0, e⟩) sr u).1 = .fin ⟨n, 0, w⟩ := by
  have hok := FmtP.ok_of_mem h
  have hz : convertOut f (.fin ⟨n, 0, e⟩) sr u = (encodeFmt f n 0 f.qmin, {}) := by
    have h0 : encodeFmt f n 0 0 = encodeFmt f n 0 f.qmin := by
      simp [encodeFmt]
    rw [← h0]
    rfl
  have hzero : decodeElem f (encodeFmt f n 0 f.qmin) = .fin ⟨n, 0, f.qmin⟩ :=
    decode_encode hok (by positivity) le_rfl (fun _ => rfl) (by
      obtain hq | hq := lt_or_eq_of_le hok.qmin_le
      · exact .inl hq
      · exact .inr ⟨hq, Nat.zero_le _⟩)
  rw [hz]
  refine ⟨rfl, ?_, rfl, ?_, rfl, _, hzero⟩
  · simp only [List.mem_cons, List.not_mem_nil, or_false] at h
    obtain rfl | rfl | rfl | rfl | rfl := h <;> decide
  · show decodeElem f (encodeInf f n) = _
    simp only [List.mem_cons, List.not_mem_nil, or_false] at h
    obtain rfl | rfl | rfl | rfl | rfl := h <;> cases n <;> decide

end Sys2Proof.Machine
end

section
/-! SUPPORT. The verdict of a drained tile (04 R130, R132, Table 4-5): what it leaves of the core, and of the digest records and events. -/

namespace Sys2Proof.Machine

variable {s t : State} {d : Drain}

/-! ### Digest records stay where other things are reported -/

theorem State.post_digRecs (e : EvRec) : (s.post e).ev.digRecs = s.ev.digRecs := by
  rw [State.post_ev]
  rfl

theorem State.replayEnd_digRecs (x : Part) (v : Option Divergence) : (s.replayEnd x v).ev.digRecs = s.ev.digRecs := by
  unfold State.replayEnd
  split <;> rfl

theorem State.replayCheck_digRecs (r : CapRec) : (s.replayCheck r).ev.digRecs = s.ev.digRecs := by
  unfold State.replayCheck
  dsimp only
  split
  · split
    · split
      · exact State.replayEnd_digRecs _ _
      · rfl
    · split <;> rfl
  · rfl

theorem State.dropStep_digRecs (part : Nat) (step : W64) : (s.dropStep part step).ev.digRecs = s.ev.digRecs :=
  State.post_digRecs _

theorem State.record_digRecs (half type part : Nat) (step : W64) (body : List Byte) :
    (s.record half type part step body).ev.digRecs = s.ev.digRecs := by
  unfold State.record
  dsimp -iota -proj only
  split
  · split
    · split
      · exact State.dropStep_digRecs _ _
      · exact State.replayCheck_digRecs _
    · split
      · exact State.dropStep_digRecs _ _
      · exact State.replayCheck_digRecs _
  · rfl

/-- A partition that the recorder does not record leaves it alone. -/
theorem State.record_off {half type part : Nat} {step : W64} {body : List Byte} (h : (tget {} s.ev.capCfg part).en = false) :
    s.record half type part step body = s := by
  unfold State.record
  rw [h]
  rfl

/-! ### The digest record -/

section
variable (half : Nat) (r : DigestRec)

theorem State.recordDigest_mem : (s.recordDigest half r).mem = s.mem := by
  unfold State.recordDigest
  dsimp only
  split
  · exact State.record_mem _ _ _ _ _ _
  · rfl

theorem State.recordDigest_cores : (s.recordDigest half r).cores = s.cores := by
  unfold State.recordDigest
  dsimp only
  split
  · exact State.record_cores _ _ _ _ _ _
  · rfl

theorem State.recordDigest_digRecs : (s.recordDigest half r).ev.digRecs = s.ev.digRecs ++ [r] := by
  unfold State.recordDigest
  dsimp only
  split
  · exact State.record_digRecs _ _ _ _ _
  · rfl

variable {r}

theorem State.recordDigest_slots (h : (tget {} s.ev.capCfg r.part).en = false) : (s.recordDigest half r).ev.slots = s.ev.slots := by
  unfold State.recordDigest
  dsimp only
  split
  · rw [State.record_off]
    · rfl
    · exact h
  · rfl

end

/-! ### The core after a verdict -/

/-- What a verdict leaves of the core, but for what its stream keeps of a mismatch. -/
def Core.judged (c : Core) (d : Drain) : Core :=
  let c1 : Core := { c with lastDig := d.dig.digest, drains := c.drains.filter fun x => x != d }
  let c2 := c1.emptied (if d.dig.wide then [0, 1] else [d.bank])
  if !d.checked then c2
  else if d.skip then { c2 with ckSkip := satAdd c2.ckSkip 1 }
  else if d.badRow.isSome || d.badCol.isSome then { c2 with ckFail := satAdd c2.ckFail 1, ckf := true, ckLoc := Machine.ckLoc d }
  else { c2 with ckDone := satAdd c2.ckDone 1 }

/-- Emptying banks changes banks alone. -/
theorem Core.emptied_frame (c : Core) (bs : List Nat) : c.emptied bs = { c with b0 := (c.emptied bs).b0, b1 := (c.emptied bs).b1 } := by
  unfold Core.emptied
  induction bs generalizing c with
  | nil => rfl
  | cons b bs ih =>
    have hb : ∀ k, c.setBank b k = { c with b0 := (c.setBank b k).b0, b1 := (c.setBank b k).b1 } := fun k => by
      unfold Core.setBank
      split <;> rfl
    rw [List.foldl_cons]
    by_cases hd : (c.bank b).state = .draining
    · rw [if_pos hd, ih, hb]
    · rw [if_neg hd, ih]

theorem Core.bank_setBank (c : Core) {b j : Nat} (k : Bank) (hb : b = 0 ∨ b = 1) (hj : j = 0 ∨ j = 1) :
    (c.setBank b k).bank j = if j = b then k else c.bank j := by
  obtain rfl | rfl := hb <;> obtain rfl | rfl := hj <;> rfl

/-- A bank that is DRAINING is EMPTY after its tile's verdict (Table 4-5). -/
theorem Core.bank_emptied (c : Core) {wide : Bool} {x b : Nat} (hb : b ∈ if wide then [0, 1] else [x]) (hv : b = 0 ∨ b = 1)
    (hd : (c.bank b).state = .draining) : (c.emptied (if wide then [0, 1] else [x])).bank b = {} := by
  have hset : ∀ {c : Core} (j : Nat), j = 0 ∨ j = 1 → j ≠ b →
      (if (c.bank j).state = .draining then c.setBank j {} else c).bank b = c.bank b := fun {c} j hj hne => by
    split
    · rw [c.bank_setBank _ hj hv, if_neg (Ne.symm hne)]
    · rfl
  have hself : ∀ {c : Core}, (c.bank b).state = .draining → (if (c.bank b).state = .draining then c.setBank b {} else c).bank b = {} :=
    fun {c} h => by rw [if_pos h, c.bank_setBank _ hv hv, if_pos rfl]
  cases wide with
  | false =>
    obtain rfl : b = x := by simpa using hb
    exact hself hd
  | true =>
    unfold Core.emptied
    simp only [if_true, List.foldl_cons, List.foldl_nil]
    obtain rfl | rfl := hv
    · rw [hset 1 (.inr rfl) (by decide)]
      exact hself hd
    · exact hself (by rw [hset 0 (.inl rfl) (by decide)]; exact hd)

/-- The core after a verdict, field by field: banks, digest and drains, and the one counter that the check moves (04 R130). -/
theorem Core.judged_eq (c : Core) (d : Drain) : c.judged d =
    let e := ({ c with lastDig := d.dig.digest, drains := c.drains.filter fun x => x != d } : Core).emptied
      (if d.dig.wide then [0, 1] else [d.bank])
    let bad := d.badRow.isSome || d.badCol.isSome
    let fails := d.checked && !d.skip && bad
    { c with
      lastDig := d.dig.digest, drains := c.drains.filter fun x => x != d, b0 := e.b0, b1 := e.b1
      ckDone := if d.checked && !d.skip && !bad then satAdd c.ckDone 1 else c.ckDone
      ckSkip := if d.checked && d.skip then satAdd c.ckSkip 1 else c.ckSkip
      ckFail := if fails then satAdd c.ckFail 1 else c.ckFail
      ckf := if fails then true else c.ckf
      ckLoc := if fails then Machine.ckLoc d else c.ckLoc } := by
  unfold Core.judged
  dsimp only
  rw [Core.emptied_frame]
  cases d.checked with
  | false => rfl
  | true =>
    cases d.skip with
    | true => rfl
    | false => cases d.badRow.isSome || d.badCol.isSome <;> rfl

/-! ### What a verdict leaves -/

/-- A change of the streams of a core alone. -/
def Core.StreamsOnly (c d : Core) : Prop := d = { c with fwd := d.fwd, bwd := d.bwd, upd := d.upd }

theorem Core.StreamsOnly.refl (c : Core) : c.StreamsOnly c := rfl

theorem Core.StreamsOnly.trans {a b c : Core} (h : a.StreamsOnly b) (k : b.StreamsOnly c) : a.StreamsOnly c := by
  unfold Core.StreamsOnly at *
  rw [k, h]

theorem Core.StreamsOnly.setStream (c : Core) (p : Pass) (st : Stream) : c.StreamsOnly (c.setStream p st) := by
  cases p <;> rfl

/-- A change of memory's neighbours alone: the streams of one core, and what events change beside `ev` itself. -/
structure State.Reported (s t : State) (key : Nat) : Prop where
  core : (s.core key).StreamsOnly (t.core key)
  mem : t.mem = s.mem
  digRecs : t.ev.digRecs = s.ev.digRecs

theorem State.Reported.refl (s : State) (key : Nat) : s.Reported s key := ⟨.refl _, rfl, rfl⟩

theorem State.Reported.trans {r : State} {key : Nat} (h : r.Reported s key) (k : s.Reported t key) : r.Reported t key :=
  ⟨h.core.trans k.core, k.mem.trans h.mem, k.digRecs.trans h.digRecs⟩

theorem State.Reported.post (s : State) (key : Nat) (e : EvRec) : s.Reported (s.post e) key :=
  ⟨by rw [State.core_of_cores (s.post_cores e)]; exact .refl _, s.post_mem e, State.post_digRecs e⟩

theorem State.Reported.modStream (s : State) (i : StreamId) (f : Stream → Stream) : s.Reported (s.modStream i f) (skey i) :=
  ⟨by unfold State.modStream; rw [State.core_setStream]; exact .setStream _ _ _, rfl, rfl⟩

/-- An output without flags posts nothing and adds nothing to its stream's outcome. -/
theorem State.postFlags_none (ev : EvRec) (scale : Bool) : s.postFlags ev {} scale = s := by
  cases scale <;> rfl

theorem State.Reported.collectFlags_none (s : State) (i : StreamId) (inop scale : Bool) :
    s.Reported (s.collectFlags i inop {} scale) (skey i) ∧ (s.collectFlags i inop {} scale).ev = s.ev := by
  cases inop with
  | true =>
    have h : s.collectFlags i true {} scale
        = s.modStream i fun st => { st with opFlags := st.opFlags.or {}, opScale := st.opScale + scaleEvents {} scale } := rfl
    rw [h]
    exact ⟨.modStream s i _, rfl⟩
  | false =>
    have h : s.collectFlags i false {} scale = s := by cases scale <;> rfl
    rw [h]
    exact ⟨.refl _ _, rfl⟩

/-- A mismatch is reported, and the stream keeps it inside an operation (04 R130, 05 R156). -/
def State.tellMismatch (s : State) (i : StreamId) (d : Drain) : State :=
  if d.badRow.isSome || d.badCol.isSome then
    (s.post { s.coreEv i 1 0x01 0 d.dig.step d.iaddr d.dig.attempt (BitVec.ofNat 64 ((ckLoc d).toNat + d.dig.tid.toNat * 2 ^ 32)) with
      part := (s.coreEv i 2 0 0 d.dig.step d.iaddr d.dig.attempt (d.dig.tid.setWidth 64)).part }).modStream i
        fun st => if d.inop then { st with mismatch := true } else st
  else s

theorem State.Reported.tellMismatch (s : State) (i : StreamId) (d : Drain) : s.Reported (s.tellMismatch i d) (skey i)
    ∧ ((d.badRow.isSome || d.badCol.isSome) = false → s.tellMismatch i d = s) := by
  unfold State.tellMismatch
  cases d.badRow.isSome || d.badCol.isSome with
  | false => exact ⟨.refl _ _, fun _ => rfl⟩
  | true => exact ⟨(State.Reported.post _ _ _).trans (.modStream _ i _), fun h => absurd h (by decide)⟩

/-- The verdict of a tile without flags: the core is judged, and a mismatch is reported before the digest record. -/
theorem State.verdict_eq {i : StreamId} (hi : i = ⟨skey i / 128, skey i % 128, d.pass⟩) (hf : d.flags = {}) :
    s.verdict (skey i) d = (((s.modCore (skey i) (·.judged d)).tellMismatch i d).collectFlags i d.inop {} (d.pol == 1)).recordDigest
      (halfOfDie (skey i / 128)) { d.dig with failed := d.badRow.isSome || d.badCol.isSome } := by
  unfold State.verdict State.tellMismatch
  dsimp only
  rw [← hi, hf, State.postFlags_none]
  rfl

/-- The verdict that a core's only drained tile of a bank waits for (04 R132). -/
theorem exec_tileVerdict {c : CoreId} (h : (s.core (ckey c)).drains = [d]) : exec (.tileVerdict c d.bank) s = .next (s.verdict (ckey c) d) := by
  show execTileVerdict c d.bank s = _
  unfold execTileVerdict
  rw [h, List.find?_cons_of_pos (by simp)]

theorem tileVerdict_holds (s : State) (c : CoreId) (bank : Nat) (d : Drain) (hw : (⟨c.die, c.core, d.pass⟩ : StreamId).wf = true)
    (h : (s.core (ckey c)).drains = [d]) (hb : d.bank = bank) (hf : d.flags = {}) :
    ∃ t, exec (.tileVerdict c bank) s = .next t ∧
      let k := t.core (ckey c)
      let k0 := s.core (ckey c)
      let bad := d.badRow.isSome || d.badCol.isSome
      k.drains = [] ∧ k.lastDig = d.dig.digest
        ∧ k.ckDone = (if d.checked && !d.skip && !bad then satAdd k0.ckDone 1 else k0.ckDone)
        ∧ k.ckSkip = (if d.checked && d.skip then satAdd k0.ckSkip 1 else k0.ckSkip)
        ∧ k.ckFail = (if d.checked && !d.skip && bad then satAdd k0.ckFail 1 else k0.ckFail)
        ∧ (d.checked = true → d.skip = false → bad = true → k.ckf = true ∧ k.ckLoc = ckLoc d)
        ∧ (∀ b, b ∈ (if d.dig.wide then [0, 1] else [d.bank]) → b = 0 ∨ b = 1 → (k0.bank b).state = .draining → k.bank b = {})
        ∧ t.ev.digRecs = s.ev.digRecs ++ [{ d.dig with failed := bad }]
        ∧ (bad = false → (tget {} s.ev.capCfg d.dig.part).en = false → t.ev.slots = s.ev.slots) ∧ t.mem = s.mem := by
  subst hb
  have hi : (⟨c.die, c.core, d.pass⟩ : StreamId) = ⟨ckey c / 128, ckey c % 128, d.pass⟩ := by
    obtain ⟨_, hcore⟩ : c.die < 12 ∧ c.core < 64 := by simpa [StreamId.wf] using hw
    have h1 : (c.die * 128 + c.core) / 128 = c.die := by omega
    have h2 : (c.die * 128 + c.core) % 128 = c.core := by omega
    rw [ckey, coreKey, h1, h2]
  obtain ⟨ht, hnone⟩ := State.Reported.tellMismatch (s.modCore (ckey c) (·.judged d)) ⟨c.die, c.core, d.pass⟩ d
  obtain ⟨hr, hev⟩ := State.Reported.collectFlags_none
    ((s.modCore (ckey c) (·.judged d)).tellMismatch ⟨c.die, c.core, d.pass⟩ d) ⟨c.die, c.core, d.pass⟩ d.inop (d.pol == 1)
  have hall := ht.trans hr
  refine ⟨_, exec_tileVerdict h, ?_⟩
  have hv := State.verdict_eq (s := s) (i := ⟨c.die, c.core, d.pass⟩) hi hf
  rw [show skey ⟨c.die, c.core, d.pass⟩ = ckey c from rfl] at hv hall
  rw [hv]
  generalize (((s.modCore (ckey c) (·.judged d)).tellMismatch ⟨c.die, c.core, d.pass⟩ d).collectFlags ⟨c.die, c.core, d.pass⟩ d.inop {}
    (d.pol == 1)) = r at hall hev ⊢
  have hcore := hall.core
  rw [State.core_modCore, Core.judged_eq] at hcore
  dsimp only
  rw [State.core_of_cores (State.recordDigest_cores _ _), hcore]
  refine ⟨by simp [h], rfl, rfl, rfl, rfl, fun h1 h2 h3 => ?_, fun b hb hv hd => ?_, ?_, fun hbad hen => ?_, ?_⟩
  · simp [h1, h2, h3]
  · exact (Core.bank_emptied _ hb hv (by exact hd))
  · rw [State.recordDigest_digRecs, hall.digRecs]
    rfl
  · rw [State.recordDigest_slots, hev, hnone hbad]
    · rfl
    · rw [hev, hnone hbad]
      exact hen
  · rw [State.recordDigest_mem, hall.mem]
    rfl

end Sys2Proof.Machine
end

section
/-! SUPPORT. A converted tile by position (02 R64, R74, 06 R184): the code of each element, the scale byte at each offset, and the bytes
that its writes leave. -/

namespace Sys2Proof.Machine

/-! ### Blocks by position -/

/-- The items of blocks of one length, by block and place, are those by position. -/
theorem blocks_iff {L : Nat → List Nat} {b : Nat} (hb : 0 < b) (hl : ∀ g, (L g).length = b) {m g t e : Nat} :
    (g < m ∧ (L g)[t]? = some e) ↔ ∃ c, c < m * b ∧ g = c / b ∧ t = c % b ∧ e = (L (c / b)).getD (c % b) 0 := by
  constructor
  · rintro ⟨hg, ht⟩
    obtain ⟨htl, he⟩ := List.getElem?_eq_some_iff.mp ht
    rw [hl] at htl
    refine ⟨b * g + t, ?_, ?_, ?_, ?_⟩
    · calc b * g + t < b * g + b := by omega
        _ = (g + 1) * b := by ring
        _ ≤ m * b := Nat.mul_le_mul_right b hg
    · rw [Nat.mul_add_div hb, Nat.div_eq_of_lt htl, Nat.add_zero]
    · rw [Nat.mul_add_mod, Nat.mod_eq_of_lt htl]
    · rw [Nat.mul_add_div hb, Nat.div_eq_of_lt htl, Nat.add_zero, Nat.mul_add_mod, Nat.mod_eq_of_lt htl, List.getD_eq_getElem?_getD, ht]
      rfl
  · rintro ⟨c, hc, rfl, rfl, rfl⟩
    refine ⟨(Nat.div_lt_iff_lt_mul hb).mpr hc, ?_⟩
    rw [List.getD_eq_getElem?_getD, List.getElem?_eq_getElem (by rw [hl]; exact Nat.mod_lt _ hb)]
    rfl

variable {f axis r0 c0 rows : Nat} {sr : Bool} {val : Nat → Nat → OutVal} {u : Nat → Nat → Nat}

/-- The code of an element of a tile. -/
def tileCodeOf (f axis : Nat) (sr : Bool) (val : Nat → Nat → OutVal) (u : Nat → Nat → Nat) (r c : Nat) : Nat :=
  let b := sbBlock f
  if b = 0 then (convertOut (fmtP f) (val r c) sr (u r c)).1
  else if axis = 0 then (lineBlock f sr (val r) (u r) (c / b)).2.1.getD (c % b) 0
  else (lineBlock f sr (fun t => val t c) (fun t => u t c) (r / b)).2.1.getD (r % b) 0

/-- The scale at an offset from A[ASO]. -/
def tileScaleOf (f axis : Nat) (sr : Bool) (val : Nat → Nat → OutVal) (u : Nat → Nat → Nat) (o : Nat) : Nat :=
  let b := sbBlock f
  if axis = 0 then (lineBlock f sr (val (o / (32 / b))) (u (o / (32 / b))) (o % (32 / b))).1
  else (lineBlock f sr (fun t => val t (o % 32)) (fun t => u t (o % 32)) (o / 32)).1

/-- The blocks of a line of a tile, numbered. -/
theorem convertLine_zipIdx (v : Nat → OutVal) (w : Nat → Nat) {m n : Nat} (hf : sbBlock f ≠ 0) (hn : n = m * sbBlock f) {α : Type}
    (F : Nat → Nat × List Nat × Flags → α) :
    ((convertLine f sr ((List.range n).map fun t => (v t, w t))).zipIdx.map fun x => F x.2 x.1)
      = (List.range m).map fun g => F g (lineBlock f sr v w g) := by
  rw [hn, convertLine_range f sr v w hf]
  exact map_zipIdx_range _ _ _

/-- The elements of a converted tile are the codes at its positions. -/
theorem mem_convertTile_elems {m : Nat} (hr : rows = 32 * m) {x : Nat × Nat × Nat} :
    x ∈ (convertTile f axis r0 c0 rows sr val u).elems
      ↔ ∃ r c, r < rows ∧ c < 32 ∧ x = (r, c, tileCodeOf f axis sr val u r c) := by
  unfold convertTile tileCodeOf
  dsimp only
  by_cases hf : sbBlock f = 0
  · simp only [if_pos hf, List.mem_map, List.mem_flatMap, List.mem_range]
    constructor
    · rintro ⟨y, ⟨r, hr, c, hc, rfl⟩, rfl⟩
      exact ⟨r, c, hr, hc, rfl⟩
    · rintro ⟨r, c, hr, hc, rfl⟩
      exact ⟨_, ⟨r, hr, c, hc, rfl⟩, rfl⟩
  · have hb : 0 < sbBlock f := Nat.pos_of_ne_zero hf
    have h32 : 32 = 32 / sbBlock f * sbBlock f := by obtain h | h := sbBlock_cases hf <;> rw [h]
    have hrow : rows = rows / sbBlock f * sbBlock f := by
      rw [hr]
      obtain h | h := sbBlock_cases hf <;> rw [h] <;> omega
    by_cases ha : axis = 0
    · have hl := fun i => convertLine_zipIdx (sr := sr) (val i) (u i) hf h32 fun g o => (i, g, o)
      simp only [if_neg hf, if_pos ha, hl, List.mem_flatMap, List.mem_map, List.mem_range]
      constructor
      · rintro ⟨y, ⟨i, hi, g, hg, rfl⟩, ⟨e, t⟩, ht, rfl⟩
        obtain ⟨c, hc, rfl, rfl, rfl⟩ := (blocks_iff hb (length_lineBlock f sr (val i) (u i))).mp ⟨hg, List.mk_mem_zipIdx_iff_getElem?.mp ht⟩
        exact ⟨i, c, hi, by rwa [← h32] at hc, by rw [Nat.div_add_mod]⟩
      · rintro ⟨r, c, hr, hc, rfl⟩
        obtain ⟨hg, ht⟩ := (blocks_iff hb (length_lineBlock f sr (val r) (u r))).mpr ⟨c, by rwa [← h32], rfl, rfl, rfl⟩
        exact ⟨_, ⟨r, hr, _, hg, rfl⟩, (_, _), List.mk_mem_zipIdx_iff_getElem?.mpr ht, by rw [Nat.div_add_mod]⟩
    · have hl := fun j => convertLine_zipIdx (sr := sr) (fun i => val i j) (fun i => u i j) hf hrow fun g o => (j, g, o)
      simp only [if_neg hf, if_neg ha, hl, List.mem_flatMap, List.mem_map, List.mem_range]
      constructor
      · rintro ⟨y, ⟨j, hj, g, hg, rfl⟩, ⟨e, t⟩, ht, rfl⟩
        obtain ⟨r, hr, rfl, rfl, rfl⟩ :=
          (blocks_iff hb (length_lineBlock f sr (fun i => val i j) fun i => u i j)).mp ⟨hg, List.mk_mem_zipIdx_iff_getElem?.mp ht⟩
        exact ⟨r, j, by rwa [← hrow] at hr, hj, by rw [Nat.div_add_mod]⟩
      · rintro ⟨r, c, hr, hc, rfl⟩
        obtain ⟨hg, ht⟩ := (blocks_iff hb (length_lineBlock f sr (fun i => val i c) fun i => u i c)).mpr ⟨r, by rwa [← hrow], rfl, rfl, rfl⟩
        exact ⟨_, ⟨c, hc, _, hg, rfl⟩, (_, _), List.mk_mem_zipIdx_iff_getElem?.mpr ht, by rw [Nat.div_add_mod]⟩

/-- A plain format has no scale bytes. -/
theorem convertTile_scales_plain (hf : sbBlock f = 0) : (convertTile f axis r0 c0 rows sr val u).scales = [] := by
  unfold convertTile
  dsimp only
  rw [if_pos hf]

/-- The scale bytes of a converted tile, by offset: of a row's blocks one after the other, or of the blocks of 32 columns. -/
theorem mem_convertTile_scales {m : Nat} (hr : rows = 32 * m) (hf : sbBlock f ≠ 0) {o v : Nat} :
    (∃ y ∈ (convertTile f axis r0 c0 rows sr val u).scales, y.2.2 = (o, v))
      ↔ o < rows * 32 / sbBlock f ∧ v = tileScaleOf f axis sr val u o := by
  unfold convertTile tileScaleOf
  dsimp only
  have hb : 0 < sbBlock f := Nat.pos_of_ne_zero hf
  have h32 : 32 = 32 / sbBlock f * sbBlock f := by obtain h | h := sbBlock_cases hf <;> rw [h]
  have hrow : rows = rows / sbBlock f * sbBlock f := by
    rw [hr]
    obtain h | h := sbBlock_cases hf <;> rw [h] <;> omega
  have hk : 0 < 32 / sbBlock f := by obtain h | h := sbBlock_cases hf <;> rw [h] <;> decide
  by_cases ha : axis = 0
  · have hl := fun i => convertLine_zipIdx (sr := sr) (val i) (u i) hf h32 fun g o => (i, g, o)
    have hn : rows * 32 / sbBlock f = rows * (32 / sbBlock f) := by
      nth_rewrite 1 [h32]
      rw [← Nat.mul_assoc, Nat.mul_div_cancel _ hb]
    simp only [if_neg hf, if_pos ha, hl, List.mem_map, List.mem_flatMap, List.mem_range, hn]
    constructor
    · rintro ⟨y, ⟨z, ⟨i, hi, g, hg, rfl⟩, rfl⟩, he⟩
      obtain ⟨rfl, rfl⟩ := Prod.mk.inj he
      dsimp only
      have h1 : (i * (32 / sbBlock f) + g) / (32 / sbBlock f) = i := by
        rw [Nat.mul_comm, Nat.mul_add_div hk, Nat.div_eq_of_lt hg, Nat.add_zero]
      have h2 : (i * (32 / sbBlock f) + g) % (32 / sbBlock f) = g := by rw [Nat.mul_comm, Nat.mul_add_mod, Nat.mod_eq_of_lt hg]
      rw [h1, h2]
      refine ⟨?_, rfl⟩
      calc i * (32 / sbBlock f) + g < (i + 1) * (32 / sbBlock f) := by rw [Nat.succ_mul]; omega
        _ ≤ rows * (32 / sbBlock f) := Nat.mul_le_mul_right _ hi
    · rintro ⟨ho, rfl⟩
      exact ⟨_, ⟨_, ⟨o / (32 / sbBlock f), (Nat.div_lt_iff_lt_mul hk).mpr ho, o % (32 / sbBlock f), Nat.mod_lt _ hk, rfl⟩, rfl⟩,
        by rw [Nat.div_add_mod']⟩
  · have hl := fun j => convertLine_zipIdx (sr := sr) (fun i => val i j) (fun i => u i j) hf hrow fun g o => (j, g, o)
    have hn : rows * 32 / sbBlock f = rows / sbBlock f * 32 := by
      nth_rewrite 1 [hrow]
      rw [Nat.mul_right_comm, Nat.mul_div_cancel _ hb]
    simp only [if_neg hf, if_neg ha, hl, List.mem_map, List.mem_flatMap, List.mem_range, hn]
    constructor
    · rintro ⟨y, ⟨z, ⟨j, hj, g, hg, rfl⟩, rfl⟩, he⟩
      obtain ⟨rfl, rfl⟩ := Prod.mk.inj he
      dsimp only
      have h1 : (32 * g + j) / 32 = g := by omega
      have h2 : (32 * g + j) % 32 = j := by omega
      rw [h1, h2]
      exact ⟨by omega, rfl⟩
    · rintro ⟨ho, rfl⟩
      exact ⟨_, ⟨_, ⟨o % 32, Nat.mod_lt _ (by decide), o / 32, by omega, rfl⟩, rfl⟩, by rw [Nat.div_add_mod]⟩

end Sys2Proof.Machine
end

section
/-! SUPPORT. The bytes that the writes of a tile leave (06 R184): its elements at its pitch, and its scale bytes. -/

namespace Sys2Proof.Machine

/-- The elements of a tile stored as long words. -/
theorem mem_storeTile_elems {rows : Nat} {wide : Bool} {lw : Nat → Nat → LW} {x : Nat → Nat → W256} {y : Nat × Nat × Nat} :
    y ∈ (storeTile rows wide lw x).elems ↔ ∃ r c, r < rows ∧ c < 32 ∧ y = (r, c, ((lw r c).store wide (x r c)).1.toNat) := by
  unfold storeTile
  simp only [List.mem_map, List.mem_flatMap, List.mem_range]
  constructor
  · rintro ⟨z, ⟨r, hr, c, hc, rfl⟩, rfl⟩
    exact ⟨r, c, hr, hc, rfl⟩
  · rintro ⟨r, c, hr, hc, rfl⟩
    exact ⟨_, ⟨r, hr, c, hc, rfl⟩, rfl⟩

/-! ### The bytes of a tile -/

theorem overlay_append (rd : Nat → Byte) (ws ws' : List (Nat × Byte)) : overlay rd (ws ++ ws') = overlay (overlay rd ws) ws' :=
  List.foldl_append

/-- A byte that is written, and by every write with one value, reads as that value. -/
theorem overlay_of_forall {rd : Nat → Byte} {ws : List (Nat × Byte)} {a : Nat} {b : Byte} (hm : a ∈ ws.map (·.1))
    (h : ∀ x ∈ ws, x.1 = a → x.2 = b) : overlay rd ws a = b := by
  induction ws generalizing rd with
  | nil => cases hm
  | cons y ws ih =>
    rw [overlay, List.foldl_cons, ← overlay]
    by_cases hw : a ∈ ws.map (·.1)
    · exact ih hw fun x hx => h x (List.mem_cons_of_mem _ hx)
    · obtain rfl : a = y.1 := (List.mem_cons.mp hm).resolve_right hw
      rw [overlay_of_not_mem hw, if_pos rfl]
      exact h y List.mem_cons_self rfl

theorem leBytes_getElem? {n k : Nat} (hk : k < n) (v : Nat) : (leBytes n v)[k]? = some (BitVec.ofNat 8 (v / 256 ^ k)) := by
  induction n generalizing k v with
  | zero => omega
  | succ n ih =>
    cases k with
    | zero => simp [leBytes]
    | succ k => rw [leBytes, List.getElem?_cons_succ, ih (by omega), Nat.div_div_eq_div_mul, pow_succ']

theorem ownByte_nat (key : Nat) (a : W64) (off : Nat) : ownByte key a off = coreStore key + (a.toNat + off) % 2 ^ 21 := by
  unfold ownByte
  rw [show ((a.toNat : Int) + (off : Nat)).toNat = a.toNat + off by omega]

/-- The writes of an element: its bytes, lowest first. -/
theorem mem_zip_leBytes {key : Nat} {a : W64} {off n v : Nat} {x : Nat × Byte} :
    x ∈ (ownBytes key a off n).zip (leBytes n v) ↔ ∃ k, k < n ∧ x = (ownByte key a (off + k : Nat), BitVec.ofNat 8 (v / 256 ^ k)) := by
  have hget : ∀ k, k < n → ((ownBytes key a off n).zip (leBytes n v))[k]? = some (ownByte key a (off + k : Nat), BitVec.ofNat 8 (v / 256 ^ k)) :=
    fun k hk => by
      rw [List.getElem?_zip_eq_some]
      exact ⟨by rw [ownByte_nat]; simp [ownBytes, hk, Nat.add_assoc], leBytes_getElem? hk v⟩
  rw [List.mem_iff_getElem?]
  constructor
  · rintro ⟨k, hk⟩
    have hlt : k < n := by
      obtain ⟨h, _⟩ := List.getElem?_eq_some_iff.mp hk
      simpa using h
    rw [hget k hlt] at hk
    exact ⟨k, hlt, (Option.some.inj hk).symm⟩
  · rintro ⟨k, hk, rfl⟩
    exact ⟨k, hget k hk⟩

/-- Two offsets within the 2 MiB of a store name one byte only where they agree (07 R198). -/
theorem ownByte_inj {key : Nat} {a : W64} {x y : Nat} (hx : x < 2 ^ 21) (hy : y < 2 ^ 21) (h : ownByte key a x = ownByte key a y) : x = y := by
  rw [ownByte_nat, ownByte_nat] at h
  have h := Nat.add_left_cancel h
  omega

/-- A place in a tile whose rows do not overlap gives its row, column and byte. -/
theorem place_inj {pitch nb r c k r' c' k' : Nat} (hp : 32 * nb ≤ pitch) (hc : c < 32) (hk : k < nb) (hc' : c' < 32) (hk' : k' < nb)
    (h : r * pitch + c * nb + k = r' * pitch + c' * nb + k') : r = r' ∧ c = c' ∧ k = k' := by
  have hin : ∀ {c k}, c < 32 → k < nb → c * nb + k < 32 * nb := fun {c k} hc hk => by
    calc c * nb + k < (c + 1) * nb := by rw [Nat.succ_mul]; omega
      _ ≤ 32 * nb := Nat.mul_le_mul_right nb hc
  have hlt := (hin hc hk).trans_le hp
  have hlt' := (hin hc' hk').trans_le hp
  have hr : r = r' := by
    have h1 : (r * pitch + (c * nb + k)) / pitch = r := by
      rw [Nat.mul_comm, Nat.mul_add_div (by omega), Nat.div_eq_of_lt hlt, Nat.add_zero]
    have h2 : (r' * pitch + (c' * nb + k')) / pitch = r' := by
      rw [Nat.mul_comm, Nat.mul_add_div (by omega), Nat.div_eq_of_lt hlt', Nat.add_zero]
    rw [← h1, ← h2, ← Nat.add_assoc, ← Nat.add_assoc, h]
  subst hr
  have hck : c * nb + k = c' * nb + k' := by omega
  have h1 : (c * nb + k) / nb = c := by rw [Nat.mul_comm, Nat.mul_add_div (by omega), Nat.div_eq_of_lt hk, Nat.add_zero]
  have h2 : (c' * nb + k') / nb = c' := by rw [Nat.mul_comm, Nat.mul_add_div (by omega), Nat.div_eq_of_lt hk', Nat.add_zero]
  have hcc : c = c' := by rw [← h1, ← h2, hck]
  subst hcc
  exact ⟨rfl, rfl, by omega⟩

/-! ### The writes of a tile -/

section
variable {key : Nat} {q : QEntry} {f rows : Nat} {o : TileOut} {code : Nat → Nat → Nat}
  (he : ∀ x, x ∈ o.elems ↔ ∃ r c, r < rows ∧ c < 32 ∧ x = (r, c, code r c))
include he

/-- The writes of the elements of a tile. -/
theorem mem_elemWrites {x : Nat × Byte} :
    x ∈ (o.elems.flatMap fun y => (ownBytes key (q.areg (fld q.w 61 58)) (y.1 * pPitch q.w + y.2.1 * fmtBytes f) (fmtBytes f)).zip
        (leBytes (fmtBytes f) y.2.2))
      ↔ ∃ r c k, r < rows ∧ c < 32 ∧ k < fmtBytes f
        ∧ x = (ownByte key (q.areg (fld q.w 61 58)) (r * pPitch q.w + c * fmtBytes f + k : Nat), BitVec.ofNat 8 (code r c / 256 ^ k)) := by
  simp only [List.mem_flatMap, he, mem_zip_leBytes]
  constructor
  · rintro ⟨y, ⟨r, c, hr, hc, rfl⟩, k, hk, rfl⟩
    exact ⟨r, c, k, hr, hc, hk, rfl⟩
  · rintro ⟨r, c, k, hr, hc, hk, rfl⟩
    exact ⟨_, ⟨r, c, hr, hc, rfl⟩, k, hk, rfl⟩

/-- The bytes of the elements, where no two rows share one and no scale byte stands in their place. -/
theorem tileWrites_elem (rd : Nat → Byte) (hp : 32 * fmtBytes f ≤ pPitch q.w) (ht : (rows - 1) * pPitch q.w + 32 * fmtBytes f ≤ 2 ^ 21)
    {r c k : Nat} (hr : r < rows) (hc : c < 32) (hk : k < fmtBytes f)
    (hs : ∀ y ∈ o.scales, ownByte key (q.areg (fld q.w 61 58)) (r * pPitch q.w + c * fmtBytes f + k : Nat)
      ≠ ownByte key (q.areg (fld q.w 57 54)) y.2.2.1) :
    overlay rd (tileWrites key q f o) (ownByte key (q.areg (fld q.w 61 58)) (r * pPitch q.w + c * fmtBytes f + k : Nat))
      = BitVec.ofNat 8 (code r c / 256 ^ k) := by
  have hin : ∀ {r c k}, r < rows → c < 32 → k < fmtBytes f → r * pPitch q.w + c * fmtBytes f + k < 2 ^ 21 := fun {r c k} hr hc hk => by
    have h1 : r * pPitch q.w ≤ (rows - 1) * pPitch q.w := Nat.mul_le_mul_right _ (by omega)
    have h2 : (c + 1) * fmtBytes f ≤ 32 * fmtBytes f := Nat.mul_le_mul_right _ hc
    rw [Nat.succ_mul] at h2
    omega
  unfold tileWrites
  rw [overlay_append, overlay_of_not_mem]
  · refine overlay_of_forall (List.mem_map.mpr ⟨_, (mem_elemWrites he).mpr ⟨r, c, k, hr, hc, hk, rfl⟩, rfl⟩) fun x hx hxa => ?_
    obtain ⟨r', c', k', hr', hc', hk', rfl⟩ := (mem_elemWrites he).mp hx
    obtain ⟨rfl, rfl, rfl⟩ := place_inj hp hc' hk' hc hk (ownByte_inj (hin hr' hc' hk') (hin hr hc hk) hxa)
    rfl
  · simp only [List.map_map, List.mem_map, Function.comp_apply, not_exists, not_and]
    exact fun y hy e => hs y hy e.symm

omit he in
/-- The scale bytes, which stand where they meet elements. -/
theorem tileWrites_scale (rd : Nat → Byte) {scale : Nat → Nat} {n : Nat} (hn : n ≤ 2 ^ 21)
    (hs : ∀ o' v, (∃ y ∈ o.scales, y.2.2 = (o', v)) ↔ o' < n ∧ v = scale o') {o' : Nat} (ho : o' < n) :
    overlay rd (tileWrites key q f o) (ownByte key (q.areg (fld q.w 57 54)) o') = BitVec.ofNat 8 (scale o') := by
  unfold tileWrites
  rw [overlay_append]
  obtain ⟨y, hy, hye⟩ := (hs o' _).mpr ⟨ho, rfl⟩
  refine overlay_of_forall (List.mem_map.mpr ⟨_, List.mem_map.mpr ⟨y, hy, rfl⟩, by simp only [hye]⟩) fun x hx hxa => ?_
  obtain ⟨z, hz, rfl⟩ := List.mem_map.mp hx
  obtain ⟨hz1, hz2⟩ := (hs z.2.2.1 z.2.2.2).mp ⟨z, hz, rfl⟩
  have := ownByte_inj (hz1.trans_le hn) (ho.trans_le hn) hxa
  simp only [hz2, this]

/-- The writes of a tile lie in its bytes. -/
theorem tileWrites_bytes {flow : Bool} (hrows : rows = if flow then 64 else 32) (hf : f = q.rung.toNat)
    (hs : ∀ y ∈ o.scales, sbBlock f ≠ 0 ∧ y.2.2.1 < rows * 32 / sbBlock f) {a : Nat} (ha : a ∉ tileBytes key q flow) (rd : Nat → Byte) :
    overlay rd (tileWrites key q f o) a = rd a := by
  subst hf hrows
  refine overlay_of_not_mem fun hm => ha ?_
  obtain ⟨x, hx, rfl⟩ := List.mem_map.mp hm
  unfold tileWrites at hx
  unfold tileBytes
  rw [List.mem_append] at hx ⊢
  obtain hx | hx := hx
  · obtain ⟨r, c, k, hr, hc, hk, rfl⟩ := (mem_elemWrites he).mp hx
    refine .inl (List.mem_flatMap.mpr ⟨r, List.mem_range.mpr hr, List.mem_flatMap.mpr ⟨c, List.mem_range.mpr hc, ?_⟩⟩)
    rw [ownByte_nat]
    exact List.mem_map.mpr ⟨k, List.mem_range.mpr hk, by rw [Nat.add_assoc]⟩
  · obtain ⟨y, hy, rfl⟩ := List.mem_map.mp hx
    obtain ⟨h1, h2⟩ := hs y hy
    rw [if_neg h1]
    exact .inr (List.mem_map.mpr ⟨(y.2.2.1 : Int), by simpa using h2, rfl⟩)

end

end Sys2Proof.Machine
end

section
/-! SUPPORT. The drain of a bank (04 R118, R133, 06 R184): what decoding the bank and parity faults leave, the tile that is written, and the
start of a PACK. -/

namespace Sys2Proof.Machine

variable {s t : State} {i : StreamId} {q : QEntry} {rest : List QEntry}

/-! ### What decoding and parity change -/

/-- A change of the banks' contents and of the counters of the codes alone. -/
structure Core.CodeOnly (c d : Core) : Prop where
  rest : d = { c with b0 := d.b0, b1 := d.b1, lam := d.lam, lamEcc := d.lamEcc, ecc := d.ecc, strPar := d.strPar }
  flow : ∀ b, (d.bank b).flow = (c.bank b).flow

theorem Core.CodeOnly.refl (c : Core) : c.CodeOnly c := ⟨rfl, fun _ => rfl⟩

theorem Core.CodeOnly.trans {a b c : Core} (h : a.CodeOnly b) (k : b.CodeOnly c) : a.CodeOnly c :=
  ⟨by rw [k.rest, h.rest], fun x => (k.flow x).trans (h.flow x)⟩

/-- Memory stays, and a core changes in what belongs to its codes alone. -/
structure State.CodeOnly (s t : State) (key : Nat) : Prop where
  core : (s.core key).CodeOnly (t.core key)
  mem : t.mem = s.mem

theorem State.CodeOnly.refl (s : State) (key : Nat) : s.CodeOnly s key := ⟨.refl _, rfl⟩

theorem State.CodeOnly.trans {r : State} {key : Nat} (h : r.CodeOnly s key) (k : s.CodeOnly t key) : r.CodeOnly t key :=
  ⟨h.core.trans k.core, k.mem.trans h.mem⟩

theorem State.CodeOnly.of_cores {key : Nat} (hc : t.cores = s.cores) (hm : t.mem = s.mem) : s.CodeOnly t key :=
  ⟨by rw [State.core_of_cores hc]; exact .refl _, hm⟩

theorem State.CodeOnly.modCore (s : State) (k key : Nat) {f : Core → Core} (hf : ∀ c : Core, c.CodeOnly (f c)) :
    s.CodeOnly (s.modCore k f) key := by
  refine ⟨?_, rfl⟩
  by_cases h : key = k
  · subst h
    rw [State.core_modCore]
    exact hf _
  · rw [State.core_modCore_ne _ _ h]
    exact .refl _

/-- What decides whether an access is clear stays (07 R216, 09 R269, R270). -/
structure State.SameChecks (s t : State) : Prop where
  errs : t.errs = s.errs
  fuse : t.fuse = s.fuse
  syn0 : t.syn0 = s.syn0
  syn1 : t.syn1 = s.syn1
  epoch : ∀ p, (t.part p).epoch = (s.part p).epoch

theorem State.SameChecks.refl (s : State) : s.SameChecks s := ⟨rfl, rfl, rfl, rfl, fun _ => rfl⟩

theorem State.SameChecks.trans {r : State} (h : r.SameChecks s) (k : s.SameChecks t) : r.SameChecks t :=
  ⟨k.errs.trans h.errs, k.fuse.trans h.fuse, k.syn0.trans h.syn0, k.syn1.trans h.syn1, fun p => (k.epoch p).trans (h.epoch p)⟩

theorem State.SameChecks.clear (h : s.SameChecks t) {who : Who} (hc : s.clear who) : t.clear who := by
  refine ⟨h.errs.trans hc.1, fun a => ?_⟩
  have hd := hc.2 a
  unfold State.memDrop State.masked at hd ⊢
  rw [h.fuse, h.syn0, h.syn1, h.epoch]
  exact hd

/-! ### Operations that read through the codes -/

theorem State.post_epoch (e : EvRec) (p : Nat) : ((s.post e).part p).epoch = (s.part p).epoch := by
  have hpart : ∀ (s : State) (k : Nat) (f : Part → Part), (∀ x, (f x).epoch = x.epoch) → ((s.modPart k f).part p).epoch = (s.part p).epoch :=
    fun s k f hf => by
      rw [State.part_modPart]
      split
      · exact hf _
      · rfl
  have hraise : ∀ (s : State) (k half : Nat) (stops : Bool), ((s.raiseLine k half stops).part p).epoch = (s.part p).epoch :=
    fun s k half stops => hpart s k _ fun _ => rfl
  have hsend : ∀ (s : State) (k : Nat), ((s.sendRetract k).part p).epoch = (s.part p).epoch := fun s k => by
    unfold State.sendRetract
    split
    · rfl
    · rw [State.alert_part]
      refine (hpart _ _ _ ?_).trans ?_
      · exact fun _ => rfl
      unfold State.part
      rw [State.mgmt_parts]
  unfold State.post
  dsimp only
  split
  · rw [hsend, hraise]
    rfl
  · rfl

theorem State.CodeOnly.post (s : State) (e : EvRec) (key : Nat) : s.CodeOnly (s.post e) key := .of_cores (s.post_cores e) (s.post_mem e)

theorem State.SameChecks.post (s : State) (e : EvRec) : s.SameChecks (s.post e) :=
  ⟨s.post_errs e, s.post_fuse e, s.post_syn0 e, s.post_syn1 e, State.post_epoch e⟩

theorem State.SameChecks.modCore (s : State) (k : Nat) (f : Core → Core) : s.SameChecks (s.modCore k f) := ⟨rfl, rfl, rfl, rfl, fun _ => rfl⟩

/-- What the drain of a bank does to the state before it writes its tile, and after. -/
structure State.Decoded (s t : State) (key : Nat) : Prop where
  code : s.CodeOnly t key
  checks : s.SameChecks t

theorem State.Decoded.refl (s : State) (key : Nat) : s.Decoded s key := ⟨.refl _ _, .refl _⟩

theorem State.Decoded.trans {r : State} {key : Nat} (h : r.Decoded s key) (k : s.Decoded t key) : r.Decoded t key :=
  ⟨h.code.trans k.code, h.checks.trans k.checks⟩

theorem State.Decoded.modCore (s : State) (k key : Nat) {f : Core → Core} (hf : ∀ c : Core, c.CodeOnly (f c)) : s.Decoded (s.modCore k f) key :=
  ⟨.modCore s k key hf, .modCore s k f⟩

theorem State.Decoded.post (s : State) (e : EvRec) (key : Nat) : s.Decoded (s.post e) key := ⟨.post s e key, .post s e⟩

theorem State.Decoded.skipFree (s : State) (n key : Nat) : s.Decoded (s.skipFree n) key := ⟨⟨.refl _, rfl⟩, ⟨rfl, rfl, rfl, rfl, fun _ => rfl⟩⟩

theorem Core.CodeOnly.setBank (c : Core) (b : Nat) {k : Bank} (h : k.flow = (c.bank b).flow) : c.CodeOnly (c.setBank b k) := by
  unfold Core.setBank Core.bank at *
  by_cases hb : b = 0
  · simp only [if_pos hb] at *
    exact ⟨rfl, fun j => by unfold Core.bank; dsimp only; split <;> simp [h]⟩
  · simp only [if_neg hb] at *
    exact ⟨rfl, fun j => by unfold Core.bank; dsimp only; split <;> simp [h]⟩

theorem Bank.lamSide_flow (bk : Bank) (b m : Nat) (v : BitVec 512) : (bk.lamSide b m v).flow = bk.flow := by
  unfold Bank.lamSide
  split
  · rfl
  · exact List.foldlRecOn (motive := fun (x : Bank) => x.flow = bk.flow) _ _ rfl fun x hx _ _ => hx

theorem Core.CodeOnly.lamPut (c : Core) (b k : Nat) (v : BitVec 512) : c.CodeOnly (c.lamPut b k v) := by
  unfold Core.lamPut
  refine .setBank c _ ?_
  split
  · rfl
  · exact Bank.lamSide_flow _ _ _ _

theorem State.Decoded.post_either (s : State) (p p' : Prop) [Decidable p] [Decidable p'] (e e' : EvRec) (key : Nat) :
    s.Decoded (if p then s.post e else if p' then s.post e' else s) key := by
  split
  · exact .post _ _ _
  · split
    · exact .post _ _ _
    · exact .refl _ _

theorem State.Decoded.lamError (s : State) (i : StreamId) (q : QEntry) (ue poisoned : Bool) :
    s.Decoded (s.lamError i q ue poisoned) (skey i) := by
  unfold State.lamError
  dsimp only
  refine State.Decoded.trans ?_ (.post_either _ _ _ _ _ _)
  exact .modCore s _ _ fun _ => ⟨rfl, fun _ => rfl⟩

theorem State.Decoded.lamRead (s : State) (i : StreamId) (q : QEntry) (b k : Nat) (write : Bool) :
    s.Decoded (s.lamRead i q b k write) (skey i) := by
  have hlam : ∀ (t : State) (x : Nat), t.Decoded (t.modCore (skey i) fun c => { c with lam := tset [] c.lam x [] }) (skey i) :=
    fun t x => .modCore t _ _ fun _ => ⟨rfl, fun _ => rfl⟩
  have hput : ∀ (t : State) (v : BitVec 512), t.Decoded (t.modCore (skey i) fun c => c.lamPut b k v) (skey i) :=
    fun t v => .modCore t _ _ fun c => .lamPut c b k v
  have hboth : ∀ (t : State) (v : BitVec 512) (x : Nat),
      t.Decoded (t.modCore (skey i) fun c => { c.lamPut b k v with lam := tset [] c.lam x [] }) (skey i) :=
    fun t v x => .modCore t _ _ fun c => (Core.CodeOnly.lamPut c b k v).trans ⟨rfl, fun _ => rfl⟩
  unfold State.lamRead
  dsimp only
  have hread : ∀ {t : State}, s.Decoded t (skey i) →
      s.Decoded (if write then t.modCore (skey i) fun c => { c with lam := tset [] c.lam (b * 8192 + k) [] } else t) (skey i) := fun {t} ht => by
    split
    · exact ht.trans (hlam _ _)
    · exact ht
  refine hread ?_
  split
  · exact .refl _ _
  · exact (hlam _ _).trans (.lamError _ i q _ _)
  · exact (hput _ _).trans (.lamError _ i q _ _)
  · split
    · exact ((State.Decoded.skipFree _ _ _).trans (hput _ _)).trans (.lamError _ i q _ _)
    · exact ((State.Decoded.skipFree _ _ _).trans (hboth _ _ _)).trans (.lamError _ i q _ _)

/-- Reading the codewords of a bank changes what belongs to its codes alone. -/
theorem State.Decoded.lamScan (s : State) (i : StreamId) (q : QEntry) (write : Bool) : s.Decoded (s.lamScan i q write) (skey i) := by
  unfold State.lamScan
  dsimp only
  split
  · exact .refl _ _
  · exact List.foldlRecOn (motive := fun t => s.Decoded t (skey i)) _ _ (.refl _ _) fun t ht _ _ => ht.trans (.lamRead t i q _ _ _)

/-- A bank without an error in its codewords is read as it is. -/
theorem State.lamScan_none (h : (s.core (skey i)).lam = []) (write : Bool) : s.lamScan i q write = s := by
  unfold State.lamScan
  dsimp only
  rw [h]
  split <;> rfl

/-- Writes that arrive with bad parity leave memory's bytes, and of a core all but its codes. -/
theorem State.CodeOnly.parityWrites (s : State) (who : Who) (written : List Nat) (fs : List PhysFault) (key : Nat) :
    s.CodeOnly (s.parityWrites who written fs) key := by
  unfold State.parityWrites
  refine List.foldlRecOn (motive := fun t => s.CodeOnly t key) _ _ (.refl _ _) fun t ht f _ => ?_
  split
  · rename_i cw _
    split
    · refine ht.trans ?_
      have herr : ∀ (t : State) (b : Nat) (e : ErrPat), t.CodeOnly (t.setErr b e) key := fun t b e => .of_cores rfl rfl
      have hecc : ∀ (t : State) (b : Nat) (g : EccCnt → EccCnt), t.CodeOnly (t.modEcc b g) key := fun t b g => by
        unfold State.modEcc
        split
        · exact .of_cores rfl rfl
        · exact .of_cores rfl rfl
        · exact .modCore t _ _ fun _ => ⟨rfl, fun _ => rfl⟩
        · exact .refl _ _
      refine State.CodeOnly.trans ?_ (.post _ _ _)
      have h12 := (herr t (cwBase cw) (poison (cwBase cw))).trans (hecc _ (cwBase cw) fun c => { c with par := satAdd c.par 1 })
      split
      · exact h12.trans (.modCore _ _ _ fun _ => ⟨rfl, fun _ => rfl⟩)
      · exact h12
    · exact ht
  · exact ht

/-! ### The drain, in parts -/

/-- The bank that holds the tile of a PACK. -/
def State.packBank (s : State) (key : Nat) (q : QEntry) : Bank := (s.core key).bank ((banksOf q.w q.wide).headD 0)

/-- The rows of a bank's tile. -/
def Bank.rows (bk : Bank) : Nat := if bk.flow then 64 else 32

/-- The word u of an element, as the drain draws it. -/
def State.packU (s : State) (key : Nat) (q : QEntry) (r c : Nat) : Nat :=
  if ccwRnd (pCcw q.w) == 1 then
    packDraw (tget 0 (s.part ((s.core key).part.getD 0xFF)).keys (ccwKslot (pCcw q.w))) q.step
      ((s.part ((s.core key).part.getD 0xFF)).cols (pTid q.w))
      (pRow q + r) (pCol q + c)
  else 0

/-- The tile of a PACK, converted or as long words. -/
def State.packOut (s : State) (key : Nat) (q : QEntry) (us : List Upset) : TileOut :=
  let bk := s.packBank key q
  if q.rung.toNat = 9 then
    storeTile bk.rows bk.wide (bk.words us) fun r c => (Config.freeValue (s.free + 32 * r + c)).setWidth 256
  else convertTile q.rung.toNat (ccwAxis (pCcw q.w)) (pRow q) (pCol q) bk.rows (ccwRnd (pCcw q.w) == 1)
    (fun r c => (bk.words us r c).out bk.anchor bk.wide) (s.packU key q)

/-- The banks of a PACK go to DRAINING, and its tile's verdict is kept. -/
def Core.drained (c : Core) (banks : List Nat) (d : Drain) : Core :=
  { banks.foldl (fun c b => c.setBank b { c.bank b with state := .draining }) c with drains := c.drains ++ [d] }

/-- The state after the rows of a tile have been sent or written. -/
def State.tileOver (s : State) (i : StreamId) (q : QEntry) (us : List Upset) : State :=
  let o := s.packOut (skey i) q us
  let ws := tileWrites (skey i) q q.rung.toNat o
  if pChout q.w then
    (s.skipFree 2048).modCore (skey i) fun c =>
      { c with chainOut := c.chainOut ++ tileRows c.epoch q.rung.toNat (s.packBank (skey i) q).rows o }
  else ((s.skipFree 2048).writeMem ((s.skipFree 2048).whoOf i q) ws).parityWrites ((s.skipFree 2048).whoOf i q) (ws.map (·.1)) (upsetParity us)

/-- The drain decodes the bank, writes or sends its tile, and keeps the verdict. -/
theorem State.drain_eq (s : State) (i : StreamId) (q : QEntry) (us : List Upset) :
    ∃ d : Drain, d.id = q.id ∧ d.pass = i.pass ∧ d.rung = q.rung ∧ d.iaddr = q.pc ∧ d.dig.tid.toNat = fld q.w 36 21 % 65536 ∧ d.dig.step = q.step
      ∧ s.drain i q us = ((s.lamScan i q false).tileOver i q us).modCore (skey i) fun c => c.drained (banksOf q.w q.wide) d := by
  refine ⟨_, ?_, ?_, ?_, ?_, ?_, ?_, rfl⟩
  · rfl
  · rfl
  · rfl
  · rfl
  · rfl
  · rfl

/-! ### The tile by position -/

theorem Bank.rows_eq (bk : Bank) : bk.rows = 32 * if bk.flow then 2 else 1 := by
  unfold Bank.rows
  cases bk.flow <;> rfl

theorem State.packU_eq (s : State) (key : Nat) (q : QEntry) : s.packU key q = s.tileU key q := by
  funext r c
  unfold State.packU State.tileU
  simp only [beq_iff_eq]
  rfl

/-- The codes of a tile, as its elements are converted or stored. -/
def State.packCode (s : State) (key : Nat) (q : QEntry) (us : List Upset) (r c : Nat) : Nat :=
  let bk := s.packBank key q
  if q.rung.toNat = 9 then ((bk.words us r c).store bk.wide ((Config.freeValue (s.free + 32 * r + c)).setWidth 256)).1.toNat
  else tileCodeOf q.rung.toNat (ccwAxis (pCcw q.w)) (ccwRnd (pCcw q.w) == 1) (fun r c => (bk.words us r c).out bk.anchor bk.wide)
    (s.packU key q) r c

theorem State.mem_packOut_elems {key : Nat} {us : List Upset} (x : Nat × Nat × Nat) : x ∈ (s.packOut key q us).elems
    ↔ ∃ r c, r < (s.packBank key q).rows ∧ c < 32 ∧ x = (r, c, s.packCode key q us r c) := by
  unfold State.packOut State.packCode
  dsimp only
  by_cases h : q.rung.toNat = 9
  · simp only [if_pos h]
    exact mem_storeTile_elems
  · simp only [if_neg h]
    exact mem_convertTile_elems (Bank.rows_eq _)

/-- Long words and plain formats have no scale bytes. -/
theorem State.packOut_scales_plain {key : Nat} {us : List Upset} (hf : sbBlock q.rung.toNat = 0) : (s.packOut key q us).scales = [] := by
  unfold State.packOut
  dsimp only
  by_cases h : q.rung.toNat = 9
  · rw [if_pos h]
    rfl
  · rw [if_neg h]
    exact convertTile_scales_plain hf

/-- The scale byte at an offset, as it is converted. -/
def State.packScale (s : State) (key : Nat) (q : QEntry) (us : List Upset) (o : Nat) : Nat :=
  let bk := s.packBank key q
  tileScaleOf q.rung.toNat (ccwAxis (pCcw q.w)) (ccwRnd (pCcw q.w) == 1) (fun r c => (bk.words us r c).out bk.anchor bk.wide) (s.packU key q) o

theorem State.mem_packOut_scales {key : Nat} {us : List Upset} (hf : sbBlock q.rung.toNat ≠ 0) (o v : Nat) :
    (∃ y ∈ (s.packOut key q us).scales, y.2.2 = (o, v))
      ↔ o < (s.packBank key q).rows * 32 / sbBlock q.rung.toNat ∧ v = s.packScale key q us o := by
  have h : q.rung.toNat ≠ 9 := fun h => hf (by rw [h]; rfl)
  unfold State.packOut State.packScale
  dsimp only
  rw [if_neg h]
  exact mem_convertTile_scales (Bank.rows_eq _) hf

/-- Without upsets the codes and scale bytes are those of the bank's words (02 R64, R74). -/
theorem State.packCode_eq (s : State) (key : Nat) (q : QEntry) (r c : Nat) :
    s.packCode key q [] r c = s.tileCode key q (s.packBank key q) r c := by
  unfold State.packCode State.tileCode
  dsimp only
  rw [s.packU_eq]
  by_cases h : q.rung.toNat = 9
  · rw [if_pos h, if_pos h]
    rfl
  · rw [if_neg h, if_neg h]
    unfold tileCodeOf lineBlock State.tileBlock
    dsimp only
    by_cases ha : ccwAxis (pCcw q.w) = 0
    · simp only [if_pos ha]
      rfl
    · simp only [if_neg ha]
      rfl

theorem State.packScale_eq (s : State) (key : Nat) (q : QEntry) (o : Nat) :
    BitVec.ofNat 8 (s.packScale key q [] o) = s.tileScale key q (s.packBank key q) o := by
  unfold State.packScale State.tileScale tileScaleOf lineBlock State.tileBlock
  dsimp only
  rw [s.packU_eq]
  by_cases ha : ccwAxis (pCcw q.w) = 0
  · simp only [if_pos ha]
    rfl
  · simp only [if_neg ha]
    rfl

/-! ### A PACK starts -/

/-- The PACK that alone heads the pack queues of its core and may start is the next one. -/
theorem State.soleHead.packNext {c : CoreId} {p : Pass} (h : s.soleHead ⟨c.die, c.core, p⟩ .pack q rest)
    (hb : (s.core (ckey c)).bankTurn p q = .start) (hw : (s.core (ckey c)).writeFree q = true) : s.packNext c = some (p, q) := by
  obtain ⟨hq, hp, hs⟩ := h
  have hheads : (s.core (ckey c)).packHeads = [(p, q)] := by
    unfold Core.packHeads
    have hq : ((s.core (ckey c)).stream p).queue .pack = q :: rest := hq
    have hp : ∀ p', p' ≠ p → ((s.core (ckey c)).stream p').queue .pack = [] := hp
    cases p <;> simp [hq, hp]
  unfold State.packNext
  dsimp only
  rw [hheads]
  simp [hs, hb, hw, oldest]

theorem exec_drainStart {c : CoreId} {p : Pass} {bank : Nat} (us : List Upset) (h : s.soleHead ⟨c.die, c.core, p⟩ .pack q rest)
    (hs : q.skip = false) (hbk : bank ∈ banksOf q.w q.wide) (hb : (s.core (ckey c)).bankTurn p q = .start)
    (hw : (s.core (ckey c)).writeFree q = true) :
    exec (.drainStart c bank us) s
      = .next ((s.drain ⟨c.die, c.core, p⟩ q us).modStream ⟨c.die, c.core, p⟩ fun st => st.begin .pack {} true) := by
  show execDrainStart c bank us s = _
  unfold execDrainStart
  rw [h.packNext hb hw]
  simp [hs, hbk, hb]

/-! ### What the drain leaves -/

/-- Draining changes the banks and the verdicts to deliver. -/
theorem Core.drained_rest (c : Core) (banks : List Nat) (d : Drain) :
    c.drained banks d = { c with b0 := (c.drained banks d).b0, b1 := (c.drained banks d).b1, drains := c.drains ++ [d] } := by
  have h : ∀ (bs : List Nat) (c : Core), let e := bs.foldl (fun (c : Core) b => c.setBank b { c.bank b with state := .draining }) c
      e = { c with b0 := e.b0, b1 := e.b1 } := fun bs => by
    induction bs with
    | nil => exact fun c => rfl
    | cons b bs ih =>
      intro c
      have hb : ∀ k, c.setBank b k = { c with b0 := (c.setBank b k).b0, b1 := (c.setBank b k).b1 } := fun k => by
        unfold Core.setBank
        split <;> rfl
      dsimp only at ih ⊢
      rw [List.foldl_cons, ih, hb]
  unfold Core.drained
  rw [h]

/-- The banks of a tile that drains are DRAINING. -/
theorem Core.drained_bank (c : Core) {w : W128} {wide : Bool} (d : Drain) {b : Nat} (hb : b ∈ banksOf w wide) :
    ((c.drained (banksOf w wide) d).bank b).state = .draining := by
  unfold Core.drained banksOf at *
  cases wide with
  | false =>
    obtain rfl : b = bankOf w := by simpa using hb
    simp only [Bool.false_eq_true, if_false, List.foldl_cons, List.foldl_nil]
    unfold Core.setBank Core.bank
    by_cases h0 : bankOf w = 0
    · simp [h0]
    · simp [h0]
  | true =>
    obtain rfl | rfl : b = 0 ∨ b = 1 := by simpa using hb
    · rfl
    · rfl

theorem State.CodeOnly.packBank_flow {key : Nat} (h : s.CodeOnly t key) (q : QEntry) : (t.packBank key q).flow = (s.packBank key q).flow :=
  h.core.flow _

/-- A chained tile goes to the consumer. -/
theorem State.tileOver_chained (h : pChout q.w = true) (us : List Upset) : ∃ rows, (∀ r ∈ rows, r.epoch = (s.core (skey i)).epoch)
    ∧ (s.tileOver i q us).mem = s.mem
    ∧ (s.tileOver i q us).core (skey i) = { s.core (skey i) with chainOut := (s.core (skey i)).chainOut ++ rows } := by
  refine ⟨tileRows (s.core (skey i)).epoch q.rung.toNat (s.packBank (skey i) q).rows (s.packOut (skey i) q us), ?_, ?_, ?_⟩
  · unfold tileRows
    simp only [List.mem_map, forall_exists_index, and_imp]
    rintro r k _ rfl
    rfl
  · unfold State.tileOver
    dsimp only
    rw [if_pos h]
    rfl
  · unfold State.tileOver
    dsimp only
    rw [if_pos h, State.core_modCore]
    rfl

/-- Any other is written, where the access is clear. -/
theorem State.tileOver_written (h : pChout q.w = false) (hc : s.clear (s.whoOf i q)) (us : List Upset) :
    ((s.tileOver i q us).rd8 = overlay s.rd8 (tileWrites (skey i) q q.rung.toNat (s.packOut (skey i) q us)))
      ∧ (s.core (skey i)).CodeOnly ((s.tileOver i q us).core (skey i)) := by
  unfold State.tileOver
  dsimp only
  rw [if_neg (by rw [h]; exact Bool.false_ne_true)]
  generalize tileWrites (skey i) q q.rung.toNat (s.packOut (skey i) q us) = ws
  generalize 2048 = n
  rw [State.writeMem_clear _ (show (s.skipFree n).clear ((s.skipFree n).whoOf i q) from hc)]
  obtain ⟨-, h2, h3⟩ := State.writes_skipFree (s := s) (skey i) n ws
  have hp := State.CodeOnly.parityWrites (ws.foldl (fun (s : State) x => s.wr8 x.1 x.2) (s.skipFree n)) ((s.skipFree n).whoOf i q)
    (ws.map (·.1)) (upsetParity us) (skey i)
  constructor
  · rw [← h2]
    unfold State.rd8
    rw [hp.mem]
  · rw [← h3]
    exact hp.core

/-! ### The statement on tiles -/

/-- An access is made by the same unit, and meets the same, after a bank has been decoded. -/
theorem State.Decoded.clear (h : s.Decoded t (skey i)) (hc : s.clear (s.whoOf i q)) : t.clear (t.whoOf i q) := by
  have hw : t.whoOf i q = s.whoOf i q := by
    unfold State.whoOf State.unitCore State.corePos
    rw [h.code.core.rest, h.checks.fuse]
  rw [hw]
  exact h.checks.clear hc

/-- The rows that a drain sends, and what it leaves of the core. -/
theorem State.tileOver_core (hc : s.clear (s.whoOf i q)) (us : List Upset) : ∃ rows, (∀ r ∈ rows, r.epoch = (s.core (skey i)).epoch)
    ∧ (pChout q.w = false → rows = [])
    ∧ ((s.tileOver i q us).core (skey i)).drains = (s.core (skey i)).drains
    ∧ ((s.tileOver i q us).core (skey i)).chainOut = (s.core (skey i)).chainOut ++ rows
    ∧ (s.tileOver i q us).stream i = s.stream i := by
  cases h : pChout q.w with
  | true =>
    obtain ⟨rows, h1, -, h3⟩ := State.tileOver_chained (s := s) (i := i) h us
    refine ⟨rows, h1, fun hf => absurd hf (by decide), by rw [h3], by rw [h3], ?_⟩
    unfold State.stream
    show ((s.tileOver i q us).core (skey i)).stream i.pass = (s.core (skey i)).stream i.pass
    rw [h3]
    cases i.pass <;> rfl
  | false =>
    obtain ⟨-, h2⟩ := State.tileOver_written (i := i) h hc us
    have hr := h2.rest
    refine ⟨[], (by simp), fun _ => rfl, by rw [hr], by rw [hr, List.append_nil], ?_⟩
    unfold State.stream
    show ((s.tileOver i q us).core (skey i)).stream i.pass = (s.core (skey i)).stream i.pass
    rw [hr]
    cases i.pass <;> rfl

theorem Core.bank_setStream (c : Core) (p : Pass) (st : Stream) (b : Nat) : (c.setStream p st).bank b = c.bank b := by cases p <;> rfl
theorem Core.drains_setStream (c : Core) (p : Pass) (st : Stream) : (c.setStream p st).drains = c.drains := by cases p <;> rfl
theorem Core.chainOut_setStream (c : Core) (p : Pass) (st : Stream) : (c.setStream p st).chainOut = c.chainOut := by cases p <;> rfl

/-- A PACK drains: its banks, its verdict, its stream, its rows, and its bytes. -/
theorem drain_holds (h : s.soleHead i .pack q rest) (hc : s.clear (s.whoOf i q)) (us : List Upset) :
    let key := skey i
    let t := (s.drain i q us).modStream i fun st => st.begin .pack {} true
    (∀ b, b ∈ banksOf q.w q.wide → ((t.core key).bank b).state = .draining)
      ∧ (∃ d : Drain, (t.core key).drains = (s.core key).drains ++ [d] ∧ d.id = q.id ∧ d.pass = i.pass ∧ d.rung = q.rung
          ∧ d.iaddr = q.pc ∧ d.dig.tid.toNat = fld q.w 36 21 % 65536 ∧ d.dig.step = q.step)
      ∧ t.stream i = (s.stream i).started .pack q rest {} true
      ∧ (pChout q.w = true → t.mem = s.mem)
      ∧ (pChout q.w = false → t.rd8 = overlay s.rd8 (tileWrites key q q.rung.toNat ((s.lamScan i q false).packOut key q us)))
      ∧ (∃ rows, (t.core key).chainOut = (s.core key).chainOut ++ rows ∧ (∀ r ∈ rows, r.epoch = (s.core key).epoch)
        ∧ (pChout q.w = false → rows = [])) := by
  intro key t
  have hdec := State.Decoded.lamScan s i q false
  have hc' := hdec.clear hc
  have hrd : (s.lamScan i q false).rd8 = s.rd8 := by
    unfold State.rd8
    rw [hdec.code.mem]
  obtain ⟨d, h1, h2, h3, h4, h5, h6, hd⟩ := s.drain_eq i q us
  obtain ⟨rows, r1, r2, r3, r4, r5⟩ := State.tileOver_core hc' us
  have hstream : (s.drain i q us).stream i = s.stream i := by
    rw [hd, State.stream_modCore _ _ fun c p => by rw [Core.drained_rest]; cases p <;> rfl, r5]
    show ((s.lamScan i q false).core (skey i)).stream i.pass = (s.core (skey i)).stream i.pass
    rw [hdec.code.core.rest]
    cases i.pass <;> rfl
  have hcore : t.core key = (((s.lamScan i q false).tileOver i q us).core key |>.drained (banksOf q.w q.wide) d).setStream i.pass
      ((s.stream i).started .pack q rest {} true) := by
    show ((s.drain i q us).modStream i _).core key = _
    unfold State.modStream
    rw [State.core_setStream, hstream]
    dsimp only
    rw [Stream.begin_eq_started h.1, hd, State.core_modCore]
  have hmem : t.mem = ((s.lamScan i q false).tileOver i q us).mem := by
    show (s.drain i q us).mem = _
    rw [hd]
    rfl
  refine ⟨fun b hb => ?_, ⟨d, ?_, h1, h2, h3, h4, h5, h6⟩, ?_, fun hch => ?_, fun hch => ?_, rows, ?_, fun r hr => ?_, r2⟩
  · rw [hcore, Core.bank_setStream]
    exact Core.drained_bank _ d hb
  · rw [hcore, Core.drains_setStream, Core.drained_rest, r3, hdec.code.core.rest]
  · show ((s.drain i q us).modStream i _).stream i = _
    rw [State.stream_modStream, hstream, Stream.begin_eq_started h.1]
  · obtain ⟨-, -, hm, -⟩ := State.tileOver_chained (s := s.lamScan i q false) (i := i) hch us
    rw [hmem, hm, hdec.code.mem]
  · obtain ⟨hw, -⟩ := State.tileOver_written (i := i) hch hc' us
    rw [← hrd, ← hw]
    unfold State.rd8
    rw [hmem]
  · rw [hcore, Core.chainOut_setStream, Core.drained_rest, r4, hdec.code.core.rest]
  · rw [r1 r hr, hdec.code.core.rest]

/-- The bytes that the writes of a tile leave: its codes, row by row at its pitch, and its scale bytes, which stand where the two meet. -/
theorem packWrites_bytes (s : State) (key : Nat) (q : QEntry) :
    let bk := (s.core key).bank ((banksOf q.w q.wide).headD 0)
    let rows := if bk.flow then 64 else 32
    let f := q.rung.toNat
    let nb := fmtBytes f
    let scales := if sbBlock f = 0 then 0 else rows * 32 / sbBlock f
    let at_ := fun (r x k : Nat) => ownByte key (q.areg (fld q.w 61 58)) (r * pPitch q.w + x * nb + k : Nat)
    let sat_ := fun (o : Nat) => ownByte key (q.areg (fld q.w 57 54)) o
    let rd := overlay s.rd8 (tileWrites key q f (s.packOut key q []))
    32 * nb ≤ pPitch q.w → (rows - 1) * pPitch q.w + 32 * nb ≤ 2 ^ 21 →
    (∀ r x k, r < rows → x < 32 → k < nb → (∀ o, o < scales → at_ r x k ≠ sat_ o) →
        rd (at_ r x k) = BitVec.ofNat 8 (s.tileCode key q bk r x / 256 ^ k))
      ∧ (∀ o, o < scales → rd (sat_ o) = s.tileScale key q bk o) := by
  intro bk rows f nb scales at_ sat_ rd hp ht
  have hscales : ∀ y ∈ (s.packOut key q []).scales, y.2.2.1 < scales := fun y hy => by
    by_cases hf : sbBlock q.rung.toNat = 0
    · rw [State.packOut_scales_plain hf] at hy
      cases hy
    · have := ((State.mem_packOut_scales hf y.2.2.1 y.2.2.2).mp ⟨y, hy, rfl⟩).1
      show _ < if sbBlock q.rung.toNat = 0 then 0 else _
      rw [if_neg hf]
      exact this
  refine ⟨fun r x k hr hx hk hne => ?_, fun o ho => ?_⟩
  · rw [show s.tileCode key q bk r x = s.packCode key q [] r x from (s.packCode_eq key q r x).symm]
    exact tileWrites_elem State.mem_packOut_elems s.rd8 hp ht hr hx hk fun y hy => hne _ (hscales y hy)
  · have hf : sbBlock q.rung.toNat ≠ 0 := fun hf => by
      have ho : o < if sbBlock q.rung.toNat = 0 then 0 else _ := ho
      rw [if_pos hf] at ho
      omega
    have ho : o < if sbBlock q.rung.toNat = 0 then 0 else rows * 32 / sbBlock q.rung.toNat := ho
    rw [if_neg hf] at ho
    have hn : rows * 32 / sbBlock q.rung.toNat ≤ 2 ^ 21 := by
      refine (Nat.div_le_self _ _).trans ?_
      show (if bk.flow then 64 else 32) * 32 ≤ 2 ^ 21
      split <;> decide
    exact (tileWrites_scale s.rd8 hn (State.mem_packOut_scales hf) ho).trans (State.packScale_eq s key q o)

/-- A PACK that starts to drain (04 R118, R133, 06 R184). -/
theorem drainStart_holds (s : State) (c : CoreId) (bank : Nat) (us : List Upset) (p : Pass) (q : QEntry) (rest : List QEntry)
    (hc : s.clear (s.whoOf ⟨c.die, c.core, p⟩ q)) (h : s.soleHead ⟨c.die, c.core, p⟩ .pack q rest) (hs : q.skip = false)
    (hbk : bank ∈ banksOf q.w q.wide) (hb : (s.core (ckey c)).bankTurn p q = .start) (hw : (s.core (ckey c)).writeFree q = true) :
    ∃ t, exec (.drainStart c bank us) s = .next t
      ∧ (∀ b, b ∈ banksOf q.w q.wide → ((t.core (ckey c)).bank b).state = .draining)
      ∧ (∃ d : Drain, (t.core (ckey c)).drains = (s.core (ckey c)).drains ++ [d] ∧ d.id = q.id ∧ d.pass = p ∧ d.rung = q.rung
          ∧ d.iaddr = q.pc ∧ d.dig.tid.toNat = fld q.w 36 21 % 65536 ∧ d.dig.step = q.step)
      ∧ t.stream ⟨c.die, c.core, p⟩ = (s.stream ⟨c.die, c.core, p⟩).started .pack q rest {} true
      ∧ (pChout q.w = true → t.mem = s.mem)
      ∧ (pChout q.w = false → ∀ a, a ∉ tileBytes (ckey c) q ((s.core (ckey c)).bank ((banksOf q.w q.wide).headD 0)).flow → t.rd8 a = s.rd8 a)
      ∧ (∃ rows, (t.core (ckey c)).chainOut = (s.core (ckey c)).chainOut ++ rows ∧ (∀ r ∈ rows, r.epoch = (s.core (ckey c)).epoch)
        ∧ (pChout q.w = false → rows = []))
      ∧ (pChout q.w = false → us = [] → (s.core (ckey c)).lam = [] →
        let key := ckey c
        let bk := (s.core key).bank ((banksOf q.w q.wide).headD 0)
        let rows := if bk.flow then 64 else 32
        let f := q.rung.toNat
        let nb := fmtBytes f
        let scales := if sbBlock f = 0 then 0 else rows * 32 / sbBlock f
        let at_ := fun (r x k : Nat) => ownByte key (q.areg (fld q.w 61 58)) (r * pPitch q.w + x * nb + k : Nat)
        let sat_ := fun (o : Nat) => ownByte key (q.areg (fld q.w 57 54)) o
        32 * nb ≤ pPitch q.w → (rows - 1) * pPitch q.w + 32 * nb ≤ 2 ^ 21 →
        (∀ r x k, r < rows → x < 32 → k < nb → (∀ o, o < scales → at_ r x k ≠ sat_ o) →
            t.rd8 (at_ r x k) = BitVec.ofNat 8 (s.tileCode key q bk r x / 256 ^ k))
          ∧ (∀ o, o < scales → t.rd8 (sat_ o) = s.tileScale key q bk o)) := by
  have hall := drain_holds h hc us
  dsimp only at hall
  obtain ⟨h1, h2, h3, h4, h5, h6⟩ := hall
  refine ⟨_, exec_drainStart us h hs hbk hb hw, h1, h2, h3, h4, fun hch a ha => ?_, h6, fun hch hus hlam => ?_⟩
  · have hdec := State.Decoded.lamScan s ⟨c.die, c.core, p⟩ q false
    rw [h5 hch]
    refine tileWrites_bytes (State.mem_packOut_elems (s := s.lamScan ⟨c.die, c.core, p⟩ q false)) rfl rfl (fun y hy => ?_)
      (flow := ((s.lamScan ⟨c.die, c.core, p⟩ q false).packBank (ckey c) q).flow) ?_ s.rd8
    · by_cases hf : sbBlock q.rung.toNat = 0
      · rw [State.packOut_scales_plain hf] at hy
        cases hy
      · exact ⟨hf, ((State.mem_packOut_scales hf y.2.2.1 y.2.2.2).mp ⟨y, hy, rfl⟩).1⟩
    · have hflow : ((s.lamScan ⟨c.die, c.core, p⟩ q false).packBank (ckey c) q).flow = (s.packBank (ckey c) q).flow := hdec.code.packBank_flow q
      show a ∉ tileBytes (ckey c) q _
      rw [hflow]
      exact ha
  · subst hus
    have hrd := h5 hch
    rw [State.lamScan_none (i := ⟨c.die, c.core, p⟩) hlam] at hrd
    rw [hrd]
    exact packWrites_bytes s (ckey c) q

/-- Settles O16: the drain writes the tile that its bank converts to, a conversion rounds on the grid of the value, and a verdict judges the
tile and frees its bank. -/
theorem tilesDrainAndAreChecked : Obligations.TilesDrainAndAreChecked := by
  unfold Obligations.TilesDrainAndAreChecked
  refine ⟨fun s c bank us p q rest => ?_, fun f v u hf hm _ => ?_, fun f n sr u e hf => convertOut_special hf n sr u e,
    fun s c bank d hw _ h hb hf => tileVerdict_holds s c bank d hw h hb hf⟩
  · intro i _ hc h hs hbk hb hw
    obtain ⟨t, h0, h1, h2, h3, h4, h5, h6, h7⟩ := drainStart_holds s c bank us p q rest hc h hs hbk hb hw
    exact ⟨t, h0, h1, h2, h3, h4, h5, h6, fun hch hus hlam _ _ => h7 hch hus hlam⟩
  · have hok := FmtP.ok_of_mem hf
    exact ⟨fun k hk => cvt_nearest hok hm hk, cvt_stochastic hok hm⟩

end Sys2Proof.Machine
end

section
/-! SUPPORT. Chains (04 R133, 05 R159): what handing a row or a verdict from the producer to its consumer leaves of both cores, and what a
drop at a check point leaves (09 R269). -/

namespace Sys2Proof.Machine

variable {s : State} {p key : Nat}

theorem dropFirst_cons {α : Type} {f : α → Bool} {x : α} (h : f x = true) (l : List α) : dropFirst f (x :: l) = l := by
  unfold dropFirst
  rw [if_pos h]

/-! ### A core wakes (14 R397; log 67) -/

theorem State.core_wakeCore (s : State) (k : Nat) :
    (s.wakeCore k).core k = { s.core k with pow := if (s.core k).pow = .gated then .on else (s.core k).pow } := by
  unfold State.wakeCore
  split
  · exact s.core_modCore k fun c => { c with pow := .on }
  · rfl

theorem State.core_wakeCore_ne (s : State) {k j : Nat} (h : j ≠ k) : (s.wakeCore k).core j = s.core j := by
  unfold State.wakeCore
  split
  · exact s.core_modCore_ne (fun c => { c with pow := .on }) h
  · rfl

theorem State.wakeCore_pwr (s : State) (k : Nat) : (s.wakeCore k).pwr = if (s.core k).pow = .gated then s.pwr.toRun else s.pwr := by
  unfold State.wakeCore
  split <;> rfl

/-! ### A hand-over -/

/-- The producer lets go of what it has sent, and the consumer takes it and wakes. -/
def State.handOver (s : State) (p key : Nat) (give take : Core → Core) : State := ((s.modCore p give).modCore key take).wakeCore key

/-- A hand-over changes the two cores and, where the consumer was gated, the power state of the module. -/
theorem State.handOver_spec (h : p ≠ key) (give : Core → Core) {take : Core → Core} (hp : ∀ c, (take c).pow = c.pow) :
    let t := s.handOver p key give take
    let gated := (s.core key).pow = .gated
    t.core p = give (s.core p)
      ∧ t.core key = { take (s.core key) with pow := if gated then .on else (s.core key).pow }
      ∧ (∀ j, j ≠ p → j ≠ key → t.core j = s.core j)
      ∧ t = { s with cores := t.cores, pwr := if gated then s.pwr.toRun else s.pwr } := by
  have hk : ((s.modCore p give).modCore key take).core key = take (s.core key) := by
    rw [State.core_modCore, State.core_modCore_ne _ _ h.symm]
  have hpow : (((s.modCore p give).modCore key take).core key).pow = (s.core key).pow := by rw [hk, hp]
  unfold State.handOver
  dsimp only
  refine ⟨?_, ?_, fun j hj hjk => ?_, ?_⟩
  · rw [State.core_wakeCore_ne _ h, State.core_modCore_ne _ _ h, State.core_modCore]
  · rw [State.core_wakeCore, hpow, hk]
  · rw [State.core_wakeCore_ne _ hjk, State.core_modCore_ne _ _ hjk, State.core_modCore_ne _ _ hj]
  · conv_lhs => rw [State.wakeCore_frame, State.wakeCore_pwr, hpow]
    rfl

/-! ### A drop (09 R269) -/

section
variable (half obj : Nat) (unit : W32) (epoch : W16) (part : Nat)

theorem State.zombie_cores (masked : Bool) : (s.zombie half obj unit epoch part masked).cores = s.cores := by
  have hsyn : ∀ f : SynHalf → SynHalf, (s.modSyn half f).cores = s.cores := fun f => by unfold State.modSyn; split <;> rfl
  unfold State.zombie
  dsimp only
  split
  · exact hsyn _
  · rw [State.post_cores, hsyn]

/-- A drop of another epoch than the unit's is counted. -/
theorem State.zombie_syn : ((s.zombie half obj unit epoch part false).syn half).zmb = true
    ∧ ((s.zombie half obj unit epoch part false).syn half).zEpoch = satAdd (s.syn half).zEpoch 1 := by
  have hsyn : ∀ f : SynHalf → SynHalf, (s.modSyn half f).syn half = f (s.syn half) := fun f => by
    unfold State.modSyn State.syn
    split <;> rfl
  have hpost : ∀ (t : State) (e : EvRec), (t.post e).syn half = t.syn half := fun t e => by
    unfold State.syn
    rw [State.post_syn0, State.post_syn1]
  unfold State.zombie
  dsimp only
  split
  · rw [hsyn]
    exact ⟨rfl, rfl⟩
  · rw [hpost, hsyn]
    exact ⟨rfl, rfl⟩
end

/-! ### Rows (04 R133) -/

section
variable {c : CoreId} {row : ChainRow} {more : List ChainRow}

/-- The producer's core without a row that it has sent, and the consumer's with it. -/
def Core.gaveRow (row : ChainRow) (k : Core) : Core := { k with chainOut := dropFirst (fun r => r == row) k.chainOut }
def Core.tookRow (row : ChainRow) (k : Core) : Core := { k with chainBuf := k.chainBuf ++ [row] }

theorem Core.gaveRow_head {k : Core} (h : k.chainOut = row :: more) : k.gaveRow row = { k with chainOut := more } := by
  unfold Core.gaveRow
  rw [h, dropFirst_cons (by simp)]

/-- Whether the consumer's buffer takes a row: the 8 KiB hold it, and no repeat still has to empty it (04 R133; log 132). -/
def State.rowFits (s : State) (key : Nat) (row : ChainRow) : Prop :=
  ((s.core key).chainBuf.map rowSize).foldl (· + ·) 0 + rowSize row ≤ 8192 ∧ s.repeatOpen key = false

/-- What a row does that its producer has sent. -/
theorem exec_chainRow (hp : s.producer (ckey c) = some p) :
    (row.epoch = (s.core (ckey c)).epoch → s.rowFits (ckey c) row →
        exec (.chainRow c row) s = .next (s.handOver p (ckey c) (Core.gaveRow row) (Core.tookRow row)))
      ∧ (row.epoch = (s.core (ckey c)).epoch → ¬ s.rowFits (ckey c) row → exec (.chainRow c row) s = .next s)
      ∧ (row.epoch ≠ (s.core (ckey c)).epoch → exec (.chainRow c row) s = .next ((s.modCore p (Core.gaveRow row)).zombie
          (halfOfDie c.die) 0 (s.unitCore p 0) row.epoch ((s.core (ckey c)).part.getD 0xFF) false)) := by
  have hx : exec (.chainRow c row) s = execChainRow c row s := rfl
  rw [hx]
  unfold execChainRow State.rowFits
  simp only [hp, Bool.and_eq_true, Bool.not_eq_true', decide_eq_true_eq]
  refine ⟨fun he hf => ?_, fun he hf => ?_, fun he => ?_⟩
  · rw [if_neg (not_not.mpr he), if_pos hf.symm]
    rfl
  · rw [if_neg (not_not.mpr he), if_neg fun h => hf h.symm]
  · rw [if_pos he]
    rfl

end

/-! ### Verdicts (05 R159) -/

section
variable {i : StreamId} {v : Option (BitVec 4 × Bool)}

/-- The producer's core without a verdict that it has sent, and the consumer's stream with it. -/
def Core.gaveVerdict (epoch : W16) (v : Option (BitVec 4 × Bool)) (k : Core) : Core :=
  { k with chainVs := dropFirst (fun r => r == (epoch, v)) k.chainVs }
def Core.tookVerdict (pass : Pass) (v : Option (BitVec 4 × Bool)) (k : Core) : Core :=
  k.setStream pass { k.stream pass with chainV := (k.stream pass).chainV ++ [v] }

theorem Core.gaveVerdict_head {k : Core} {epoch : W16} {more : List (W16 × Option (BitVec 4 × Bool))} (h : k.chainVs = (epoch, v) :: more) :
    k.gaveVerdict epoch v = { k with chainVs := more } := by
  unfold Core.gaveVerdict
  rw [h, dropFirst_cons (by simp)]

/-- A chain verdict of the consumer's epoch is held for its stream's decision. -/
theorem exec_chainVerdict (hp : s.producer (skey i) = some p) :
    exec (.chainVerdict i (s.core (skey i)).epoch v) s
      = .next (s.handOver p (skey i) (Core.gaveVerdict (s.core (skey i)).epoch v) (Core.tookVerdict i.pass v)) := by
  show execChainVerdict i (s.core (skey i)).epoch v s = _
  unfold execChainVerdict
  simp only [hp, ne_eq, not_true_eq_false, if_false]
  rfl

end

/-- Settles O17: a row or a verdict of the consumer's epoch is handed over, a row without room waits, and one of another epoch is dropped
and counted. -/
theorem chainsReachTheirConsumer : Obligations.ChainsReachTheirConsumer := by
  unfold Obligations.ChainsReachTheirConsumer
  refine ⟨fun s c row p more hp hne hout => ?_, fun s i v p more hp hne hvs => ?_⟩
  · obtain ⟨htake, hwait, hdrop⟩ := exec_chainRow (row := row) hp
    have hgave := Core.gaveRow_head hout
    refine ⟨fun he hf => ?_, hwait, fun he => ⟨_, hdrop he, ?_, fun j hj => ?_, State.zombie_syn ..⟩⟩
    · obtain ⟨hprod, hcons, hrest, hframe⟩ := State.handOver_spec (s := s) hne (Core.gaveRow row) (take := Core.tookRow row) fun _ => rfl
      exact ⟨_, htake he hf, hprod.trans hgave, hcons, hrest, hframe⟩
    · exact (State.core_of_cores (State.zombie_cores ..) p).trans ((State.core_modCore ..).trans hgave)
    · exact (State.core_of_cores (State.zombie_cores ..) j).trans (State.core_modCore_ne _ _ hj)
  · obtain ⟨hprod, hcons, hrest, hframe⟩ := State.handOver_spec (s := s) hne (Core.gaveVerdict (s.core (skey i)).epoch v)
      (take := Core.tookVerdict i.pass v) fun k => k.setStream_pow _ _
    exact ⟨_, exec_chainVerdict hp, hprod.trans (Core.gaveVerdict_head hvs), hcons, hrest, hframe⟩

end Sys2Proof.Machine
end

section
/-! SUPPORT. One beat of the matrix engine (03 R84 to R88, 04 R111): the addend of a block as a number, what a long word takes of the blocks
of its row and column, and the long words that the bank holds afterwards. -/

namespace Sys2Proof.Machine

/-! ### Products and their truncation (02 R59, 03 R86) -/

/-- Cutting a number to its 32 leading bits drops no more of it when zeros follow. -/
theorem leading_bits_shift {m : Nat} (hm : m ≠ 0) (k : Nat) :
    m * 2 ^ k / 2 ^ (Nat.log2 (m * 2 ^ k) - 31) * 2 ^ (Nat.log2 (m * 2 ^ k) - 31)
      = m / 2 ^ (Nat.log2 m - 31) * 2 ^ (Nat.log2 m - 31) * 2 ^ k := by
  have hlog : Nat.log2 (m * 2 ^ k) = Nat.log2 m + k := by
    rw [Nat.log2_eq_log_two, Nat.log2_eq_log_two]
    induction k with
    | zero => simp
    | succ k ih => rw [pow_succ, ← mul_assoc, Nat.log_mul_base (by decide) (by positivity), ih, add_assoc]
  rw [hlog]
  by_cases h : 31 ≤ Nat.log2 m
  · rw [show Nat.log2 m + k - 31 = Nat.log2 m - 31 + k by omega, pow_add, Nat.mul_div_mul_right _ _ (by positivity), mul_assoc]
  · rw [show Nat.log2 m - 31 = 0 by omega, pow_zero, Nat.div_one, mul_one]
    exact Nat.div_mul_cancel ((pow_dvd_pow 2 (by omega)).mul_left m)

theorem fineTrunc_eq (v : Exact) : fineTrunc v = { v with mag := v.mag / 2 ^ (Nat.log2 v.mag - 31) * 2 ^ (Nat.log2 v.mag - 31) } := by
  unfold fineTrunc msb
  rw [show ((Nat.log2 v.mag : Int) - 31).toNat = Nat.log2 v.mag - 31 by omega]

/-- A sum with nothing else is the value on a grid that may be finer. -/
theorem Exact.add_zero_eq {v : Exact} (hm : v.mag ≠ 0) : v.add ⟨false, 0, 0⟩ = ⟨v.neg, v.mag * 2 ^ (v.exp - min v.exp 0).toNat, min v.exp 0⟩ := by
  have hpos : 0 < v.mag * 2 ^ (v.exp - min v.exp 0).toNat := by positivity
  have h0 : (⟨false, 0, 0⟩ : Exact).at (min v.exp 0) = 0 := by simp [Exact.at]
  rw [Exact.add_eq]
  dsimp only
  rw [h0, add_zero]
  unfold Exact.at Exact.ofInt
  generalize v.mag * 2 ^ (v.exp - min v.exp 0).toNat = m at hpos
  cases v.neg with
  | false =>
    rw [if_neg Bool.false_ne_true, if_neg (by omega), decide_eq_false (by omega), Int.natAbs_natCast]
  | true =>
    rw [if_pos rfl, if_neg (by omega), decide_eq_true (by omega), Int.natAbs_neg, Int.natAbs_natCast]

/-- The truncation of a product is the same in a sum with nothing else. -/
theorem fineTrunc_add_zero (v : Exact) : (fineTrunc (v.add ⟨false, 0, 0⟩)).rat = (fineTrunc v).rat := by
  by_cases hm : v.mag = 0
  · have h0 : ∀ x : Exact, x.mag = 0 → (fineTrunc x).rat = 0 := fun x hx => by
      rw [fineTrunc_eq, Exact.rat_eq_zero_iff]
      simp [hx]
    rw [h0 v hm, h0]
    rw [← Exact.rat_eq_zero_iff, Exact.rat_add, (Exact.rat_eq_zero_iff v).mpr hm]
    simp [Exact.rat]
  · rw [Exact.add_zero_eq hm, fineTrunc_eq, fineTrunc_eq]
    dsimp only
    rw [leading_bits_shift hm]
    unfold Exact.rat
    dsimp only
    rw [two_zpow_split (min_le_left v.exp 0)]
    push_cast
    ring

/-! ### The addend of a block (03 R85, R86) -/

theorem pairRat_plain (p : Elem × Elem) : pairRat false p = (elemMul p.1 p.2).map Exact.rat := by
  obtain ⟨x, y⟩ := p
  cases x <;> cases y <;> rfl

theorem pairRat_fine (p : Elem × Elem) : pairRat true p = (elemMul p.1 p.2).map fun v => (fineTrunc v).rat := by
  obtain ⟨x, y⟩ := p
  cases x with
  | fin x =>
    cases y with
    | fin y =>
      unfold elemMul
      simp only [Option.map_some, fineTrunc_eq]
      rfl
    | _ => rfl
  | _ => rfl

theorem blockSum_cons (p : Elem × Elem) (ps : List (Elem × Elem)) :
    blockSum (p :: ps) = (elemMul p.1 p.2).bind fun u => (blockSum ps).map fun v => u.add v := by
  rw [blockSum]
  cases elemMul p.1 p.2 with
  | none => rfl
  | some u => cases blockSum ps <;> rfl

theorem blockRat_cons (fp32 : Bool) (p : Elem × Elem) (ps : List (Elem × Elem)) :
    blockRat fp32 (p :: ps) = (pairRat fp32 p).bind fun u => (blockRat fp32 ps).map fun v => u + v := rfl

/-- The sum of a block's products is the sum of their numbers. -/
theorem blockSum_rat (ps : List (Elem × Elem)) : (blockSum ps).map Exact.rat = blockRat false ps := by
  induction ps with
  | nil => simp [blockSum, blockRat, Exact.rat]
  | cons p ps ih =>
    rw [blockSum_cons, blockRat_cons, pairRat_plain, ← ih]
    cases elemMul p.1 p.2 with
    | none => rfl
    | some u =>
      cases blockSum ps with
      | none => rfl
      | some v => exact congrArg some (Exact.rat_add u v)

/-- The value that is aligned for a block; under FP32 a block is one product (03 R84). -/
theorem addendOf_rat {fp32 : Bool} {ps : List (Elem × Elem)} (h : fp32 = true → ps.length = 1) :
    (addendOf fp32 ps).map (fun v => v.2.rat) = blockRat fp32 ps := by
  cases fp32 with
  | false =>
    rw [← blockSum_rat]
    unfold addendOf
    rw [Option.map_map]
    rfl
  | true =>
    obtain ⟨p, rfl⟩ := List.length_eq_one_iff.mp (h rfl)
    rw [blockRat_cons, pairRat_fine]
    unfold addendOf
    rw [blockSum_cons]
    cases elemMul p.1 p.2 with
    | none => rfl
    | some v => exact congrArg some ((fineTrunc_add_zero v).trans (add_zero _).symm)

/-! ### The blocks of a row and a column (03 R84, R88) -/

/-- A list of `m` runs of `n` splits into them. -/
theorem splitEvery_of_length {α : Type} {n m f : Nat} (hn : 0 < n) {l : List α} (hl : l.length = m * n) (hf : m ≤ f) :
    splitEvery n f l = (List.range m).map fun g => (l.drop (n * g)).take n := by
  have hflat : ∀ {m : Nat} {l : List α}, l.length = m * n → ((List.range m).map fun g => (l.drop (n * g)).take n).flatten = l := by
    intro m
    induction m with
    | zero =>
      intro l h
      rw [Nat.zero_mul, List.length_eq_zero_iff] at h
      rw [h]
      rfl
    | succ m ih =>
      intro l h
      have htail : (l.drop n).length = m * n := by rw [List.length_drop, h, Nat.succ_mul]; omega
      rw [List.range_succ_eq_map, List.map_cons, List.map_map, List.flatten_cons, Nat.mul_zero, List.drop_zero]
      have hshift : ((fun g => (l.drop (n * g)).take n) ∘ Nat.succ) = fun g => ((l.drop n).drop (n * g)).take n := by
        funext g
        simp [Nat.mul_succ, Nat.add_comm]
      rw [hshift, ih htail, List.take_append_drop]
  have hrun : ∀ x ∈ (List.range m).map fun g => (l.drop (n * g)).take n, x.length = n := by
    intro x hx
    obtain ⟨g, hg, rfl⟩ := List.mem_map.mp hx
    have hle : n * (g + 1) ≤ n * m := Nat.mul_le_mul_left n (List.mem_range.mp hg)
    rw [List.length_take, List.length_drop, hl, Nat.mul_comm m n]
    rw [Nat.mul_succ] at hle
    omega
  have h := splitEvery_flatten hn hrun (by simpa using hf)
  rwa [hflat hl] at h

/-- A long word takes the addends of its blocks one after the other (03 R88). -/
theorem accumulate_word (anchor : Int) (wide checked : Bool) {fp32 : Bool} (w : LW) {blocks : List (List (Elem × Elem))}
    (h : fp32 = true → ∀ ps ∈ blocks, ps.length = 1) :
    (accumulate anchor wide checked fp32 w blocks).1 = blocks.foldl (fun w ps => w.takes wide anchor (blockRat fp32 ps)) w := by
  unfold accumulate
  refine List.foldl_rel (r := fun (x : LW × Nat) (w : LW) => x.1 = w) rfl fun ps hps x w hx => ?_
  rw [← addendOf_rat fun hf => h hf ps hps, ← hx]
  cases addendOf fp32 ps with
  | none => rfl
  | some a => exact LW.add_align _ _ _ _

/-! ### The long words of a bank (04 R111) -/

/-- A table made from a list holds at a key what every item with that key gives. -/
theorem tget_filterMap {α β : Type} [DecidableEq β] {d c : β} {key : α → Nat} {val : α → β} {k : Nat} {l : List α}
    (hall : ∀ x ∈ l, key x = k → val x = c) (hsome : (∃ x ∈ l, key x = k) ∨ c = d) :
    tget d (l.filterMap fun x => if val x = d then none else some (key x, val x)) k = c := by
  induction l with
  | nil => exact (hsome.resolve_left fun ⟨x, hx, _⟩ => absurd hx List.not_mem_nil).symm
  | cons y l ih =>
    obtain ⟨hy, hl⟩ := List.forall_mem_cons.mp hall
    have hrest : key y ≠ k → (∃ x ∈ l, key x = k) ∨ c = d := fun hne => hsome.imp_left fun ⟨x, hx, hk⟩ =>
      ⟨x, (List.mem_cons.mp hx).resolve_left fun e => hne (e ▸ hk), hk⟩
    rw [List.filterMap_cons]
    by_cases hd : val y = d
    · simp only [hd, if_true]
      refine ih hl ?_
      by_cases hk : key y = k
      · exact .inr ((hy hk).symm.trans hd)
      · exact hrest hk
    · simp only [hd, if_false, tget]
      by_cases hk : key y = k
      · rw [if_pos hk, hy hk]
      · rw [if_neg hk, ih hl (hrest hk)]

/-- What a beat makes of the long word of row `i` and column `j`, with its residues. -/
def Bank.beatWord (bk : Bank) (fp32 : Bool) (kk i j : Nat) (ra cb : List Elem) : LW × Nat :=
  accumulate bk.anchor bk.wide bk.checked fp32 (tget {} bk.lw (32 * i + j)) (splitEvery bk.blk kk (ra.zip cb))

/-- The long words of every row and column after a beat, by position. -/
def Bank.beatWords (bk : Bank) (fp32 : Bool) (a b : List (List Elem)) : List (Nat × Nat × LW × Nat) :=
  a.zipIdx.flatMap fun x => b.zipIdx.map fun y => (x.2, y.2, bk.beatWord fp32 (a.headD []).length x.2 y.2 x.1 y.1)

theorem Bank.beat_lw (bk : Bank) (fp32 : Bool) (a b : List (List Elem)) :
    (bk.beat fp32 a b).lw
      = (bk.beatWords fp32 a b).filterMap fun x => if x.2.2.1 = ({} : LW) then none else some (32 * x.1 + x.2.1, x.2.2.1) := by
  unfold Bank.beat
  dsimp only
  split <;> rfl

theorem Bank.mem_beatWords {bk : Bank} {fp32 : Bool} {a b : List (List Elem)} {x : Nat × Nat × LW × Nat} :
    x ∈ bk.beatWords fp32 a b ↔ ∃ i j, i < a.length ∧ j < b.length
      ∧ x = (i, j, bk.beatWord fp32 (a.headD []).length i j (a.getD i []) (b.getD j [])) := by
  unfold Bank.beatWords
  simp only [List.mem_flatMap, List.mem_map, Prod.exists, List.mem_zipIdx_iff_getElem?]
  constructor
  · rintro ⟨ra, i, ha, cb, j, hb, rfl⟩
    exact ⟨i, j, (List.getElem?_eq_some_iff.mp ha).1, (List.getElem?_eq_some_iff.mp hb).1, by simp [List.getD, ha, hb]⟩
  · rintro ⟨i, j, hi, hj, rfl⟩
    exact ⟨a.getD i [], i, by simp [List.getD, hi], b.getD j [], j, by simp [List.getD, hj], rfl⟩

/-- A bank of up to 32 columns holds the long word of each row and column in its own place. -/
theorem Bank.tget_beat (bk : Bank) (fp32 : Bool) {a b : List (List Elem)} {i j : Nat} (hi : i < a.length) (hj : j < b.length)
    (hb : b.length ≤ 32) : tget {} (bk.beat fp32 a b).lw (32 * i + j)
      = (bk.beatWord fp32 (a.headD []).length i j (a.getD i []) (b.getD j [])).1 := by
  rw [bk.beat_lw]
  refine tget_filterMap (key := fun x => 32 * x.1 + x.2.1) (val := fun x => x.2.2.1) (fun x hx hk => ?_)
    (.inl ⟨_, Bank.mem_beatWords.mpr ⟨i, j, hi, hj, rfl⟩, rfl⟩)
  obtain ⟨i', j', _, hj', rfl⟩ := Bank.mem_beatWords.mp hx
  obtain ⟨rfl, rfl⟩ : i' = i ∧ j' = j := ⟨by dsimp only at hk; omega, by dsimp only at hk; omega⟩
  rfl

/-- The long word of a row and a column takes the blocks of its coordinates in order (03 R84, R85, R88). -/
theorem Bank.beat_takes (bk : Bank) {fp32 : Bool} {a b : List (List Elem)} {kk i j : Nat} (hi : i < a.length) (hj : j < b.length)
    (hb : b.length ≤ 32) (hlen : ∀ r ∈ a ++ b, r.length = kk) (hblk : bk.blk ≠ 0) (hkk : kk % bk.blk = 0) (hfp : fp32 = true → bk.blk = 1) :
    tget {} (bk.beat fp32 a b).lw (32 * i + j) = (List.range (kk / bk.blk)).foldl (fun w g => w.takes bk.wide bk.anchor
        (blockRat fp32 ((((a.getD i []).zip (b.getD j [])).drop (bk.blk * g)).take bk.blk))) (tget {} bk.lw (32 * i + j)) := by
  have hpos : 0 < bk.blk := Nat.pos_of_ne_zero hblk
  have hm : kk / bk.blk * bk.blk = kk := Nat.div_mul_cancel (Nat.dvd_of_mod_eq_zero hkk)
  have hra : (a.getD i []).length = kk := hlen _ (List.mem_append_left _ (by simp [List.getD, hi]))
  have hcb : (b.getD j []).length = kk := hlen _ (List.mem_append_right _ (by simp [List.getD, hj]))
  have hhead : (a.headD []).length = kk := by
    obtain _ | ⟨r, a⟩ := a
    · exact absurd hi (Nat.not_lt_zero _)
    · exact hlen r (by simp)
  have hsplit := splitEvery_of_length hpos (l := (a.getD i []).zip (b.getD j [])) (m := kk / bk.blk) (f := kk)
    (by rw [List.length_zip, hra, hcb, min_self, hm]) (Nat.div_le_self _ _)
  rw [bk.tget_beat fp32 hi hj hb, Bank.beatWord, hhead, hsplit, accumulate_word, List.foldl_map]
  intro hf ps hps
  obtain ⟨g, hg, rfl⟩ := List.mem_map.mp hps
  rw [hfp hf, Nat.div_one, List.mem_range] at hg
  rw [List.length_take, List.length_drop, List.length_zip, hra, hcb, hfp hf]
  omega

end Sys2Proof.Machine
end

section
/-! SUPPORT. The start of an MMA (04 R116, R117, R133, 06 R171, R180): the banks that it opens and closes, and that its repetitions read
memory and change none. -/

namespace Sys2Proof.Machine

variable {s t : State} {i : StreamId} {q : QEntry} {rest : List QEntry}

/-! ### The banks (Table 4-5) -/

/-- Each of an instruction's banks changes. -/
def Core.eachBank (c : Core) (f : Bank → Bank) (bs : List Nat) : Core := bs.foldl (fun c b => c.setBank b (f (c.bank b))) c

theorem Core.setBank_frame (c : Core) (b : Nat) (k : Bank) : c.setBank b k = { c with b0 := (c.setBank b k).b0, b1 := (c.setBank b k).b1 } := by
  unfold Core.setBank
  split <;> rfl

theorem Core.eachBank_frame (c : Core) (f : Bank → Bank) (bs : List Nat) :
    c.eachBank f bs = { c with b0 := (c.eachBank f bs).b0, b1 := (c.eachBank f bs).b1 } := by
  unfold Core.eachBank
  induction bs generalizing c with
  | nil => rfl
  | cons b bs ih => rw [List.foldl_cons, ih, c.setBank_frame]

theorem Core.bank_eachBank (c : Core) (f : Bank → Bank) {w : W128} {wide : Bool} {b : Nat} (hb : b ∈ banksOf w wide) :
    (c.eachBank f (banksOf w wide)).bank b = f (c.bank b) := by
  unfold Core.eachBank banksOf at *
  cases wide with
  | false =>
    obtain rfl : b = bankOf w := by simpa using hb
    show (c.setBank (bankOf w) _).bank (bankOf w) = _
    unfold Core.setBank Core.bank
    by_cases h0 : bankOf w = 0
    · simp only [if_pos h0]
    · simp only [if_neg h0]
  | true =>
    obtain rfl | rfl : b = 0 ∨ b = 1 := by simpa using hb
    · rfl
    · rfl

/-- A core whose MMA starts: its banks open, and close (04 R116, R117). -/
def Core.mmaOpened (c : Core) (p : Pass) (q : QEntry) : Core :=
  if mOpn q.w then (c.eachBank (fun _ => openedBank p q) (banksOf q.w q.wide)).lamClear (banksOf q.w q.wide) else c
def Core.mmaBanked (c : Core) (p : Pass) (q : QEntry) : Core :=
  if mCls q.w then (c.mmaOpened p q).eachBank (fun k => { k with state := .closed }) (banksOf q.w q.wide) else c.mmaOpened p q

theorem State.core_mmaBank (s : State) (i : StreamId) (q : QEntry) :
    (s.mmaBank i q).core (skey i) = (s.core (skey i)).mmaBanked i.pass q := by
  have hmod : ∀ (t : State) (p : Prop) [Decidable p] (f : Core → Core),
      (if p then t.modCore (skey i) f else t).core (skey i) = if p then f (t.core (skey i)) else t.core (skey i) := fun t p _ f => by
    split
    · exact t.core_modCore _ f
    · rfl
  unfold State.mmaBank
  dsimp only
  rw [hmod, hmod]
  rfl

theorem State.mmaBank_frame (s : State) (i : StreamId) (q : QEntry) : s.mmaBank i q = { s with cores := (s.mmaBank i q).cores } := by
  unfold State.mmaBank
  dsimp only
  split
  · split <;> rfl
  · split <;> rfl

theorem Core.mmaOpened_frame (c : Core) (p : Pass) (q : QEntry) :
    c.mmaOpened p q = { c with b0 := (c.mmaOpened p q).b0, b1 := (c.mmaOpened p q).b1, lam := (c.mmaOpened p q).lam } := by
  unfold Core.mmaOpened
  split
  · rw [Core.eachBank_frame]
    rfl
  · rfl

/-- Starting changes the banks and the error patterns of their codewords. -/
theorem Core.mmaBanked_frame (c : Core) (p : Pass) (q : QEntry) :
    c.mmaBanked p q = { c with b0 := (c.mmaBanked p q).b0, b1 := (c.mmaBanked p q).b1, lam := (c.mmaBanked p q).lam } := by
  unfold Core.mmaBanked
  split
  · rw [Core.eachBank_frame, Core.mmaOpened_frame]
  · exact c.mmaOpened_frame p q

theorem Core.bank_mmaOpened (c : Core) (p : Pass) {b : Nat} (hb : b ∈ banksOf q.w q.wide) :
    (c.mmaOpened p q).bank b = if mOpn q.w then openedBank p q else c.bank b := by
  unfold Core.mmaOpened
  split
  · exact c.bank_eachBank _ hb
  · rfl

theorem Core.bank_mmaBanked (c : Core) (p : Pass) {b : Nat} (hb : b ∈ banksOf q.w q.wide) : (c.mmaBanked p q).bank b =
    let k := if mOpn q.w then openedBank p q else c.bank b
    if mCls q.w then { k with state := .closed } else k := by
  unfold Core.mmaBanked
  dsimp only
  rw [← c.bank_mmaOpened p hb]
  split
  · exact Core.bank_eachBank _ _ hb
  · rfl

/-! ### The start (05 R141, 04 R133) -/

theorem State.mmaGoOn_none (h : (s.stream i).feeding = none) (fs : List PhysFault) : s.mmaGoOn i fs = s := by
  unfold State.mmaGoOn
  rw [h]

theorem Core.stream_feeding {c : Core} (h : c.chainReady q = true) (p : Pass) : (c.stream p).feeding = none := by
  unfold Core.chainReady Core.feeding at h
  simp only [Bool.and_eq_true, Bool.not_eq_true', Bool.or_eq_false_iff, Option.isSome_eq_false_iff, Option.isNone_iff_eq_none] at h
  obtain ⟨⟨⟨hf, hb⟩, hu⟩, -⟩ := h
  cases p
  · exact hf
  · exact hb
  · exact hu

/-- An MMA that alone heads its queue, and that neither its bank nor a chain keeps back, starts. -/
theorem exec_mmaStart (h : s.soleHead i .mx q rest) (hb : (s.core (skey i)).bankTurn i.pass q = .start)
    (hc : (s.core (skey i)).chainReady q = true) : exec (.instructionStart ⟨i.die, i.core⟩ .mx []) s = .next (s.mmaStart i q []) := by
  have hstill : [Pass.fwd, Pass.bwd, Pass.upd].foldl (fun s p => s.mmaGoOn ⟨i.die, i.core, p⟩ []) s = s :=
    foldl_fixed fun p _ => State.mmaGoOn_none (i := ⟨i.die, i.core, p⟩) (Core.stream_feeding hc p) []
  have hready : s.bankReady i q = true := by
    unfold State.bankReady
    simp [hb, hc]
  show execInstructionStart ⟨i.die, i.core⟩ .mx [] s = _
  unfold execInstructionStart State.startEngine
  dsimp only
  rw [show s.upset [] = s from rfl, hstill, h.startOldest hready, if_neg (by rw [hb]; decide)]

/-- An MMA without a repetition to run leaves its banks and is complete (06 R171, R180). -/
theorem State.mmaStart_idle (h : q.n = 0 ∨ q.skip = true) : s.mmaStart i q []
    = ((s.mmaBank i q).modCore (skey i) fun c => c.feed q 0).modStream i fun st => st.begin .mx {} true := by
  have hfeeds : q.feeds = false := by
    unfold QEntry.feeds
    obtain h | h := h <;> simp [h]
  have hbegin : (fun st : Stream => st.mmaBegin 0 q) = fun st => st.begin .mx {} true := by
    funext st
    unfold Stream.mmaBegin
    simp [hfeeds]
  have hbeats : ∀ t : State, t.mmaBeats i q [] 0 0 = t := fun t => by
    unfold State.mmaBeats
    exact if_pos le_rfl
  unfold State.mmaStart
  simp only [if_pos h, hbeats, hbegin]

/-- What an MMA without a repetition to run leaves: its stream, its banks, and of the rest of the module all but cores. -/
theorem State.mmaStart_idle_spec (hq : (s.stream i).queue .mx = q :: rest) (h : q.n = 0 ∨ q.skip = true) :
    (s.mmaStart i q []).stream i = (s.stream i).started .mx q rest {} true
      ∧ (∀ b, b ∈ banksOf q.w q.wide → ((s.mmaStart i q []).core (skey i)).bank b =
          let k := if mOpn q.w then openedBank i.pass q else (s.core (skey i)).bank b
          if mCls q.w then { k with state := .closed } else k)
      ∧ s.mmaStart i q [] = { s with cores := (s.mmaStart i q []).cores } := by
  have hcore : ((s.mmaBank i q).modCore (skey i) fun c => c.feed q 0).core (skey i) = ((s.core (skey i)).mmaBanked i.pass q).feed q 0 := by
    rw [State.core_modCore, s.core_mmaBank]
  have hstream : ((s.mmaBank i q).modCore (skey i) fun c => c.feed q 0).stream i = s.stream i := by
    unfold State.stream
    rw [hcore, Core.mmaBanked_frame]
    cases i.pass <;> rfl
  rw [State.mmaStart_idle h]
  refine ⟨?_, fun b hb => ?_, ?_⟩
  · rw [State.stream_modStream, hstream, Stream.begin_eq_started hq]
  · unfold State.modStream
    rw [State.core_setStream, Core.bank_setStream, hcore]
    exact Core.bank_mmaBanked _ _ hb
  · rw [State.mmaBank_frame]
    rfl

/-! ### What the repetitions leave (log 9) -/

/-- The core is the same in what its accesses carry (07 R219, 09 R269). -/
structure Core.SamePlace (c d : Core) : Prop where
  part : d.part = c.part
  pos : d.pos = c.pos
  epoch : d.epoch = c.epoch

theorem Core.SamePlace.trans {a b c : Core} (h : a.SamePlace b) (k : b.SamePlace c) : a.SamePlace c :=
  ⟨k.part.trans h.part, k.pos.trans h.pos, k.epoch.trans h.epoch⟩

theorem Core.SamePlace.setBank (c : Core) (b : Nat) (k : Bank) : c.SamePlace (c.setBank b k) := by
  rw [c.setBank_frame]
  exact ⟨rfl, rfl, rfl⟩

theorem Core.SamePlace.setStream (c : Core) (p : Pass) (st : Stream) : c.SamePlace (c.setStream p st) :=
  ⟨c.setStream_part p st, c.setStream_pos p st, c.setStream_epoch p st⟩

theorem Core.SamePlace.firstBeat (c : Core) (p : Pass) (b : Nat) : c.SamePlace (c.firstBeat p b) := by
  unfold Core.firstBeat
  dsimp only
  split
  · exact ⟨rfl, rfl, rfl⟩
  · exact (Core.SamePlace.setStream ..).trans (.setBank ..)

theorem Core.SamePlace.mmaBanked (c : Core) (p : Pass) (q : QEntry) : c.SamePlace (c.mmaBanked p q) := by
  rw [c.mmaBanked_frame]
  exact ⟨rfl, rfl, rfl⟩

/-- Memory and the objects stay, and so does what decides whether an access of the stream's instructions is clear. -/
structure State.StoresStay (s t : State) (i : StreamId) : Prop where
  mem : t.mem = s.mem
  objs : t.objs = s.objs
  checks : s.SameChecks t
  place : (s.core (skey i)).SamePlace (t.core (skey i))

theorem State.StoresStay.refl (s : State) (i : StreamId) : s.StoresStay s i := ⟨rfl, rfl, .refl s, rfl, rfl, rfl⟩

theorem State.StoresStay.trans {r : State} (h : r.StoresStay s i) (k : s.StoresStay t i) : r.StoresStay t i :=
  ⟨k.mem.trans h.mem, k.objs.trans h.objs, h.checks.trans k.checks, h.place.trans k.place⟩

theorem State.StoresStay.modCore (s : State) {f : Core → Core} (hf : ∀ c : Core, c.SamePlace (f c)) : s.StoresStay (s.modCore (skey i) f) i :=
  ⟨rfl, rfl, .modCore s _ f, by rw [State.core_modCore]; exact hf _⟩

theorem State.StoresStay.clear (h : s.StoresStay t i) (hc : s.clear (s.whoOf i q)) : t.clear (t.whoOf i q) := by
  have hw : t.whoOf i q = s.whoOf i q := by
    unfold State.whoOf State.unitCore State.corePos
    rw [h.place.part, h.place.pos, h.place.epoch, h.checks.fuse]
  rw [hw]
  exact h.checks.clear hc

theorem State.StoresStay.mmaBank (s : State) (i : StreamId) (q : QEntry) : s.StoresStay (s.mmaBank i q) i := by
  refine ⟨?_, ?_, ?_, ?_⟩
  · rw [s.mmaBank_frame]
  · rw [s.mmaBank_frame]
  · rw [s.mmaBank_frame]
    exact ⟨rfl, rfl, rfl, rfl, fun _ => rfl⟩
  · rw [s.core_mmaBank]
    exact .mmaBanked ..

theorem State.lamError_objs (ue poisoned : Bool) : (s.lamError i q ue poisoned).objs = s.objs := by
  unfold State.lamError
  dsimp only
  split
  · exact State.post_objs ..
  · split
    · exact State.post_objs ..
    · rfl

theorem State.lamRead_objs (b k : Nat) (write : Bool) : (s.lamRead i q b k write).objs = s.objs := by
  have hwrite : ∀ (t : State) (f : Core → Core), (if write then t.modCore (skey i) f else t).objs = t.objs := fun t f => by
    split <;> rfl
  unfold State.lamRead
  dsimp only
  rw [hwrite]
  split
  · rfl
  · exact State.lamError_objs ..
  · exact State.lamError_objs ..
  · split
    · exact State.lamError_objs ..
    · exact State.lamError_objs ..

theorem State.StoresStay.lamScan (s : State) (i : StreamId) (q : QEntry) (write : Bool) : s.StoresStay (s.lamScan i q write) i := by
  have hd := State.Decoded.lamScan s i q write
  refine ⟨hd.code.mem, ?_, hd.checks, ?_⟩
  · unfold State.lamScan
    dsimp only
    split
    · rfl
    · exact List.foldlRecOn (motive := fun t : State => t.objs = s.objs) _ _ rfl fun t ht _ _ => (State.lamRead_objs ..).trans ht
  · rw [hd.code.core.rest]
    exact ⟨rfl, rfl, rfl⟩

/-- Where nothing stands in the way, reading an operand changes nothing (07 R218). -/
theorem State.mmaOperand_clear (hc : s.clear (s.whoOf i q)) (fs : List PhysFault) (isA : Bool) (addr : W64) :
    (s.mmaOperand i q fs isA addr).2 = s := by
  unfold State.mmaOperand
  dsimp only
  rw [State.readMem_clear _ hc]

theorem State.parityChain_nil (lo hi : Nat) : s.parityChain i q [] lo hi = s := rfl

/-- A repetition reads its operands, takes the rows of a chain that it needs, and changes its bank. -/
theorem State.StoresStay.mmaRep (hc : s.clear (s.whoOf i q)) (b j : Nat) : s.StoresStay (s.mmaRep i q [] b j) i := by
  have hrest : ∀ {s1 : State}, s.StoresStay s1 i → ∀ (addr : W64) (as : List Nat) (f : Core → Bank), s.StoresStay
      (((s1.mmaOperand i q [] false addr).2.parityEvent i 1 q [] as).modCore (skey i) fun c => c.setBank b (f c)) i :=
    fun {s1} h1 addr as f => by
      rw [State.mmaOperand_clear (h1.clear hc), State.parityEvent_nil]
      exact h1.trans (.modCore s1 fun c => .setBank c _ _)
  unfold State.mmaRep
  dsimp only
  split
  · refine hrest ?_ _ _ _
    rw [State.parityChain_nil]
    exact .modCore s (f := fun c => { c with chainFed := c.chainFed.drop _ }) fun _ => ⟨rfl, rfl, rfl⟩
  · refine hrest ?_ _ _ _
    rw [State.mmaOperand_clear hc]
    exact .refl s i

theorem State.StoresStay.mmaBeats (hc : s.clear (s.whoOf i q)) (lo hi : Nat) : s.StoresStay (s.mmaBeats i q [] lo hi) i := by
  unfold State.mmaBeats
  dsimp only
  split
  · exact .refl s i
  · refine List.foldlRecOn (motive := fun t => s.StoresStay t i) _ _ ?_ fun t ht j _ => ht.trans (.mmaRep (ht.clear hc) _ j)
    exact (State.StoresStay.lamScan s i q true).trans (.modCore _ fun c => (Core.SamePlace.firstBeat c _ _).trans ⟨rfl, rfl, rfl⟩)

/-- No MMA changes memory or an object, where its reads are clear. -/
theorem State.StoresStay.mmaStart (hc : s.clear (s.whoOf i q)) : s.StoresStay (s.mmaStart i q []) i := by
  unfold State.mmaStart
  dsimp only
  have hfed := (State.StoresStay.mmaBank s i q).trans (.modCore _ (f := fun c => c.feed q 0) fun _ => ⟨rfl, rfl, rfl⟩)
  exact (hfed.trans (.mmaBeats (hfed.clear hc) _ _)).trans (.modCore _ fun c => .setStream c _ _)

/-- Settles O15: an MMA without a repetition to run moves its banks alone, no MMA changes memory, and a beat adds to each long word the exact
block sums of its row and column. -/
theorem matrixBanksTakeTheirBeats : Obligations.MatrixBanksTakeTheirBeats := by
  unfold Obligations.MatrixBanksTakeTheirBeats
  refine ⟨fun s i q rest _ hhead _ hturn hready => ⟨fun hidle => ?_, fun hc => ?_⟩,
    fun bk fp32 a b kk i j hi hj hb hlen hblk hkk hfp => bk.beat_takes hi hj hb hlen hblk hkk hfp⟩
  · exact ⟨_, exec_mmaStart hhead hturn hready, State.mmaStart_idle_spec hhead.1 hidle⟩
  · have hstay := State.StoresStay.mmaStart hc
    exact ⟨_, exec_mmaStart hhead hturn hready, hstay.mem, hstay.objs⟩

end Sys2Proof.Machine
end

section
/-! SUPPORT. The rows that issue an instruction (06 Tables 6-5 and 6-7 to 6-16), in a cycle of their stream: the operation that an issue
command runs, for each row of the two tables, and what it does out of turn, under a stall cause, and with a word of no instruction. -/

namespace Sys2Proof.Machine

variable {s : State} {i : StreamId} {w : W128}

/-! ### The operation behind a row -/

/-- An issue command of an engine row: one cycle at the stream's turn, in which a word of no instruction of the row meets the faults of
06 R193 and no effect before them. -/
def State.IssuesEngine (s : State) (i : StreamId) (w : W128) (c : Instr) (fam op : Nat) (eng : Engine) : Prop :=
  ∃ go, exec c s = .next (s.onTurn i (some eng) (issueNeed w fam op) go)
    ∧ (ofRow w fam op = false → ∃ enc seq absent p f, go s = s.issueEng i w fam op eng enc seq absent p f)

theorem State.IssuesEngine.strm {c : Instr} {op : Nat} (hc : exec c s = .next (s.issueStrm i w op)) : s.IssuesEngine i w c 0 op .str := by
  unfold State.issueStrm at hc
  rw [← issueNeed_strm] at hc
  exact ⟨_, hc, fun hw => by rw [hw]; exact ⟨_, _, _, _, _, rfl⟩⟩

/-- A row whose instruction reads nothing before it issues. -/
theorem State.IssuesEngine.of {c : Instr} {fam op : Nat} {eng : Engine} {go : State → State} (hc : exec c s = .next (s.onTurn i (some eng) 0 go))
    (h0 : fam ≠ 0) (h7 : fam ≠ 7) (hgo : ∃ enc seq absent p f, go s = s.issueEng i w fam op eng enc seq absent p f) :
    s.IssuesEngine i w c fam op eng :=
  ⟨go, by rw [issueNeed_none h0 h7]; exact hc, fun _ => hgo⟩

theorem State.IssuesEngine.vec {c : Instr} {op : Nat} (hc : exec c s = .next (s.issueVec i w op)) : s.IssuesEngine i w c 2 op .vec :=
  .of hc (by decide) (by decide) ⟨_, _, _, _, _, rfl⟩

theorem State.IssuesEngine.xch {c : Instr} {op : Nat} (hc : exec c s = .next (s.issueXch i w op)) : s.IssuesEngine i w c 4 op .xch :=
  .of hc (by decide) (by decide) ⟨_, _, _, _, _, rfl⟩

theorem State.IssuesEngine.syn {c : Instr} {op : Nat} (hc : exec c s = .next (s.issueSyn i w op)) : s.IssuesEngine i w c 6 op .syn :=
  .of hc (by decide) (by decide) ⟨_, _, _, _, _, rfl⟩

theorem State.IssuesEngine.mma : s.IssuesEngine i w (.mma i w) 1 0 .mx := 
  .of rfl (by decide) (by decide) ⟨_, _, _, _, _, rfl⟩

theorem State.IssuesEngine.pack : s.IssuesEngine i w (.pack i w) 3 0 .pack := 
  .of rfl (by decide) (by decide) ⟨_, _, _, _, _, rfl⟩

theorem State.IssuesEngine.upd : s.IssuesEngine i w (.upd i w) 5 0 .upd := 
  .of rfl (by decide) (by decide) ⟨_, _, _, _, _, rfl⟩

theorem State.IssuesEngine.row : ∀ r ∈ engineRows, s.IssuesEngine i w (r.1 i w) r.2.1 r.2.2.1 r.2.2.2 := by
  simp only [engineRows, List.forall_mem_cons]
  exact ⟨.strm rfl, .strm rfl, .mma, .vec rfl, .vec rfl, .vec rfl,
    .vec rfl, .vec rfl, .vec rfl, .vec rfl, .vec rfl, .vec rfl,
    .vec rfl, .vec rfl, .vec rfl, .vec rfl, .vec rfl, .vec rfl,
    .vec rfl, .vec rfl, .vec rfl, .vec rfl, .pack, .xch rfl,
    .xch rfl, .xch rfl, .xch rfl, .xch rfl, .upd, .syn rfl,
    .syn rfl, .syn rfl, .syn rfl, .syn rfl, .syn rfl, by simp⟩

/-- An issue command of a CTL row, with what its instruction reads before it issues. -/
def State.IssuesCtl (s : State) (i : StreamId) (w : W128) (c : Instr) (op : Nat) : Prop :=
  ∃ need seq loop eff, exec c s = .next (s.issueCtl i w op need seq loop eff) ∧ issueNeed w 7 op = if ofRow w 7 op then need else 0

theorem issueNeed_ctl (w : W128) (op : Nat) :
    issueNeed w 7 op = if ofRow w 7 op then (if op = 5 ∨ op = 6 then opndNeed w else 0) else 0 := by
  unfold issueNeed
  cases ofRow w 7 op <;> rfl

/-- A row other than SETC and ADDC reads nothing before it issues. -/
theorem State.IssuesCtl.of {c : Instr} {op : Nat} {seq loop : Stream → Bool} {eff : State → State}
    (hc : exec c s = .next (s.issueCtl i w op 0 seq loop eff)) (hop : ¬ (op = 5 ∨ op = 6)) : s.IssuesCtl i w c op :=
  ⟨0, seq, loop, eff, hc, by rw [issueNeed_ctl, if_neg hop]⟩

theorem exec_ctlIdle_first (h : (s.stream i).idleLeft = 0) : exec (.ctlIdle i w) s
    = .next (s.issueCtl i w 1 0 Stream.fallsBad (fun _ => false) fun s => s.modStream i fun st => st.idleFor (fld w 15 0 + 1)) := by
  show Host.Outcome.next _ = _
  rw [if_pos h]

theorem exec_ctlOpend_first (h : (s.stream i).phase = .none) : exec (.ctlOpend i w) s
    = .next (s.issueCtl i w 14 0 (fun st => !st.inop) (fun _ => false) fun s =>
        s.modStream i fun st => { st with phase := .ended, stime := st.stime + 1, cyc := st.cyc + 1, stall := 0 }) := by
  show Host.Outcome.next _ = _
  rw [if_pos h]

/-- IDLE that has begun and OPEND that has closed its attempt go on by rules of their own; every other CTL row issues. -/
theorem State.IssuesCtl.row (h0 : (s.stream i).idleLeft = 0) (hp : (s.stream i).phase = .none) :
    ∀ r ∈ ctlRows, s.IssuesCtl i w (r.1 i w) r.2 := by
  simp only [ctlRows, List.forall_mem_cons]
  exact ⟨.of rfl (by decide), .of (exec_ctlIdle_first h0) (by decide), .of rfl (by decide), .of rfl (by decide), .of rfl (by decide),
    ⟨_, _, _, _, rfl, issueNeed_ctl w 5⟩, ⟨_, _, _, _, rfl, issueNeed_ctl w 6⟩, .of rfl (by decide), .of rfl (by decide), .of rfl (by decide),
    .of rfl (by decide), .of rfl (by decide), .of rfl (by decide), .of rfl (by decide), .of (exec_ctlOpend_first hp) (by decide),
    .of rfl (by decide), by simp⟩

/-! ### Out of turn, and under a stall cause (05 R140, R142) -/

theorem State.IssuesEngine.still {c : Instr} {fam op : Nat} {eng : Engine} (h : s.IssuesEngine i w c fam op eng) (hr : s.runs i = false) :
    exec c s = .next s := by
  obtain ⟨go, hc, -⟩ := h
  rw [hc, State.onTurn_still hr]

/-- A stream that takes no core cycle does not go on with an IDLE or at an OPEND either. -/
theorem exec_ctl_still (hr : s.runs i = false) : ∀ r ∈ ctlRows, exec (r.1 i w) s = .next s := by
  have issue : ∀ (op need : Nat) (seq loop : Stream → Bool) (eff : State → State), s.issueCtl i w op need seq loop eff = s :=
    fun _ _ _ _ _ => State.onTurn_still hr _
  have idle : exec (.ctlIdle i w) s = .next s := by
    show Host.Outcome.next _ = _
    simp [issue, hr]
  have opend : exec (.ctlOpend i w) s = .next s := by
    show Host.Outcome.next _ = _
    simp [issue, hr]
  have row : ∀ {c : Instr} {op need : Nat} {seq loop : Stream → Bool} {eff : State → State},
      exec c s = .next (s.issueCtl i w op need seq loop eff) → exec c s = .next s := fun h => h.trans (congrArg _ (issue _ _ _ _ _))
  simp only [ctlRows, List.forall_mem_cons]
  exact ⟨row rfl, idle, row rfl, row rfl, row rfl, row rfl, row rfl, row rfl, row rfl, row rfl, row rfl, row rfl, row rfl, row rfl, opend,
    row rfl, by simp⟩

/-- A stall cycle of `s` with a cause: what an issue command then answers. -/
def State.StallsOn (s : State) (i : StreamId) (c : Instr) (cause : Nat) : Prop :=
  ∃ asked late left port, exec c s = .next (s.ported i
    { s.stream i with
      stall := cause, stalls := (s.stream i).stalls + 1, cyc := (s.stream i).cyc + 1, asked := asked, portLate := late, portLeft := left } port)

theorem State.StallsOn.of_onTurn {c : Instr} {eng : Option Engine} {need : Nat} {go : State → State} (hc : exec c s = .next (s.onTurn i eng need go))
    (hr : s.runs i = true) (h0 : (s.stream i).idleLeft = 0) (hp : (s.stream i).phase = .none) (hs : s.stallCause i eng need ≠ 0) :
    s.StallsOn i c (s.stallCause i eng need) := by
  obtain ⟨late, left, port, e⟩ := State.onTurn_stall hr h0 hp hs go
  exact ⟨_, late, left, port, hc.trans (congrArg _ e)⟩

/-- Settles O6: every issue command is one cycle at its stream's turn, which leaves a stream that does not run alone and is a stall cycle
under a cause. -/
theorem streamsIssueOnlyInTheirTurn : Obligations.StreamsIssueOnlyInTheirTurn := by
  unfold Obligations.StreamsIssueOnlyInTheirTurn
  refine ⟨fun s i w hr => ⟨fun r hm => (State.IssuesEngine.row r hm).still hr, exec_ctl_still hr⟩,
    fun s i w hr h0 hp => ⟨fun r hm hs => ?_, fun r hm hs => ?_⟩⟩
  · obtain ⟨go, hc, -⟩ := State.IssuesEngine.row (s := s) (i := i) (w := w) r hm
    exact State.StallsOn.of_onTurn hc hr h0 hp hs
  · obtain ⟨need, seq, loop, eff, hc, hn⟩ := State.IssuesCtl.row (w := w) h0 hp r hm
    rw [hn] at hs ⊢
    exact State.StallsOn.of_onTurn hc hr h0 hp hs

/-! ### A word of no instruction (05 R162, 06 R168, R172) -/

/-- Family and opcode of a word pick its row. -/
theorem issueRow_engine : ∀ r ∈ engineRows, hFam w = r.2.1 → hOp w = r.2.2.1 → issueRow i w = some (r.1 i w) := by
  unfold issueRow hFam hOp
  simp only [engineRows, List.forall_mem_cons, List.not_mem_nil, false_imp_iff, implies_true, and_true]
  repeat' apply And.intro
  all_goals exact fun h1 h2 => by rw [h1, h2]; rfl

theorem issueRow_ctl : ∀ r ∈ ctlRows, hFam w = 7 → hOp w = r.2 → issueRow i w = some (r.1 i w) := by
  unfold issueRow hFam hOp
  simp only [ctlRows, List.forall_mem_cons, List.not_mem_nil, false_imp_iff, implies_true, and_true]
  repeat' apply And.intro
  all_goals exact fun h1 h2 => by rw [h1, h2]; rfl

theorem ofRow_fields {fam op : Nat} (h : ofRow w fam op = true) : hFam w = fam ∧ hOp w = op := by
  unfold ofRow at h
  simp only [Bool.and_eq_true, beq_iff_eq] at h
  exact h.1

/-- A word picks a row only where its family and opcode are those of a row. -/
theorem issueRow_some_fields {c : Instr} (h : issueRow i w = some c) :
    (hFam w, hOp w) ∈ engineRows.map (fun r => (r.2.1, r.2.2.1)) ∨ hFam w = 7 ∧ hOp w ∈ ctlRows.map (·.2) := by
  unfold issueRow at h
  split at h
  case h_52 => cases h
  all_goals
    rename_i h1 h2
    rw [show hFam w = _ from h1, show hOp w = _ from h2]
    decide

/-- A row that a word picks is one of the two tables, with the word's family and opcode. -/
theorem issueRow_some {c : Instr} (h : issueRow i w = some c) :
    (∃ r ∈ engineRows, c = r.1 i w ∧ hFam w = r.2.1 ∧ hOp w = r.2.2.1) ∨ ∃ r ∈ ctlRows, c = r.1 i w ∧ hFam w = 7 ∧ hOp w = r.2 := by
  obtain hm | ⟨h7, hm⟩ := issueRow_some_fields h
  · obtain ⟨r, hr, e⟩ := List.mem_map.1 hm
    obtain ⟨h1, h2⟩ := Prod.mk.inj e
    exact .inl ⟨r, hr, Option.some.inj (h.symm.trans (issueRow_engine r hr h1.symm h2.symm)), h1.symm, h2.symm⟩
  · obtain ⟨r, hr, e⟩ := List.mem_map.1 hm
    exact .inr ⟨r, hr, Option.some.inj (h.symm.trans (issueRow_ctl r hr h7 e.symm)), h7, e.symm⟩

theorem State.IssuesEngine.encodingFault {c : Instr} {fam op : Nat} {eng : Engine} (h : s.IssuesEngine i w c fam op eng)
    (ht : s.turn i (some eng) 0) (hw : ofRow w fam op = false) : exec c s = .next (s.issueFault i w 1) := by
  obtain ⟨go, hc, hgo⟩ := h
  obtain ⟨enc, seq, absent, p, f, e⟩ := hgo hw
  have hn : issueNeed w fam op = 0 := by unfold issueNeed; rw [if_pos hw]
  rw [hc, hn, State.onTurn_turn ht, e, State.issueEng_fault (c := 1) (by rw [hw]; rfl), State.portJump_fault ht.port]

theorem State.IssuesCtl.encodingFault {c : Instr} {op : Nat} (h : s.IssuesCtl i w c op) (ht : s.turn i none 0) (hw : ofRow w 7 op = false) :
    exec c s = .next (s.issueFault i w 1) := by
  obtain ⟨need, seq, loop, eff, hc, -⟩ := h
  rw [hc, State.issueCtl_fault eff (c := 1) (by rw [hw]; exact ht) (by rw [hw]; rfl)]

/-- Settles O8: the tables of rows are those that words pick, and a word of another row meets the first of the faults of 06 R193. -/
theorem encodingFaultHaltsTheStream : Obligations.EncodingFaultHaltsTheStream := by
  unfold Obligations.EncodingFaultHaltsTheStream
  refine ⟨fun i w => ⟨fun r hm hw => ?_, fun r hm hw => ?_, fun c => issueRow_some⟩,
    fun s i w => ⟨fun r hm ht hw => (State.IssuesEngine.row r hm).encodingFault ht hw,
      fun r hm ht hw => (State.IssuesCtl.row ht.2.1 ht.2.2.1 r hm).encodingFault ht hw⟩⟩
  · obtain ⟨h1, h2⟩ := ofRow_fields hw
    exact issueRow_engine r hm h1 h2
  · obtain ⟨h1, h2⟩ := ofRow_fields hw
    exact issueRow_ctl r hm h1 h2

/-! ### An instruction enters its queue (05 R140, R149) -/

theorem Stream.KeepsIssue.mma (w : W128) (close : Nat × Nat × Nat × Bool) (bs : Stream → List Nat) : Stream.KeepsIssue fun st =>
    let st1 : Stream := { st with lastFlow := some (mFlow w), lastPre := mPre w }
    let st2 := if mChin w && st1.inop then { st1 with chained := true } else st1
    let lc := (bs st).foldl (fun v b => v.setIfInBounds b close) st2.lastClose
    if mCls w then { st2 with lastClose := lc } else st2 := by
  constructor <;> intro st <;> dsimp only <;> split <;> split <;> rfl

theorem Stream.KeepsIssue.pack (w : W128) : Stream.KeepsIssue fun st =>
    let st1 := Stream.noteConv (pCcw w) st
    if pChout w && st1.inop then { st1 with chout := true } else st1 := by
  constructor <;> intro st <;> unfold Stream.noteConv <;> dsimp only <;> split <;> split <;> rfl

theorem Stream.KeepsIssue.vec (w : W128) (op : Nat) : Stream.KeepsIssue (if vecConverts op then Stream.noteConv (vCcw w) else fun st => st) := by
  split
  · exact .noteConv _
  · exact .id

/-- An instruction that issues, of a row that reads nothing before, enters its queue where its family finds no fault. -/
theorem State.entered_of {fam op : Nat} {eng : Engine} {go : State → State} {enc seq absent : Bool} {p : Plan} {f : Stream → Stream}
    (hi : i.wf = true) (h : s.issues i w fam op eng) (h0 : fam ≠ 0) (h7 : fam ≠ 7)
    (hgo : go s = s.issueEng i w fam op eng enc seq absent p f) (he : enc = false) (hq : seq = false) (ha : absent = false)
    (hf : Stream.KeepsIssue f) (hp : p.incs = (s.stream i).incRegs w fam op) :
    s.Entered (s.onTurn i (some eng) 0 go) i w eng ((s.stream i).incRegs w fam op) := by
  rw [State.onTurn_turn (h.turn (issueNeed_none h0 h7)), hgo, State.issueEng_ok (State.issues_firstFault h he hq ha), ← hp]
  exact (State.enqueue_entered hi hf).portJump hi

theorem exec_mma_entered (hi : i.wf = true) (h : s.issues i w 1 0 .mx) :
    ∃ t, exec (.mma i w) s = .next t ∧ s.Entered t i w .mx ((s.stream i).incRegs w 1 0) := by
  obtain ⟨a, b, ha, hb, hbad, habs⟩ := h.2.2.2.2.2
  refine ⟨_, rfl, State.entered_of hi h (by decide) (by decide) rfl ?_ ?_ ?_ (.mma w _ _) rfl⟩
  · simp [ha, hb, hbad]
  · simp [ha, hb]
  · simp only [ha, hb, Option.getD_some]
    cases hg : s.fuse.gradeB
    · rfl
    · simpa [and_assoc] using habs hg

theorem State.issueVec_entered {op : Nat} (hi : i.wf = true) (h : s.issues i w 2 op .vec) :
    s.Entered (s.issueVec i w op) i w .vec ((s.stream i).incRegs w 2 op) := by
  obtain ⟨f, hf, hbad⟩ := h.2.2.2.2.2
  refine State.entered_of hi h (by decide) (by decide) rfl ?_ ?_ rfl (.vec w op) ?_
  · simp only [decide_eq_true_eq, hf, hbad, Option.getD_some, Bool.and_false]
  · simp [hf]
  · by_cases h10 : op ≤ 10 <;> simp [Stream.incRegs, h10]

theorem exec_pack_entered (hi : i.wf = true) (h : s.issues i w 3 0 .pack) :
    ∃ t, exec (.pack i w) s = .next t ∧ s.Entered t i w .pack ((s.stream i).incRegs w 3 0) :=
  ⟨_, rfl, State.entered_of hi h (by decide) (by decide) rfl rfl rfl rfl (.pack w) rfl⟩

theorem exec_upd_entered (hi : i.wf = true) (h : s.issues i w 5 0 .upd) :
    ∃ t, exec (.upd i w) s = .next t ∧ s.Entered t i w .upd ((s.stream i).incRegs w 5 0) := by
  obtain ⟨hop, habs⟩ := h.2.2.2.2.2
  refine ⟨_, rfl, State.entered_of hi h (by decide) (by decide) rfl rfl hop ?_ .id rfl⟩
  rw [List.any_eq_false]
  exact fun u hu => by rw [habs u hu]; decide

/-- Settles O7: one lemma for each family, whose conditions of issue exclude the faults that it looks for. -/
theorem engineInstructionsEnterTheirQueue : Obligations.EngineInstructionsEnterTheirQueue := by
  unfold Obligations.EngineInstructionsEnterTheirQueue
  intro s i w hi hc
  have strm : ∀ {c : Instr} {op : Nat}, exec c s = .next (s.issueStrm i w op) → s.issues i w 0 op .str →
      ∃ t, exec c s = .next t ∧ s.Entered t i w .str ((s.stream i).incRegs w 0 op) :=
    fun e h => ⟨_, e, State.issueStrm_entered hi hc h⟩
  have vec : ∀ {c : Instr} {op : Nat}, exec c s = .next (s.issueVec i w op) → s.issues i w 2 op .vec →
      ∃ t, exec c s = .next t ∧ s.Entered t i w .vec ((s.stream i).incRegs w 2 op) :=
    fun e h => ⟨_, e, State.issueVec_entered hi h⟩
  have xch : ∀ {c : Instr} {op : Nat}, exec c s = .next (s.issueXch i w op) → s.issues i w 4 op .xch →
      ∃ t, exec c s = .next t ∧ s.Entered t i w .xch ((s.stream i).incRegs w 4 op) :=
    fun e h => ⟨_, e, State.issueXch_entered hi h⟩
  have syn : ∀ {c : Instr} {op : Nat}, exec c s = .next (s.issueSyn i w op) → s.issues i w 6 op .syn →
      ∃ t, exec c s = .next t ∧ s.Entered t i w .syn ((s.stream i).incRegs w 6 op) :=
    fun e h => ⟨_, e, State.issueSyn_entered hi h⟩
  simp only [engineRows, List.forall_mem_cons]
  exact ⟨strm rfl, strm rfl, exec_mma_entered hi, vec rfl, vec rfl, vec rfl, vec rfl, vec rfl, vec rfl, vec rfl, vec rfl, vec rfl, vec rfl,
    vec rfl, vec rfl, vec rfl, vec rfl, vec rfl, vec rfl, vec rfl, vec rfl, vec rfl, exec_pack_entered hi, xch rfl, xch rfl, xch rfl, xch rfl,
    xch rfl, exec_upd_entered hi, syn rfl, syn rfl, syn rfl, syn rfl, syn rfl, syn rfl, by simp⟩

end Sys2Proof.Machine
end

section
/-! SUPPORT. The next address (05 R150, R153, 06 R177): the loop stack, LOOP and the branches. -/

namespace Sys2Proof.Machine

variable {s : State} {i : StreamId} {w : W128}

/-! ### The loop stack -/

theorem loopNext_cons (last : W64) (e : LoopEnt) (rest : List LoopEnt) : loopNext last (e :: rest)
    = if last = e.start + BitVec.ofNat 64 (16 * (e.len - 1)) then
        (if e.count.toNat ≤ 1 then loopNext last rest else (e.start, { e with count := e.count - 1 } :: rest))
      else (last + 16, e :: rest) := rfl

theorem loopNext_cases (last : W64) (e : LoopEnt) (rest : List LoopEnt) :
    loopNext last [] = (last + 16, [])
      ∧ (last ≠ e.start + BitVec.ofNat 64 (16 * (e.len - 1)) → loopNext last (e :: rest) = (last + 16, e :: rest))
      ∧ (last = e.start + BitVec.ofNat 64 (16 * (e.len - 1)) → 1 < e.count.toNat →
          loopNext last (e :: rest) = (e.start, { e with count := e.count - 1 } :: rest))
      ∧ (last = e.start + BitVec.ofNat 64 (16 * (e.len - 1)) → e.count.toNat ≤ 1 → loopNext last (e :: rest) = loopNext last rest) :=
  ⟨rfl, fun h => by rw [loopNext_cons, if_neg h], fun h hc => by rw [loopNext_cons, if_pos h, if_neg (Nat.not_le.2 hc)],
    fun h hc => by rw [loopNext_cons, if_pos h, if_pos hc]⟩

/-! ### Faults of a CTL instruction -/

theorem issueFault_ctl {op : Nat} (hw : ofRow w 7 op = true) (c : Nat) : s.issueFault i w c = s.streamFault i c 0xF (s.stream i).pc none := by
  have h7 : hFam w = 7 := (ofRow_fields hw).1
  unfold State.issueFault
  rw [if_pos h7]

/-- A CTL instruction whose one fault is Loop halts its stream with it. -/
theorem State.issueCtl_loopFault {op need : Nat} {seq loop : Stream → Bool} (eff : State → State)
    (h : s.turn i none (if ofRow w 7 op then need else 0)) (hw : ofRow w 7 op = true) (hi : (s.stream i).inImage (s.stream i).pc = true)
    (hs : seq (s.stream i) = false) (hl : loop (s.stream i) = true) :
    s.issueCtl i w op need seq loop eff = s.streamFault i 3 0xF (s.stream i).pc none := by
  rw [← issueFault_ctl hw, ← State.portJump_fault (w := w) h.port]
  unfold State.issueCtl
  rw [State.onTurn_turn h]
  simp [hw, hi, hs, hl, firstFault]

/-- The turn of a CTL instruction that reads nothing before it issues. -/
theorem State.turn.ctl {op : Nat} (h : s.turn i none 0) : s.turn i none (if ofRow w 7 op then 0 else 0) := by rwa [ite_self]

/-! ### LOOP -/

theorem exec_ctlLoop_skip (ht : s.turn i none 0) (hw : ofRow w 7 7 = true) (hi : (s.stream i).inImage (s.stream i).pc = true)
    (h0 : loopCount w (s.stream i) = 0) {last : W64} (hl : (s.stream i).pc + BitVec.ofNat 64 (16 * loopLen w) = last)
    (he : (s.stream i).edgeBad last = false) :
    ∃ t, exec (.ctlLoop i w) s = .next t ∧ s.Moves t i (loopNext last (s.stream i).loops).1 (loopNext last (s.stream i).loops).2 id := by
  subst hl
  have e : exec (.ctlLoop i w) s = .next ((s.setStream i ((id (s.stream i)).issued none
      ((s.stream i).pc + BitVec.ofNat 64 (16 * loopLen w)) 0)).portJump i) := by
    refine congrArg Host.Outcome.next ((State.issueCtl_eff _ ht.ctl hw hi (by simp [he]) (by simp [h0])).trans ?_)
    unfold State.modStream
    dsimp only
    rw [if_pos h0]
    rfl
  exact ⟨_, e, State.moves_issued ht.pow none _ 0 id rfl rfl rfl⟩

theorem exec_ctlLoop_push (ht : s.turn i none 0) (hw : ofRow w 7 7 = true) (hi : (s.stream i).inImage (s.stream i).pc = true)
    (h0 : loopCount w (s.stream i) ≠ 0) (h4 : (s.stream i).loops.length < 4) : ∃ t, exec (.ctlLoop i w) s = .next t
      ∧ s.Moves t i ((s.stream i).pc + 16) (⟨(s.stream i).pc + 16, loopLen w, loopCount w (s.stream i)⟩ :: (s.stream i).loops) id := by
  let u : Stream := ({ s.stream i with loops := ⟨(s.stream i).pc + 16, loopLen w, loopCount w (s.stream i)⟩ :: (s.stream i).loops } : Stream).issued
    (some ((s.stream i).pc + 16)) (s.stream i).pc 0
  have e : exec (.ctlLoop i w) s = .next ((s.setStream i u).portJump i) := by
    refine congrArg Host.Outcome.next ((State.issueCtl_eff _ ht.ctl hw hi (by simpa using fun h => absurd h h0) (by simpa using fun _ => h4)).trans ?_)
    unfold State.modStream
    dsimp only
    rw [if_neg h0]
  exact ⟨_, e, State.moves_setStream ht.pow _ _ id u rfl⟩

theorem exec_ctlLoop_faults (ht : s.turn i none 0) (hw : ofRow w 7 7 = true) (hi : (s.stream i).inImage (s.stream i).pc = true) :
    (loopCount w (s.stream i) = 0 → (s.stream i).edgeBad ((s.stream i).pc + BitVec.ofNat 64 (16 * loopLen w)) = true →
        exec (.ctlLoop i w) s = .next (s.streamFault i 2 0xF (s.stream i).pc none))
      ∧ (loopCount w (s.stream i) ≠ 0 → 4 ≤ (s.stream i).loops.length →
        exec (.ctlLoop i w) s = .next (s.streamFault i 3 0xF (s.stream i).pc none)) :=
  ⟨fun h0 he => congrArg Host.Outcome.next (State.issueCtl_seqFault _ ht.ctl hw (by simp [h0, he])),
    fun h0 h4 => congrArg Host.Outcome.next (State.issueCtl_loopFault _ ht.ctl hw hi (by simpa using fun h => absurd h h0) (by simpa [h4] using h0))⟩

/-! ### Branches -/

/-- What the issue of a branch does, taken or not. -/
def State.Branches (s : State) (i : StreamId) (target : W64) (c : Instr) (taken : Bool) : Prop :=
  (taken = true → (s.stream i).branchBad target = false → ∃ t, exec c s = .next t ∧ s.Moves t i target (s.stream i).loops id)
    ∧ (taken = true → (s.stream i).branchBad target = true → exec c s = .next (s.streamFault i 2 0xF (s.stream i).pc none))
    ∧ (taken = false → (s.stream i).edgeBad (s.stream i).pc = false → ∃ t, exec c s = .next t ∧ s.Falls t i id)
    ∧ (taken = false → (s.stream i).edgeBad (s.stream i).pc = true → exec c s = .next (s.streamFault i 2 0xF (s.stream i).pc none))

theorem State.Branches.of {c : Instr} {op : Nat} {taken : Stream → Bool} (hc : exec c s = .next (s.branch i w op taken)) (ht : s.turn i none 0)
    (hw : ofRow w 7 op = true) (hi : (s.stream i).inImage (s.stream i).pc = true) :
    s.Branches i ((s.stream i).branchTo w) c (taken (s.stream i)) := by
  unfold State.branch State.modStream at hc
  have hp := ht.pow
  refine ⟨fun h hb => ⟨_, hc.trans (congrArg _ (State.issueCtl_eff _ ht.ctl hw hi (by rw [if_pos h, hb]) rfl)), ?_⟩,
    fun h hb => hc.trans (congrArg _ (State.issueCtl_seqFault _ ht.ctl hw (by rw [if_pos h, hb]))),
    fun h hb => ⟨_, hc.trans (congrArg _ (State.issueCtl_eff _ ht.ctl hw hi (by rw [h]; exact hb) rfl)), ?_⟩,
    fun h hb => hc.trans (congrArg _ (State.issueCtl_seqFault _ ht.ctl hw (by rw [h]; exact hb)))⟩
  · dsimp only
    rw [if_pos h]
    exact State.moves_issued hp (some _) _ 0 id rfl rfl rfl
  · dsimp only
    rw [h]
    exact State.falls_issued hp _ 0 id rfl rfl rfl rfl

/-- Settles O10: LOOP by its count and the depth of the stack, and a branch by whether it is taken. -/
theorem loopsAndBranchesDecideTheNextAddress : Obligations.LoopsAndBranchesDecideTheNextAddress := by
  unfold Obligations.LoopsAndBranchesDecideTheNextAddress
  refine ⟨loopNext_cases, fun s i w ht hw hi => ?_, fun s i w ht hi => ?_⟩
  · obtain ⟨hseq, hloop⟩ := exec_ctlLoop_faults ht hw hi
    exact ⟨fun h0 he => exec_ctlLoop_skip ht hw hi h0 rfl he, hseq, exec_ctlLoop_push ht hw hi, hloop⟩
  · exact ⟨fun hw => State.Branches.of (taken := fun _ => true) rfl ht hw hi,
      fun hw => State.Branches.of (taken := brcTaken w) rfl ht hw hi,
      fun hw => State.Branches.of (taken := fun st => decide (fld w 75 71 ≤ st.depth (fld w 78 76))) rfl ht hw hi⟩

end Sys2Proof.Machine
end

section
/-! SUPPORT. The CTL instructions that change their stream beyond a register (05 R151 to R156): IDLE, LDSHAPE, STEP, OPBEGIN, OPEND, HALT. -/

namespace Sys2Proof.Machine

variable {s : State} {i : StreamId} {w : W128}

/-! ### IDLE (log 19) -/

/-- The cycles that a command of IDLE takes of the `n` that it has left. -/
def Stream.idleNow (st : Stream) (n : Nat) : Nat :=
  match st.nextDue with
  | some d => min n (d - st.stime.toNat)
  | none => n

theorem Stream.idleFor_all {st : Stream} {n : Nat} (h : st.idleNow n = n) : st.idleFor n
    = { st with stime := st.stime + BitVec.ofNat 64 (n - 1), cyc := st.cyc + (n - 1), idleLeft := 0 }.issued none st.pc 0 := if_pos h

theorem Stream.idleFor_part {st : Stream} {n : Nat} (h : st.idleNow n ≠ n) : st.idleFor n
    = { st with
        stime := st.stime + BitVec.ofNat 64 (st.idleNow n), cyc := st.cyc + st.idleNow n, idleLeft := n - st.idleNow n, stall := 0 } := if_neg h

/-- Time, what is left, and where the stream goes on. -/
theorem Stream.idleFor_spec (st : Stream) {n : Nat} (hn : 0 < n) :
    (st.idleFor n).stime = st.stime + BitVec.ofNat 64 (st.idleNow n) ∧ (st.idleFor n).idleLeft = n - st.idleNow n
      ∧ ((st.idleFor n).pc, (st.idleFor n).loops) = (if st.idleNow n = n then loopNext st.pc st.loops else (st.pc, st.loops)) := by
  by_cases h : st.idleNow n = n
  · rw [Stream.idleFor_all h, h, if_pos rfl]
    refine ⟨?_, (Nat.sub_self n).symm, rfl⟩
    show st.stime + BitVec.ofNat 64 (n - 1) + 1 = _
    obtain ⟨m, rfl⟩ : ∃ m, n = m + 1 := ⟨n - 1, by omega⟩
    rw [Nat.add_sub_cancel, BitVec.add_assoc, BitVec.ofNat_add]
    rfl
  · rw [Stream.idleFor_part h, if_neg h]
    exact ⟨rfl, rfl, rfl⟩

theorem Stream.idleFor_frame (st : Stream) (n : Nat) : st.idleFor n
    = { st with
        pc := (st.idleFor n).pc, loops := (st.idleFor n).loops, stime := (st.idleFor n).stime, cyc := (st.idleFor n).cyc
        idleLeft := (st.idleFor n).idleLeft, stall := 0, asked := (st.idleFor n).asked, buf := (st.idleFor n).buf
        portLate := (st.idleFor n).portLate, portLeft := (st.idleFor n).portLeft } := by
  by_cases h : st.idleNow n = n
  · rw [Stream.idleFor_all h]; rfl
  · rw [Stream.idleFor_part h]

/-- The first command of an IDLE idles for IMM + 1 cycles, and a later one for those that are left. -/
theorem exec_ctlIdle (hr : s.runs i = true) (hp : (s.stream i).phase = .none) (hs : s.stallCause i none 0 = 0)
    (h0 : (s.stream i).idleLeft = 0 → ofRow w 7 1 = true ∧ (s.stream i).straight) : exec (.ctlIdle i w) s
      = .next ((s.setStream i ((s.stream i).idleFor (if (s.stream i).idleLeft = 0 then fld w 15 0 + 1 else (s.stream i).idleLeft))).portJump i) := by
  by_cases h : (s.stream i).idleLeft = 0
  · obtain ⟨hw, hi, he⟩ := h0 h
    have ht : s.turn i none 0 := ⟨hr, h, hp, hs⟩
    rw [exec_ctlIdle_first h, if_pos h, State.issueCtl_eff _ ht.ctl hw hi he rfl]
    rfl
  · show Host.Outcome.next _ = _
    simp only [h, hr, hs, if_false, Bool.not_true, Bool.false_eq_true, ne_eq, not_true_eq_false]

/-! ### A CTL instruction in its turn -/

/-- In its turn a CTL instruction that sets its stream to `u` falls through with what `f` changes. -/
theorem State.issueCtl_falls {op : Nat} {seq : Stream → Bool} {f : Stream → Stream} {eff : State → State} {u : Stream} (ht : s.turn i none 0)
    (hw : ofRow w 7 op = true) (hi : (s.stream i).inImage (s.stream i).pc = true) (hs : seq (s.stream i) = false) (he : eff s = s.setStream i u)
    (hu : u = { f (s.stream i) with
      pc := (loopNext (s.stream i).pc (s.stream i).loops).1, loops := (loopNext (s.stream i).pc (s.stream i).loops).2
      stime := (s.stream i).stime + 1, cyc := (s.stream i).cyc + 1, stall := 0, asked := false, buf := u.buf
      portLate := u.portLate, portLeft := u.portLeft }) :
    s.Falls (s.issueCtl i w op 0 seq (fun _ => false) eff) i f := by
  rw [State.issueCtl_eff _ ht.ctl hw hi hs rfl, he]
  exact State.moves_setStream ht.pow _ _ f u hu

theorem exec_ctl_seqFault {c : Instr} {op : Nat} {seq loop : Stream → Bool} {eff : State → State}
    (hc : exec c s = .next (s.issueCtl i w op 0 seq loop eff)) (ht : s.turn i none 0) (hw : ofRow w 7 op = true)
    (hs : seq (s.stream i) = true) : exec c s = .next (s.streamFault i 2 0xF (s.stream i).pc none) := by
  rw [hc, State.issueCtl_seqFault eff ht.ctl hw hs]

/-! ### LDSHAPE (05 R151) -/

/-- The lengths that LDSHAPE reads, where the access is clear. -/
def State.shapeAt (s : State) (i : StreamId) (w : W128) : Vector W32 4 :=
  let a := ((s.stream i).areg (fld w 73 70) + (BitVec.ofNat 32 (fld w 31 0) : W32).signExtend 64) &&& ~~~(15 : W64)
  Vector.ofFn fun k => BitVec.ofNat 32 (recNat ((ownBytes (skey i) a 0 16).map s.rd8) (4 * k) 4)

theorem State.readShape_clear (hc : s.clear (s.whoNow i)) : s.readShape i w = (s.shapeAt i w, s) := by
  unfold State.readShape
  dsimp only
  rw [State.readMem_clear _ hc]
  rfl

theorem Stream.shapeOver_eq_false {st : Stream} {d : Vector W32 4} :
    st.shapeOver d = false ↔ ∀ k, k < 4 → d.getD k 0 ≤ st.smax.getD k 0 := by
  unfold Stream.shapeOver
  simp [List.any_eq_false, BitVec.not_lt]

/-- The record of a length that LDSHAPE has loaded. -/
def State.shapeRecord (s t : State) (i : StreamId) (d : Vector W32 4) : State :=
  match (s.core (skey i)).part with
  | some p => t.record (halfOfDie i.die) 6 p (s.stream i).step (shapeBody i (s.stream i).pc d)
  | none => t

theorem exec_ctlLdshape (ht : s.turn i none 0) (hst : (s.stream i).straight) (hw : ofRow w 7 11 = true) (hc : s.clear (s.whoNow i))
    (ho : (s.stream i).inop = false) : exec (.ctlLdshape i w) s = .next ((if (s.stream i).shapeOver (s.shapeAt i w) then s.issueFault i w 5
      else s.shapeRecord (s.ctlStep i (fetchCost 16) fun st => { st with shape := s.shapeAt i w }) i (s.shapeAt i w)).portJump i) := by
  obtain ⟨hi, he⟩ := hst
  refine congrArg Host.Outcome.next ((State.issueCtl_eff _ ht.ctl hw hi (by simp [ho, Stream.fallsBad, he]) rfl).trans ?_)
  rw [State.readShape_clear hc]
  rfl

theorem exec_ctlLdshape_loads (ht : s.turn i none 0) (hst : (s.stream i).straight) (hw : ofRow w 7 11 = true) (hc : s.clear (s.whoNow i))
    (ho : (s.stream i).inop = false) (hd : ∀ k, k < 4 → (s.shapeAt i w).getD k 0 ≤ (s.stream i).smax.getD k 0) :
    ∃ t, s.Falls t i (fun x => { x with shape := s.shapeAt i w })
      ∧ exec (.ctlLdshape i w) s = .next ((s.shapeRecord t i (s.shapeAt i w)).portJump i) := by
  refine ⟨_, ⟨_, _, _, _, State.setStream_ported ht.pow
    (Stream.issued { s.stream i with shape := s.shapeAt i w } none (s.stream i).pc (fetchCost 16))⟩, ?_⟩
  rw [exec_ctlLdshape ht hst hw hc ho, Stream.shapeOver_eq_false.2 hd]
  rfl

theorem exec_ctlLdshape_fault (ht : s.turn i none 0) (hst : (s.stream i).straight) (hw : ofRow w 7 11 = true) (hc : s.clear (s.whoNow i))
    (ho : (s.stream i).inop = false) (hd : ¬ ∀ k, k < 4 → (s.shapeAt i w).getD k 0 ≤ (s.stream i).smax.getD k 0) :
    exec (.ctlLdshape i w) s = .next (s.streamFault i 5 0xF (s.stream i).pc none) := by
  have hover : (s.stream i).shapeOver (s.shapeAt i w) = true := by rwa [← Bool.not_eq_false, Stream.shapeOver_eq_false]
  rw [exec_ctlLdshape ht hst hw hc ho, if_pos hover, State.portJump_fault ht.port, issueFault_ctl hw]

/-! ### OPEND (05 R142, R165) -/

theorem exec_ctlOpend_closes (ht : s.turn i none 0) (hi : (s.stream i).inImage (s.stream i).pc = true) (hw : ofRow w 7 14 = true)
    (ho : (s.stream i).inop = true) : exec (.ctlOpend i w) s = .next (s.setStream i
      { s.stream i with phase := .ended, stime := (s.stream i).stime + 1, cyc := (s.stream i).cyc + 1, stall := 0 }) := by
  obtain ⟨hlate, hleft⟩ := ht.port
  rw [exec_ctlOpend_first ht.2.2.1, State.issueCtl_eff _ ht.ctl hw hi (by simp [ho]) rfl]
  exact congrArg _ (State.portJump_still (by rw [State.modStream, State.stream_setStream]; exact hlate)
    (by rw [State.modStream, State.stream_setStream]; exact hleft))

/-- Once every instruction of the attempt has retired, OPEND stalls. -/
theorem exec_ctlOpend_stalls (hr : s.runs i = true) (hp : (s.stream i).phase ≠ .none) (hd : (s.stream i).attemptDue = false)
    (hl : (s.stream i).attemptLeft = []) :
    exec (.ctlOpend i w) s = .next (s.setStream i ((s.stream i).stallCycle (s.opendCause i) 0)) := by
  show Host.Outcome.next _ = _
  simp [hr, hp, hd, hl]

/-- Settles O11: each instruction in its turn changes its stream by one update, and falls through. -/
theorem streamControlChangesItsStream : Obligations.StreamControlChangesItsStream := by
  unfold Obligations.StreamControlChangesItsStream
  refine ⟨fun s i w hr hp hs h0 => ?_, fun s i w ht hst hw hc => ?_, fun s i w ht hst hw => ?_, fun s i w ht hst hw => ?_, fun s i w hi => ?_⟩
  · have hn : 0 < if (s.stream i).idleLeft = 0 then fld w 15 0 + 1 else (s.stream i).idleLeft := by split <;> omega
    obtain ⟨late, left, port, e⟩ := State.portJump_setStream (State.runs_pow hr)
      ((s.stream i).idleFor (if (s.stream i).idleLeft = 0 then fld w 15 0 + 1 else (s.stream i).idleLeft))
    obtain ⟨htime, hleft, hpc⟩ := (s.stream i).idleFor_spec hn
    refine ⟨_, port, (exec_ctlIdle hr hp hs h0).trans (congrArg _ e), htime, hleft, hpc, ?_⟩
    conv_lhs => rw [(s.stream i).idleFor_frame]
  · exact ⟨fun ho hd => exec_ctlLdshape_loads ht hst hw hc ho hd, fun ho hd => exec_ctlLdshape_fault ht hst hw hc ho hd,
      fun ho => exec_ctl_seqFault rfl ht hw (by simp [ho])⟩
  · refine ⟨fun ho => ⟨_, rfl, State.issueCtl_falls ht hw hst.1 (by simp [ho, Stream.fallsBad, hst.2]) rfl ?_⟩,
      fun ho => exec_ctl_seqFault rfl ht hw (by simp [ho])⟩
    unfold Stream.mark
    rfl
  · refine ⟨fun ho => exec_ctl_seqFault rfl ht hw (by simp [ho]),
      fun ho => ⟨_, rfl, State.issueCtl_falls ht hw hst.1 (by simp [ho, Stream.fallsBad, hst.2]) rfl ?_⟩⟩
    dsimp only
    rw [ht.2.2.1]
    rfl
  · exact ⟨fun ht hw ho => exec_ctlOpend_closes ht hi hw ho,
      fun ht hw ho => exec_ctl_seqFault (exec_ctlOpend_first ht.2.2.1) ht hw (by simp [ho]),
      fun hr hp hd hl => ⟨_, _, _, exec_ctlOpend_stalls hr hp hd hl⟩,
      fun ht hw => ⟨_, rfl, State.issueCtl_falls ht hw hi rfl rfl rfl⟩⟩

end Sys2Proof.Machine
end

section
/-! SUPPORT. The evaluation of an attempt (05 R156, R157, R161): the adds that it sends to its verdict group, and what it leaves of its stream
and its core. -/

namespace Sys2Proof.Machine

variable {s : State} {i : StreamId}

/-! ### The adds of an evaluation -/

/-- One add of the evaluation to an object of its verdict group. -/
def State.groupReq (s : State) (i : StreamId) (o : Nat) : SyncReq := s.syncReq i (s.stream i).step 0 o .add 1

/-- The objects of its verdict group that the evaluation of an attempt adds to, in order. -/
def Stream.groupObjs (st : Stream) : List Nat :=
  if st.opN = 0 then []
  else if st.mismatch then [st.opG]
  else (if st.opFlags.wide then [pairW st.opG st.attempt] else []) ++ (if st.rangeIn then [pairR st.opG st.attempt] else []) ++ [st.opG]

theorem State.groupReq_groupAdd (o : Nat) : (s.groupAdd i o).groupReq i = s.groupReq i := by
  unfold State.groupAdd State.sendSync State.modSyn
  split <;> rfl

/-- Adds one after the other are the operations that the stream's core had to send. -/
theorem State.groupAdds_eq (os : List Nat) :
    os.foldl (fun s o => s.groupAdd i o) s = (os.map (s.groupReq i)).foldl (fun s r => s.sendSync r) s := by
  induction os generalizing s with
  | nil => rfl
  | cons o os ih =>
    rw [List.foldl_cons, ih, State.groupReq_groupAdd]
    rfl

/-- The module once the operations of the evaluation are on their way. -/
def State.evalSent (s : State) (i : StreamId) : State :=
  ((s.stream i).groupObjs.map (s.groupReq i)).foldl (fun s r => s.sendSync r) s

theorem State.evalSent_cores : (s.evalSent i).cores = s.cores := by
  unfold State.evalSent
  rw [State.sendSyncs_frame]

theorem State.evalSent_mem : (s.evalSent i).mem = s.mem := by
  unfold State.evalSent
  rw [State.sendSyncs_frame]

theorem State.evalSent_objs : (s.evalSent i).objs = s.objs := by
  unfold State.evalSent
  rw [State.sendSyncs_frame]

/-! ### The evaluation -/

theorem exec_operationEvaluation_held (h : s.attemptOver i = true) (hm : (s.stream i).mismatch = true) : exec (.operationEvaluation i) s
    = .next ((s.evalSent i).modStream i fun st => { st with state := .held, ckhold := true, wbuf := [], stall := 0 }) := by
  have e : (if (s.stream i).opN = 0 then s else s.groupAdd i (s.stream i).opG) = s.evalSent i := by
    unfold State.evalSent
    rw [← State.groupAdds_eq, Stream.groupObjs, if_pos hm]
    split <;> rfl
  rw [← e]
  show Host.Outcome.next _ = _
  rw [h, hm]
  rfl

theorem exec_operationEvaluation_waits (h : s.attemptOver i = true) (hm : (s.stream i).mismatch = false) : exec (.operationEvaluation i) s
    = .next (((s.evalSent i).modStream i fun st =>
        { st with phase := .evaluated (s.stream i).opFlags.wide (s.stream i).rangeIn, stall := s.opendCause i }).wakeCore (skey i)) := by
  have e : (if (s.stream i).opN = 0 then s
      else
        let a := if (s.stream i).opFlags.wide then s.groupAdd i (pairW (s.stream i).opG (s.stream i).attempt) else s
        let b := if (s.stream i).rangeIn then a.groupAdd i (pairR (s.stream i).opG (s.stream i).attempt) else a
        b.groupAdd i (s.stream i).opG) = s.evalSent i := by
    unfold State.evalSent
    rw [← State.groupAdds_eq, Stream.groupObjs, hm]
    cases (s.stream i).opFlags.wide <;> cases (s.stream i).rangeIn <;> split <;> rfl
  rw [← e]
  show Host.Outcome.next _ = _
  rw [h, hm]
  rfl

/-! ### What it leaves -/

/-- What an evaluation leaves of everything but its own stream and its core's power. -/
structure State.Evaluated (s t : State) (i : StreamId) (st : Stream) : Prop where
  stream : t.stream i = st
  net0 : t.syn0.net = s.syn0.net ++ ((s.stream i).groupObjs.map (s.groupReq i)).filter fun r => decide (r.obj < 65536)
  net1 : t.syn1.net = s.syn1.net ++ ((s.stream i).groupObjs.map (s.groupReq i)).filter fun r => !decide (r.obj < 65536)
  core : ∀ j, j ≠ skey i → t.core j = s.core j
  mem : t.mem = s.mem
  objs : t.objs = s.objs

theorem State.Evaluated.modStream (f : Stream → Stream) : s.Evaluated ((s.evalSent i).modStream i f) i (f (s.stream i)) where
  stream := by rw [State.stream_modStream, State.stream_of_cores State.evalSent_cores]
  net0 := by rw [State.modStream_syn0]; exact s.sendSyncs_net0 _
  net1 := by rw [State.modStream_syn1]; exact s.sendSyncs_net1 _
  core := fun j hj => by rw [State.modStream, State.core_setStream_ne _ _ hj, State.core_of_cores State.evalSent_cores]
  mem := State.evalSent_mem
  objs := State.evalSent_objs

theorem State.Evaluated.wakeCore {t : State} {st : Stream} (h : s.Evaluated t i st) : s.Evaluated (t.wakeCore (skey i)) i st where
  stream := by rw [State.wakeCore_stream, h.stream]
  net0 := by rw [State.wakeCore_syn0, h.net0]
  net1 := by rw [State.wakeCore_syn1, h.net1]
  core := fun j hj => by rw [State.core_wakeCore_ne _ hj, h.core j hj]
  mem := by rw [State.wakeCore_mem, h.mem]
  objs := by rw [State.wakeCore_objs, h.objs]

/-- The verdict group's objects by parity are one and two past it, or two further on (Table 5-5). -/
theorem Stream.groupReqs_eq (s : State) (i : StreamId) (st : Stream) : st.groupObjs.map (s.groupReq i)
    = let odd := if st.attempt.toNat % 2 = 0 then 0 else 2
      let add := fun (o : Nat) => s.syncReq i (s.stream i).step 0 o .add 1
      if st.opN = 0 then [] else if st.mismatch = true then [add st.opG]
      else (if st.opFlags.wide then [add (st.opG + 1 + odd)] else []) ++ (if st.rangeIn then [add (st.opG + 2 + odd)] else []) ++ [add st.opG] := by
  have hw : pairW st.opG st.attempt = st.opG + 1 + if st.attempt.toNat % 2 = 0 then 0 else 2 := by unfold pairW; split <;> rfl
  have hr : pairR st.opG st.attempt = st.opG + 2 + if st.attempt.toNat % 2 = 0 then 0 else 2 := by unfold pairR; split <;> rfl
  unfold Stream.groupObjs
  rw [hw, hr]
  cases st.mismatch <;> cases st.opFlags.wide <;> cases st.rangeIn <;> split <;> rfl

/-- Settles O18: a mismatched attempt is held, any other waits for its decision, and both send what their verdict group takes. -/
theorem evaluationHoldsItsOutcome : Obligations.EvaluationHoldsItsOutcome := by
  unfold Obligations.EvaluationHoldsItsOutcome
  intro s i h
  by_cases hm : (s.stream i).mismatch = true
  · obtain ⟨hs, h0, h1, hc, hmem, ho⟩ := State.Evaluated.modStream (s := s) (i := i) fun st =>
      { st with state := .held, ckhold := true, wbuf := [], stall := 0 }
    rw [Stream.groupReqs_eq] at h0 h1
    exact ⟨_, exec_operationEvaluation_held h hm, hs.trans (if_pos hm).symm, h0, h1, fun hf => absurd (hm.symm.trans hf) nofun, hc, hmem, ho⟩
  · obtain ⟨hs, h0, h1, hc, hmem, ho⟩ := (State.Evaluated.modStream (s := s) (i := i) fun st =>
      { st with phase := .evaluated (s.stream i).opFlags.wide (s.stream i).rangeIn, stall := s.opendCause i }).wakeCore
    rw [Stream.groupReqs_eq] at h0 h1
    refine ⟨_, exec_operationEvaluation_waits h (eq_false_of_ne_true hm), hs.trans (if_neg hm).symm, h0, h1, fun _ hp => ?_, hc, hmem, ho⟩
    rw [State.core_wakeCore, State.modStream, State.core_setStream, Core.setStream_pow, State.core_of_cores State.evalSent_cores, if_pos hp]

end Sys2Proof.Machine
end

section
/-! SUPPORT: every command is answered with a next state, which keeps what `Keeps` says (O2). One lemma per command whose effect
matches on the state; the other commands are one line of `exec_answers`. -/

namespace Sys2Proof.Machine

/-- The outcome is a next state, and that state keeps what `Keeps` says of `r`. -/
def Answers (r : State) (o : Host.Outcome State Fault Refusal) : Prop :=
  ∃ t, o = .next t ∧ Keeps r t

variable {r₀ r s : State}

theorem Answers.next {t : State} (h : Keeps r t) : Answers r (.next t) := ⟨t, rfl, h⟩

theorem Keeps.ite {a b : State} {c : Prop} [Decidable c] (ha : Keeps r a) (hb : Keeps r b) : Keeps r (if c then a else b) := by
  split
  · exact ha
  · exact hb

theorem Keeps.ite_snd {α : Type} {a b : α × State} {c : Prop} [Decidable c] (ha : Keeps r a.2) (hb : Keeps r b.2) :
    Keeps r (if c then a else b).2 := by
  split
  · exact ha
  · exact hb

theorem Answers.ctlLdshape (i : StreamId) (w : W128) (h : Keeps r₀ s) : Answers r₀ (execCtlLdshape i w s) := by
  refine .next (.issueCtl _ _ _ _ _ _ (.ite (.issueFault _ _ _ (.readShape_snd _ _ h)) ?_) h)
  dsimp only
  split
  · exact .record _ _ _ _ _ (.ctlStep _ _ _ (.readShape_snd _ _ h))
  · exact .ctlStep _ _ _ (.readShape_snd _ _ h)

/-- A stream's running instructions of an engine once they have taken up their repetitions that became ready. -/
def State.goesOn (s : State) (i : StreamId) (e : Engine) : State :=
  match e with
  | .str => s.strmGoOn i []
  | .mx => s.mmaGoOn i []
  | _ => s

theorem Keeps.goesOn (i : StreamId) (e : Engine) (h : Keeps r₀ s) : Keeps r₀ (s.goesOn i e) := by
  cases e with
  | str => exact .strmGoOn _ _ h
  | mx => exact .mmaGoOn _ _ h
  | vec | pack | xch | upd | syn => exact h

theorem exec_instructionComplete (i : StreamId) (e : Engine) (s : State) :
    exec (.instructionComplete i e) s = .next (match ((s.goesOn i e).stream i).run.find? ((s.goesOn i e).done i e) with
      | some r =>
        if (s.goesOn i e).engineRuns i then
          ((s.goesOn i e).setStream i
            { (s.goesOn i e).stream i with
              run := dropFirst ((s.goesOn i e).done i e) ((s.goesOn i e).stream i).run }).complete i r
        else s.goesOn i e
      | none => s.goesOn i e) := by
  cases e <;> rfl

theorem Answers.instructionComplete (i : StreamId) (e : Engine) (h : Keeps r₀ s) :
    Answers r₀ (exec (.instructionComplete i e) s) := by
  rw [exec_instructionComplete]
  refine .next ?_
  split
  · exact .ite (.complete _ _ (.setStream _ _ (.goesOn i e h))) (.goesOn i e h)
  · exact .goesOn i e h

theorem Answers.drainStart (c : CoreId) (bank : Nat) (upsets : List Upset) (h : Keeps r₀ s) : Answers r₀ (execDrainStart c bank upsets s) := by
  refine .next ?_
  split
  · exact h
  · exact .ite h (.ite (.bankFault _ _ h) (.modStream _ _ (.drain _ _ _ h)))

theorem Answers.tileVerdict (c : CoreId) (bank : Nat) (h : Keeps r₀ s) : Answers r₀ (execTileVerdict c bank s) := by
  refine .next ?_
  split
  · exact .verdict _ _ h
  · exact h

/-- What the producer's end of a chain has once the consumer took a row or a verdict from it. -/
def State.chainTaken (s : State) (key : Nat) (f : Core → Core) : State :=
  match s.producer key with
  | some p => s.modCore p f
  | none => s

theorem Keeps.chainTaken (key : Nat) (f : Core → Core) (h : Keeps r₀ s) : Keeps r₀ (s.chainTaken key f) := by
  unfold State.chainTaken
  split
  · exact .modCore _ _ h
  · exact h

theorem Answers.chainRow (c : CoreId) (row : ChainRow) (h : Keeps r₀ s) : Answers r₀ (execChainRow c row s) :=
  have ht : Keeps r₀ (s.chainTaken (ckey c) fun x => { x with chainOut := dropFirst (fun r => r == row) x.chainOut }) :=
    .chainTaken _ _ h
  .next (.ite (.zombie _ _ _ _ _ _ ht) (.ite (.wakeCore _ (.modCore _ _ ht)) h))

theorem Answers.chainVerdict (i : StreamId) (epoch : W16) (again : Option (BitVec 4 × Bool)) (h : Keeps r₀ s) :
    Answers r₀ (execChainVerdict i epoch again s) :=
  have ht : Keeps r₀ (s.chainTaken (skey i) fun x => { x with chainVs := dropFirst (fun r => r == (epoch, again)) x.chainVs }) :=
    .chainTaken _ _ h
  .next (.ite (.zombie _ _ _ _ _ _ ht) (.wakeCore _ (.modStream _ _ ht)))

theorem Answers.operationDecision (i : StreamId) (h : Keeps r₀ s) : Answers r₀ (execOperationDecision i s) := by
  refine .next ?_
  split
  · refine .ite h (.ite (.decideOp _ _ _ (.wakeCore _ h)) ?_)
    split
    · exact h
    · exact .ite (.streamFault _ _ _ _ _ (.wakeCore _ h)) (.decideOp _ _ _ (.modStream _ _ (.wakeCore _ h)))
  · exact h

theorem Answers.syncOperation (half : Nat) (pick : NetPick) (h : Keeps r₀ s) : Answers r₀ (execSyncOperation half pick s) := by
  refine .next ?_
  split
  · exact .ite (.parityWrites _ _ _ (.syncApply _ (.modSyn _ _ (.upset _ h)))) (.upset _ h)
  · exact .upset _ h

theorem Answers.descriptorComplete (die ch : Nat) (fs : List PhysFault) (h : Keeps r₀ s) : Answers r₀ (execDescriptorComplete die ch fs s) := by
  refine .next ?_
  split
  · exact .upset _ h
  · split
    · exact .serveX _ _ _ _ _ (.modDie _ _ (.upset _ h))
    · exact .ite (.modDie _ _ (.serveUpd_snd _ _ _ (.upset _ h))) (.upset _ h)

theorem Answers.contrib (die part : Nat) (x : Arrival) (h : Keeps r₀ s) : Answers r₀ (execContrib die part x s) := by
  refine .next (.ite h (.packet _ _ _ (fun _ _ _ h => ?_) h))
  refine .ite (.ite (.cfault _ _ _ _ _ h) h) (.ite (.cfault _ _ _ _ _ h) (.ite (.cfault _ _ _ _ _ h) ?_))
  dsimp only
  split
  · exact .ite (.modSyn _ _ h) (.cfault _ _ _ _ _ h)
  · exact .ite (.ownerRun _ _ _ _ _ (.stage_snd _ _ _ _ _ h)) (.putChunk _ _ (.stage_snd _ _ _ _ _ h))

theorem Answers.swarmAck (die part : Nat) (p : XPkt) (h : Keeps r₀ s) : Answers r₀ (execSwarmAck die part p s) := by
  refine .next (.packet _ _ _ (fun _ _ _ h => ?_) h)
  dsimp only
  split
  · exact .putSwarm _ _ _ h
  · exact h

theorem Answers.repairreq (die part : Nat) (p : XPkt) (h : Keeps r₀ s) : Answers r₀ (execRepairreq die part p s) := by
  refine .next (.packet _ _ _ (fun _ _ _ h => ?_) h)
  dsimp only
  split
  · exact .sendHeld _ _ _ _ _ _ h
  · exact .ite (.modDie _ _ h) (.queueX _ _ _ _ h)

theorem Answers.laggardTimeout (die part coll rank : Nat) (h : Keeps r₀ s) : Answers r₀ (execLaggardTimeout die part coll rank s) := by
  refine .next ?_
  split
  · exact .putSwarm _ _ _ (.post _ (.modDie _ _ (.queueX _ _ _ _ h)))
  · exact h

theorem Answers.collectiveTimeout (die part coll chunk : Nat) (h : Keeps r₀ s) : Answers r₀ (execCollectiveTimeout die part coll chunk s) := by
  refine .next ?_
  split
  · split
    · exact .cfault _ _ _ _ _ h
    · exact h
  · exact h

theorem Answers.repairTimeout (die part coll chunk : Nat) (h : Keeps r₀ s) : Answers r₀ (execRepairTimeout die part coll chunk s) := by
  refine .next ?_
  split
  · exact .cfault _ _ _ _ _ h
  · exact h

theorem Answers.duplicateTile (r : DigestRec) (h : Keeps r₀ s) : Answers r₀ (execDuplicateTile r s) := by
  refine .next (.ite (.modEv _ h) ?_)
  split
  · exact .ite (.modEv _ (.modSyn _ _ (.modEv _ h))) (.post _ (.modSyn _ _ (.modEv _ h)))
  · exact .ite (.modSyn _ _ (.modEv _ h)) (.modEv _ (.modEv _ h))

theorem Answers.retractRelease (p : Nat) (h : Keeps r₀ s) : Answers r₀ (execRetractRelease p s) := by
  refine .next ?_
  split
  · exact .ite (.modPart _ _ (.foldl (fun _ _ h => .wakeCore _ h) (.modStreams _ _ (.tryRewind _ h)) _)) (.tryRewind _ h)
  · exact .tryRewind _ h

theorem Answers.eventRecordAccept (temp volt : W16) (h : Keeps r₀ s) : Answers r₀ (execEventRecordAccept temp volt s) := by
  refine .next ?_
  split
  · exact h
  · exact .acceptRec _ _ _ h

theorem Answers.recordHandling (half : Nat) (h : Keeps r₀ s) : Answers r₀ (execRecordHandling half s) := by
  refine .next (.ite h ?_)
  split
  · exact h
  · exact .deliverEvents (.modEv _ (.ite (.ite (.pin _ _ (.logRecord _ _ (.modEv _ h))) (.logRecord _ _ (.modEv _ h)))
      (.stepAction _ (.ite (.pin _ _ (.logRecord _ _ (.modEv _ h))) (.logRecord _ _ (.modEv _ h))))))

theorem Answers.capsuleRecord (half : Nat) (drained : Bool) (h : Keeps r₀ s) : Answers r₀ (execCapsuleRecord half drained s) := by
  refine .next ?_
  split
  · exact h
  · exact .ite (.ringPut _ (.modEv _ h)) (.dropStep _ _ h)

theorem Answers.deathwatch (p : Nat) (h : Keeps r₀ s) : Answers r₀ (execDeathwatch p s) := by
  refine .next (.ite h ?_)
  dsimp only
  split
  · exact .ite (.stopJob _ _ _ (.modPart _ _ (.foldl (fun _ _ h => .post _ h) (.modEv _ (.freezePart _ h)) _)))
      (.modPart _ _ (.foldl (fun _ _ h => .post _ h) (.modEv _ (.freezePart _ h)) _))
  · exact .modPart _ _ (.foldl (fun _ _ h => .post _ h) (.modEv _ (.freezePart _ h)) _)

theorem Answers.quantumExpiry (group : Nat) (h : Keeps r₀ s) : Answers r₀ (execQuantumExpiry group s) := by
  refine .next (.ite h ?_)
  split
  · exact .switchTo _ h
  · exact h

theorem Answers.twinSwitch (part half : Nat) (h : Keeps r₀ s) : Answers r₀ (execTwinSwitch part half s) := by
  refine .next (.ite h ?_)
  split
  · exact h
  · dsimp only
    split
    · exact .report32 _ _ _ _ _ h
    · exact .settlePower (.openChunks _ (.replayStage _ (.stepOpen _ (.install _ _ _ _ (.applyRoutes _ (.scrubPart _ _
        (.applySpares _ (.unload _ (.foldl (fun _ _ h => .fence _ _ h) h _)))))))))

theorem Answers.load (m : CmdHdr) (chunk : LoadChunk) (h : Keeps r₀ s) : Answers r₀ (execLoad m chunk s) := by
  refine .next ?_
  split
  · exact h
  · dsimp only
    split
    · exact .say _ (.modSec _ h)
    · exact .ite (.say _ (.modSec _ h)) (.ite (.submit _ _ _ (.modSec _ h)) (.say _ (.modSec _ h)))

theorem Answers.loadApply (h : Keeps r₀ s) : Answers r₀ (execLoadApply s) := by
  refine .next ?_
  split
  · exact h
  · refine .ite h (.ite (.ite (.say _ (.modLdr _ h)) (.modLdr _ h)) ?_)
    split
    · exact .report32 _ _ _ _ _ (.modLdr _ h)
    · exact .report32 _ _ _ _ _ (.applyImage _ (.modLdr _ h))

theorem Answers.rdreg (m : CmdHdr) (addr : W64) (h : Keeps r₀ s) : Answers r₀ (execRdreg m addr s) := by
  refine .next (.cmd _ _ (fun _ _ h _ => .ite_snd h ?_) h)
  split
  · exact h
  · exact .ite_snd h (.regRead _ h)

theorem Answers.wrreg (m : CmdHdr) (addr value : W64) (h : Keeps r₀ s) : Answers r₀ (execWrreg m addr value s) := by
  refine .next (.cmd _ _ (fun _ _ h _ => .ite_snd h ?_) h)
  split
  · exact h
  · exact .writeReg_snd _ _ _ h

theorem Answers.subscribe (m : CmdHdr) (from_ : W64) (h : Keeps r₀ s) : Answers r₀ (execSubscribe m from_ s) := by
  refine .next (.command _ _ (fun _ _ _ h _ => ?_) h)
  split
  · exact .deliverTo _ (.say _ (.mk_snd (.modSec _ h)))
  · exact .say _ (.mk_snd (.modSec _ h))

theorem Answers.slotset (m : CmdHdr) (slot : Nat) (wrapped : BitVec 320) (role : Nat) (h : Keeps r₀ s) :
    Answers r₀ (execSlotset m slot wrapped role s) := by
  refine .next (.command _ _ (fun _ _ _ h _ => .closeSlot _ _ _ (.say _ ?_)) h)
  split
  · exact h
  · exact .ite_snd h (.ite_snd h (.mk_snd (.modSec _ h)))

theorem Answers.response (sid : W32) (mac : Body32) (h : Keeps r₀ s) : Answers r₀ (execResponse sid mac s) := by
  refine .next ?_
  split
  · exact h
  · exact .ite (.say _ (.modSec _ h)) (.closeSessions _ (.ite (.modSec _ h) (.ite (.alert _ (.modSec _ (.modSec _ h))) (.modSec _ (.modSec _
      h)))))

theorem Answers.close (m : CmdHdr) (h : Keeps r₀ s) : Answers r₀ (execClose m s) := by
  refine .next ?_
  split
  · exact .ite (.dropSessions _ h) h
  · exact h

theorem Answers.nop (m : CmdHdr) (upto : W64) (h : Keeps r₀ s) : Answers r₀ (execNop m upto s) := by
  refine .next ?_
  split
  · exact h
  · exact .deliverEvents (.unreadCheck (.modSec _ h))

/-- The module after the boot of the image that the firmware's search finds (13 R390). -/
def State.bootedFrom (s : State) (image : Option Nat) : State :=
  match image with
  | some k => s.boot k
  | none => s

theorem Keeps.bootedFrom (image : Option Nat) (h : Keeps r₀ s) : Keeps r₀ (s.bootedFrom image) := by
  unfold State.bootedFrom
  split
  · exact .boot _ h
  · exact h

theorem Answers.fireflyWatchdog (half : Nat) (h : Keeps r₀ s) : Answers r₀ (execFireflyWatchdog half s) := by
  have hb : Keeps r₀ (s.bootedFrom s.bootImage) := .bootedFrom _ h
  exact .next (.ite h (.ite (.closeSessions _ (.modEv _ (.inputs _ _ hb))) (.modEv _ (.inputs _ _ hb))))

theorem Answers.capThrottle (avg : InputPower) (hottest : Nat) (under : Bool) (h : Keeps r₀ s) :
    Answers r₀ (execCapThrottle avg hottest under s) := by
  have hf : ∀ f g : FfHalf → FfHalf, Keeps r₀ ((s.modFf 0 f).modFf 1 g) := fun f g => .modFf _ _ (.modFf _ _ h)
  refine .next (.foldl (fun _ _ h => .ite (.modDie _ _ h) h) (.ite (.ite (.moveDie _ _ _ _ (hf _ _)) (hf _ _)) (.ite ?_ (hf _ _))) _)
  split
  · exact .moveDie _ _ _ _ (hf _ _)
  · exact hf _ _

theorem Answers.trainingComplete (p : Nat) (lanes : Byte) (h : Keeps r₀ s) : Answers r₀ (execTrainingComplete p lanes s) := by
  refine .next (.ite h ?_)
  split
  · exact .modPort _ _ h
  · exact .trainFail _ h

theorem Answers.resendTimeout (lp : Nat) (h : Keeps r₀ s) : Answers r₀ (execResendTimeout lp s) := by
  refine .next ?_
  split
  · exact .tryResend _ _ h
  · exact h

theorem Answers.refuse (lp : Nat) (lseq : BitVec 48) (h : Keeps r₀ s) : Answers r₀ (execRefuse lp lseq s) := by
  refine .next ?_
  split
  · exact h
  · split
    · exact h
    · exact .pump _ (.modLport _ _ h)

theorem Answers.resume (lp jslot drank : Nat) (h : Keeps r₀ s) : Answers r₀ (execResume lp jslot drank s) := by
  refine .next ?_
  split
  · exact .foldl (fun _ _ h => .linkSend _ _ h) (.modLport _ _ h) _
  · exact h

theorem Answers.managementResend (id : Nat) (h : Keeps r₀ s) : Answers r₀ (execManagementResend id s) := by
  refine .next ?_
  split
  · exact .ite (.sendMgmt _ _ _ (.modLink _ (.modMgr _ h))) (.modLink _ h)
  · exact h

theorem Answers.admissionAccept (serial : W64) (qc cert : List Byte) (wrapped : BitVec 320) (sig : BitVec 768) (h : Keeps r₀ s) : Answers r₀
    (execAdmissionAccept serial qc cert wrapped sig s) := by
  refine .next (.ite h ?_)
  split
  · exact .runPlacement (.mgmt _ _ (.sendHiveKey _ _ (.modMgr _ h)))
  · exact .keyReject _ h

theorem Answers.keyDelivery (job : W64) (jslot : Nat) (hiveKey : Bool) (wrapped : BitVec 320) (h : Keeps r₀ s) : Answers r₀ (execKeyDelivery job
    jslot hiveKey wrapped s) := by
  refine .next (.ite h ?_)
  split
  · exact .ite (.keyReject _ h) (.refuseLoads _ (.keyReject _ h))
  · exact .ite (.ite h (.modLink _ (.modSec _ h))) (.takeKey _ _ _ h)

theorem Answers.managerState (jobs : List JobState) (wrapped : BitVec 320) (members : List (Nat × W64 × BitVec 320)) (h : Keeps r₀ s) : Answers
    r₀ (execManagerState jobs wrapped members s) := by
  refine .next (.ite h ?_)
  dsimp only
  split
  · exact .modSec _ (.modMgr _ h)
  · exact .keyReject _ (.modMgr _ h)

theorem Answers.scaleRecordArrival (job : W64) (rank part : Nat) (r : ScaleRec) (h : Keeps r₀ s) : Answers r₀ (execScaleRecordArrival job rank
    part r s) := by
  refine .next (.ite h ?_)
  split
  · exact .modMgr _ h
  · exact .ite (.putJob _ h) (.putJob _ h)

theorem State.lcs_of_gateCmd {k : Session} {c : CmdKind} (h : s.gateCmd k c = none) : s.lcs ∈ c.states := by
  by_contra hn
  have hc : (!c.states.contains s.lcs) = true := by simpa using hn
  unfold State.gateCmd at h
  rw [if_pos hc] at h
  split at h <;> cases h

theorem Answers.slotinit (m : CmdHdr) (qc : List Byte) (wrapped : BitVec 320) (h : Keeps r₀ s) : Answers r₀ (execSlotinit m qc wrapped s) := by
  refine .next (.command _ _ (fun k t o ht hg => ?_) h)
  have hl : t.lcs = 1 := List.mem_singleton.mp (State.lcs_of_gateCmd hg)
  have hlt : t.lcs < 3 := by omega
  refine .ite (.transition (Nat.le_of_lt_succ ?state) (by decide) (.say o ?keeps)) (.say o ?keeps)
  case state =>
    show (State.lcs (Prod.snd _)) < 3
    split
    · exact hlt
    · split
      · exact hlt
      · exact hlt
  case keeps =>
    split
    · exact ht
    · split
      · exact ht
      · exact .mk_snd (.modSec _ ht)

theorem lifecycleStatus_ok {target : Nat} {auth : BitVec 768} (h : s.lifecycleStatus target auth = stOk) : s.lcs ≤ target ∧ target < 8 := by
  unfold State.lifecycleStatus at h
  dsimp only at h
  split at h
  · cases h
  · split at h
    · omega
    · omega
    · omega
    · cases h

theorem Answers.lifecycle (m : CmdHdr) (target : Nat) (auth : BitVec 768) (h : Keeps r₀ s) : Answers r₀ (execLifecycle m target auth s) := by
  refine .next (.command _ _ (fun k t o ht hg => ?_) h)
  split
  next hst => exact .transition (lifecycleStatus_ok hst).1 (lifecycleStatus_ok hst).2 (.say _ ht)
  next => exact .say _ ht

theorem Answers.provision (idKey : W384) (wrapKey : W256) (serial : W64) (cert : List Byte) (h : Keeps r₀ s) :
    Answers r₀ (execProvision idKey wrapKey serial cert s) := by
  unfold execProvision
  refine .next ?_
  split
  next hp =>
    exact .transition (Nat.le_trans (Nat.le_of_eq hp.1) (Nat.zero_le 1)) (by decide) (.modFuse h (Fuses.forward_refl _))
  next => exact h

theorem Answers.svnFloorRaise (h : Keeps r₀ s) : Answers r₀ (execSvnFloorRaise s) := by
  refine .next (.ite (.modFuse h ⟨BitVec.le_refl _, BitVec.le_refl _, ?_, rfl, rfl, rfl⟩) h)
  show s.fuse.svnFloor ≤ if s.fuse.svnFloor < s.fwNow.svn then s.fwNow.svn else s.fuse.svnFloor
  split <;> bv_omega

theorem Answers.supplyRise (fwVer : W32) (h : Keeps r₀ s) : Answers r₀ (execSupplyRise fwVer s) := by
  refine .next (.ite (.setVin _ h) ?_)
  split
  next => exact .modPwr _ (.setVin _ h)
  next k _ => exact (Keeps.boot k h).same rfl rfl rfl

theorem Answers.undervoltageReset (h : Keeps r₀ s) : Answers r₀ (execUndervoltageReset s) :=
  .next ((Keeps.railsOff h).same rfl rfl rfl)

theorem exec_answers (h : Keeps r₀ s) (c : Instr) : Answers r₀ (exec c s) := by
  cases c with
  | ctlNop _ _ => exact .next (.issueCtl _ _ _ _ _ _ (.ctlStep _ _ _ h) h)
  | ctlIdle _ _ => exact .next (.ite (.issueCtl _ _ _ _ _ _ (.modStream _ _ h) h) (.ite h (.ite (.setStream _ _ h) (.portJump _ (.setStream _ _
      h)))))
  | ctlSeta _ _ => exact .next (.issueCtl _ _ _ _ _ _ (.ctlStep _ _ _ h) h)
  | ctlAdda _ _ => exact .next (.issueCtl _ _ _ _ _ _ (.ctlStep _ _ _ h) h)
  | ctlSets _ _ => exact .next (.issueCtl _ _ _ _ _ _ (.ctlStep _ _ _ h) h)
  | ctlSetc _ _ => exact .next (.issueCtl _ _ _ _ _ _ (.ctlStep _ _ _ (.opndC_snd _ _ h)) h)
  | ctlAddc _ _ => exact .next (.issueCtl _ _ _ _ _ _ (.ctlStep _ _ _ (.opndC_snd _ _ h)) h)
  | ctlLoop _ _ => exact .next (.issueCtl _ _ _ _ _ _ (.modStream _ _ h) h)
  | ctlBr _ _ => exact .next (.branch _ _ _ _ h)
  | ctlBrc _ _ => exact .next (.branch _ _ _ _ h)
  | ctlBrq _ _ => exact .next (.branch _ _ _ _ h)
  | ctlLdshape _ _ => exact .ctlLdshape _ _ h
  | ctlStep _ _ => exact .next (.issueCtl _ _ _ _ _ _ (.modStream _ _ h) h)
  | ctlOpbegin _ _ => exact .next (.issueCtl _ _ _ _ _ _ (.modStream _ _ h) h)
  | ctlOpend _ _ => exact .next (.ite (.issueCtl _ _ _ _ _ _ (.modStream _ _ h) h) (.ite h (.ite (.ite (.setStream _ _ h) (.setStream _ _ h))
      (.ite (.setStream _ _ h) (.setStream _ _ h)))))
  | ctlHalt _ _ => exact .next (.issueCtl _ _ _ _ _ _ (.modStream _ _ h) h)
  | strmCopy _ _ => exact .next (.issueStrm _ _ _ h)
  | strmFill _ _ => exact .next (.issueStrm _ _ _ h)
  | mma _ _ => exact .next (.onTurn _ _ _ (.issueEng _ _ _ _ _ _ _ _ _ _ h) h)
  | pack _ _ => exact .next (.onTurn _ _ _ (.issueEng _ _ _ _ _ _ _ _ _ _ h) h)
  | vecFma _ _ => exact .next (.issueVec _ _ _ h)
  | vecAdd _ _ => exact .next (.issueVec _ _ _ h)
  | vecMul _ _ => exact .next (.issueVec _ _ _ h)
  | vecMax _ _ => exact .next (.issueVec _ _ _ h)
  | vecMin _ _ => exact .next (.issueVec _ _ _ h)
  | vecCvt _ _ => exact .next (.issueVec _ _ _ h)
  | vecNeg _ _ => exact .next (.issueVec _ _ _ h)
  | vecAbs _ _ => exact .next (.issueVec _ _ _ h)
  | vecAcc _ _ => exact .next (.issueVec _ _ _ h)
  | vecSumsq _ _ => exact .next (.issueVec _ _ _ h)
  | vecMoments _ _ => exact .next (.issueVec _ _ _ h)
  | vecLwadd _ _ => exact .next (.issueVec _ _ _ h)
  | vecLwld _ _ => exact .next (.issueVec _ _ _ h)
  | vecLwst _ _ => exact .next (.issueVec _ _ _ h)
  | vecLzero _ _ => exact .next (.issueVec _ _ _ h)
  | vecLneg _ _ => exact .next (.issueVec _ _ _ h)
  | vecLred _ _ => exact .next (.issueVec _ _ _ h)
  | vecReanchor _ _ => exact .next (.issueVec _ _ _ h)
  | vecFinish _ _ => exact .next (.issueVec _ _ _ h)
  | xchPut _ _ => exact .next (.issueXch _ _ _ h)
  | xchMcast _ _ => exact .next (.issueXch _ _ _ h)
  | xchReduce _ _ => exact .next (.issueXch _ _ _ h)
  | xchGather _ _ => exact .next (.issueXch _ _ _ h)
  | xchAllred _ _ => exact .next (.issueXch _ _ _ h)
  | upd _ _ => exact .next (.onTurn _ _ _ (.issueEng _ _ _ _ _ _ _ _ _ _ h) h)
  | synWait _ _ => exact .next (.issueSyn _ _ _ h)
  | synSet _ _ => exact .next (.issueSyn _ _ _ h)
  | synAdd _ _ => exact .next (.issueSyn _ _ _ h)
  | synFadd _ _ => exact .next (.issueSyn _ _ _ h)
  | synOpld _ _ => exact .next (.issueSyn _ _ _ h)
  | synGwait _ _ => exact .next (.issueSyn _ _ _ h)
  | instructionStart _ _ _ => exact .next (.startEngine _ _ _ (.upset _ h))
  | instructionComplete _ _ => exact .instructionComplete _ _ h
  | drainStart _ _ _ => exact .drainStart _ _ _ h
  | tileVerdict _ _ => exact .tileVerdict _ _ h
  | chainRow _ _ => exact .chainRow _ _ h
  | chainVerdict _ _ _ => exact .chainVerdict _ _ _ h
  | operationEvaluation _ => exact .next (.ite h (.ite (.modStream _ _ (.ite h (.groupAdd _ _ h))) (.wakeCore _ (.modStream _ _ (.ite h
      (.groupAdd _ _ (.ite (.groupAdd _ _ (.ite (.groupAdd _ _ h) h)) (.ite (.groupAdd _ _ h) h))))))))
  | operationDecision _ => exact .operationDecision _ h
  | syncOperation _ _ => exact .syncOperation _ _ h
  | coreGate _ => exact .next (.settlePower (.modCore _ _ h))
  | updStart _ _ => exact .next (.startUpd _ (.upset _ h))
  | mergeWindowExpiry _ => exact .next (.modCore _ _ h)
  | descriptorFetch _ _ => exact .next (.ite (.refill _ _ (.foldl (fun _ _ h => .fetchOne _ _ h) h _)) h)
  | descriptorComplete _ _ _ => exact .descriptorComplete _ _ _ h
  | patrolScrub _ _ => exact .next (.ite (.upset _ h) (.foldl (fun _ _ h => .ite (.readCw_snd _ _ h) h) (.upset _ h) _))
  | stagingAccess _ _ _ _ _ => exact .next (.ite h (.ite (.stageWrite _ _ _ _ h) (.modLink _ (.stageRead_snd _ _ _ h))))
  | putPacket _ _ _ => exact .next (.packet _ _ _ (fun _ _ _ h => .ite (.rsigWrite _ _ _ _ (.landBytes_snd _ _ _ _ _ _ h)) (.landBytes_snd _ _ _
      _ _ _ h)) h)
  | contrib _ _ _ => exact .contrib _ _ _ h
  | result _ _ _ => exact .next (.packet _ _ _ (fun _ _ _ h => .ite (.cfault _ _ _ _ _ h) (.ite (.gatherAll (.rxChunk _ _ _ _ _ (.landBytes_snd _
      _ _ _ _ _ h))) (.landBytes_snd _ _ _ _ _ _ h))) h)
  | mcastPacket _ _ _ => exact .next (.packet _ _ _ (fun _ _ _ h => .ite (.cfault _ _ _ _ _ h) (.ite (.rxChunk _ _ _ _ _ (.landBytes_snd _ _ _ _
      _ _ h)) (.landBytes_snd _ _ _ _ _ _ h))) h)
  | mirror _ _ _ => exact .next (.packet _ _ _ (fun _ _ _ h => .ite h (.ite (.cfault _ _ _ _ _ h) (.syncApply _ h))) h)
  | credit _ _ _ => exact .next (.packet _ _ _ (fun _ _ _ h => .credited _ _ h) h)
  | swarmAck _ _ _ => exact .swarmAck _ _ _ h
  | drop _ _ _ => exact .next (.packet _ _ _ (fun _ _ _ h => .foldl (fun _ _ h => .askRepair _ _ _ _ _ _ h) (.modRx _ _ _ h) _) h)
  | repairreq _ _ _ => exact .repairreq _ _ _ h
  | repairnak _ _ _ => exact .next (.packet _ _ _ (fun _ _ _ h => .ite (.askRepair _ _ _ _ _ _ h) h) h)
  | laggardTimeout _ _ _ _ => exact .laggardTimeout _ _ _ _ h
  | collectiveTimeout die part coll chunk =>
    rw [exec]
    exact .collectiveTimeout _ _ _ _ h
  | repairTimeout _ _ _ _ => exact .repairTimeout _ _ _ _ h
  | duplicateTile _ => exact .duplicateTile _ h
  | stepReport _ => exact .next (.ite (.modPart _ _ (.mgmt _ _ h)) h)
  | stepReportArrival _ => exact .next (.ite (.managerHear _ h) (.defer _ h))
  | retractArrival _ => exact .next (.managerHear _ h)
  | gateWrite _ _ _ => exact .next (.ite (.gateApply _ _ _ h) (.defer _ h))
  | retractHandling _ _ => exact .next (.ite (.hearRetract _ _ h) (.defer _ h))
  | retractRelease _ => exact .retractRelease _ h
  | eventRecordAccept _ _ => exact .eventRecordAccept _ _ h
  | recordHandling _ => exact .recordHandling _ h
  | capsuleRecord _ _ => exact .capsuleRecord _ _ h
  | deathwatch _ => exact .deathwatch _ h
  | quantumExpiry _ => exact .quantumExpiry _ h
  | switchCommand _ _ => exact .next (.ite (.modPart _ _ h) h)
  | twinSwitch _ _ => exact .twinSwitch _ _ h
  | load _ _ => exact .load _ _ h
  | loadApply => exact .loadApply h
  | ident _ => exact .next (.cmd _ _ (fun _ _ h _ => .report_snd _ h) h)
  | attest _ _ => exact .next (.cmd _ _ (fun _ _ h _ => .report_snd _ h) h)
  | rdreg _ _ => exact .rdreg _ _ h
  | wrreg _ _ _ => exact .wrreg _ _ _ h
  | lnkCfgWrite _ _ => exact .next (.writeLnkCfg _ _ h)
  | scanctlGo _ _ => exact .next (.cmd _ _ (fun _ _ h _ => .writeScanctl _ h) h)
  | svclatClear _ _ _ => exact .next (.cmd _ _ (fun _ _ h _ => .clearLatches _ _ h) h)
  | release _ _ => exact .next (.cmd _ _ (fun _ _ h _ => .ite_snd h (.settlePower (.pllsOff _ (.leaveJobs _ (.foldl (fun _ _ h => .ite h
      (.tagGran _ _ (.zeroRange _ _ h))) (.foldl (fun _ _ h => .ite h (.tagCore _ _ (.modCore _ _ (.clearCore _ h)))) (.unload _ h) _) _))))) h)
  | subscribe _ _ => exact .subscribe _ _ h
  | evread _ _ _ => exact .next (.cmd _ _ (fun _ _ h _ => h) h)
  | capread _ _ _ _ => exact .next (.cmd _ _ (fun _ _ h _ => h) h)
  | capunpin _ _ _ => exact .next (.cmd _ _ (fun _ _ h _ => .mk_snd (.modEv _ h)) h)
  | hivemap _ _ => exact .next (.cmd _ _ (fun _ _ h _ => .ite_snd h (.runPlacement (.rehive _ (.modLink _ (.modMgr _ h))))) h)
  | hivejoin _ _ _ => exact .next (.cmd _ _ (fun _ _ h _ => .ite_snd h (.mk_snd (.modMgr _ h))) h)
  | health _ => exact .next (.cmd _ _ (fun _ _ h _ => h) h)
  | slotset _ _ _ _ => exact .slotset _ _ _ _ h
  | slotclear _ _ => exact .next (.command _ _ (fun _ _ _ h _ => .closeSlot _ _ _ (.say _ (.ite_snd h (.mk_snd (.modSec _ h))))) h)
  | slotinit _ _ _ => exact .slotinit _ _ _ h
  | fwwrite _ _ => exact .next (.cmd _ _ (fun _ _ h _ => .ite_snd h (.mk_snd (.modSec _ h))) h)
  | fwactivate _ _ => exact .next (.cmd _ _ (fun _ _ h _ => .mk_snd (.modSec _ h)) h)
  | svnFloorRaise => exact .svnFloorRaise h
  | lifecycle _ _ _ => exact .lifecycle _ _ _ h
  | provision _ _ _ _ => exact .provision _ _ _ _ h
  | reset _ => exact .next (.command _ _ (fun _ _ _ h _ => .softReset (.say _ h)) h)
  | power _ _ _ _ => exact .next (.cmd _ _ (fun _ _ h _ => .ite_snd h (.ite (.ite (.ite (.ite (.goDark h) h) (.ite (.modPwr _ h) h)) (.modPwr _
      (.ite (.ite (.goDark h) h) (.ite (.modPwr _ h) h)))) (.foldl (fun _ _ h => .setMax _ _ h) (.ite (.ite (.ite (.goDark h) h) (.ite (.modPwr _
      h) h)) (.modPwr _ (.ite (.ite (.goDark h) h) (.ite (.modPwr _ h) h)))) _))) h)
  | scan _ _ _ => exact .next (.cmd _ _ (fun _ _ h _ => .ite_snd h (.ite_snd h (.startScan _ _ h))) h)
  | spareScanTimer _ _ => exact .next (.ite (.startScan _ _ h) h)
  | scanComplete _ _ _ _ => exact .next (.ite h (.resumeEscalations (.ite (.ite (.modEv _ (.modSyn _ _ (.modEv _ h))) (.modEv _ h)) (.post _
      (.modEv _ (.modEv _ h))))))
  | replay _ _ _ _ _ => exact .next (.cmd _ _ (fun _ _ h _ => .ite_snd h (.ite_snd h (.mk_snd (.modEv _ h)))) h)
  | unfreeze _ _ => exact .next (.cmd _ _ (fun _ _ h _ => .ite_snd h (.foldl (fun _ _ h => .wakeCore _ h) (.eachStream _ _ h) _)) h)
  | hello _ _ _ => exact .next (.ite h (.ite (.say _ h) (.say _ (.modSec _ (.sign_snd _ (.ite_snd (.draw_snd 384 (.draw_snd 256 h)) (.draw_snd 256
      h)))))))
  | response _ _ => exact .response _ _ h
  | close _ => exact .close _ h
  | nop _ _ => exact .nop _ _ h
  | sessionTimeout _ => exact .next (.closeSessions _ h)
  | slotLockoutExpiry _ => exact .next (.ite h (.modSec _ h))
  | supplyRise _ => exact .supplyRise _ h
  | startUp _ _ => exact .next (.ite (.startTo _ _ _ h) h)
  | startTimeout _ => exact .next (.ite (.ite (.ite (.startTo _ _ _ h) h) (.pwrEv _ _ _ (.modPwr _ (.ite (.startTo _ _ _ h) h)))) h)
  | undervoltageReset => exact .undervoltageReset h
  | supplyFault _ => exact .next (.ite (.ite (.modPwr _ (.setVin _ h)) (.railTrip _ _ _ _ (.setVin _ h))) h)
  | thermTrip _ _ => exact .next (.ite (.railTrip _ _ _ _ (.modPwr _ h)) h)
  | resetLAssert _ => exact .next (.pinTo _ _ _ h)
  | resetLRelease _ => exact .next (.pinTo _ _ _ h)
  | pwrEnAssert _ => exact .next (.pinTo _ _ _ h)
  | pwrEnDeassert _ => exact .next (.pinTo _ _ _ h)
  | coolantOkAssert _ => exact .next (.pinTo _ _ _ h)
  | coolantOkDeassert _ => exact .next (.pinTo _ _ _ h)
  | coolantShutdown => exact .next (.ite (.goDark (.mgmt _ _ (.drainModule _ _ (.freezeAll (.alert _ (.foldl (fun _ _ h => .pwrEv _ _ _ h)
      (.modPwr _ h) _)))))) h)
  | fireflyWatchdog _ => exact .fireflyWatchdog _ h
  | aoRefclkLoss _ _ => exact .next (.ite (.alert _ (.pwrEv _ _ _ (.modFf _ _ h))) h)
  | strapChange _ => exact .next (.modFf _ _ h)
  | perstL _ => exact .next (.closeSessions _ (.modLink _ h))
  | capThrottle _ _ _ => exact .capThrottle _ _ _ h
  | thermalThrottle _ _ _ => exact .next (.ite (.ite (.moveDie _ _ _ _ (.takeTemps _ _ h)) (.modDie _ _ (.takeTemps _ _ h))) (.ite (.moveDie _ _
      _ _ (.takeTemps _ _ h)) (.modDie _ _ (.takeTemps _ _ h))))
  | pllLock _ => exact .next (.ite (.modDie _ _ h) h)
  | pllFail _ => exact .next (.foldl (fun _ _ h => .post _ h) (.modDie _ _ h) _)
  | twinHeartbeat _ _ _ _ => exact .next (.ite h (.ite (.ite (.resumeStart (.resumeWork (.decideLead _ (.modFf _ _ (.modFf _ _ (.modFf _ _
      h)))))) (.modFf _ _ h)) (.resumeStart (.resumeWork (.modFf _ _ (.modPwr _ (.modFf _ _ h)))))))
  | heartbeatPathLoss _ _ => exact .next (.ite h (.ite (.pwrEv _ _ _ (.modFf _ _ h)) (.splitHalf _ (.modFf _ _ h))))
  | leadQuery _ _ => exact .next (.ite (.modMgr _ h) h)
  | leadRuling _ => exact .next (.ite (.mgmt _ _ (.modMgr _ h)) h)
  | leadRulingReceipt _ _ => exact .next (.ite (.resumeStart (.resumeWork (.ite (.splitEv _ _ (.learnLead _ _ h)) (.learnLead _ _ h)))) h)
  | splitDefault _ => exact .next (.ite (.resumeStart (.resumeWork (.ite (.splitEv _ _ (.learnLead _ _ h)) (.learnLead _ _ h)))) h)
  | signalDetect _ => exact .next (.ite (.modPort _ _ h) h)
  | trainingComplete _ _ => exact .trainingComplete _ _ h
  | trainingTimeout _ => exact .next (.ite (.trainFail _ h) h)
  | signalLoss _ => exact .next (.ite h (.portDown _ _ h))
  | laneFailure _ _ => exact .next (.ite (.portDown _ _ h) h)
  | fecErrorBurst _ => exact .next (.ite (.portDown _ _ h) h)
  | linkSilence _ => exact .next (.ite (.portDown _ _ h) h)
  | failedRetryTimer _ => exact .next (.ite (.modPort _ _ h) h)
  | beaconSend _ => exact .next (.ite (.emit _ h) h)
  | beaconReceive _ _ => exact .next (.ite h (.reportNews (.ite (.ite (.ite (.modPort _ _ h) (.beaconNews _ (.modPort _ _ h))) (.linkEv _ _ _ _
      (.modPort _ _ (.leave _ _ (.ite (.modPort _ _ h) (.beaconNews _ (.modPort _ _ h))))))) (.ite (.modPort _ _ (.ite (.modPort _ _ h)
      (.beaconNews _ (.modPort _ _ h)))) (.ite (.linkEv _ _ _ _ (.modPort _ _ (.leave _ _ (.ite (.modPort _ _ h) (.beaconNews _ (.modPort _ _
      h)))))) (.ite (.modPort _ _ h) (.beaconNews _ (.modPort _ _ h))))))))
  | frameReceive _ _ _ => exact .next (.ite (.ite (.modPort _ _ (.modPort _ _ h)) (.ite (.flood _ _ (.modPort _ _ h)) (.modPort _ _ h))) (.ite
      (.modPort _ _ h) (.ite (.emit _ (.modPort _ _ (.modPort _ _ h))) (.ite (.modPort _ _ h) (.takeEarly _ _ _ (.modLport _ _ (.modPort _ _
      h)))))))
  | linkAck _ _ => exact .next (.pump _ (.modLport _ _ h))
  | linkNak _ _ => exact .next (.tryResend _ _ h)
  | linkCredit _ _ => exact .next (.pump _ (.modLport _ _ h))
  | ackTimer _ => exact .next (.ite h (.emit _ h))
  | gapTimeout _ => exact .next (.ite (.emit _ h) h)
  | resendTimeout _ => exact .resendTimeout _ h
  | refuse _ _ => exact .refuse _ _ h
  | resume _ _ _ => exact .resume _ _ _ h
  | managementResend _ => exact .managementResend _ h
  | neighbourReport _ => exact .next (.ite (.runPlacement (.modMgr _ h)) h)
  | placementVerdict _ _ _ => exact .next (.ite h (.applyPlacement _ _ _ h))
  | electStand => exact .next (.ite (.modMgr _ h) h)
  | actingManager => exact .next (.ite (.becomeManager h) h)
  | offer _ _ _ _ _ => exact .next (.ite (.keyReject _ h) (.mgmt _ _ (.modMgr _ (.sign_snd _ (.draw_snd _ h)))))
  | admissionAccept _ _ _ _ _ => exact .admissionAccept _ _ _ _ _ h
  | keyDelivery _ _ _ _ => exact .keyDelivery _ _ _ _ h
  | managerHeartbeat => exact .next (.ite (.foldl (fun _ _ h => .mgmt _ _ h) h _) h)
  | managerState _ _ _ => exact .managerState _ _ _ h
  | managerLoss => exact .next (.ite h (.modMgr _ h))
  | bridgeSegmentFailure _ => exact .next (.post _ (.modLink _ h))
  | aoRefclkReturn _ => exact .next (.modFf _ _ h)
  | transportLoss _ => exact .next (.dropSessions _ h)
  | switchTime _ => exact .next (.ite h (.switchTo _ (.modPart _ _ h)))
  | scaleRecordArrival _ _ _ _ => exact .scaleRecordArrival _ _ _ _ h
  | signedUnlock _ _ => exact .next (.ite (.modSec _ h) h)

/-- Settles O2, from what every command keeps: no arm of `exec` stops the module, and none writes the queue of commands. -/
theorem everyCommandIsAnswered : Obligations.EveryCommandIsAnswered := by
  unfold Obligations.EveryCommandIsAnswered
  refine ⟨fun c s => ?_, fun c s t he => ?_⟩
  · obtain ⟨t, ht, -⟩ := exec_answers (.refl s) c
    exact ⟨t, ht⟩
  · obtain ⟨u, hu, hk⟩ := exec_answers (.refl s) c
    obtain rfl : u = t := Host.Outcome.next.inj (hu.symm.trans he)
    exact hk.pending

end Sys2Proof.Machine
end

section
/-! SUPPORT: the start of a SYN instruction that alone heads its queue (06 R191, 09 R260, R261). -/

namespace Sys2Proof.Machine

variable {s t : State} {i : StreamId} {e : Engine} {q : QEntry} {rest : List QEntry}

/-! ### The head of the sync queue -/

/-- A head that `ok` does not admit leaves its engine without a candidate. -/
theorem State.soleHead.startOldest_not (h : s.soleHead i e q rest) {ok : StreamId → QEntry → Bool} (hk : ok i q = false)
    (go : StreamId → QEntry → State → State) : s.startOldest ⟨i.die, i.core⟩ e ok go = s := by
  have hh : s.heads ⟨i.die, i.core⟩ e ok = [] := by
    obtain ⟨hq, hp, -⟩ := h
    obtain ⟨die, core, pass⟩ := i
    unfold State.heads
    cases pass <;> simp_all
  unfold State.startOldest
  rw [hh]
  rfl

/-- No wait at the head of a sync queue is denied, so none is logged (09 R269). -/
theorem State.soleHead.deniedWaits (h : s.soleHead i .syn q rest) (hd : isWait q = true → s.synDenied (skey i) (synObj q.w) = false) :
    s.deniedWaits ⟨i.die, i.core⟩ = s := by
  obtain ⟨hq, hp, -⟩ := h
  refine foldl_fixed fun p _ => ?_
  by_cases hi : p = i.pass
  · subst hi
    dsimp only
    rw [show (⟨i.die, i.core, i.pass⟩ : StreamId) = i from rfl, hq]
    refine if_neg fun hc => ?_
    simp only [Bool.and_eq_true] at hc
    obtain ⟨⟨⟨hw, -⟩, hz⟩, -⟩ := hc
    exact Bool.false_ne_true ((hd hw).symm.trans hz)
  · dsimp only
    rw [hp p hi]

/-- A SYN that may start starts with the effect of its opcode; `t` is the state after that. -/
theorem exec_synStart (h : s.soleHead i .syn q rest) (hd : isWait q = true → s.synDenied (skey i) (synObj q.w) = false)
    (hk : s.synReady i q = true) {ready : Bool} (hv : s.synStart i q [] = (ready, t)) :
    exec (.instructionStart ⟨i.die, i.core⟩ .syn []) s
      = .next (t.modStream i fun st => { st.begin .syn {} ready with sat := none }) := by
  show execInstructionStart ⟨i.die, i.core⟩ .syn [] s = _
  unfold execInstructionStart State.startEngine
  dsimp only
  rw [show s.upset [] = s from rfl, h.deniedWaits hd, h.startOldest hk, hv]

/-- A SYN that may not start yet changes nothing. -/
theorem exec_synHeld (h : s.soleHead i .syn q rest) (hd : isWait q = true → s.synDenied (skey i) (synObj q.w) = false)
    (hk : s.synReady i q = false) : exec (.instructionStart ⟨i.die, i.core⟩ .syn []) s = .next s := by
  show execInstructionStart ⟨i.die, i.core⟩ .syn [] s = _
  unfold execInstructionStart State.startEngine
  dsimp only
  rw [show s.upset [] = s from rfl, h.deniedWaits hd, h.startOldest_not hk]

theorem State.modSyn_setStream (k : Nat) (f : SynHalf → SynHalf) (x : Stream) :
    (s.modSyn k f).setStream i x = (s.setStream i x).modSyn k f := by
  unfold State.modSyn
  split
  · rfl
  · rfl

theorem State.setStream_setStream (hp : (s.core (skey i)).pow = .on) (x y : Stream) :
    (s.setStream i x).setStream i y = s.setStream i y := by
  unfold State.setStream
  rw [State.core_setCore, State.setCore_setCore _ _ (by simpa using hp)]
  cases i.pass <;> rfl

theorem State.soleHead.pow (h : s.soleHead i e q rest) : (s.core (skey i)).pow = .on := by
  obtain ⟨-, -, hs⟩ := h
  unfold State.canStart State.engineRuns at hs
  simp only [Bool.and_eq_true, beq_iff_eq] at hs
  exact hs.1.1.1

/-- The head of the sync queue begins, and a value that satisfied its wait is used up, where the sync engine left its stream. -/
theorem State.soleHead.begin_syn (h : s.soleHead i .syn q rest) (ht : t.stream i = s.stream i) (ready : Bool) :
    t.modStream i (fun st => { st.begin .syn {} ready with sat := none })
      = t.setStream i { (s.stream i).started .syn q rest {} ready with sat := none } := by
  unfold State.modStream
  dsimp only
  rw [ht, Stream.begin_eq_started h.1]

/-- The same, where the sync engine changed the stream itself. -/
theorem State.soleHead.mod_begin_syn (h : s.soleHead i .syn q rest) {f : Stream → Stream}
    (hf : ∀ st : Stream, (f st).queue .syn = st.queue .syn) (ready : Bool) :
    (s.modStream i f).modStream i (fun st => { st.begin .syn {} ready with sat := none })
      = s.setStream i { (f (s.stream i)).started .syn q rest {} ready with sat := none } := by
  unfold State.modStream
  dsimp only
  rw [State.stream_setStream, Stream.begin_eq_started ((hf _).trans h.1), State.setStream_setStream h.pow]

/-! ### SET and ADD (09 R260) -/

theorem State.synStart_write (hs : q.skip = false) (ho : q.op = 1 ∨ q.op = 2) :
    s.synStart i q [] = (true, s.completionWrite i q.inop
      (s.syncReq i q.step q.id (synObj q.w) (if q.op = 1 then .set else .add) (synValue q))) := by
  unfold State.synStart
  obtain ho | ho := ho
  · simp [hs, ho]
  · simp [hs, ho]

theorem isWait_of_op (h0 : q.op ≠ 0) (h5 : q.op ≠ 5) : isWait q = false := by
  unfold isWait
  simp [h0, h5]

theorem State.synReady_of_op (h0 : q.op ≠ 0) (h4 : q.op ≠ 4) (h5 : q.op ≠ 5) : s.synReady i q = true := by
  unfold State.synReady
  rw [isWait_of_op h0 h5]
  simp [h4]

/-- A write outside an operation is sent at once, and one inside is withheld in issue order (05 R155). -/
theorem State.completionWrite_out (r : SyncReq) : s.completionWrite i false r = s.sendSync r := rfl

theorem State.completionWrite_in (hin : (s.stream i).inop = true) (hh : (s.stream i).state ≠ .halted) (r : SyncReq) :
    s.completionWrite i true r = s.modStream i fun st => { st with wbuf := withhold r st.wbuf } := by
  unfold State.completionWrite State.modStream
  simp [hin, hh]

/-- SYN.SET and SYN.ADD at their start (06 R191, 09 R260). -/
theorem exec_synWrite (h : s.soleHead i .syn q rest) (hs : q.skip = false) (ho : q.op = 1 ∨ q.op = 2) :
    let r := s.syncReq i q.step q.id (synObj q.w) (if q.op = 1 then .set else .add) (synValue q)
    let st := (s.stream i).started .syn q rest {} true
    (q.inop = false → exec (.instructionStart ⟨i.die, i.core⟩ .syn []) s
        = .next ((s.setStream i { st with sat := none }).modSyn (halfOfObj r.obj) fun h => { h with net := h.net ++ [r] }))
      ∧ (q.inop = true → (s.stream i).inop = true → (s.stream i).state ≠ .halted →
          exec (.instructionStart ⟨i.die, i.core⟩ .syn []) s
            = .next (s.setStream i { st with sat := none, wbuf := withhold r (s.stream i).wbuf })) := by
  have h0 : q.op ≠ 0 := by omega
  have h5 : q.op ≠ 5 := by omega
  have hd : isWait q = true → s.synDenied (skey i) (synObj q.w) = false := fun hw => by simp [isWait_of_op h0 h5] at hw
  have hstart := exec_synStart h hd (State.synReady_of_op h0 (by omega) h5) (State.synStart_write hs ho)
  intro r st
  refine ⟨fun hin => ?_, fun hin hop hh => ?_⟩
  · rw [hstart, hin, State.completionWrite_out, State.sendSync, h.begin_syn (State.stream_of_cores (s.modSyn_cores _ _) i),
      State.modSyn_setStream]
  · have hf : ∀ st : Stream, ({ st with wbuf := withhold r st.wbuf } : Stream).queue .syn = st.queue .syn := fun _ => rfl
    rw [hstart, hin, State.completionWrite_in hop hh, h.mod_begin_syn hf]
    rfl

end Sys2Proof.Machine
end

section
/-! SUPPORT: waits, FADD and OPLD at their start (06 R191, R192, 09 R261, R263). -/

namespace Sys2Proof.Machine

variable {s t : State} {i : StreamId} {q : QEntry} {rest : List QEntry}

/-! ### A little-endian number in memory -/

/-- The writes of the `n` low bytes of a number at an address, lowest first. -/
def numWrites (out n v : Nat) : List (Nat × Byte) := ((List.range n).map (out + ·)).zip (leBytes n v)

theorem numWrites_fst (out n v : Nat) : (numWrites out n v).map (·.1) = (List.range n).map (out + ·) :=
  List.map_fst_zip (by simp)

theorem overlay_numWrites {rd : Nat → Byte} (out v : Nat) {n b : Nat} (hb : b < n) :
    overlay rd (numWrites out n v) (out + b) = BitVec.ofNat 8 (v / 256 ^ b) := by
  have hm : (out + b, BitVec.ofNat 8 (v / 256 ^ b)) ∈ numWrites out n v := by
    refine List.mem_iff_getElem?.mpr ⟨b, List.getElem?_zip_eq_some.mpr ⟨?_, leBytes_getElem? hb v⟩⟩
    simp [hb]
  refine overlay_of_mem ?_ hm
  rw [numWrites_fst]
  exact List.Nodup.map (fun x y hxy => Nat.add_left_cancel hxy) List.nodup_range

theorem overlay_numWrites_ne {rd : Nat → Byte} {out n v a : Nat} (h : a < out ∨ out + n ≤ a) : overlay rd (numWrites out n v) a = rd a := by
  refine overlay_of_not_mem fun hm => ?_
  rw [numWrites_fst] at hm
  obtain ⟨k, hk, rfl⟩ := List.mem_map.mp hm
  rw [List.mem_range] at hk
  omega

/-! ### Waits -/

/-- The value that a GWAIT gives: the one that satisfied it (09 R261). -/
def State.waitValue (s : State) (i : StreamId) (q : QEntry) : W32 :=
  match (s.stream i).sat with
  | some (id, v) => if id = q.id then v else (s.obj (synObj q.w)).value
  | none => (s.obj (synObj q.w)).value

theorem isWait_iff (he : q.eng = .syn) (hs : q.skip = false) : isWait q = true ↔ q.op = 0 ∨ q.op = 5 := by
  unfold isWait
  simp [he, hs]

theorem State.waitMet_iff (hd : s.synDenied (skey i) (synObj q.w) = false) (hr : s.objReached i (synObj q.w) = true) :
    s.waitMet i q = true ↔ (s.stream i).sat.map (·.1) = some q.id
      ∨ (if q.op = 5 then gateRules (s.obj (synObj q.w)).value q.step
          else waitCond (fld q.w 62 60) (s.obj (synObj q.w)).value (synValue q)) = true := by
  unfold State.waitMet State.waitNow
  simp [hd, hr]

/-- A wait at the head of its queue may start once satisfied, and not before (06 R191, R192, 09 R261). -/
theorem State.synReady_of_isWait (hw : isWait q = true) : s.synReady i q = s.waitMet i q := if_pos hw

theorem State.synStart_wait (hs : q.skip = false) (ho : q.op = 0) : s.synStart i q [] = (true, s) := by
  unfold State.synStart
  simp [hs, ho]

theorem State.synStart_gwait (hs : q.skip = false) (ho : q.op = 5) :
    s.synStart i q [] = (true, s.writeMem (s.whoOf i q) (numWrites (synOut i q) 4 (s.waitValue i q).toNat)) := by
  unfold State.synStart
  dsimp only
  rw [if_neg (by simp [hs]), ho]
  show (true, State.parityWrites _ _ _ _) = _
  rw [State.parityWrites_nil]
  unfold State.waitValue numWrites
  generalize (s.stream i).sat = sat
  obtain - | ⟨id, v⟩ := sat
  · rfl
  · rfl

/-- A satisfied GWAIT starts: its value stands at A[AOUT], and no other byte of memory changes. -/
theorem exec_gwait (h : s.soleHead i .syn q rest) (he : q.eng = .syn) (hs : q.skip = false)
    (hd : s.synDenied (skey i) (synObj q.w) = false) (ho : q.op = 5) (hm : s.waitMet i q = true) (hc : s.clear (s.whoOf i q)) :
    ∃ t, exec (.instructionStart ⟨i.die, i.core⟩ .syn []) s = .next t
      ∧ t.stream i = { (s.stream i).started .syn q rest {} true with sat := none } ∧ t.objs = s.objs
      ∧ (∀ b, b < 4 → t.rd8 (synOut i q + b) = BitVec.ofNat 8 ((s.waitValue i q).toNat / 256 ^ b))
      ∧ ∀ a, a < synOut i q ∨ synOut i q + 4 ≤ a → t.rd8 a = s.rd8 a := by
  have hw : isWait q = true := (isWait_iff he hs).mpr (.inr ho)
  have hstart := exec_synStart h (fun _ => hd) ((State.synReady_of_isWait hw).trans hm) ((State.synStart_gwait hs ho).trans (by rw [State.writeMem_clear s hc]))
  have hmem := State.writes_memOnly (s := s) (numWrites (synOut i q) 4 (s.waitValue i q).toNat)
  have hrd := State.rd8_writes (s := s) (numWrites (synOut i q) 4 (s.waitValue i q).toNat)
  rw [h.begin_syn (by rw [hmem]; rfl)] at hstart
  refine ⟨_, hstart, State.stream_setStream _ _ _, by rw [hmem]; rfl, fun b hb => ?_, fun a ha => ?_⟩
  · exact (congrFun hrd _).trans (overlay_numWrites _ _ hb)
  · exact (congrFun hrd _).trans (overlay_numWrites_ne ha)

/-! ### FADD and OPLD -/

theorem State.synStart_fadd (hs : q.skip = false) (ho : q.op = 3) : s.synStart i q []
    = (false, s.sendSync (s.syncReq i q.step q.id (synObj q.w) (.fadd (synOut i q)) (synValue q))) := by
  unfold State.synStart
  simp [hs, ho]

/-- An object whose accesses pass is read without a record of Zombie traffic (09 R269). -/
theorem State.synZombie_passes {obj : Nat} (hd : s.synDenied (skey i) obj = false) : s.synZombie i obj = s := by
  unfold State.synDenied at hd
  simp only [Bool.or_eq_false_iff, bne_eq_false_iff_eq] at hd
  obtain ⟨hf, hm⟩ := hd
  unfold State.synZombie State.synDrop
  simp [hf, hm]

theorem State.synStart_opld (hs : q.skip = false) (ho : q.op = 4) (hd : s.synDenied (skey i) (synObj q.w) = false) :
    s.synStart i q [] = (true, s.modStream i fun st =>
      { st with optab := tset 0 st.optab (fld q.w 19 12) (s.obj (synObj q.w)).value }) := by
  unfold State.synStart
  simp [hs, ho, hd, State.synZombie_passes hd]

theorem exec_fadd (h : s.soleHead i .syn q rest) (hs : q.skip = false) (ho : q.op = 3) :
    exec (.instructionStart ⟨i.die, i.core⟩ .syn []) s
      = .next ((s.setStream i { (s.stream i).started .syn q rest {} false with sat := none }).modSyn (halfOfObj (synObj q.w)) fun h =>
          { h with net := h.net ++ [s.syncReq i q.step q.id (synObj q.w) (.fadd (synOut i q)) (synValue q)] }) := by
  have hw : isWait q = false := isWait_of_op (by omega) (by omega)
  rw [exec_synStart h (fun hc => by simp [hw] at hc) (State.synReady_of_op (by omega) (by omega) (by omega)) (State.synStart_fadd hs ho),
    State.sendSync, h.begin_syn (State.stream_of_cores (s.modSyn_cores _ _) i), State.modSyn_setStream]
  rfl

theorem exec_opld (h : s.soleHead i .syn q rest) (hs : q.skip = false) (ho : q.op = 4)
    (hd : s.synDenied (skey i) (synObj q.w) = false) (hr : s.objReached i (synObj q.w) = true) :
    exec (.instructionStart ⟨i.die, i.core⟩ .syn []) s
      = .next (s.setStream i { (s.stream i).started .syn q rest {} true with
          sat := none, optab := tset 0 (s.stream i).optab (fld q.w 19 12) (s.obj (synObj q.w)).value }) := by
  have hw : isWait q = false := isWait_of_op (by omega) (by omega)
  have hk : s.synReady i q = true := by
    unfold State.synReady
    simp [hw, hr]
  have hf : ∀ st : Stream, ({ st with optab := tset 0 st.optab (fld q.w 19 12) (s.obj (synObj q.w)).value } : Stream).queue .syn
      = st.queue .syn := fun _ => rfl
  rw [exec_synStart h (fun _ => hd) hk (State.synStart_opld hs ho hd), h.mod_begin_syn hf]
  rfl

/-- The starts of the sync engine that read an object (06 R191, R192, 09 R261, R263). -/
theorem exec_synReads (h : s.soleHead i .syn q rest) (he : q.eng = .syn) (hs : q.skip = false)
    (hd : s.synDenied (skey i) (fld q.w 79 63) = false) (hr : s.objReached i (fld q.w 79 63) = true) :
    let x := fld q.w 79 63
    let o := s.obj x
    let c := s.core (skey i)
    let st := fun (ready : Bool) => { (s.stream i).started .syn q rest {} ready with sat := none }
    let start := exec (.instructionStart ⟨i.die, i.core⟩ .syn []) s
    let met := (s.stream i).sat.map (·.1) = some q.id
      ∨ (if q.op = 5 then gateRules o.value q.step else waitCond (fld q.w 62 60) o.value (synValue q)) = true
    ((q.op = 0 ∨ q.op = 5) → ¬ met → start = .next s)
      ∧ (q.op = 0 → met → start = .next (s.setStream i (st true)))
      ∧ (q.op = 5 → met → s.clear (s.whoOf i q) → s.memOk →
          let v := match (s.stream i).sat with | some (id, v) => if id = q.id then v else o.value | none => o.value
          let out := ownByte (skey i) (q.areg (fld q.w 23 20)) 0
          ∃ t, start = .next t ∧ t.stream i = st true ∧ t.objs = s.objs
            ∧ (∀ b, b < 4 → t.rd8 (out + b) = BitVec.ofNat 8 (v.toNat / 256 ^ b)) ∧ (∀ a, a < out ∨ out + 4 ≤ a → t.rd8 a = s.rd8 a))
      ∧ (q.op = 3 → start = .next ((s.setStream i (st false)).modSyn (halfOfObj x) fun h =>
          { h with net := h.net ++ [{ obj := x, kind := .fadd (ownByte (skey i) (q.areg (fld q.w 23 20)) 0), value := synValue q, step := q.step
                                      epoch := c.epoch, part := c.part.getD 0xFF, unit := s.unitCore (skey i) 0, src := some i, srcId := q.id
                                      link := false }] }))
      ∧ (q.op = 4 → start = .next (s.setStream i { st true with optab := tset 0 (s.stream i).optab (fld q.w 19 12) o.value })) := by
  have hw : q.op = 0 ∨ q.op = 5 → s.synReady i q = s.waitMet i q := fun ho => State.synReady_of_isWait ((isWait_iff he hs).mpr ho)
  refine ⟨fun ho hm => ?_, fun ho hm => ?_, fun ho hm hc _ => ?_, fun ho => ?_, fun ho => ?_⟩
  · exact exec_synHeld h (fun _ => hd) ((hw ho).trans (Bool.eq_false_iff.mpr fun hk => hm ((State.waitMet_iff hd hr).mp hk)))
  · rw [exec_synStart h (fun _ => hd) ((hw (.inl ho)).trans ((State.waitMet_iff hd hr).mpr hm)) (State.synStart_wait hs ho), h.begin_syn rfl]
  · exact exec_gwait h he hs hd ho ((State.waitMet_iff hd hr).mpr hm) hc
  · exact exec_fadd h hs ho
  · exact exec_opld h hs ho hd hr

end Sys2Proof.Machine
end

section
/-! SUPPORT: the completion of an instruction (05 R163, 06 R170, 07 R207). -/

namespace Sys2Proof.Machine

variable {r₀ s t : State} {i : StreamId} {e : Engine} {r : Running} {rest : List Running}

/-! ### Nothing goes on -/

/-- A stream whose running STRMs are all complete moves nothing more (07 R208). -/
theorem State.strmGoOn_ready (h : ∀ x ∈ (s.stream i).run, x.q.eng = .str → x.ready = true) (fs : List PhysFault) : s.strmGoOn i fs = s := by
  have hrep : ∀ id, s.strmRep i id fs = s := fun id => by
    unfold State.strmRep
    split
    next => rfl
    next x hx =>
      have heng : x.q.eng = .str := by
        have hp := List.find?_some hx
        simp only [Bool.and_eq_true, beq_iff_eq] at hp
        exact hp.1
      rw [h x (List.mem_of_find?_eq_some hx) heng]
      simp
  unfold State.strmGoOn
  split
  · exact foldl_fixed fun x _ => foldl_fixed fun _ _ => hrep _
  · rfl

/-- A stream whose running MMAs are all complete feeds nothing more (04 R133). -/
theorem State.mmaGoOn_ready (h : ∀ x ∈ (s.stream i).run, x.q.eng = .mx → x.ready = true) (fs : List PhysFault) : s.mmaGoOn i fs = s := by
  refine State.mmaGoOn_none (List.find?_eq_none.mpr fun x hx hf => ?_) fs
  unfold Running.feeding at hf
  simp only [Bool.and_eq_true, beq_iff_eq, Bool.not_eq_true'] at hf
  rw [h x hx hf.1] at hf
  exact Bool.noConfusion hf.2

theorem State.goesOn_ready (h : e = .str ∨ e = .mx → ∀ x ∈ (s.stream i).run, x.q.eng = e → x.ready = true) : s.goesOn i e = s := by
  cases e with
  | str => exact State.strmGoOn_ready (h (.inl rfl)) []
  | mx => exact State.mmaGoOn_ready (h (.inr rfl)) []
  | vec | pack | xch | upd | syn => rfl

/-- The oldest running instruction, whose effects have come about, completes. -/
theorem exec_completes (hrun : (s.stream i).run = r :: rest) (he : r.q.eng = e) (hr : r.ready = true) (hon : s.engineRuns i = true)
    (hw : e = .pack → (s.core (skey i)).writeFree r.q = true) (hall : e = .str ∨ e = .mx → ∀ x ∈ rest, x.q.eng = e → x.ready = true) :
    exec (.instructionComplete i e) s = .next ((s.setStream i { s.stream i with run := rest }).complete i r) := by
  have hgo : s.goesOn i e = s := State.goesOn_ready fun hs x hx hxe => by
    rw [hrun] at hx
    obtain rfl | hx := List.mem_cons.mp hx
    · exact hr
    · exact hall hs x hx hxe
  have hdone : s.done i e r = true := by
    unfold State.done
    by_cases hp : e = .pack
    · simp [he, hr, hw hp]
    · simp [he, hr, hp]
  rw [exec_instructionComplete, hgo, hrun, List.find?_cons_of_pos hdone]
  simp only [hon, if_true]
  rw [dropFirst, if_pos hdone]

/-! ### What a completion leaves -/

/-- The memory, and the running instructions of a stream, stay. -/
structure KeepsRun (i : StreamId) (r₀ s : State) : Prop where
  mem : s.mem = r₀.mem
  run : (s.stream i).run = (r₀.stream i).run

namespace KeepsRun

theorem refl (s : State) : KeepsRun i s s := ⟨rfl, rfl⟩

theorem of_cores (h : KeepsRun i r₀ s) (hm : t.mem = s.mem) (hc : t.cores = s.cores) : KeepsRun i r₀ t :=
  ⟨hm.trans h.mem, by rw [State.stream_of_cores hc]; exact h.run⟩

theorem modStream (h : KeepsRun i r₀ s) {f : Stream → Stream} (hf : ∀ st : Stream, (f st).run = st.run) : KeepsRun i r₀ (s.modStream i f) :=
  ⟨h.mem, by rw [State.stream_modStream, hf]; exact h.run⟩

theorem modCore (h : KeepsRun i r₀ s) {f : Core → Core} (hf : ∀ c p, (f c).stream p = c.stream p) :
    KeepsRun i r₀ (s.modCore (skey i) f) :=
  ⟨h.mem, by rw [State.stream_modCore _ _ hf]; exact h.run⟩

theorem ite {u v : State} {c : Prop} [Decidable c] (hu : KeepsRun i r₀ u) (hv : KeepsRun i r₀ v) :
    KeepsRun i r₀ (if c then u else v) := by
  split
  · exact hu
  · exact hv

theorem foldl {α : Type} {f : State → α → State} (hf : ∀ u x, KeepsRun i r₀ u → KeepsRun i r₀ (f u x)) (h : KeepsRun i r₀ s) (l : List α) :
    KeepsRun i r₀ (l.foldl f s) := by
  induction l generalizing s with
  | nil => exact h
  | cons x l ih => exact ih (hf s x h)

theorem post (h : KeepsRun i r₀ s) (ev : EvRec) : KeepsRun i r₀ (s.post ev) := h.of_cores (s.post_mem ev) (s.post_cores ev)

theorem startHandling (h : KeepsRun i r₀ s) (ev : EvRec) : KeepsRun i r₀ (s.startHandling ev) := by
  unfold State.startHandling
  split
  · exact h
  · refine foldl (fun u x hu => ?_) h _
    dsimp only
    exact ite (hu.of_cores rfl rfl) (ite (hu.of_cores rfl rfl) (hu.of_cores rfl rfl))

theorem postLost (h : KeepsRun i r₀ s) (unit : W32) (part : Byte) (n : Nat) (mask : Byte) : KeepsRun i r₀ (s.postLost unit part n mask) := by
  unfold State.postLost
  split
  · exact h
  · exact (h.of_cores (by simp) (by simp)).post _

theorem acceptRec (h : KeepsRun i r₀ s) (x : Nat × Bool) (temp volt : W16) : KeepsRun i r₀ (s.acceptRec x temp volt) := by
  unfold State.acceptRec
  dsimp only
  split
  · exact h
  · refine postLost (startHandling ?_ _) _ _ _ _
    split
    · exact h.of_cores (by simp) (by simp)
    · exact h.of_cores (by simp) (by simp)

theorem mailTurn (h : KeepsRun i r₀ s) : KeepsRun i r₀ s.mailTurn :=
  foldl (fun u _ hu => ite (acceptRec (s := u.takeFree.2) (hu.of_cores rfl rfl) _ _ _) hu) h _

theorem postFlags (h : KeepsRun i r₀ s) (ev : EvRec) (f : Flags) (scale : Bool) : KeepsRun i r₀ (s.postFlags ev f scale) :=
  foldl (fun _ _ hu => post (ite hu hu.mailTurn) _) h _

theorem collectFlags (h : KeepsRun i r₀ s) (inop : Bool) (f : Flags) (scale : Bool) : KeepsRun i r₀ (s.collectFlags i inop f scale) := by
  have hl : KeepsRun i r₀ (if f.wide then s.ladderRecord i (s.stream i) else s) :=
    ite (h.of_cores (State.ladderRecord_mem ..) (State.ladderRecord_cores ..)) h
  unfold State.collectFlags
  exact ite (hl.modStream fun _ => rfl) (hl.of_cores (State.countScale_mem ..) (State.countScale_cores ..))

theorem completionWrite (h : KeepsRun i r₀ s) (inop : Bool) (w : SyncReq) : KeepsRun i r₀ (s.completionWrite i inop w) := by
  refine ite (h.modStream fun st => ?_) (h.of_cores (s.modSyn_mem _ _) (s.modSyn_cores _ _))
  split
  · rfl
  · rfl

end KeepsRun

theorem Core.stream_emptied (c : Core) (bs : List Nat) (p : Pass) : (c.emptied bs).stream p = c.stream p := by
  rw [c.emptied_frame]
  cases p <;> rfl

/-- A core once an instruction has completed: its context and bank are free. -/
def Core.completed (c : Core) (q : QEntry) : Core :=
  let c1 : Core := { c with ctxs := c.ctxs.filter fun x => !(q.eng == .str && x.2 == q.id) }
  if q.eng = .pack then c1.emptied (banksOf q.w q.wide) else c1

theorem Core.stream_completed (c : Core) (q : QEntry) (p : Pass) : (c.completed q).stream p = c.stream p := by
  unfold Core.completed
  dsimp only
  split
  · rw [Core.stream_emptied]
    cases p <;> rfl
  · cases p <;> rfl

/-- The state once a completing instruction's context and bank are free, and its flags are reported. -/
def State.freed (s : State) (i : StreamId) (r : Running) : State :=
  let s1 := s.modCore (skey i) fun c => c.completed r.q
  if r.q.eng = .vec then
    (s1.postFlags (s1.coreEv i 3 0 0 r.q.step r.q.pc r.q.attempt 0) r.flags (ccwPol (vCcw r.q.w) == 1)).collectFlags i r.q.inop r.flags
      (ccwPol (vCcw r.q.w) == 1)
  else s1

theorem State.complete_eq (r : Running) : s.complete i r
    = if hSig r.q.w && r.q.n != 0 && r.q.eng != .xch then
        (s.freed i r).completionWrite i r.q.inop ((s.freed i r).signalReq i r.q.step r.q.id (hSobj r.q.w))
      else s.freed i r := rfl

/-- A completion of any engine leaves the memory and the stream's other running instructions. -/
theorem KeepsRun.complete (h : KeepsRun i r₀ s) (r : Running) : KeepsRun i r₀ (s.complete i r) := by
  have hc : KeepsRun i r₀ (s.modCore (skey i) fun c => c.completed r.q) := h.modCore fun c p => c.stream_completed r.q p
  have hf : KeepsRun i r₀ (s.freed i r) := .ite ((hc.postFlags _ _ _).collectFlags _ _ _) hc
  rw [State.complete_eq]
  exact .ite (hf.completionWrite _ _) hf

/-! ### Engines without flags and banks of their own to settle -/

/-- What an instruction that neither reports flags nor empties a bank leaves as it completes: its context is free. -/
theorem State.freed_plain (hv : r.q.eng ≠ .vec) (hp : r.q.eng ≠ .pack) :
    s.freed i r = s.modCore (skey i) fun c => { c with ctxs := c.ctxs.filter fun x => !(r.q.eng == .str && x.2 == r.q.id) } := by
  have hf : (fun c : Core => c.completed r.q)
      = fun c => { c with ctxs := c.ctxs.filter fun x => !(r.q.eng == .str && x.2 == r.q.id) } := by
    funext c
    exact if_neg hp
  unfold State.freed
  rw [hf]
  exact if_neg hv

/-- A core whose streams and contexts change issues the same sync requests: they read its place, partition and epoch. -/
theorem State.syncReq_core (hpos : (t.core (skey i)).pos = (s.core (skey i)).pos) (hep : (t.core (skey i)).epoch = (s.core (skey i)).epoch)
    (hpart : (t.core (skey i)).part = (s.core (skey i)).part) (hf : t.fuse = s.fuse) (step : W64) (id obj : Nat) (k : SyncKind) (v : W32) :
    t.syncReq i step id obj k v = s.syncReq i step id obj k v := by
  unfold State.syncReq State.unitCore State.corePos
  dsimp only
  rw [hpos, hep, hpart, hf]

/-- INSTRUCTION_COMPLETE (05 R155, R163, 06 R170, 07 R207). -/
theorem exec_completion (hrun : (s.stream i).run = r :: rest) (he : r.q.eng = e) (hr : r.ready = true) (hon : s.engineRuns i = true)
    (hw : e = .pack → (s.core (skey i)).writeFree r.q = true) (hall : e = .str ∨ e = .mx → ∀ x ∈ rest, x.q.eng = e → x.ready = true) :
    let c := s.core (skey i)
    let w : SyncReq :=
      { obj := hSobj r.q.w, kind := if (s.obj (hSobj r.q.w)).type = .flag then .set else .add, value := 1, step := r.q.step, epoch := c.epoch
        part := c.part.getD 0xFF, unit := s.unitCore (skey i) 0, src := some i, srcId := r.q.id, link := false }
    let s1 := (s.setStream i { s.stream i with run := rest }).modCore (skey i) fun c =>
      { c with ctxs := c.ctxs.filter fun x => !(e == .str && x.2 == r.q.id) }
    let signals := hSig r.q.w = true ∧ r.q.n ≠ 0
    (∃ t, exec (.instructionComplete i e) s = .next t ∧ (t.stream i).run = rest ∧ t.mem = s.mem)
      ∧ (e = .str ∨ e = .syn ∨ e = .mx ∨ e = .upd →
        (¬ signals → exec (.instructionComplete i e) s = .next s1)
          ∧ (signals → r.q.inop = false →
              exec (.instructionComplete i e) s = .next (s1.modSyn (halfOfObj (hSobj r.q.w)) fun h => { h with net := h.net ++ [w] }))
          ∧ (signals → r.q.inop = true → (s.stream i).inop = true → (s.stream i).state ≠ .halted →
              exec (.instructionComplete i e) s = .next (s1.modStream i fun st => { st with wbuf := withhold w st.wbuf }))) := by
  intro c w s1 signals
  subst he
  have hdone := exec_completes hrun rfl hr hon hw hall
  have hkeep := KeepsRun.complete (.refl (s.setStream i { s.stream i with run := rest })) r (i := i)
  have hstays : (((s.setStream i { s.stream i with run := rest }).complete i r).stream i).run = rest := by
    rw [hkeep.run, State.stream_setStream]
  refine ⟨⟨_, hdone, hstays, hkeep.mem⟩, fun heng => ?_⟩
  have hv : r.q.eng ≠ .vec := by rintro h; simp [h] at heng
  have hp : r.q.eng ≠ .pack := by rintro h; simp [h] at heng
  have hx : r.q.eng ≠ .xch := by rintro h; simp [h] at heng
  have hfree : (s.setStream i { s.stream i with run := rest }).freed i r = s1 := State.freed_plain hv hp
  have hsig : (hSig r.q.w && r.q.n != 0 && r.q.eng != .xch) = true ↔ signals := by simp [hx, signals]
  have hcore : s1.core (skey i) = { (s.core (skey i)).setStream i.pass { s.stream i with run := rest } with
      ctxs := ((s.core (skey i)).setStream i.pass { s.stream i with run := rest }).ctxs.filter fun x =>
        !(r.q.eng == .str && x.2 == r.q.id) } := by
    rw [State.core_modCore, State.core_setStream]
  have hreq : s1.signalReq i r.q.step r.q.id (hSobj r.q.w) = w :=
    State.syncReq_core (t := s1) (s := s) (by rw [hcore]; simp) (by rw [hcore]; simp) (by rw [hcore]; simp) rfl _ _ _ _ _
  have hst : s1.stream i = { s.stream i with run := rest } :=
    (State.stream_modCore _ _ fun c p => by cases p <;> rfl).trans (State.stream_setStream _ _ _)
  rw [hdone, State.complete_eq, hfree, hreq]
  refine ⟨?_, ?_, ?_⟩
  · intro hn
    rw [if_neg (hsig.not.mpr hn)]
  · intro hs hin
    rw [if_pos (hsig.mpr hs), hin, State.completionWrite_out]
    rfl
  · intro hs hin hop hh
    rw [if_pos (hsig.mpr hs), hin, State.completionWrite_in (by rw [hst]; exact hop) (by rw [hst]; exact hh)]

end Sys2Proof.Machine
end

section
/-! SUPPORT: the descriptors that an XCH queues on its channel, and what its start leaves (07 R213, 09 R279, R285, R290). -/

namespace Sys2Proof.Machine

variable {s t : State} {die ch : Nat}

/-! ### Rings (07 R211, R213) -/

/-- The descriptors of a channel, in order: those in its ring, then those that wait. -/
def Chan.queued (c : Chan) : List PDesc := c.ring ++ c.wait

@[simp] theorem Die.chan_modChan (d : Die) (ch : Nat) (f : Chan → Chan) : (d.modChan ch f).chan ch = f (d.chan ch) := tget_tset _ _ _ _

/-- A unit's write of its own ring passes every check point where no codeword holds an error. -/
theorem State.clear_ring (h : s.errs = []) (part : Nat) : s.clear { part := part } := ⟨h, fun _ => rfl⟩

theorem inRing_slotAddr (hch : ch < 32) (slot : Nat) {k : Nat} (hk : k < 64) : inRing (slotAddr die ch slot + k) := by
  refine ⟨die, ch, slot % 512, k, hch, Nat.mod_lt _ (by decide), hk, ?_⟩
  unfold slotAddr
  rw [Nat.mod_mod]

/-- What writing descriptors into a channel's ring does: the ring holds `xs` more, and nothing changes outside it. -/
structure State.Rung (s t : State) (die ch : Nat) (xs : List PDesc) : Prop where
  ring : ((t.die die).chan ch).ring = ((s.die die).chan ch).ring ++ xs
  wait : ((t.die die).chan ch).wait = ((s.die die).chan ch).wait
  errs : t.errs = []
  objs : t.objs = s.objs
  rd8 : ∀ a, ¬ inRing a → t.rd8 a = s.rd8 a

/-- The bytes of a descriptor at a slot of a ring. -/
def slotWrites (die ch slot : Nat) (x : PDesc) : List (Nat × Byte) := ((List.range 64).map (slotAddr die ch slot + ·)).zip x.bytes

theorem inRing_slotWrites (hch : ch < 32) {slot : Nat} {x : PDesc} {y : Nat × Byte} (hy : y ∈ slotWrites die ch slot x) : inRing y.1 := by
  obtain ⟨k, hk, hyk⟩ := List.mem_map.mp (List.of_mem_zip hy).1
  rw [← hyk]
  exact inRing_slotAddr hch _ (List.mem_range.mp hk)

theorem State.ringWrite_eq (he : s.errs = []) (x : PDesc) : s.ringWrite die ch x
    = ((slotWrites die ch ((s.die die).chan ch).tail.toNat x).foldl (fun (s : State) x => s.wr8 x.1 x.2) s).modDie die fun d =>
        d.modChan ch fun c => { c with ring := c.ring ++ [x], tail := c.tail + 1 } := by
  rw [← State.writeMem_clear s (State.clear_ring he x.part)]
  rfl

theorem State.Rung.writes {ws : List (Nat × Byte)} (hws : ∀ y ∈ ws, inRing y.1) (he : s.errs = []) (x : PDesc) :
    s.Rung ((ws.foldl (fun (s : State) x => s.wr8 x.1 x.2) s).modDie die fun d =>
      d.modChan ch fun c => { c with ring := c.ring ++ [x], tail := c.tail + 1 }) die ch [x] := by
  have hrd : ∀ a, ¬ inRing a → (ws.foldl (fun (s : State) x => s.wr8 x.1 x.2) s).rd8 a = s.rd8 a := fun a ha =>
    s.rd8_writes_ne ws fun y hy hya => ha (hya ▸ hws y hy)
  have hm := State.writes_memOnly (s := s) ws
  have hdie : (ws.foldl (fun (s : State) x => s.wr8 x.1 x.2) s).die die = s.die die := by
    rw [hm]
    rfl
  refine ⟨?_, ?_, ?_, ?_, hrd⟩
  · rw [State.die_modDie, Die.chan_modChan, hdie]
  · rw [State.die_modDie, Die.chan_modChan, hdie]
  · rw [State.modDie_errs, hm]
    exact he
  · rw [State.modDie_objs, hm]

theorem State.Rung.ringWrite (hch : ch < 32) (he : s.errs = []) (x : PDesc) : s.Rung (s.ringWrite die ch x) die ch [x] := by
  rw [State.ringWrite_eq he]
  exact .writes (fun _ => inRing_slotWrites hch) he x

theorem State.Rung.trans {r : State} {xs ys : List PDesc} (h : r.Rung s die ch xs) (k : s.Rung t die ch ys) :
    r.Rung t die ch (xs ++ ys) where
  ring := by rw [k.ring, h.ring, List.append_assoc]
  wait := k.wait.trans h.wait
  errs := k.errs
  objs := k.objs.trans h.objs
  rd8 a ha := (k.rd8 a ha).trans (h.rd8 a ha)

theorem State.Rung.ringWrites (hch : ch < 32) (he : s.errs = []) (xs : List PDesc) :
    s.Rung (xs.foldl (fun s x => s.ringWrite die ch x) s) die ch xs := by
  induction xs generalizing s with
  | nil => exact ⟨(List.append_nil _).symm, rfl, he, rfl, fun _ _ => rfl⟩
  | cons x xs ih =>
    have hx := State.Rung.ringWrite (s := s) (die := die) hch he x
    rw [List.foldl_cons]
    exact hx.trans (ih hx.errs)

theorem State.die_chan_wait (f : List PDesc → List PDesc) :
    ((s.modDie die fun d => d.modChan ch fun c => { c with wait := f c.wait }).die die).chan ch
      = { (s.die die).chan ch with wait := f ((s.die die).chan ch).wait } := by
  rw [State.die_modDie, Die.chan_modChan]

/-- What waits moves into the ring, as far as that has room; the descriptors of the channel and their order stay. -/
theorem State.refill_spec (hch : ch < 32) (he : s.errs = []) :
    (((s.refill die ch).die die).chan ch).queued = ((s.die die).chan ch).queued
      ∧ (s.refill die ch).objs = s.objs ∧ ∀ a, ¬ inRing a → (s.refill die ch).rd8 a = s.rd8 a := by
  unfold State.refill
  dsimp only
  generalize 512 - ((s.die die).chan ch).ring.length = n
  have h1 := State.die_chan_wait (s := s) (die := die) (ch := ch) fun w => w.drop n
  have hr := State.Rung.ringWrites (s := s.modDie die fun d => d.modChan ch fun c => { c with wait := c.wait.drop n })
    (die := die) hch he (((s.die die).chan ch).wait.take n)
  refine ⟨?_, hr.objs, hr.rd8⟩
  unfold Chan.queued
  rw [hr.ring, hr.wait, h1, List.append_assoc, List.take_append_drop]

/-- Descriptors for a channel come behind those that it holds; no byte outside the rings changes. -/
theorem State.pushDescs_spec (hch : ch < 32) (he : s.errs = []) (ds : List PDesc) :
    (((s.pushDescs die ch ds).die die).chan ch).queued = ((s.die die).chan ch).queued ++ ds
      ∧ (s.pushDescs die ch ds).objs = s.objs ∧ ∀ a, ¬ inRing a → (s.pushDescs die ch ds).rd8 a = s.rd8 a := by
  obtain ⟨hq, ho, hrd⟩ := State.refill_spec (die := die) hch
    (s := s.modDie die fun d => d.modChan ch fun c => { c with wait := c.wait ++ ds }) he
  refine ⟨hq.trans ?_, ho, hrd⟩
  rw [State.die_chan_wait fun w => w ++ ds]
  exact (List.append_assoc _ _ _).symm

end Sys2Proof.Machine
end

section
/-! SUPPORT: the start of an XCH (06 R187, R188, 09 R279, R285, R289, R290, R292). -/

namespace Sys2Proof.Machine

variable {r₀ s t : State} {i : StreamId} {q : QEntry} {rest : List QEntry} {die part : Nat} {r : List Byte}

/-! ### Element offsets (09 R279) -/

/-- Element offset of a repetition's destination in a collective. -/
def destOff (r : List Byte) (a : W64) : Nat := (a.toNat - collBase r) / collW r

/-- A destination names whole elements of the collective, and whole chunks where it sends exact words (09 R279). -/
def DestOk (r : List Byte) (op len : Nat) (a : W64) : Prop :=
  collBase r ≤ a.toNat ∧ (a.toNat - collBase r) % collW r = 0 ∧ destOff r a + 64 * len ≤ collElems r
    ∧ (op = 2 ∨ op = 4 → destOff r a % 64 = 0)

theorem xchOff_of_destOk {op len : Nat} {a : W64} (h : DestOk r op len a) : xchOff r op len a = some (destOff r a) := by
  obtain ⟨hb, hm, he, hc⟩ := h
  unfold destOff at he hc
  refine if_neg ?_
  rintro (hlt | hne | hgt | ⟨ho, hn⟩)
  · omega
  · exact hne hm
  · omega
  · exact hn (hc ho)

theorem xchOff_of_not_destOk {op len : Nat} {a : W64} (h : ¬ DestOk r op len a) : xchOff r op len a = none := by
  refine if_pos ?_
  by_contra hn
  simp only [not_or, not_and, not_lt, ne_eq, not_not] at hn
  obtain ⟨hb, hm, he, hc⟩ := hn
  exact h ⟨hb, hm, he, hc⟩

/-- The element offsets of an XCH's repetitions: none where one of them is a fault; a PUT has none (09 R279). -/
def xchOffs (r : List Byte) (q : QEntry) : Option (List Nat) :=
  if q.op = 0 then some []
  else (List.range q.n).mapM fun j => xchOff r q.op (xLen q.w) (q.addr (xAdst q.w) (bit q.w 58) j)

theorem mapM_of_some {α β : Type} {f : α → Option β} {g : α → β} {l : List α} (h : ∀ x ∈ l, f x = some (g x)) :
    l.mapM f = some (l.map g) := by
  induction l with
  | nil => rfl
  | cons x l ih =>
    rw [List.mapM_cons, h x List.mem_cons_self, ih fun y hy => h y (List.mem_cons_of_mem _ hy)]
    rfl

theorem mapM_of_none {α β : Type} {f : α → Option β} {l : List α} {x : α} (hx : x ∈ l) (h : f x = none) : l.mapM f = none := by
  induction l with
  | nil => cases hx
  | cons y l ih =>
    rw [List.mapM_cons]
    obtain rfl | hx := List.mem_cons.mp hx
    · rw [h]
      rfl
    · rw [ih hx]
      cases f y <;> rfl

theorem xchOffs_put (h : q.op = 0) : xchOffs r q = some [] := if_pos h

theorem xchOffs_good (h0 : q.op ≠ 0) (h : ∀ j, j < q.n → DestOk r q.op (xLen q.w) (q.addr (xAdst q.w) (bit q.w 58) j)) :
    xchOffs r q = some ((List.range q.n).map fun j => destOff r (q.addr (xAdst q.w) (bit q.w 58) j)) :=
  (if_neg h0).trans (mapM_of_some fun j hj => xchOff_of_destOk (h j (List.mem_range.mp hj)))

theorem xchOffs_bad (h0 : q.op ≠ 0) {j : Nat} (hj : j < q.n) (h : ¬ DestOk r q.op (xLen q.w) (q.addr (xAdst q.w) (bit q.w 58) j)) :
    xchOffs r q = none :=
  (if_neg h0).trans (mapM_of_none (List.mem_range.mpr hj) (xchOff_of_not_destOk h))

/-! ### The descriptors (07 R213) -/

/-- What a descriptor says of its packet: source, bytes, kind, position and destination rank. -/
def PDesc.shown (x : PDesc) : W64 × Nat × Nat × W64 × Nat := (x.src, x.len0.toNat, x.hdr.kind, x.hdr.pos, x.drank)

/-- The descriptors of an XCH, as its rules give them (09 R279, R285, R289, R290). -/
def xchShown (r : List Byte) (q : QEntry) : List (W64 × Nat × Nat × W64 × Nat) :=
  let len := xLen q.w
  let w := collW r
  let from_ := fun (j : Nat) => (q.addr (xAsrc q.w) (bit q.w 59) j).toNat
  let dst := fun (j : Nat) => (q.addr (xAdst q.w) (bit q.w 58) j).toNat
  let off := fun (j : Nat) => destOff r (q.addr (xAdst q.w) (bit q.w 58) j)
  let addr := fun (a : Nat) => (BitVec.ofNat 64 a : W64)
  let packets := fun (k : Nat) (f : Nat → Nat → W64 × Nat × Nat × W64 × Nat) => (List.range q.n).flatMap fun j => (List.range k).map (f j)
  match q.op with
  | 0 =>
    if q.skip then [(0, 32, 0, addr (dst 0), xDrank q.w)]
    else packets ((64 * len + 4031) / 4032) fun j k =>
      (addr (from_ j + 4032 * k), min 4032 (64 * len - 4032 * k), 0, addr (dst j + 4032 * k), xDrank q.w)
  | 1 =>
    if q.skip then [(0, 32, 3, posWord (off 0) 0 0xFFFF, 0)]
    else packets len fun j k => (addr (from_ j + 64 * w * k), 64 * w, 3, posWord (off j + 64 * k) 64 (len * j + k), 0)
  | 3 => []
  | _ => packets len fun j k =>
      (addr (from_ j + 2048 * k), if q.skip then 32 else 2048, 1, posWord (off j + 64 * k) (if q.skip then 0 else 64) (len * j + k),
        (collOwner r (off j + 64 * k)).1)

theorem QEntry.addr_zero (q : QEntry) (a : Nat) (inc : Bool) : q.addr a inc 0 = q.areg a := by
  unfold QEntry.addr
  split
  · simp
  · rfl

theorem fmtBytes_le (c : Nat) : fmtBytes c ≤ 32 := by
  unfold fmtBytes
  split <;> omega

/-- The completion mark of the last descriptor is no part of what it says of its packet. -/
theorem shown_markLast (ds : List PDesc) (b : Bool) :
    (match ds.getLast? with | some l => ds.dropLast ++ [{ l with signal := b }] | none => ds).map PDesc.shown = ds.map PDesc.shown := by
  cases hl : ds.getLast? with
  | none => rfl
  | some l =>
    have hd : ds = ds.dropLast ++ [l] := (List.dropLast_append_getLast? l hl).symm
    conv_rhs => rw [hd]
    simp [PDesc.shown]

theorem mkDesc_shown (src n drank : Nat) (h : XPkt) (hn : n < 2 ^ 32) : (mkDesc i q part src n drank h).shown
    = (BitVec.ofNat 64 src, if q.skip then 32 else n, h.kind, h.pos, drank) := by
  unfold PDesc.shown mkDesc
  dsimp only
  split
  · rfl
  · rw [BitVec.toNat_ofNat, Nat.mod_eq_of_lt hn]

theorem flatMap_shown {n k : Nat} {d : Nat → Nat → PDesc} {f : Nat → Nat → W64 × Nat × Nat × W64 × Nat}
    (h : ∀ j, j < n → ∀ m, (d j m).shown = f j m) :
    ((List.range n).flatMap fun j => (List.range k).map (d j)).map PDesc.shown = (List.range n).flatMap fun j => (List.range k).map (f j) := by
  rw [List.map_flatMap]
  refine List.flatMap_congr fun j hj => ?_
  rw [List.map_map]
  exact List.map_congr_left fun m _ => h j (List.mem_range.mp hj) m

theorem getD_map_range {n j : Nat} (f : Nat → Nat) (hj : j < n) : ((List.range n).map f).getD j 0 = f j := by simp [hj]

theorem headD_map_range {n : Nat} (f : Nat → Nat) (hn : n ≠ 0) : ((List.range n).map f).headD 0 = f 0 := by
  obtain ⟨m, rfl⟩ := Nat.exists_eq_succ_of_ne_zero hn
  rw [List.range_succ_eq_map]
  rfl

theorem State.xchDescs_put (ho : q.op = 0) (os : List Nat) : (s.xchDescs i q part r os).map PDesc.shown = xchShown r q := by
  unfold State.xchDescs xchShown
  dsimp only
  rw [ho, if_neg (by decide)]
  cases hs : q.skip with
  | true =>
    simp only [Bool.true_and, beq_self_eq_true, if_true, List.map_cons, List.map_nil]
    rw [mkDesc_shown _ _ _ _ (by decide), hs, QEntry.addr_zero, BitVec.ofNat_toNat, BitVec.setWidth_eq]
    rfl
  | false =>
    simp only [Bool.false_and, Bool.false_eq_true, if_false, if_true]
    refine (shown_markLast _ _).trans ?_
    refine flatMap_shown fun j _ m => ?_
    rw [mkDesc_shown _ _ _ _ (by unfold putPiece; omega), hs]
    rfl

theorem State.xchDescs_mcast (ho : q.op = 1) (hn : q.n ≠ 0) :
    (s.xchDescs i q part r ((List.range q.n).map fun j => destOff r (q.addr (xAdst q.w) (bit q.w 58) j))).map PDesc.shown
      = xchShown r q := by
  unfold State.xchDescs xchShown
  dsimp only
  rw [ho, if_neg (by decide)]
  cases hs : q.skip with
  | true =>
    simp only [Bool.true_and, beq_self_eq_true, if_true, Nat.reduceBEq, Bool.false_eq_true, if_false, List.map_cons, List.map_nil]
    rw [mkDesc_shown _ _ _ _ (by decide), hs, headD_map_range _ hn]
    rfl
  | false =>
    have hw : 64 * collW r < 2 ^ 32 := by
      have := fmtBytes_le (ccwFmt (collCcw r))
      unfold collW
      omega
    simp only [Bool.false_and, Bool.false_eq_true, if_false, if_true, one_ne_zero]
    refine (shown_markLast _ _).trans ?_
    refine flatMap_shown fun j hj m => ?_
    rw [mkDesc_shown _ _ _ _ hw, hs, getD_map_range _ hj]
    rfl

theorem State.xchDescs_gather (ho : q.op = 3) (os : List Nat) : (s.xchDescs i q part r os).map PDesc.shown = xchShown r q := by
  unfold State.xchDescs xchShown
  dsimp only
  rw [ho, if_pos rfl]
  rfl

theorem State.xchDescs_words (ho : q.op = 2 ∨ q.op = 4) :
    (s.xchDescs i q part r ((List.range q.n).map fun j => destOff r (q.addr (xAdst q.w) (bit q.w 58) j))).map PDesc.shown
      = xchShown r q := by
  have h0 : q.op ≠ 0 := by omega
  have h1 : q.op ≠ 1 := by omega
  have h3 : q.op ≠ 3 := by omega
  unfold State.xchDescs xchShown
  dsimp only
  simp only [h0, h1, h3, beq_iff_eq, Bool.and_eq_true, and_false, if_false]
  refine (shown_markLast _ _).trans ?_
  refine flatMap_shown fun j hj m => ?_
  rw [mkDesc_shown _ _ _ _ (by decide), getD_map_range _ hj]
  rfl

/-- The descriptors that an XCH forms are those of its rules. -/
theorem State.xchDescs_shown (ho : q.op ≤ 4) (hn : q.n ≠ 0) {os : List Nat}
    (hos : q.op ≠ 0 → os = (List.range q.n).map fun j => destOff r (q.addr (xAdst q.w) (bit q.w 58) j)) :
    (s.xchDescs i q part r os).map PDesc.shown = xchShown r q := by
  obtain h | h | h | h : q.op = 0 ∨ q.op = 1 ∨ q.op = 3 ∨ (q.op = 2 ∨ q.op = 4) := by omega
  · exact State.xchDescs_put h os
  · rw [hos (by omega)]
    exact State.xchDescs_mcast h hn
  · exact State.xchDescs_gather h os
  · rw [hos (by omega)]
    exact State.xchDescs_words h

end Sys2Proof.Machine
end

section
/-! SUPPORT: what the exchange engine of a die leaves as an XCH starts, beside the channel of the core (07 R213, 09 R285, R292). -/

namespace Sys2Proof.Machine

variable {r₀ s t : State} {i : StreamId} {q : QEntry} {rest : List QEntry} {die part : Nat} {r : List Byte}

/-- The memory, the objects, and a die's channels and fault registers stay. -/
structure KeepsChans (die : Nat) (r₀ s : State) : Prop where
  mem : s.mem = r₀.mem
  objs : s.objs = r₀.objs
  chans : (s.die die).chans = (r₀.die die).chans
  cf : (s.die die).cf = (r₀.die die).cf
  cfault : (s.die die).cfault = (r₀.die die).cfault

namespace KeepsChans

theorem refl (s : State) : KeepsChans die s s := ⟨rfl, rfl, rfl, rfl, rfl⟩

theorem of_dies (h : KeepsChans die r₀ s) (hm : t.mem = s.mem) (ho : t.objs = s.objs) (hd : t.dies = s.dies) : KeepsChans die r₀ t := by
  have he : t.die die = s.die die := by
    unfold State.die
    rw [hd]
  exact ⟨hm.trans h.mem, ho.trans h.objs, he ▸ h.chans, he ▸ h.cf, he ▸ h.cfault⟩

/-- A change of a die that is none of its channels and fault registers. -/
theorem modDie (h : KeepsChans die r₀ s) (d : Nat) {f : Die → Die}
    (hf : ∀ x : Die, (f x).chans = x.chans ∧ (f x).cf = x.cf ∧ (f x).cfault = x.cfault) : KeepsChans die r₀ (s.modDie d f) := by
  by_cases hd : die = d
  · subst hd
    obtain ⟨hc, hcf, hcw⟩ := hf (s.die die)
    exact ⟨h.mem, h.objs, by rw [State.die_modDie, hc, h.chans], by rw [State.die_modDie, hcf, h.cf],
      by rw [State.die_modDie, hcw, h.cfault]⟩
  · have he := s.die_modDie_ne f hd
    exact ⟨h.mem, h.objs, he ▸ h.chans, he ▸ h.cf, he ▸ h.cfault⟩

theorem modStream (h : KeepsChans die r₀ s) (i : StreamId) (f : Stream → Stream) : KeepsChans die r₀ (s.modStream i f) :=
  h.of_dies rfl rfl rfl

theorem sendSync (h : KeepsChans die r₀ s) (w : SyncReq) : KeepsChans die r₀ (s.sendSync w) :=
  h.of_dies (s.modSyn_mem _ _) (s.modSyn_objs _ _) (s.modSyn_dies _ _)

theorem ite {u v : State} {c : Prop} [Decidable c] (hu : KeepsChans die r₀ u) (hv : KeepsChans die r₀ v) :
    KeepsChans die r₀ (if c then u else v) := by
  split
  · exact hu
  · exact hv

theorem foldl {α : Type} {f : State → α → State} (hf : ∀ u x, KeepsChans die r₀ u → KeepsChans die r₀ (f u x)) (h : KeepsChans die r₀ s)
    (l : List α) : KeepsChans die r₀ (l.foldl f s) := by
  induction l generalizing s with
  | nil => exact h
  | cons x l ih => exact ih (hf s x h)

theorem settle (h : KeepsChans die r₀ s) (i : StreamId) (id : Nat) : KeepsChans die r₀ (s.settle i id) := .ite h (h.modStream _ _)

theorem rsigWrite (h : KeepsChans die r₀ s) (d part : Nat) (step : W64) (obj : Nat) : KeepsChans die r₀ (s.rsigWrite d part step obj) :=
  .ite (h.sendSync _) h

theorem xchSobj (h : KeepsChans die r₀ s) (i : StreamId) (q : QEntry) : KeepsChans die r₀ (s.xchSobj i q) := .ite (h.sendSync _) h

theorem gatherDie (h : KeepsChans die r₀ s) (d : Nat) : KeepsChans die r₀ (s.gatherDie d) := by
  unfold State.gatherDie
  refine foldl (fun u g hu => .ite (.settle (.rsigWrite (.modDie hu d fun _ => ?_) _ _ _ _) _ _) hu) h _
  exact ⟨rfl, rfl, rfl⟩

theorem gatherAll (h : KeepsChans die r₀ s) : KeepsChans die r₀ s.gatherAll := by
  unfold State.gatherAll
  exact foldl (fun _ _ hu => hu.gatherDie _) h _

theorem addGather (h : KeepsChans die r₀ s) (i : StreamId) (q : QEntry) (part : Nat) (os : List Nat) :
    KeepsChans die r₀ (s.addGather i q part os) := .ite (h.modDie _ fun _ => ⟨rfl, rfl, rfl⟩) h

end KeepsChans

/-! ### The two ends of a start -/

/-- An XCH whose ranges lie in its collective forms its descriptors, and changes no channel beside. -/
theorem State.xchStart_sends (hn : q.n ≠ 0) (hp : (s.core (skey i)).part.getD 0xFF = part)
    (hr : (s.coll part (xColl q.w)).getD [] = r) {os : List Nat} (ho : xchOffs r q = some os) :
    KeepsChans i.die (s.pushDescs i.die (xchChan i) (s.xchDescs i q part r os)) (s.xchStart i q) := by
  subst hp hr
  unfold State.xchStart
  rw [if_neg hn]
  dsimp only
  split
  next hnone => exact absurd (hnone.symm.trans ho) (by simp)
  next os' hsome =>
    obtain rfl : os' = os := Option.some.inj (hsome.symm.trans ho)
    refine .settle (.ite (.xchSobj ?gathered _ _) ?gathered) _ _
    refine .ite (.gatherAll (.addGather ?swarmed _ _ _ _)) ?swarmed
    exact .ite (.modDie (.refl _) _ fun _ => ⟨rfl, rfl, rfl⟩) (.refl _)

/-- A range outside the collective is a Collective fault: no descriptor is formed (09 R279, R292). -/
theorem State.xchStart_faults (hn : q.n ≠ 0) (hp : (s.core (skey i)).part.getD 0xFF = part)
    (hr : (s.coll part (xColl q.w)).getD [] = r) (ho : xchOffs r q = none) :
    KeepsChans i.die (s.cfault i.die part 9 s.rank (xColl q.w)) (s.xchStart i q) := by
  subst hp hr
  unfold State.xchStart
  rw [if_neg hn]
  dsimp only
  split
  next => exact .settle (.ite (.rsigWrite (.xchSobj (.refl _) _ _) _ _ _ _) (.xchSobj (.refl _) _ _)) _ _
  next os' hsome => exact absurd (hsome.symm.trans ho) (by simp)

theorem State.die_post (e : EvRec) (d : Nat) : (s.post e).die d = s.die d := by
  unfold State.die
  rw [State.post_dies]

/-- A Collective fault shows in its registers and touches neither memory, objects nor channels. -/
theorem State.cfault_spec (code rank coll : Nat) :
    let t := s.cfault die part code rank coll
    t.mem = s.mem ∧ t.objs = s.objs ∧ (t.die die).chans = (s.die die).chans ∧ (t.die die).cf = true
      ∧ (t.die die).cfault = cfaultWord code rank coll (s.part part).openStep := by
  intro t
  have hd : t.die die = { s.die die with
      cf := true, cfault := cfaultWord code rank coll (s.part part).openStep, csumF := (s.die die).csumF || code == 3
      cntCsum := if code = 3 then satAdd (s.die die).cntCsum 1 else (s.die die).cntCsum } :=
    (State.die_post _ _).trans (State.die_modDie ..)
  rw [hd]
  exact ⟨State.post_mem _ _, State.post_objs _ _, rfl, rfl, rfl⟩

/-! ### INSTRUCTION_START of an XCH -/

/-- An XCH that alone heads its queue begins and starts. -/
theorem exec_xchStart (h : s.soleHead i .xch q rest) (hx : s.xchReady i = true) :
    exec (.instructionStart ⟨i.die, i.core⟩ .xch []) s
      = .next ((s.modStream i fun st => st.begin .xch {} false).xchStart i q) := by
  show execInstructionStart ⟨i.die, i.core⟩ .xch [] s = _
  unfold execInstructionStart State.startEngine
  dsimp only
  rw [show s.upset [] = s from rfl, h.startOldest (by simp [hx])]

/-- An XCH starts: in the good case its descriptors stand, in order, behind those of its core's channel; where a range lies outside the
collective there are none, and the fault shows in the registers of the die. -/
theorem exec_xch (h : s.soleHead i .xch q rest) (hx : s.xchReady i = true) (ho : q.op ≤ 4) (hn : q.n ≠ 0) (he : s.errs = [])
    (hp : (s.core (skey i)).part.getD 0xFF = part) (hr : (s.coll part (xColl q.w)).getD [] = r) :
    let good := fun j => DestOk r q.op (xLen q.w) (q.addr (xAdst q.w) (bit q.w 58) j)
    let queue := fun (t : State) => (((t.die i.die).chan (xchChan i)).queued).map PDesc.shown
    let start := exec (.instructionStart ⟨i.die, i.core⟩ .xch []) s
    ((q.op = 0 ∨ ∀ j, j < q.n → good j) →
        ∃ t, start = .next t ∧ queue t = queue s ++ xchShown r q ∧ (∀ a, ¬ inRing a → t.rd8 a = s.rd8 a) ∧ t.objs = s.objs)
      ∧ (q.op ≠ 0 → (∃ j, j < q.n ∧ ¬ good j) → ∃ t, start = .next t ∧ queue t = queue s ∧ t.mem = s.mem ∧ t.objs = s.objs
          ∧ (t.die i.die).cf = true ∧ (t.die i.die).cfault = cfaultWord 9 s.rank (xColl q.w) (s.part part).openStep) := by
  intro good queue start
  have hbegun : ((s.modStream i fun st => st.begin .xch {} false).core (skey i)).part.getD 0xFF = part := by
    rw [← hp]
    unfold State.modStream
    rw [State.core_setStream, Core.setStream_part]
  have hch : xchChan i < 32 := Nat.lt_trans (Nat.mod_lt _ (by decide)) (by decide)
  have hqueue : ∀ u v : State, (u.die i.die).chans = (v.die i.die).chans → queue u = queue v := fun u v huv => by
    show (Chan.queued (tget {} (u.die i.die).chans _)).map _ = (Chan.queued (tget {} (v.die i.die).chans _)).map _
    rw [huv]
  refine ⟨fun hg => ?_, fun h0 hb => ?_⟩
  · obtain ⟨os, hos, hoffs⟩ : ∃ os, xchOffs r q = some os
        ∧ (q.op ≠ 0 → os = (List.range q.n).map fun j => destOff r (q.addr (xAdst q.w) (bit q.w 58) j)) := by
      by_cases h0 : q.op = 0
      · exact ⟨[], xchOffs_put h0, fun hne => absurd h0 hne⟩
      · exact ⟨_, xchOffs_good h0 (hg.resolve_left h0), fun _ => rfl⟩
    have hk := State.xchStart_sends hn hbegun hr hos
    obtain ⟨hq, hobj, hrd⟩ := State.pushDescs_spec (s := s.modStream i fun st => st.begin .xch {} false) (die := i.die) hch he
      (State.xchDescs (s.modStream i fun st => st.begin .xch {} false) i q part r os)
    refine ⟨_, exec_xchStart h hx, ?_, fun a ha => ?_, hk.objs.trans hobj⟩
    · rw [hqueue _ _ hk.chans]
      show (Chan.queued _).map _ = _
      rw [hq, List.map_append, State.xchDescs_shown ho hn hoffs]
      rfl
    · exact (congrArg (tget 0 · a) hk.mem).trans (hrd a ha)
  · obtain ⟨j, hj, hbad⟩ := hb
    have hk := State.xchStart_faults hn hbegun hr (xchOffs_bad h0 hj hbad)
    obtain ⟨hmem, hobj, hchans, hcf, hcw⟩ := State.cfault_spec (s := s.modStream i fun st => st.begin .xch {} false) (die := i.die)
      (part := part) 9 (State.rank (s.modStream i fun st => st.begin .xch {} false)) (xColl q.w)
    exact ⟨_, exec_xchStart h hx, hqueue _ s (hk.chans.trans hchans), hk.mem.trans hmem, hk.objs.trans hobj, hk.cf.trans hcf,
      hk.cfault.trans hcw⟩

/-- Settles O12: what a start of the sync and the exchange engine and a completion of any engine do, from the rules of each. -/
theorem writesGoToTheirControlDie : Obligations.WritesGoToTheirControlDie := by
  unfold Obligations.WritesGoToTheirControlDie
  refine ⟨fun s i q rest _ h hs ho _ => ?_, fun s i e r rest _ hrun he hr hon hw hall => ?_,
    fun s i q rest _ h he hs hd hr => ?_, fun s i q rest _ h hx _ ho hn he => ?_⟩
  · exact exec_synWrite h hs ho
  · exact exec_completion hrun he hr hon hw hall
  · exact exec_synReads h he hs hd hr
  · exact exec_xch h hx ho hn he rfl rfl

end Sys2Proof.Machine
end

section
/-! SUPPORT: the CTL instructions that write one register (06 R176, R177). -/

namespace Sys2Proof.Machine

variable {s : State} {i : StreamId} {w : W128}

/-- In its turn, with what it reads at the instruction port, a CTL instruction that sets its stream to `f` of it falls through. -/
theorem State.issueCtl_falls_reading {op need : Nat} {f : Stream → Stream} {eff : State → State} (ht : s.turn i none need)
    (hst : (s.stream i).straight) (hw : ofRow w 7 op = true)
    (he : eff s = s.setStream i ((f (s.stream i)).issued none (s.stream i).pc 0)) (hl : (f (s.stream i)).loops = (s.stream i).loops)
    (htime : (f (s.stream i)).stime = (s.stream i).stime) (hc : (f (s.stream i)).cyc = (s.stream i).cyc) :
    s.Falls (s.issueCtl i w op need Stream.fallsBad (fun _ => false) eff) i f := by
  obtain ⟨hi, hedge⟩ := hst
  rw [State.issueCtl_eff eff (by rwa [hw]) hw hi hedge rfl, he]
  exact State.falls_issued ht.pow _ 0 f rfl hl htime hc

/-! ### The operand of SETC and ADDC -/

theorem State.opndC_imm (h : fld w 79 78 = 0) : s.opndC i w = (imm32 w, s) := by
  unfold State.opndC
  simp only [h]

theorem State.opndC_store (h : fld w 79 78 = 1) (hc : s.clear (s.whoNow i)) : s.opndC i w
    = (BitVec.ofNat 32 (leNat ((ownBytes (skey i)
        (((s.stream i).areg (fld w 73 70) + (imm32 w).signExtend 64) &&& ~~~(3 : W64)) 0 4).map s.rd8)), s) := by
  unfold State.opndC
  simp only [h, s.readMem_clear hc]

theorem State.opndC_scaled (h0 : fld w 79 78 ≠ 0) (h1 : fld w 79 78 ≠ 1) :
    s.opndC i w = ((s.stream i).creg (fld w 69 67) * imm32 w, s) := by
  unfold State.opndC
  split
  next h => exact absurd h h0
  next h => exact absurd h h1
  next => rfl

/-- SETC and ADDC write a count register with what `g` makes of the operand. -/
theorem State.issueCtl_setC {op need n : Nat} {v : W32} (g : W32 → Stream → W32) (ht : s.turn i none need) (hst : (s.stream i).straight)
    (hw : ofRow w 7 op = true) (hv : s.opndC i w = (v, s)) :
    s.Falls (s.issueCtl i w op need Stream.fallsBad (fun _ => false) fun s =>
      (s.opndC i w).2.ctlStep i 0 fun st => st.setC n (g (s.opndC i w).1 st)) i fun x => x.setC n (g v x) := by
  refine State.issueCtl_falls_reading ht hst hw ?_ rfl rfl rfl
  rw [hv]
  rfl

/-- Settles O9: each falls through with one register written, by its operand. -/
theorem registerInstructionsWriteOneRegister : Obligations.RegisterInstructionsWriteOneRegister := by
  unfold Obligations.RegisterInstructionsWriteOneRegister
  refine ⟨fun s i w ht hst => ?_, fun s i w ht hst hc => ?_⟩
  · refine ⟨?_, ?_, ?_, ?_⟩ <;>
      exact fun hw => ⟨_, rfl, State.issueCtl_falls_reading ht hst hw rfl rfl rfl rfl⟩
  · intro n imm v
    have hv : s.opndC i w = (v (s.stream i), s) := by
      show _ = (match fld w 79 78 with | 0 => _ | 1 => _ | _ => _, s)
      split
      next h => exact State.opndC_imm h
      next h => exact State.opndC_store h (hc h)
      next h0 h1 => exact State.opndC_scaled h0 h1
    exact ⟨fun hw => ⟨_, rfl, State.issueCtl_setC (fun u _ => u) ht hst hw hv⟩,
      fun hw => ⟨_, rfl, State.issueCtl_setC (fun u x => x.creg n + u) ht hst hw hv⟩⟩

end Sys2Proof.Machine
end

section
/-! SUPPORT: what a change of a sync object leaves of the rest (09 R261, 14 R397), and FADD at its object (09 R262, 08 R246). -/

namespace Sys2Proof.Machine

variable {s t : State}

/-! ### A change of an object -/

/-- Only the cores and the power state of the module differ. -/
def State.CoresMoved (s t : State) : Prop := t = { s with cores := t.cores, pwr := t.pwr }

theorem State.CoresMoved.refl (s : State) : s.CoresMoved s := rfl

theorem State.CoresMoved.trans {r : State} (h : r.CoresMoved s) (k : s.CoresMoved t) : r.CoresMoved t := by
  unfold State.CoresMoved at *
  rw [k, h]

theorem State.CoresMoved.foldl {α : Type} {f : State → α → State} (hf : ∀ (u : State) (x : α), u.CoresMoved (f u x)) (l : List α) :
    s.CoresMoved (l.foldl f s) := by
  induction l generalizing s with
  | nil => exact .refl s
  | cons x l ih => exact (hf s x).trans ih

theorem State.latchAll_moves (s : State) (obj : Nat) : s.CoresMoved (s.latchAll obj) :=
  .foldl (fun u i => by
    unfold State.latch
    split
    · split
      · rfl
      · exact .refl u
    · exact .refl u) _

theorem State.wakeWaiters_moves (s : State) (obj : Nat) : s.CoresMoved (s.wakeWaiters obj) :=
  .foldl (fun u c => by
    split
    · exact u.wakeCore_frame c.1
    · exact .refl u) _

/-- A change of an object evaluates waits and wakes cores, and else is that change alone. -/
theorem State.changeObj_moves (s : State) (obj : Nat) (f : SyncObj → SyncObj) : (s.modObj obj f).CoresMoved (s.changeObj obj f) := by
  have hmod : (s.modObj obj f).CoresMoved ((s.latchAll obj).modObj obj f) := by
    rw [s.latchAll_moves obj]
    rfl
  unfold State.changeObj
  dsimp only
  split
  · exact hmod
  · exact (hmod.trans (State.latchAll_moves _ obj)).trans (State.wakeWaiters_moves _ obj)

@[simp] theorem State.obj_modObj (s : State) (o : Nat) (f : SyncObj → SyncObj) : (s.modObj o f).obj o = f (s.obj o) := tget_tset _ _ _ _

theorem State.changeObj_obj (s : State) (obj : Nat) (f : SyncObj → SyncObj) : (s.changeObj obj f).obj obj = f (s.obj obj) := by
  rw [s.changeObj_moves obj f]
  exact s.obj_modObj obj f

theorem State.changeObj_syn (s : State) (obj half : Nat) (f : SyncObj → SyncObj) : (s.changeObj obj f).syn half = s.syn half := by
  rw [s.changeObj_moves obj f]
  rfl

theorem State.changeObj_rd8 (s : State) (obj : Nat) (f : SyncObj → SyncObj) : (s.changeObj obj f).rd8 = s.rd8 := by
  rw [s.changeObj_moves obj f]
  rfl

theorem State.changeObj_clear (obj : Nat) (f : SyncObj → SyncObj) {who : Who} (hc : s.clear who) : (s.changeObj obj f).clear who := by
  rw [s.changeObj_moves obj f]
  exact hc

/-! ### An operation leaves the list of its half -/

@[simp] theorem State.syn_modSyn (s : State) (half : Nat) (f : SynHalf → SynHalf) : (s.modSyn half f).syn half = f (s.syn half) := by
  unfold State.modSyn State.syn
  split <;> rfl

/-- The operation at the head of a half's list has left it. -/
def State.synTaken (s : State) (half : Nat) : State := s.modSyn half fun h => { h with net := h.net.eraseIdx 0 }

theorem State.synTaken_net {half : Nat} {r : SyncReq} {rest : List SyncReq} (h : (s.syn half).net = r :: rest) :
    ((s.synTaken half).syn half).net = rest := by
  unfold State.synTaken
  rw [State.syn_modSyn]
  show (s.syn half).net.eraseIdx 0 = rest
  rw [h]
  rfl

theorem State.synTaken_obj (half o : Nat) : (s.synTaken half).obj o = s.obj o := by
  unfold State.obj State.synTaken
  rw [State.modSyn_objs]

theorem State.synTaken_part (half p : Nat) : (s.synTaken half).part p = s.part p := by
  unfold State.part State.synTaken
  rw [State.modSyn_parts]

theorem State.synTaken_rd8 (half : Nat) : (s.synTaken half).rd8 = s.rd8 := by
  funext a
  unfold State.rd8 State.synTaken
  rw [State.modSyn_mem]

theorem State.synTaken_masked (half : Nat) (u : W32) : (s.synTaken half).masked u = s.masked u := by
  unfold State.synTaken State.modSyn
  split <;> rfl

theorem State.synTaken_synDrop (half obj : Nat) (u : W32) (epoch : W16) : (s.synTaken half).synDrop obj u epoch = s.synDrop obj u epoch := by
  unfold State.synDrop
  rw [State.synTaken_masked, State.synTaken_obj]

theorem State.synTaken_clear (half : Nat) {who : Who} (hc : s.clear who) : (s.synTaken half).clear who := by
  unfold State.synTaken State.modSyn
  split <;> exact hc

/-- Where data crosses to its half, the operation at the head of the list arrives (09 R260, 01 R24). -/
theorem exec_syncOperation_head {half : Nat} {r : SyncReq} {rest : List SyncReq} (hnet : (s.syn half).net = r :: rest)
    (hx : s.crosses (unitHalf r.unit) half = true) :
    exec (.syncOperation half ⟨0, []⟩) s = .next ((s.synTaken half).syncApply r) := by
  show execSyncOperation half ⟨0, []⟩ s = _
  unfold execSyncOperation
  rw [show s.upset [] = s from rfl]
  simp only [hnet, List.getElem?_cons_zero, netReady, List.take_zero, List.all_nil, hx, Bool.and_self, if_true,
    State.parityWrites_nil]
  rfl

/-! ### FADD -/

/-- FADD at an allocated WORK object adds to the layer of its step, and hands the old value to the issuing core. -/
theorem State.syncApply_fadd {r : SyncReq} {ret : Nat} (hd : s.synDrop r.obj r.unit r.epoch = none) (ha : (s.obj r.obj).alloc = true)
    (hk : r.kind = .fadd ret) :
    s.syncApply r = (s.changeObj r.obj fun o => o.apply (layerOf (s.part (s.obj r.obj).part).openStep r.step) r.kind r.value).faddReturn r
      (s.obj r.obj).value := by
  unfold State.syncApply
  simp [hd, ha, hk]

theorem SyncObj.apply_fadd {o : SyncObj} (hw : o.type = .work) (k ret : Nat) (v : W32) :
    o.apply k (.fadd ret) v = o.addLayer k (o.faddDelta v) := by
  unfold SyncObj.apply
  rw [hw]

/-- What is added to a layer of a WORK object is added to its value (12 R351). -/
theorem SyncObj.value_addLayer {o : SyncObj} (hw : o.type = .work) (k : Nat) (v : W32) : (o.addLayer k v).value = o.value + v := by
  unfold SyncObj.addLayer SyncObj.layer SyncObj.setLayer
  split <;> simp only [SyncObj.value, hw, Option.getD_some] <;> ac_rfl

/-- Handing over the old value writes its four bytes where no check point stands in the way, and lets the instruction complete. -/
theorem State.faddReturn_clear {r : SyncReq} {ret : Nat} {i : StreamId} (hk : r.kind = .fadd ret) (hs : r.src = some i)
    (hc : s.clear r.who) (old : W32) : s.faddReturn r old
      = ((numWrites ret 4 old.toNat).foldl (fun (s : State) x => s.wr8 x.1 x.2) s).modStream i fun st => st.markReady r.srcId := by
  unfold State.faddReturn SyncReq.returns
  simp only [hk, hs]
  rw [s.writeMem_clear hc]
  rfl

/-- So the four bytes read as the old value, little-endian, and nothing but the issuing core changes beside them. -/
theorem State.faddReturn_spec {r : SyncReq} {ret : Nat} {i : StreamId} (hk : r.kind = .fadd ret) (hs : r.src = some i)
    (hc : s.clear r.who) (old : W32) :
    let t := s.faddReturn r old
    (∀ x, t.obj x = s.obj x) ∧ (∀ half, t.syn half = s.syn half) ∧ (∀ b, b < 4 → t.rd8 (ret + b) = BitVec.ofNat 8 (old.toNat / 256 ^ b))
      ∧ ∀ a, a < ret ∨ ret + 4 ≤ a → t.rd8 a = s.rd8 a := by
  have hmem := State.writes_memOnly (s := s) (numWrites ret 4 old.toNat)
  have hrd := State.rd8_writes (s := s) (numWrites ret 4 old.toNat)
  rw [State.faddReturn_clear hk hs hc]
  refine ⟨fun x => ?_, fun half => ?_, fun b hb => ?_, fun a ha => ?_⟩
  · rw [hmem]
    rfl
  · rw [hmem]
    rfl
  · exact (congrFun hrd (ret + b)).trans (overlay_numWrites ret _ hb)
  · exact (congrFun hrd a).trans (overlay_numWrites_ne ha)

/-- Settles O21: the operation arrives at its object, adds to one layer, and writes the four bytes of the old value. -/
theorem faddReturnsTheOldValue : Obligations.FaddReturnsTheOldValue := by
  unfold Obligations.FaddReturnsTheOldValue
  intro s half ret i r rest hnet _ hx hd ha hw hk hs hc _ o k delta
  have hgo : exec (.syncOperation half ⟨0, []⟩) s
      = .next (((s.synTaken half).changeObj r.obj fun o => o.apply k r.kind r.value).faddReturn r o.value) := by
    rw [exec_syncOperation_head hnet hx, State.syncApply_fadd (by rwa [State.synTaken_synDrop]) (by rwa [State.synTaken_obj]) hk,
      State.synTaken_obj, State.synTaken_part]
  have hc' : ((s.synTaken half).changeObj r.obj fun o => o.apply k r.kind r.value).clear r.who :=
    State.changeObj_clear _ _ (State.synTaken_clear half hc)
  obtain ⟨hkeeps, hsyn, hret, hrest⟩ := State.faddReturn_spec hk hs hc' o.value
  generalize State.faddReturn _ r o.value = t at hgo hkeeps hsyn hret hrest
  have hobj : t.obj r.obj = o.addLayer k delta := by
    rw [hkeeps, State.changeObj_obj, State.synTaken_obj, hk, SyncObj.apply_fadd hw]
    rfl
  refine ⟨t, hgo, hobj, fun hl => ?_, hret, fun a h => ?_, ?_⟩
  · rw [hobj, SyncObj.value_addLayer hw, show delta = r.value from if_pos hl]
  · rw [hrest a h, State.changeObj_rd8, State.synTaken_rd8]
  · rw [hsyn, State.changeObj_syn, State.synTaken_net hnet]

end Sys2Proof.Machine
end

section
/-! SUPPORT: what the work of an update unit leaves outside the descriptor rings: events, descriptors for its channel, and its own list
(07 R211, 10 R299, R300). -/

namespace Sys2Proof.Machine

variable {r s t : State} {u : Nat}

/-! ### Update units by number -/

@[simp] theorem State.unit_modUnit (s : State) (u : Nat) (f : UpdUnit → UpdUnit) : (s.modUnit u f).unit u = f (s.unit u) := tget_tset _ _ _ _

theorem State.unit_modUnit_ne (s : State) {u v : Nat} (f : UpdUnit → UpdUnit) (h : v ≠ u) : (s.modUnit u f).unit v = s.unit v :=
  tget_tset_ne _ _ _ h

theorem State.unit_of_upds (h : t.upds = s.upds) (u : Nat) : t.unit u = s.unit u := by
  unfold State.unit
  rw [h]

theorem State.updSettle_upds (i : StreamId) (id : Nat) : (s.updSettle i id).upds = s.upds := by
  unfold State.updSettle
  split
  · rfl
  · rfl

/-! ### Descriptors for a channel -/

/-- The fuses, the codewords with errors, the update units and the cores stay as descriptors move. -/
structure State.DescsMoved (s t : State) : Prop where
  fuse : t.fuse = s.fuse
  errs : t.errs = s.errs
  upds : t.upds = s.upds
  cores : t.cores = s.cores

theorem State.DescsMoved.trans (h : r.DescsMoved s) (k : s.DescsMoved t) : r.DescsMoved t :=
  ⟨k.fuse.trans h.fuse, k.errs.trans h.errs, k.upds.trans h.upds, k.cores.trans h.cores⟩

theorem State.DescsMoved.modDie (s : State) (d : Nat) (f : Die → Die) : s.DescsMoved (s.modDie d f) := ⟨rfl, rfl, rfl, rfl⟩

theorem State.MemOnly.descsMoved (h : s.MemOnly t) : s.DescsMoved t := by
  rw [h]
  exact ⟨rfl, rfl, rfl, rfl⟩

theorem State.DescsMoved.ringWrite (he : s.errs = []) (die ch : Nat) (x : PDesc) : s.DescsMoved (s.ringWrite die ch x) := by
  rw [State.ringWrite_eq he]
  exact (State.writes_memOnly _).descsMoved.trans (.modDie _ _ _)

theorem State.DescsMoved.ringWrites (he : s.errs = []) (die ch : Nat) (xs : List PDesc) :
    s.DescsMoved (xs.foldl (fun s x => s.ringWrite die ch x) s) := by
  induction xs generalizing s with
  | nil => exact ⟨rfl, rfl, rfl, rfl⟩
  | cons x xs ih =>
    have hx := State.DescsMoved.ringWrite he die ch x
    rw [List.foldl_cons]
    exact hx.trans (ih (hx.errs.trans he))

theorem State.DescsMoved.pushDescs (he : s.errs = []) (die ch : Nat) (ds : List PDesc) : s.DescsMoved (s.pushDescs die ch ds) := by
  unfold State.pushDescs State.refill
  exact .trans (.trans (.modDie s die _) (.modDie _ die _)) (.ringWrites (by exact he) die ch _)

theorem updChan_lt (u part : Nat) : updChan u part < 32 := by
  unfold updChan
  omega

/-! ### What lies outside the rings -/

/-- No codeword holds an error, and outside the descriptor rings memory is as it was, as are the objects. -/
structure State.OutsideRings (r s : State) : Prop where
  errs : s.errs = []
  objs : s.objs = r.objs
  rd8 : ∀ a, ¬ inRing a → s.rd8 a = r.rd8 a

namespace State.OutsideRings

theorem refl (he : s.errs = []) : s.OutsideRings s := ⟨he, rfl, fun _ _ => rfl⟩

theorem trans (h : r.OutsideRings s) (k : s.OutsideRings t) : r.OutsideRings t :=
  ⟨k.errs, k.objs.trans h.objs, fun a ha => (k.rd8 a ha).trans (h.rd8 a ha)⟩

theorem of_mem (h : r.OutsideRings s) (hm : t.mem = s.mem) (he : t.errs = s.errs) (ho : t.objs = s.objs) : r.OutsideRings t :=
  ⟨he.trans h.errs, ho.trans h.objs, fun a ha => (congrArg (tget 0 · a) hm).trans (h.rd8 a ha)⟩

theorem pushDescs (h : r.OutsideRings s) {ch : Nat} (hch : ch < 32) (die : Nat) (ds : List PDesc) :
    r.OutsideRings (s.pushDescs die ch ds) := by
  obtain ⟨-, hobjs, hrd⟩ := State.pushDescs_spec (die := die) hch h.errs ds
  exact ⟨(State.DescsMoved.pushDescs h.errs die ch ds).errs.trans h.errs, hobjs.trans h.objs, fun a ha => (hrd a ha).trans (h.rd8 a ha)⟩

theorem updSettle (h : r.OutsideRings s) (i : StreamId) (id : Nat) : r.OutsideRings (s.updSettle i id) := by
  unfold State.updSettle
  split
  · exact h
  · exact h.of_mem rfl rfl rfl

end State.OutsideRings

/-! ### A unit that serves -/

/-- So it stays as unit `u` works, and with it the unit's counts of the UPDs that it has served and that wrote nothing. -/
structure State.Serves (u : Nat) (r s : State) : Prop extends r.OutsideRings s where
  done : (s.unit u).done = (r.unit u).done
  nowrite : (s.unit u).nowrite = (r.unit u).nowrite

namespace State.Serves

theorem refl (he : s.errs = []) : s.Serves u s := ⟨.refl he, rfl, rfl⟩

theorem of_upds (h : State.Serves u r s) (ho : r.OutsideRings t) (hu : t.upds = s.upds) : State.Serves u r t := by
  have he := State.unit_of_upds hu u
  exact ⟨ho, he ▸ h.done, he ▸ h.nowrite⟩

theorem same (h : State.Serves u r s) (hm : t.mem = s.mem) (he : t.errs = s.errs) (ho : t.objs = s.objs) (hu : t.upds = s.upds) :
    State.Serves u r t := h.of_upds (h.toOutsideRings.of_mem hm he ho) hu

theorem ite {v : State} {c : Prop} [Decidable c] (ht : State.Serves u r t) (hv : State.Serves u r v) :
    State.Serves u r (if c then t else v) := by
  split
  · exact ht
  · exact hv

theorem foldl {α : Type} {f : State → α → State} (hf : ∀ v x, State.Serves u r v → State.Serves u r (f v x)) (h : State.Serves u r s)
    (l : List α) : State.Serves u r (l.foldl f s) := by
  induction l generalizing s with
  | nil => exact h
  | cons x l ih => exact ih (hf s x h)

theorem post (h : State.Serves u r s) (e : EvRec) : State.Serves u r (s.post e) :=
  h.same (s.post_mem e) (s.post_errs e) (s.post_objs e) (s.post_upds e)

theorem startHandling (h : State.Serves u r s) (e : EvRec) : State.Serves u r (s.startHandling e) := by
  unfold State.startHandling
  split
  · exact h
  · refine foldl (fun v x hv => ?_) h _
    exact ite (hv.same rfl rfl rfl rfl) (ite (hv.same rfl rfl rfl rfl) (hv.same rfl rfl rfl rfl))

theorem postLost (h : State.Serves u r s) (unit : W32) (part : Byte) (n : Nat) (mask : Byte) :
    State.Serves u r (s.postLost unit part n mask) := by
  unfold State.postLost
  exact ite h (post (h.same (by simp) (by simp) (by simp) (by simp)) _)

theorem acceptRec (h : State.Serves u r s) (x : Nat × Bool) (temp volt : W16) : State.Serves u r (s.acceptRec x temp volt) := by
  unfold State.acceptRec
  dsimp only
  split
  · exact h
  · refine postLost (startHandling ?_ _) _ _ _ _
    exact ite (h.same (by simp) (by simp) (by simp) (by simp)) (h.same (by simp) (by simp) (by simp) (by simp))

theorem mailTurn (h : State.Serves u r s) : State.Serves u r s.mailTurn :=
  foldl (fun v _ hv => ite (acceptRec (s := v.takeFree.2) (hv.same rfl rfl rfl rfl) _ _ _) hv) h _

theorem boundsUnit (h : State.Serves u r s) (unit : W32) (part : Nat) (bad : List (Nat × Nat)) :
    State.Serves u r (s.boundsUnit unit part bad) := by
  unfold State.boundsUnit
  split
  · exact h
  · exact h.post _

/-- A change of the unit that is none of its counts. -/
theorem modUnit (h : State.Serves u r s) {f : UpdUnit → UpdUnit} (hf : ∀ k : UpdUnit, (f k).done = k.done ∧ (f k).nowrite = k.nowrite) :
    State.Serves u r (s.modUnit u f) := by
  obtain ⟨hd, hn⟩ := hf (s.unit u)
  exact ⟨h.toOutsideRings.of_mem rfl rfl rfl, by rw [State.unit_modUnit, hd, h.done], by rw [State.unit_modUnit, hn, h.nowrite]⟩

/-- The unit shows the flags of a granule (10 R313). -/
theorem showFlags (h : State.Serves u r s) (range spec : Bool) :
    State.Serves u r (s.modUnit u fun x => { x with range := x.range || range, spec := x.spec || spec }) := h.modUnit fun _ => ⟨rfl, rfl⟩

theorem setRun (h : State.Serves u r s) (x : UpdRun) : State.Serves u r (s.setRun u x) := h.modUnit fun _ => ⟨rfl, rfl⟩

theorem pushDescs (h : State.Serves u r s) {ch : Nat} (hch : ch < 32) (die : Nat) (ds : List PDesc) :
    State.Serves u r (s.pushDescs die ch ds) :=
  h.of_upds (h.toOutsideRings.pushDescs hch die ds) (State.DescsMoved.pushDescs h.errs die ch ds).upds

theorem formGranules (h : State.Serves u r s) (x : UpdRun) : State.Serves u r (s.formGranules u x) := h.pushDescs (updChan_lt _ _) _ _

theorem updNext (h : State.Serves u r s) : State.Serves u r (s.updNext u) := by
  unfold State.updNext
  split
  · refine ite h (pushDescs (h.modUnit fun k => ?_) (updChan_lt _ _) _ _)
    exact ⟨rfl, rfl⟩
  · exact h

theorem updSettle (h : State.Serves u r s) (i : StreamId) (id : Nat) : State.Serves u r (s.updSettle i id) :=
  h.of_upds (h.toOutsideRings.updSettle i id) (State.updSettle_upds i id)

end State.Serves

end Sys2Proof.Machine
end

section
/-! SUPPORT: the start of an UPD on its update units (06 R189, R190, 10 R299, R306). -/

namespace Sys2Proof.Machine

variable {s t : State} {i : StreamId} {q : QEntry} {rest : List QEntry} {part : Nat}

/-! ### Lists and tables -/

theorem nodup_eraseDups {α : Type} [DecidableEq α] (l : List α) : l.eraseDups.Nodup := by
  induction hn : l.length using Nat.strong_induction_on generalizing l with
  | _ n ih =>
    cases l with
    | nil => simp
    | cons x l =>
      rw [List.eraseDups_cons, List.nodup_cons]
      refine ⟨fun hx => ?_, ih _ ?_ _ rfl⟩
      · have := (List.mem_filter.mp (List.mem_eraseDups.mp hx)).2
        simp at this
      · have := List.length_filter_le (fun b => !b == x) l
        rw [List.length_cons] at hn
        omega

theorem mem_tput {α : Type} {v : Tab α} {k : Nat} {x : α} {y : Nat × α} (h : y ∈ tput v k x) : y = (k, x) ∨ y ∈ v := by
  induction v with
  | nil => exact .inl (List.mem_singleton.mp h)
  | cons e v ih =>
    obtain ⟨a, b⟩ := e
    unfold tput at h
    split at h
    · exact List.mem_cons.mp h
    · split at h
      · exact (List.mem_cons.mp h).imp id (List.mem_cons_of_mem _)
      · exact (List.mem_cons.mp h).elim (fun hy => .inr (hy ▸ List.mem_cons_self)) fun hy => (ih hy).imp id (List.mem_cons_of_mem _)

/-- What stands in a table after a key is set is the new entry or stood there before. -/
theorem mem_tset {α : Type} [DecidableEq α] {d : α} {v : Tab α} {k : Nat} {x : α} {y : Nat × α} (h : y ∈ tset d v k x) :
    y = (k, x) ∨ y ∈ v := by
  unfold tset at h
  split at h
  · exact .inr (List.mem_filter.mp h).1
  · exact mem_tput h

/-- A key has the default, or its entry stands in the table. -/
theorem tget_mem {α : Type} (d : α) (v : Tab α) (k : Nat) : tget d v k = d ∨ (k, tget d v k) ∈ v := by
  induction v with
  | nil => exact .inl rfl
  | cons e v ih =>
    obtain ⟨a, b⟩ := e
    unfold tget
    split
    · rename_i ha
      exact .inr (ha ▸ List.mem_cons_self)
    · exact ih.imp id (List.mem_cons_of_mem _)

/-! ### One change for each unit of a list -/

/-- A fold that changes one unit at a time, under an invariant `P`, changes each unit of the list by `g` and no other. -/
theorem State.foldl_units {P : State → Prop} {step : State → Nat → State} {g : Nat → UpdUnit → UpdUnit}
    (hP : ∀ s u, P s → P (step s u)) (hu : ∀ s u, P s → (step s u).unit u = g u (s.unit u))
    (hne : ∀ s u v, P s → v ≠ u → (step s u).unit v = s.unit v) {us : List Nat} (hn : us.Nodup) (h : P s) :
    P (us.foldl step s) ∧ (∀ u ∈ us, (us.foldl step s).unit u = g u (s.unit u)) ∧ ∀ u, u ∉ us → (us.foldl step s).unit u = s.unit u := by
  induction us generalizing s with
  | nil => exact ⟨h, fun _ hm => absurd hm List.not_mem_nil, fun _ _ => rfl⟩
  | cons u us ih =>
    obtain ⟨hnot, hn'⟩ := List.nodup_cons.mp hn
    obtain ⟨hp, hin, hout⟩ := ih hn' (hP s u h)
    refine ⟨hp, fun v hv => ?_, fun v hv => ?_⟩
    · rcases List.mem_cons.mp hv with rfl | hv
      · exact (hout v hnot).trans (hu s v h)
      · exact (hin v hv).trans (congrArg (g v) (hne s u v h fun hvu => hnot (hvu ▸ hv)))
    · exact (hout v fun hm => hv (List.mem_cons_of_mem _ hm)).trans (hne s u v h fun hvu => hv (hvu ▸ List.mem_cons_self))

/-! ### The head of the update queue -/

theorem State.updHead_eq (s : State) (c : CoreId) : s.updHead c = oldest (s.heads c .upd s.updReady) := rfl

/-- The state in which the UPD that heads the update queue of a stream has begun. -/
def State.updBegun (s : State) (i : StreamId) : State := s.modStream i fun st => st.begin .upd {} false

/-- An UPD that alone heads its queue and may start begins, and starts under its verdict. -/
theorem exec_updStart (h : s.soleHead i .upd q rest) (hr : s.updReady i q = true) :
    exec (.updStart ⟨i.die, i.core⟩ []) s = .next ((s.updBegun i).updStart i q) := by
  have hhead : s.updHead ⟨i.die, i.core⟩ = some (i.pass, q) := by
    rw [State.updHead_eq, h.heads hr]
    rfl
  show execUpdStart ⟨i.die, i.core⟩ [] s = _
  unfold execUpdStart State.startUpd
  rw [show s.upset [] = s from rfl, hhead]
  rfl

theorem State.soleHead.updBegun_stream (h : s.soleHead i .upd q rest) :
    (s.updBegun i).stream i = (s.stream i).started .upd q rest {} false := by
  unfold State.updBegun
  rw [State.stream_modStream, Stream.begin_eq_started h.1]

theorem State.updBegun_part : ((s.updBegun i).core (skey i)).part = (s.core (skey i)).part := by
  unfold State.updBegun State.modStream
  rw [State.core_setStream, Core.setStream_part]

/-- Each update unit that an UPD which may start reaches is free (10 R300). -/
theorem State.updReady_free (hr : s.updReady i q = true) (hn : q.n ≠ 0) (hs : q.skip = false) :
    ∀ u ∈ updUnits s.fuse.gradeB i.die q, (s.unit u).run = [] := by
  intro u hu
  unfold State.updReady State.updFree at hr
  simp only [hs, Bool.or_false, Bool.or_eq_true, beq_iff_eq, hn, false_or, Bool.and_eq_true, List.all_eq_true] at hr
  exact List.isEmpty_iff.mp (hr.2 u hu).1.1

/-! ### The instruction of an UPD -/

/-- No unit runs a share of an instruction. -/
def State.noShare (s : State) (i : StreamId) (id : Nat) : Prop := ∀ u ∈ s.upds, ∀ r ∈ u.2.run, r.at_ ≠ i ∨ r.q.id ≠ id

theorem State.updSettle_noShare {id : Nat} (h : s.noShare i id) : s.updSettle i id = s.modStream i fun st => st.markReady id := by
  unfold State.updSettle
  refine if_neg fun hany => ?_
  obtain ⟨u, hu, hr⟩ := List.any_eq_true.mp hany
  obtain ⟨r, hr, hb⟩ := List.any_eq_true.mp hr
  rw [Bool.and_eq_true, beq_iff_eq, beq_iff_eq] at hb
  exact (h u hu r hr).elim (· hb.1) (· hb.2)

theorem State.noShare_modUnit {id u : Nat} {f : UpdUnit → UpdUnit} (h : s.noShare i id) (hf : ∀ k, (f k).run = k.run) :
    (s.modUnit u f).noShare i id := by
  intro x hx r hr
  rcases mem_tset hx with rfl | hx
  · rw [hf] at hr
    rcases tget_mem {} s.upds u with hd | hm
    · rw [show s.unit u = {} from hd] at hr
      exact absurd hr List.not_mem_nil
    · exact h _ hm r hr
  · exact h x hx r hr

/-- An instruction that begins and whose number no running one has may complete. -/
theorem Stream.started_markReady {st : Stream} (h : ∀ r ∈ st.run, r.q.id ≠ q.id) (e : Engine) (fl : Flags) (ready : Bool) :
    (st.started e q rest fl ready).markReady q.id = st.started e q rest fl true := by
  have hrun : (st.run.map fun r => if r.q.id = q.id then { r with ready := true } else r) = st.run :=
    (List.map_congr_left fun r hr => if_neg (h r hr)).trans (List.map_id' _)
  unfold Stream.markReady Stream.started
  dsimp only
  rw [List.map_append, hrun]
  simp

/-- The stream of an UPD that has begun, once it may be settled. -/
theorem State.updSettle_stream (h : t.stream i = (s.stream i).started .upd q rest {} false)
    (hrun : ∀ r ∈ (s.stream i).run, r.q.id ≠ q.id) :
    ∃ ready, (t.updSettle i q.id).stream i = (s.stream i).started .upd q rest {} ready := by
  unfold State.updSettle
  split
  · exact ⟨false, h⟩
  · refine ⟨true, ?_⟩
    rw [State.stream_modStream, h, Stream.started_markReady hrun]

/-! ### Under another verdict than COMMIT (06 R190) -/

def UpdUnit.passedOver (k : UpdUnit) : UpdUnit := { k with nowrite := satAdd k.nowrite 1 }

theorem State.updStart_passed (hn : q.n ≠ 0) (hs : q.skip = false) (hg : fld (s.obj (updGate q.w)).value 11 10 ≠ 1) :
    s.updStart i q
      = ((updUnits s.fuse.gradeB i.die q).foldl (fun s u => s.modUnit u UpdUnit.passedOver) s).updSettle i q.id := by
  unfold State.updStart
  rw [if_neg (by simp [hn, hs])]
  dsimp only
  rw [if_pos hg]
  rfl

/-- Each unit counts the UPD, and nothing else changes but that the instruction may complete. -/
theorem State.updStart_passed_spec (hn : q.n ≠ 0) (hs : q.skip = false) (hg : fld (s.obj (updGate q.w)).value 11 10 ≠ 1)
    (hshare : s.noShare i q.id) :
    let t := s.updStart i q
    t.stream i = (s.stream i).markReady q.id ∧ (∀ u ∈ updUnits s.fuse.gradeB i.die q, t.unit u = (s.unit u).passedOver)
      ∧ (∀ u, u ∉ updUnits s.fuse.gradeB i.die q → t.unit u = s.unit u) ∧ t.mem = s.mem ∧ t.objs = s.objs := by
  obtain ⟨⟨hno, hcores, hmem, hobjs⟩, hin, hout⟩ := State.foldl_units (s := s) (g := fun _ => UpdUnit.passedOver)
    (P := fun t => t.noShare i q.id ∧ t.cores = s.cores ∧ t.mem = s.mem ∧ t.objs = s.objs) (step := fun s u => s.modUnit u UpdUnit.passedOver)
    (fun v u hv => ⟨State.noShare_modUnit hv.1 fun _ => rfl, hv.2⟩) (fun v u _ => v.unit_modUnit u _)
    (fun v u w _ hw => v.unit_modUnit_ne _ hw) (nodup_eraseDups ((updElems q).map fun e => (updUnitOf s.fuse.gradeB i.die e.2.2).1))
    ⟨hshare, rfl, rfl, rfl⟩
  rw [State.updStart_passed hn hs hg, updUnits, State.updSettle_noShare hno]
  exact ⟨by rw [State.stream_modStream, State.stream_of_cores hcores], hin, hout, hmem, hobjs⟩

/-! ### Under COMMIT (10 R299, R306) -/

/-- The elements of an UPD that a unit holds. -/
def updMine (gradeB : Bool) (die : Nat) (q : QEntry) (u : Nat) : List (Nat × Nat × Nat) :=
  (updElems q).filter fun e => (updUnitOf gradeB die e.2.2).1 == u

/-- A unit takes its share with its exponent entry; without one it writes nothing. -/
def UpdUnit.shared (i : StreamId) (q : QEntry) (part : Nat) (es : List (Nat × Nat × Nat)) (k : UpdUnit) : UpdUnit :=
  match k.entry part q.step with
  | none => { k with smiss := true, nowrite := satAdd k.nowrite 1 }
  | some sexp => { k with run := k.run ++ [{ at_ := i, q := q, part := part, elems := es, sexp := sexp }] }

theorem UpdUnit.shared_free {k : UpdUnit} {sexp : Int} (he : k.entry part q.step = some sexp) (hf : k.run = [])
    (es : List (Nat × Nat × Nat)) :
    k.shared i q part es = { k with run := [{ at_ := i, q := q, part := part, elems := es, sexp := sexp }] } := by
  unfold UpdUnit.shared
  rw [he, hf]
  rfl

theorem State.updStart_commits (hn : q.n ≠ 0) (hs : q.skip = false) (hg : fld (s.obj (updGate q.w)).value 11 10 = 1)
    (hp : (s.core (skey i)).part.getD 0xFF = part) :
    s.updStart i q = ((updUnits s.fuse.gradeB i.die q).foldl
      (fun t u => t.updShare i q part u (updMine t.fuse.gradeB i.die q u)) s).updSettle i q.id := by
  subst hp
  unfold State.updStart
  rw [if_neg (by simp [hn, hs])]
  dsimp only
  rw [if_neg (by simp [hg])]
  unfold updMine
  rfl

theorem State.updShare_unit (he : s.errs = []) (u : Nat) (es : List (Nat × Nat × Nat)) :
    (s.updShare i q part u es).unit u = (s.unit u).shared i q part es := by
  unfold State.updShare UpdUnit.shared
  cases (s.unit u).entry part q.step with
  | none => exact (State.unit_of_upds (State.post_upds _ _) u).trans (s.unit_modUnit u _)
  | some sexp => exact (State.unit_of_upds (State.DescsMoved.pushDescs (by exact he) _ _ _).upds u).trans (s.unit_modUnit u _)

theorem State.updShare_unit_ne (he : s.errs = []) {u v : Nat} (es : List (Nat × Nat × Nat)) (h : v ≠ u) :
    (s.updShare i q part u es).unit v = s.unit v := by
  unfold State.updShare
  split
  · exact (State.unit_of_upds (State.post_upds _ _) v).trans (s.unit_modUnit_ne _ h)
  · exact (State.unit_of_upds (State.DescsMoved.pushDescs (by exact he) _ _ _).upds v).trans (s.unit_modUnit_ne _ h)

/-- A share moves no core and no fuse, and outside the rings no byte. -/
theorem State.updShare_keeps {r : State} (h : r.OutsideRings s ∧ s.cores = r.cores ∧ s.fuse = r.fuse) (u : Nat)
    (es : List (Nat × Nat × Nat)) : r.OutsideRings (s.updShare i q part u es) ∧ (s.updShare i q part u es).cores = r.cores
      ∧ (s.updShare i q part u es).fuse = r.fuse := by
  obtain ⟨ho, hc, hf⟩ := h
  have hm : ∀ f, r.OutsideRings (s.modUnit u f) := fun f => ho.of_mem rfl rfl rfl
  unfold State.updShare
  split
  · exact ⟨(hm _).of_mem (State.post_mem _ _) (State.post_errs _ _) (State.post_objs _ _), (State.post_cores _ _).trans hc,
      (State.post_fuse _ _).trans hf⟩
  · refine ⟨(hm _).pushDescs (updChan_lt _ _) _ _, ?_, ?_⟩
    · exact (State.DescsMoved.pushDescs (by exact ho.errs) _ _ _).cores.trans hc
    · exact (State.DescsMoved.pushDescs (by exact ho.errs) _ _ _).fuse.trans hf

/-- Each unit takes its share; outside the rings no byte changes. -/
theorem State.updStart_commits_spec (hn : q.n ≠ 0) (hs : q.skip = false) (hg : fld (s.obj (updGate q.w)).value 11 10 = 1)
    (hp : (s.core (skey i)).part.getD 0xFF = part) (he : s.errs = []) :
    ∃ t, s.updStart i q = t.updSettle i q.id ∧ s.OutsideRings t ∧ t.cores = s.cores
      ∧ (∀ u ∈ updUnits s.fuse.gradeB i.die q, t.unit u = (s.unit u).shared i q part (updMine s.fuse.gradeB i.die q u))
      ∧ ∀ u, u ∉ updUnits s.fuse.gradeB i.die q → t.unit u = s.unit u := by
  obtain ⟨⟨ho, hc, -⟩, hin, hout⟩ := State.foldl_units (s := s)
    (g := fun u => UpdUnit.shared i q part (updMine s.fuse.gradeB i.die q u))
    (P := fun t => s.OutsideRings t ∧ t.cores = s.cores ∧ t.fuse = s.fuse)
    (step := fun t u => t.updShare i q part u (updMine t.fuse.gradeB i.die q u))
    (fun v u hv => State.updShare_keeps hv u _) (fun v u hv => by rw [← hv.2.2]; exact State.updShare_unit hv.1.errs u _)
    (fun v u w hv hw => State.updShare_unit_ne hv.1.errs _ hw)
    (nodup_eraseDups ((updElems q).map fun e => (updUnitOf s.fuse.gradeB i.die e.2.2).1)) ⟨.refl he, rfl, rfl⟩
  exact ⟨_, State.updStart_commits hn hs hg hp, ho, hc, hin, hout⟩

/-! ### UPD_START -/

/-- Under another verdict than COMMIT an UPD writes nothing, which its units count (06 R190). -/
theorem exec_updStart_passed (h : s.soleHead i .upd q rest) (hr : s.updReady i q = true) (hn : q.n ≠ 0) (hs : q.skip = false)
    (hrun : ∀ r ∈ (s.stream i).run, r.q.id ≠ q.id) (hshare : s.noShare i q.id) (hg : fld (s.obj (updGate q.w)).value 11 10 ≠ 1) :
    ∃ t, exec (.updStart ⟨i.die, i.core⟩ []) s = .next t ∧ t.stream i = (s.stream i).started .upd q rest {} true
      ∧ (∀ u ∈ updUnits s.fuse.gradeB i.die q, t.unit u = (s.unit u).passedOver)
      ∧ (∀ u, u ∉ updUnits s.fuse.gradeB i.die q → t.unit u = s.unit u) ∧ t.mem = s.mem ∧ t.objs = s.objs := by
  obtain ⟨hst, hrest⟩ := State.updStart_passed_spec (s := s.updBegun i) hn hs hg hshare
  refine ⟨_, exec_updStart h hr, ?_, hrest⟩
  refine hst.trans ?_
  rw [h.updBegun_stream, Stream.started_markReady hrun]

/-- Under COMMIT each unit of an UPD runs its share, with its exponent entry (10 R299, R306). -/
theorem exec_updStart_commits (h : s.soleHead i .upd q rest) (hr : s.updReady i q = true) (hn : q.n ≠ 0) (hs : q.skip = false)
    (hrun : ∀ r ∈ (s.stream i).run, r.q.id ≠ q.id) (hg : fld (s.obj (updGate q.w)).value 11 10 = 1) (he : s.errs = [])
    (hp : (s.core (skey i)).part.getD 0xFF = part) :
    ∃ t ready, exec (.updStart ⟨i.die, i.core⟩ []) s = .next t ∧ t.stream i = (s.stream i).started .upd q rest {} ready
      ∧ (∀ u ∈ updUnits s.fuse.gradeB i.die q, t.unit u = (s.unit u).shared i q part (updMine s.fuse.gradeB i.die q u))
      ∧ (∀ u, u ∉ updUnits s.fuse.gradeB i.die q → t.unit u = s.unit u) ∧ (∀ a, ¬ inRing a → t.rd8 a = s.rd8 a) ∧ t.objs = s.objs := by
  obtain ⟨t, ht, ho, hc, hin, hout⟩ := State.updStart_commits_spec (s := s.updBegun i) (part := part) hn hs hg
    (by rw [State.updBegun_part, hp]) he
  obtain ⟨ready, hst⟩ := State.updSettle_stream ((State.stream_of_cores hc i).trans h.updBegun_stream) hrun
  have hset := ho.updSettle i q.id
  have hunit := State.unit_of_upds (State.updSettle_upds (s := t) i q.id)
  have hgo : exec (.updStart ⟨i.die, i.core⟩ []) s = .next (t.updSettle i q.id) := (exec_updStart h hr).trans (congrArg _ ht)
  refine ⟨t.updSettle i q.id, ready, hgo, hst, fun u hu => ?_, fun u hu => ?_, hset.rd8, hset.objs⟩
  · exact (hunit u).trans (hin u hu)
  · exact (hunit u).trans (hout u hu)

end Sys2Proof.Machine
end

section
/-! SUPPORT: the descriptors that an update unit serves (06 R189, 10 R299, R300, R307, R313). -/

namespace Sys2Proof.Machine

variable {s t : State} {who : Who} {q : QEntry} {part u : Nat}

/-! ### Writes among given bytes -/

/-- Memory alone changes, and only at bytes of a list. -/
structure State.WritesIn (s t : State) (as : List Nat) : Prop where
  only : s.MemOnly t
  rd8 : ∀ a, a ∉ as → t.rd8 a = s.rd8 a

namespace State.WritesIn

variable {as bs : List Nat}

theorem refl (s : State) : s.WritesIn s [] := ⟨rfl, fun _ _ => rfl⟩

theorem trans {r : State} (h : r.WritesIn s as) (k : s.WritesIn t bs) : r.WritesIn t (as ++ bs) :=
  ⟨h.only.trans k.only, fun a ha => (k.rd8 a fun hb => ha (List.mem_append_right _ hb)).trans
    (h.rd8 a fun hb => ha (List.mem_append_left _ hb))⟩

theorem mono (h : s.WritesIn t as) (hs : ∀ a ∈ as, a ∈ bs) : s.WritesIn t bs := ⟨h.only, fun a ha => h.rd8 a fun hm => ha (hs a hm)⟩

theorem clear (h : s.WritesIn t as) (hc : s.clear who) : t.clear who := by
  rw [h.only]
  exact hc

theorem dmaBytes (h : s.WritesIn t as) (part : Nat) (write : Bool) (a n : Nat) : t.dmaBytes part write a n = s.dmaBytes part write a n := by
  rw [h.only]
  rfl

theorem updBytes (h : s.WritesIn t as) (part : Nat) (q : QEntry) (es : List (Nat × Nat × Nat)) :
    t.updBytes part q es = s.updBytes part q es := by
  rw [h.only]
  rfl

end State.WritesIn

/-! ### One element (10 R301 to R303) -/

theorem State.updRead_clear (hc : s.clear who) (a n : Nat) : (s.updRead who a n).2.2 = s := by
  unfold State.updRead
  dsimp only
  rw [s.readMem_clear hc]

theorem State.updReadIf_clear (hc : s.clear who) (has : Bool) (a n : Nat) : (s.updReadIf has who a n).2.2 = s := by
  unfold State.updReadIf
  split
  · exact State.updRead_clear hc a n
  · rfl

/-- The bytes of an operand that an update unit writes: those in a window of its partition (07 R226). -/
def State.updDst (s : State) (part : Nat) (has : Bool) (a n : Nat) : List Nat := if has then inWindow (s.dmaBytes part true a n) else []

theorem State.updWrite_writes (hc : s.clear who) (a n v : Nat) :
    s.WritesIn (s.updWrite who a n v []).2 (inWindow (s.dmaBytes who.part true a n)) := by
  unfold State.updWrite
  dsimp only
  rw [s.writeMem_clear hc, State.parityWrites_nil]
  refine ⟨State.writes_memOnly _, fun b hb => s.rd8_writes_ne _ fun x hx hxb => hb ?_⟩
  obtain ⟨⟨⟨k, w⟩, v⟩, hy, hyx⟩ := List.mem_filterMap.mp hx
  have hk := (List.of_mem_zip hy).1
  refine List.mem_filterMap.mpr ⟨_, hk, ?_⟩
  cases w with
  | inl p => rw [← hxb, ← Option.some.inj hyx]
  | inr k => exact absurd hyx (by simp)

theorem State.updWriteIf_writes (hc : s.clear who) (has : Bool) (a n v : Nat) :
    s.WritesIn (s.updWriteIf has who a n v []).2 (s.updDst who.part has a n) := by
  unfold State.updWriteIf State.updDst
  cases has with
  | false => exact .refl s
  | true => exact State.updWrite_writes hc a n v

/-- The writes of an element's parameter, moments and remainder, with the values `p`, `m`, `v` and `r`. -/
def State.updWrites (s : State) (who : Who) (q : QEntry) (x : Nat × Nat × Nat) (p m v r : Nat) : State :=
  let wm := fmtBytes (uFmtM q.w)
  let s1 := (s.updWriteIf true who x.2.2 (fmtBytes (uFmtP q.w)) p []).2
  let s2 := (s1.updWriteIf (uHasM q.w) who (updAddrs q x).2.1 wm m []).2
  let s3 := (s2.updWriteIf (uHasV q.w) who (updAddrs q x).2.2.1 wm v []).2
  (s3.updWriteIf (uHasR q.w) who (updAddrs q x).2.2.2 2 r []).2

/-- An element of no HBM stack is left; another one is written to its tensors, and what is read before changes nothing. -/
theorem State.updOne_eq (hc : s.clear who) (i : StreamId) (rec_ : List Byte) (h : Hyper) (x : Nat × Nat × Nat) :
    (s.updOne i q [] who rec_ h x).2.2 = s
      ∨ ∃ p m v r, (s.updOne i q [] who rec_ h x).2.2 = s.updWrites who q x p m v r := by
  unfold State.updOne
  dsimp only
  split
  · exact .inl rfl
  · refine .inr ?_
    simp only [State.updRead_clear hc, State.updReadIf_clear hc]
    exact ⟨_, _, _, _, rfl⟩

theorem State.updBytes_cons (s : State) (x : Nat × Nat × Nat) (es : List (Nat × Nat × Nat)) :
    s.updBytes part q (x :: es) = s.updBytes part q [x] ++ s.updBytes part q es := by
  unfold State.updBytes
  simp only [List.flatMap_cons, List.flatMap_nil, List.append_nil]

theorem State.updBytes_one (s : State) (x : Nat × Nat × Nat) : s.updBytes part q [x]
    = s.updDst part true x.2.2 (fmtBytes (uFmtP q.w)) ++ s.updDst part (uHasM q.w) (updAddrs q x).2.1 (fmtBytes (uFmtM q.w))
      ++ s.updDst part (uHasV q.w) (updAddrs q x).2.2.1 (fmtBytes (uFmtM q.w)) ++ s.updDst part (uHasR q.w) (updAddrs q x).2.2.2 2 := by
  unfold State.updBytes
  rw [List.flatMap_cons, List.flatMap_nil, List.append_nil]
  rfl

theorem State.updOne_writes (hc : s.clear who) (i : StreamId) (rec_ : List Byte) (h : Hyper) (x : Nat × Nat × Nat) :
    s.WritesIn (s.updOne i q [] who rec_ h x).2.2 (s.updBytes who.part q [x]) := by
  obtain he | ⟨p, m, v, r, he⟩ := State.updOne_eq (q := q) hc i rec_ h x
  · rw [he]
    exact (State.WritesIn.refl s).mono fun _ ha => absurd ha List.not_mem_nil
  · have h1 := State.updWriteIf_writes hc true x.2.2 (fmtBytes (uFmtP q.w)) p
    have h2 := h1.trans (State.updWriteIf_writes (h1.clear hc) (uHasM q.w) (updAddrs q x).2.1 (fmtBytes (uFmtM q.w)) m)
    have h3 := h2.trans (State.updWriteIf_writes (h2.clear hc) (uHasV q.w) (updAddrs q x).2.2.1 (fmtBytes (uFmtM q.w)) v)
    have h4 := h3.trans (State.updWriteIf_writes (h3.clear hc) (uHasR q.w) (updAddrs q x).2.2.2 2 r)
    rw [he, State.updBytes_one]
    unfold State.updWrites
    unfold State.updDst at h1 h2 h3 h4 ⊢
    rwa [h1.dmaBytes, h2.dmaBytes, h3.dmaBytes] at h4

/-! ### A granule (10 R300, R313) -/

/-- What the elements of a granule leave so far: flags, suppressed bytes, and the state; and what one more adds. -/
def updAcc (i : StreamId) (q : QEntry) (who : Who) (rec_ : List Byte) (h : Hyper) (acc : (Bool × Bool) × List (Nat × Nat) × State)
    (e : Nat × Nat × Nat) : (Bool × Bool) × List (Nat × Nat) × State :=
  let r := acc.2.2.updOne i q [] who rec_ h e
  ((acc.1.1 || r.1.1, acc.1.2 || r.1.2), acc.2.1 ++ r.2.1, r.2.2)

theorem State.updAcc_writes (i : StreamId) (rec_ : List Byte) (h : Hyper) {acc : (Bool × Bool) × List (Nat × Nat) × State}
    (hc : acc.2.2.clear who) (es : List (Nat × Nat × Nat)) :
    acc.2.2.WritesIn (es.foldl (updAcc i q who rec_ h) acc).2.2 (acc.2.2.updBytes who.part q es) := by
  induction es generalizing acc with
  | nil => exact .refl _
  | cons x es ih =>
    have hx := State.updOne_writes (q := q) hc i rec_ h x
    have hes := ih (acc := updAcc i q who rec_ h acc x) (hx.clear hc)
    rw [List.foldl_cons, State.updBytes_cons]
    exact hx.trans (hx.updBytes who.part q es ▸ hes)

/-- The elements of a granule write the tensors of the UPD; what follows reports flags. -/
theorem State.updGranule_serves {r : UpdRun} (hc : s.clear (s.updWho u r.part)) (es : List (Nat × Nat × Nat)) :
    ∃ v, s.WritesIn v (s.updBytes r.part r.q es) ∧ State.Serves u v (s.updGranule u r es []).2 := by
  have hw := State.updAcc_writes (q := r.q) r.at_ r.rec_ r.hyper (acc := ((false, false), [], s)) hc es
  refine ⟨_, hw, ?_⟩
  unfold State.updGranule
  have h1 := fun a b => (State.Serves.refl (u := u) (hw.clear hc).1).showFlags a b
  have h2 := fun a b (p : Prop) [Decidable p] e => State.Serves.ite (c := p) ((h1 a b).post e) (h1 a b)
  exact .ite (.post (.ite (h2 _ _ _ _).mailTurn (h2 _ _ _ _)) _) (h2 _ _ _ _)

/-- A unit with its share of an UPD ended. -/
def UpdUnit.ended (r : UpdRun) (x : UpdUnit) : UpdUnit :=
  { x with
    run := x.run.filter fun y => !r.same y
    done := satAdd x.done 1
    rangec := if r.range then satAdd x.rangec 1 else x.rangec
    clip := r.clip.getD 0, sexp := BitVec.ofInt 8 r.sexp }

/-- The end of a share is that change of the unit, with its record, the next UPD's descriptors and the instruction's completion. -/
theorem State.updShareEnd_serves (he : s.errs = []) (r : UpdRun) :
    State.Serves u (s.modUnit u (UpdUnit.ended r)) (s.updShareEnd u r) := by
  have h0 := State.Serves.refl (s := s.modUnit u (UpdUnit.ended r)) (u := u) he
  unfold State.updShareEnd
  exact .updSettle (.updNext (.ite h0 (h0.post _))) _ _

/-- With the end of a share the unit counts the UPD in UPD_DONE (10 R313). -/
theorem State.updShareEnd_counts {v : State} (h : State.Serves u v s) (r : UpdRun) : v.OutsideRings (s.updShareEnd u r)
    ∧ ((s.updShareEnd u r).unit u).done = satAdd (v.unit u).done 1 ∧ ((s.updShareEnd u r).unit u).nowrite = (v.unit u).nowrite := by
  have hend := State.updShareEnd_serves (u := u) h.errs r
  have hmod : v.OutsideRings (s.modUnit u (UpdUnit.ended r)) := h.toOutsideRings.of_mem rfl rfl rfl
  refine ⟨hmod.trans hend.toOutsideRings, hend.done.trans ?_, hend.nowrite.trans ?_⟩
  · rw [State.unit_modUnit]
    exact congrArg (satAdd · 1) h.done
  · rw [State.unit_modUnit]
    exact h.nowrite

/-! ### The descriptors of the running UPD -/

theorem State.dmaRead_serves (hc : s.clear who) (unit : W32) (a n : Nat) : State.Serves u s (s.dmaRead who unit a n).2 := by
  unfold State.dmaRead
  dsimp only
  rw [s.readMem_clear hc]
  exact .boundsUnit (.refl hc.1) _ _ _

/-- The elements of a share that a granule's descriptor names. -/
def UpdRun.granule (r : UpdRun) (x : PDesc) : List (Nat × Nat × Nat) :=
  r.elems.filter fun e => decide (x.src.toNat ≤ e.2.2) && decide (e.2.2 < x.src.toNat + x.len0.toNat)

/-- The state in which the unit's list shows a granule that it has served. -/
def State.granuleServed (s : State) (u : Nat) (r : UpdRun) (es : List (Nat × Nat × Nat)) : State :=
  (s.updGranule u r es []).2.setRun u (s.updGranule u r es []).1

section
variable {x : PDesc} {r : UpdRun} (hr : (s.unit u).run.head? = some r) (hat : r.at_ = x.at_) (hid : r.q.id = x.id)
  (hc : s.clear (s.updWho u r.part))
include hr hat hid

theorem State.runs_desc : ((s.unit u).run.head?.filter fun r => r.at_ == x.at_ && r.q.id == x.id) = some r := by simp [hr, hat, hid]

theorem State.serveUpd_granule_eq {last : Bool} (hx : x.act = .granule last)
    (hd : ∀ e ∈ r.granule x, s.updReaches (u / 2) r.part r.q e = true) : s.serveUpd u x []
      = (true, if last then (s.granuleServed u r (r.granule x)).updShareEnd u (s.updGranule u r (r.granule x) []).1
        else s.granuleServed u r (r.granule x)) := by
  have hall : ((r.granule x).all fun e => s.updReaches (u / 2) r.part r.q e) = true := List.all_eq_true.mpr hd
  unfold UpdRun.granule at hall ⊢
  unfold State.serveUpd
  simp only [State.runs_desc hr hat hid, hx, hall, Bool.not_true, if_false, Bool.false_eq_true]
  rfl

include hc

/-- The record asks for the squared norm or forms the granules (10 R299). -/
theorem State.serveUpd_record (hx : x.act = .record) (hd : s.dmaReaches (u / 2) x.part false x.src.toNat x.len0.toNat = true) :
    ∃ t, s.serveUpd u x [] = (true, t) ∧ State.Serves u s t := by
  have hread := State.dmaRead_serves (u := u) hc (updUnitWord u) x.src.toNat x.len0.toNat
  unfold State.serveUpd
  simp only [State.runs_desc hr hat hid, hx, hd, Bool.not_true, if_false, Bool.false_eq_true]
  exact ⟨_, rfl, .ite (.pushDescs (.setRun hread _) (updChan_lt _ _) _ _) (.formGranules (.setRun hread _) _)⟩

/-- The squared norm forms the clip factor and the granules (10 R307). -/
theorem State.serveUpd_norm (hx : x.act = .norm) (hd : s.dmaReaches (u / 2) x.part false x.src.toNat x.len0.toNat = true) :
    ∃ t, s.serveUpd u x [] = (true, t) ∧ State.Serves u s t := by
  have hread := State.dmaRead_serves (u := u) hc (updUnitWord u) x.src.toNat x.len0.toNat
  unfold State.serveUpd
  simp only [State.runs_desc hr hat hid, hx, hd, Bool.not_true, if_false, Bool.false_eq_true]
  exact ⟨_, rfl, .formGranules (.setRun hread _) _⟩

/-- A granule writes among the bytes of its elements; after the last the share ends. -/
theorem State.serveUpd_granule {last : Bool} (hx : x.act = .granule last)
    (hd : ∀ e ∈ r.granule x, s.updReaches (u / 2) r.part r.q e = true) :
    ∃ v t, s.serveUpd u x [] = (true, t) ∧ s.WritesIn v (s.updBytes r.part r.q (r.granule x)) ∧ v.OutsideRings t
      ∧ (t.unit u).done = (if last then satAdd (s.unit u).done 1 else (s.unit u).done) ∧ (t.unit u).nowrite = (s.unit u).nowrite := by
  obtain ⟨v, hw, hg⟩ := State.updGranule_serves hc (r.granule x)
  have hv : v.unit u = s.unit u := by rw [hw.only]; rfl
  have hset : State.Serves u v (s.granuleServed u r (r.granule x)) := hg.setRun _
  refine ⟨v, _, State.serveUpd_granule_eq hr hat hid hx hd, hw, ?_⟩
  rw [← hv]
  cases last with
  | false => exact ⟨hset.toOutsideRings, hset.done, hset.nowrite⟩
  | true => exact State.updShareEnd_counts hset _

end

/-! ### DESCRIPTOR_COMPLETE at an update unit -/

/-- A descriptor that its update unit has served leaves the cache of its channel. -/
theorem exec_descriptorComplete_served {die ch : Nat} {x : PDesc} {more : List PDesc} (hcache : ((s.die die).chan ch).cache = x :: more)
    (hact : ∀ p data swarm, x.act ≠ .send p data swarm) (hs : s.serveUpd (2 * die + if ch < 24 then 0 else 1) x [] = (true, t)) :
    exec (.descriptorComplete die ch []) s
      = .next (t.modDie die fun d => d.modChan ch fun c => { c with cache := c.cache.drop 1 }) := by
  show execDescriptorComplete die ch [] s = _
  unfold execDescriptorComplete
  rw [show s.upset [] = s from rfl]
  dsimp only
  rw [hcache]
  dsimp only
  split
  next h => exact absurd h (hact _ _ _)
  next => rw [hs]; rfl

/-- Settles O23: at the start each unit takes its share or counts the UPD, and a unit that serves a descriptor writes among the bytes that
the UPD names. -/
theorem updWritesUnderCommit : Obligations.UpdWritesUnderCommit := by
  unfold Obligations.UpdWritesUnderCommit
  refine ⟨fun s ⟨die, core⟩ p q rest => ?_, fun s die ch u x more r hcache hu hr hat hid hc => ?_⟩
  · intro i _ h hready hn hs hrun hshare commit units part
    refine ⟨fun hg => ?_, fun hg he hentry => ?_⟩
    · obtain ⟨t, hgo, hst, hin, hout, hmem, hobjs⟩ := exec_updStart_passed h hready hn hs hrun hshare hg
      exact ⟨t, hgo, hst, hin, hout, hmem, hobjs⟩
    · obtain ⟨t, ready, hgo, hst, hin, hout, hrd, hobjs⟩ := exec_updStart_commits h hready hn hs hrun hg he rfl
      refine ⟨t, ready, hgo, hst, fun k hk => ?_, hout, hrd, hobjs⟩
      obtain ⟨sexp, hsexp⟩ := Option.isSome_iff_exists.mp (hentry k hk)
      exact ⟨_, (hin k hk).trans (UpdUnit.shared_free hsexp (State.updReady_free hready hn hs k hk) _), rfl, rfl, rfl, rfl, hsexp⟩
  · have hdie : u / 2 = die := by rw [hu]; split <;> omega
    refine ⟨fun hx hd => ?_, fun last hx => ?_⟩
    · obtain ⟨t, hserve, ht⟩ : ∃ t, s.serveUpd u x [] = (true, t) ∧ State.Serves u s t := by
        rw [← hdie] at hd
        rcases hx with hx | hx
        · exact State.serveUpd_record hr hat hid hc hx hd
        · exact State.serveUpd_norm hr hat hid hc hx hd
      have hact : ∀ p data swarm, x.act ≠ .send p data swarm := fun _ _ _ h => by rcases hx with hx | hx <;> rw [hx] at h <;> cases h
      exact ⟨_, exec_descriptorComplete_served hcache hact (hu ▸ hserve), ht.rd8, ht.objs⟩
    · intro es hd
      obtain ⟨v, t, hserve, hw, ht, hdone, hnowrite⟩ := State.serveUpd_granule hr hat hid hc hx (by rwa [hdie])
      have hact : ∀ p data swarm, x.act ≠ .send p data swarm := fun _ _ _ h => by rw [hx] at h; cases h
      refine ⟨_, exec_descriptorComplete_served hcache hact (hu ▸ hserve), fun a ha hring => ?_, ?_, hdone, hnowrite⟩
      · exact (ht.rd8 a hring).trans (hw.rd8 a ha)
      · refine ht.objs.trans ?_
        rw [hw.only]

end Sys2Proof.Machine
end

section
/-! SUPPORT: session commands that the shell lets through (13 R385), and those that read (07 R218, 13 R378, Table 13-5). -/

namespace Sys2Proof.Machine

variable {s : State} {m : CmdHdr} {c : CmdKind} {k : Session}

/-! ### The shell -/

/-- Noting a message number leaves everything by which the shell turns a command away. -/
theorem State.gateCmd_noted (s : State) (m : CmdHdr) (k : Session) (c : CmdKind) : (s.noted m).gateCmd k c = s.gateCmd k c := rfl

theorem ite_some_eq_none {α : Type} {p : Prop} [Decidable p] {x : α} {e : Option α} : (if p then some x else e) = none ↔ ¬ p ∧ e = none := by
  by_cases h : p
  · simp [h]
  · simp [h]

/-- What the shell asks of a command, row by row of its tables (13 Tables 13-1 and 13-5, 14 R403 to R405). -/
theorem State.gateCmd_eq_none : s.gateCmd k c = none ↔
    (s.ff0.split && !s.ff0.ruled || s.ff1.split && !s.ff1.ruled) = false ∧ s.lcs ∈ c.states ∧ (s.bothFailed = true → c.failed = true)
      ∧ (s.pwr.inReset = true → c.held = true) ∧ k.role ≤ c.role := by
  unfold State.gateCmd
  simp only [ite_some_eq_none]
  simp

/-- A command that the shell lets through runs on the state with its message number noted, and its reply goes to its session. -/
theorem State.cmd_admits (h : s.admits m c k) (go : Session → State → SessOut × State) :
    s.cmd m c go = (go k (s.noted m)).2.say { (go k (s.noted m)).1 with sid := m.sid, seq := m.seq } := by
  obtain ⟨hses, hcode, hgate⟩ := h
  have hpass : (if codeUnlisted m then some stMalformed else (s.noted m).gateCmd k c) = none := by
    rw [hcode, s.gateCmd_noted, hgate]
    rfl
  unfold State.noted at hpass ⊢
  unfold State.cmd State.command
  rw [hses]
  dsimp only
  rw [hpass]

/-- A command is let through only in the life-cycle states that serve it (Table 13-1). -/
theorem State.admits.lcs_mem (h : s.admits m c k) : s.lcs ∈ c.states := State.lcs_of_gateCmd h.2.2

/-! ### Identity and attestation (13 R378) -/

/-- The report with its signature, for which the signer takes one draw; a SCRAPPED module signs nothing (13 R369). -/
theorem State.report_signed (h : s.lcs ≠ 4) (nonce : W256) : s.report nonce
    = (s.reportBytes nonce ++ beBytes 96 (Config.ecdsaSign s.fuse.idKey s.free (s.reportBytes nonce)).toNat, s.skipFree 1) := if_neg h

theorem State.report_scrapped (h : s.lcs = 4) (nonce : W256) :
    s.report nonce = (s.reportBytes nonce ++ List.replicate 96 0, s) := if_pos h

theorem exec_ident (h : s.admits m { role := 2, states := [1, 2, 3, 4], held := true, failed := true } k) :
    exec (.ident m) s = .next (((s.noted m).report 0).2.reply m stOk (((s.noted m).report 0).1 ++ s.fuse.cert)) :=
  congrArg Host.Outcome.next (State.cmd_admits h _)

theorem exec_attest (nonce : W256) (h : s.admits m { role := 2, states := [1, 2, 3], held := true } k) :
    exec (.attest m nonce) s = .next (((s.noted m).report nonce).2.reply m stOk ((s.noted m).report nonce).1) :=
  congrArg Host.Outcome.next (State.cmd_admits h _)

/-! ### Registers, the log and the Capsule ring -/

theorem exec_rdreg (a : W64) (h : s.admits m (heldCmd 2) k) : exec (.rdreg m a) s = .next (
    if a.toNat % 8 ≠ 0 then (s.noted m).reply m stMalformed
    else match s.regAt a.toNat with
      | none => (s.noted m).reply m stRefused
      | some r =>
        if s.pwr.inReset && !r.held then (s.noted m).reply m stBusy
        else ((s.noted m).regRead r).reply m stOk (leBytes 8 ((s.noted m).regWord r).toNat)) := by
  refine congrArg Host.Outcome.next ((State.cmd_admits h _).trans ?_)
  dsimp only
  rw [State.noted_regAt]
  split
  · rfl
  · cases s.regAt a.toNat with
    | none => rfl
    | some r =>
      dsimp only
      rw [show (s.noted m).pwr = s.pwr from rfl]
      split
      · rfl
      · rfl

theorem exec_evread (a b : W64) (h : s.admits m { role := 2, states := [2], held := true, failed := true } k) :
    exec (.evread m a b) s = .next ((s.noted m).say
      { sid := m.sid, type := 5, seq := m.seq, status := stOk
        events := s.ev.log.filter fun e => decide (a ≤ e.seq) && decide (e.seq ≤ b) }) :=
  congrArg Host.Outcome.next (State.cmd_admits h _)

theorem exec_capread (p : Nat) (a b : W64) (h : s.admits m (fieldCmd 2) k) :
    exec (.capread m p a b) s = .next ((s.noted m).say
      { sid := m.sid, type := 5, seq := m.seq, status := stOk
        caps := (s.ev.ring.map (·.1)).filter fun r => capWithin r p a b }) :=
  congrArg Host.Outcome.next (State.cmd_admits h _)

/-! ### The failed positions (12 R360) -/

/-- The number whose lowest `n` bits are those of a predicate. -/
def bitSum (f : Nat → Bool) (n : Nat) : Nat := (List.range n).foldl (fun a p => if f p then a + 2 ^ p else a) 0

theorem bitSum_succ (f : Nat → Bool) (n : Nat) : bitSum f (n + 1) = if f n then bitSum f n + 2 ^ n else bitSum f n := by
  unfold bitSum
  rw [List.range_succ, List.foldl_append]
  rfl

theorem bitSum_lt (f : Nat → Bool) (n : Nat) : bitSum f n < 2 ^ n := by
  induction n with
  | zero => exact Nat.one_pos
  | succ n ih =>
    rw [bitSum_succ, pow_succ]
    split <;> omega

theorem testBit_bitSum (f : Nat → Bool) {n p : Nat} (hp : p < n) : (bitSum f n).testBit p = f p := by
  induction n with
  | zero => omega
  | succ n ih =>
    rw [bitSum_succ]
    obtain rfl | hlt := Nat.eq_or_lt_of_le (Nat.le_of_lt_succ hp)
    · have htop := Nat.testBit_lt_two_pow (bitSum_lt f p)
      cases f p with
      | false => exact htop
      | true => rw [if_pos rfl, Nat.add_comm, Nat.testBit_two_pow_add_eq, htop]; rfl
    · rw [← ih hlt]
      split
      · rw [Nat.add_comm, Nat.testBit_two_pow_add_gt hlt]
      · rfl

/-- Bit `p` of a little-endian number stands in bit `p % 8` of byte `p / 8`. -/
theorem getLsbD_leBytes {n p : Nat} (hp : p / 8 < n) (v : Nat) : ((leBytes n v).getD (p / 8) 0).getLsbD (p % 8) = v.testBit p := by
  have hbit : p % 8 < 8 := Nat.mod_lt _ (by decide)
  rw [List.getD_eq_getElem?_getD, leBytes_getElem? hp, Option.getD_some, BitVec.getLsbD_ofNat, decide_eq_true hbit, Bool.true_and,
    show (256 : Nat) = 2 ^ 8 from rfl, ← pow_mul, Nat.testBit_div_two_pow, Nat.mod_add_div]

/-- The failed bits of each die's positions, as HEALTH gives them: 9 bytes to a die (log 30). -/
def State.failedBits (s : State) : List Byte :=
  (List.range 12).flatMap fun d => leBytes 9 (bitSum (fun p => s.ev.failed.contains (d * 72 + p)) 72)

theorem State.failedBits_eq (s : State) : s.failedBits = (List.range 108).map fun l =>
    (leBytes 9 (bitSum (fun p => s.ev.failed.contains (l / 9 * 72 + p)) 72)).getD (l % 9) 0 :=
  flatMap_range_blocks _ 0 (by decide) (fun _ => length_leBytes _ _) 12

theorem State.length_failedBits (s : State) : s.failedBits.length = 108 := by
  rw [s.failedBits_eq, List.length_map, List.length_range]

theorem State.getLsbD_failedBits (s : State) {d p : Nat} (hd : d < 12) (hp : p < 72) :
    (s.failedBits.getD (9 * d + p / 8) 0).getLsbD (p % 8) = s.ev.failed.contains (d * 72 + p) := by
  have hdiv : (9 * d + p / 8) / 9 = d := by omega
  have hmod : (9 * d + p / 8) % 9 = p / 8 := by omega
  have hbyte : s.failedBits.getD (9 * d + p / 8) 0 = (leBytes 9 (bitSum (fun p => s.ev.failed.contains (d * 72 + p)) 72)).getD (p / 8) 0 := by
    rw [s.failedBits_eq, List.getD_eq_getElem?_getD, List.getElem?_map, List.getElem?_range (by omega), Option.map_some,
      Option.getD_some, hdiv, hmod]
  rw [hbyte, getLsbD_leBytes (by omega), testBit_bitSum _ hp]

theorem exec_health (h : s.admits m (heldCmd 2) k) : exec (.health m) s
    = .next ((s.noted m).reply m stOk (s.failedBits ++ s.ev.badGran.flatMap fun g => leBytes 8 (g * 4096))) :=
  congrArg Host.Outcome.next (State.cmd_admits h _)

/-- Settles O40: each command runs on the noted state and replies with what it reads there; the report alone draws, and the register
read alone touches a counter. -/
theorem readCommandsOnlyReply : Obligations.ReadCommandsOnlyReply := by
  unfold Obligations.ReadCommandsOnlyReply
  intro s m k n sig id
  refine ⟨fun h hl => ?_, fun h hl => ?_, fun nonce h => ?_, fun a h => exec_rdreg a h, fun a b h => exec_evread a b h,
    fun p a b h => exec_capread p a b h, fun h => ⟨s.failedBits, s.length_failedBits, exec_health h, fun d p => s.getLsbD_failedBits⟩⟩
  · rw [exec_ident h, State.report_signed (s := s.noted m) hl]
    rfl
  · rw [exec_ident h, State.report_scrapped (s := s.noted m) hl]
  · have hl : s.lcs ≠ 4 := fun hl => absurd (hl ▸ h.lcs_mem) (by decide)
    rw [exec_attest nonce h, State.report_signed (s := s.noted m) hl]
    rfl

end Sys2Proof.Machine
end

section
/-! SUPPORT: writes of registers by a session (13 R387, Table 13-5). -/

namespace Sys2Proof.Machine

variable {s : State} {m : CmdHdr} {k : Session}

/-! ### Where a register lies (Table 7-2) -/

theorem State.regAt_core (s : State) {die core o : Nat} (hd : die < 12) (hc : core < 56) (ho : o < 0x10000) :
    s.regAt (coreRegs + (die * 128 + core) * 0x10000 + o) = some (.core (die * 128 + core) o) := by
  have hin : coreRegs ≤ coreRegs + (die * 128 + core) * 0x10000 + o
      ∧ coreRegs + (die * 128 + core) * 0x10000 + o < coreRegs + 12 * 128 * 0x10000 := by omega
  have hkey : (coreRegs + (die * 128 + core) * 0x10000 + o - coreRegs) / 0x10000 = die * 128 + core := by omega
  have hoff : (coreRegs + (die * 128 + core) * 0x10000 + o - coreRegs) % 0x10000 = o := by omega
  have hcore : (die * 128 + core) % 128 < if s.fuse.gradeB then 56 else 64 := by split <;> omega
  unfold State.regAt
  rw [if_pos hin]
  dsimp only
  rw [hkey, hoff, if_pos hcore]

theorem State.regAt_die (s : State) {die o : Nat} (hd : die < 12) (ho : o < 0x1000000) :
    s.regAt (dieRegs + die * 0x1000000 + o) = some (.die die o) := by
  have hcore : ¬ (coreRegs ≤ dieRegs + die * 0x1000000 + o ∧ dieRegs + die * 0x1000000 + o < coreRegs + 12 * 128 * 0x10000) := by
    unfold coreRegs dieRegs
    omega
  have hin : dieRegs ≤ dieRegs + die * 0x1000000 + o ∧ dieRegs + die * 0x1000000 + o < dieRegs + 12 * 0x1000000 := by omega
  have hdie : (dieRegs + die * 0x1000000 + o - dieRegs) / 0x1000000 = die := by omega
  have hoff : (dieRegs + die * 0x1000000 + o - dieRegs) % 0x1000000 = o := by omega
  unfold State.regAt
  rw [if_neg hcore, if_pos hin, hdie, hoff]

theorem State.regAt_ctl (s : State) {half o : Nat} (hh : half < 2) (ho : o < 0x10000000) :
    s.regAt (ctlRegs + half * 0x10000000 + o) = some (.ctl half o) := by
  have hcore : ¬ (coreRegs ≤ ctlRegs + half * 0x10000000 + o ∧ ctlRegs + half * 0x10000000 + o < coreRegs + 12 * 128 * 0x10000) := by
    unfold coreRegs ctlRegs
    omega
  have hdie : ¬ (dieRegs ≤ ctlRegs + half * 0x10000000 + o ∧ ctlRegs + half * 0x10000000 + o < dieRegs + 12 * 0x1000000) := by
    unfold dieRegs ctlRegs
    omega
  have hin : ctlRegs ≤ ctlRegs + half * 0x10000000 + o ∧ ctlRegs + half * 0x10000000 + o < ctlRegs + 2 * 0x10000000 := by omega
  have hhalf : (ctlRegs + half * 0x10000000 + o - ctlRegs) / 0x10000000 = half := by omega
  have hoff : (ctlRegs + half * 0x10000000 + o - ctlRegs) % 0x10000000 = o := by omega
  unfold State.regAt
  rw [if_neg hcore, if_neg hdie, if_pos hin, hhalf, hoff]

theorem State.leadHalf_lt (s : State) : s.leadHalf < 2 := by
  unfold State.leadHalf
  split <;> decide

/-! ### The command -/

/-- Whom the shell lets through for a command of FIELD it lets through for a write of any register: a clear of the latches asks no more. -/
theorem State.admits.wrreg (h : s.admits m (fieldCmd 1) k) (a : W64) : s.admits m (s.wrregKind a) k := by
  obtain ⟨hses, hcode, hgate⟩ := h
  refine ⟨hses, hcode, ?_⟩
  unfold State.wrregKind
  split
  · obtain ⟨hsplit, hstate, hfailed, hreset, hrole⟩ := State.gateCmd_eq_none.mp hgate
    exact State.gateCmd_eq_none.mpr ⟨hsplit, hstate, hfailed, fun hr => absurd (hreset hr) Bool.false_ne_true, hrole⟩
  · exact hgate

section
variable (h : s.admits m (fieldCmd 1) k) (v : W64) {a : W64}
include h

theorem exec_wrreg_unaligned (ha : a.toNat % 8 ≠ 0) : exec (.wrreg m a v) s = .next ((s.noted m).reply m stMalformed) := by
  refine congrArg Host.Outcome.next ((State.cmd_admits (h.wrreg a) _).trans ?_)
  dsimp only
  rw [if_pos ha]
  rfl

theorem exec_wrreg_noBlock (ha : a.toNat % 8 = 0) (hr : s.regAt a.toNat = none) :
    exec (.wrreg m a v) s = .next ((s.noted m).reply m stRefused) := by
  refine congrArg Host.Outcome.next ((State.cmd_admits (h.wrreg a) _).trans ?_)
  dsimp only
  rw [if_neg (not_not.mpr ha), State.noted_regAt, hr]
  rfl

/-- A write at an address of a register word: the status and the state are those of the word's write. -/
theorem exec_wrreg_at {n : Nat} {r : RegAt} {st : Byte} {t : State} (hn : n < 2 ^ 64) (h8 : n % 8 = 0) (hr : s.regAt n = some r)
    (hw : (s.noted m).writeReg k.role r v = (st, t)) : exec (.wrreg m (BitVec.ofNat 64 n) v) s = .next (t.reply m st) := by
  have hnat : (BitVec.ofNat 64 n).toNat = n := by rw [BitVec.toNat_ofNat, Nat.mod_eq_of_lt hn]
  refine congrArg Host.Outcome.next ((State.cmd_admits (h.wrreg _) _).trans ?_)
  dsimp only
  rw [hnat, if_neg (not_not.mpr h8), State.noted_regAt, hr]
  dsimp only
  rw [hw]
  rfl

/-! ### The blocks -/

variable {die core o : Nat} {st : Byte} {t : State}

theorem exec_wrreg_core (hd : die < 12) (hc : core < 56) (ho : o < 0x10000) (h8 : o % 8 = 0)
    (hw : (s.noted m).writeReg k.role (.core (die * 128 + core) o) v = (st, t)) :
    exec (.wrreg m (BitVec.ofNat 64 (coreRegs + (die * 128 + core) * 0x10000 + o)) v) s = .next (t.reply m st) :=
  exec_wrreg_at h v (by unfold coreRegs; omega) (by unfold coreRegs; omega) (s.regAt_core hd hc ho) hw

theorem exec_wrreg_die (hd : die < 12) (ho : o < 0x1000000) (h8 : o % 8 = 0)
    (hw : (s.noted m).writeReg k.role (.die die o) v = (st, t)) :
    exec (.wrreg m (BitVec.ofNat 64 (dieRegs + die * 0x1000000 + o)) v) s = .next (t.reply m st) :=
  exec_wrreg_at h v (by unfold dieRegs; omega) (by unfold dieRegs; omega) (s.regAt_die hd ho) hw

theorem exec_wrreg_lead (ho : o < 0x10000000) (h8 : o % 8 = 0)
    (hw : (s.noted m).writeReg k.role (.ctl s.leadHalf o) v = (st, t)) :
    exec (.wrreg m (BitVec.ofNat 64 (ctlRegs + s.leadHalf * 0x10000000 + o)) v) s = .next (t.reply m st) :=
  have hl := s.leadHalf_lt
  exec_wrreg_at h v (by unfold ctlRegs; omega) (by unfold ctlRegs; omega) (s.regAt_ctl hl ho) hw

end

/-! ### The words of the lead's block -/

variable (s : State) (role : Nat) (v : W64)

theorem State.writeReg_dwMs : s.writeReg role (.ctl s.leadHalf 0x201018) v
    = (stOk, s.modEv fun x => { x with dwMs := v.setWidth 16 }) := by
  simp [State.writeReg, State.writeFf]

theorem State.writeReg_mgt (o : Nat) (ho : o < 0x100000) : s.writeReg role (.ctl s.leadHalf (0x300000 + o)) v = s.writeMgt role o v := by
  have hb : (0x300000 + o) / 0x100000 = 3 := by omega
  have hm : (0x300000 + o) % 0x100000 = o := by omega
  simp [State.writeReg, hb, hm]

theorem State.writeReg_cap : s.writeReg role (.ctl s.leadHalf 0x400008) v = (stOk, s.modPwr fun p => { p with cap := v.setWidth 16 }) := by
  simp [State.writeReg, State.writePwr]

/-- Settles O41: the address names its word, and the write of each word reaches its field. -/
theorem registerWritesReachTheirFields : Obligations.RegisterWritesReachTheirFields := by
  unfold Obligations.RegisterWritesReachTheirFields
  intro s m k v die core h hd hc n lead key at_
  have hmgt := n.writeReg_mgt k.role v
  refine ⟨fun a ha => exec_wrreg_unaligned h v ha, fun a ha hr => exec_wrreg_noBlock h v ha hr, ?_, ?_, ?_, ?_, ?_, ?_, ?_,
    fun hfail => ?_, fun hfail hr => ?_, ?_, fun hr => ?_, ?_⟩
  · exact exec_wrreg_core (o := 0) h v hd hc (by decide) rfl rfl
  · exact exec_wrreg_core (o := 0x2000) h v hd hc (by decide) rfl rfl
  · exact exec_wrreg_core (o := 0x2008) h v hd hc (by decide) rfl rfl
  · exact exec_wrreg_die (o := 0x20) h v hd (by decide) rfl rfl
  · exact exec_wrreg_die (o := 0x10008) h v hd (by decide) rfl rfl
  · exact exec_wrreg_die (o := 0x10010) h v hd (by decide) rfl rfl
  · exact exec_wrreg_lead (o := 0x201018) h v (by decide) rfl (n.writeReg_dwMs _ _)
  · have hkeeps : ¬ (v.getLsbD 7 = true ∧ k.role ≠ 0) := fun hc => Bool.false_ne_true (hfail.symm.trans hc.1)
    exact exec_wrreg_lead (o := 0x300010) h v (by decide) rfl ((hmgt 0x10 (by decide)).trans (if_neg hkeeps))
  · exact exec_wrreg_lead (o := 0x300010) h v (by decide) rfl ((hmgt 0x10 (by decide)).trans (if_pos ⟨hfail, hr⟩))
  · exact exec_wrreg_lead (o := 0x300018) h v (by decide) rfl (hmgt 0x18 (by decide))
  · exact exec_wrreg_lead (o := 0x300028) h v (by decide) rfl ((hmgt 0x28 (by decide)).trans (if_pos hr))
  · exact exec_wrreg_lead (o := 0x400008) h v (by decide) rfl (n.writeReg_cap _ _)

end Sys2Proof.Machine
end

section
/-! SUPPORT: the channels of a die, whose descriptors are fetched and served (07 R211, R212, R226, 09 R275, R293). -/

namespace Sys2Proof.Machine

variable {r s : State} {die ch : Nat}

/-! ### Fetches (07 R211, R212) -/

/-- The 64 bytes of a slot of a channel's ring, as the die store holds them. -/
def State.slotBytes (s : State) (die ch slot : Nat) : List Byte := (List.range 64).map fun b => s.rd8 (slotAddr die ch slot + b)

/-- A ring has 512 slots (07 R211). -/
theorem slotAddr_mod (slot : Nat) : slotAddr die ch (slot % 512) = slotAddr die ch slot := by
  unfold slotAddr
  rw [Nat.mod_mod]

theorem State.slotBytes_mod (s : State) (slot : Nat) : s.slotBytes die ch (slot % 512) = s.slotBytes die ch slot := by
  unfold State.slotBytes
  rw [slotAddr_mod]

/-- A channel after the front of its ring has been fetched from a slot of the given bytes; a discarded descriptor moves nothing. -/
def Chan.fetched (slot : Nat → List Byte) (c : Chan) : Chan :=
  match c.ring with
  | [] => c
  | x :: rest =>
    { c with cache := c.cache ++ if x.act = .void then [] else [x.read (slot c.head.toNat)], ring := rest, head := c.head + 1 }

/-- The descriptors that a burst of `n` fetches moves. -/
def Chan.burst (slot : Nat → List Byte) (c : Chan) (n : Nat) : List PDesc :=
  ((c.ring.take n).zipIdx.filter fun x => x.1.act != .void).map fun x => x.1.read (slot (c.head.toNat + x.2))

/-- A burst takes the descriptors in front of the ring, each with the bytes of its own slot. -/
theorem Chan.fetched_iterate {slot : Nat → List Byte} (hslot : ∀ k, slot (k % 512) = slot k) (c : Chan) (n : Nat) :
    (Chan.fetched slot)^[n] c = { c with
      ring := c.ring.drop n, head := c.head + BitVec.ofNat 9 (min n c.ring.length), cache := c.cache ++ c.burst slot n } := by
  induction n with
  | zero => simp [Chan.burst]
  | succ n ih =>
    rw [Function.iterate_succ_apply', ih]
    by_cases hn : n < c.ring.length
    case neg =>
      have hle := Nat.not_lt.mp hn
      simp [Chan.fetched, Chan.burst, List.drop_eq_nil_of_le hle, List.take_of_length_le hle, List.drop_eq_nil_of_le (Nat.le_succ_of_le hle),
        List.take_of_length_le (Nat.le_succ_of_le hle), Nat.min_eq_right hle, Nat.min_eq_right (Nat.le_succ_of_le hle)]
    case pos =>
      have hhead : (c.head + BitVec.ofNat 9 n).toNat = (c.head.toNat + n) % 512 := by simp [BitVec.toNat_add]
      have hnext : c.head + BitVec.ofNat 9 n + 1 = c.head + BitVec.ofNat 9 (n + 1) := by
        rw [BitVec.add_assoc, ← BitVec.ofNat_add_ofNat]
        rfl
      have hburst : c.burst slot (n + 1) = c.burst slot n
          ++ if c.ring[n].act = .void then [] else [c.ring[n].read (slot (c.head.toNat + n))] := by
        unfold Chan.burst
        rw [List.take_succ_eq_append_getElem hn, List.zipIdx_append, List.filter_append, List.map_append, List.length_take,
          Nat.min_eq_left hn.le]
        congr 1
        by_cases hv : c.ring[n].act = .void
        · simp [hv]
        · simp [hv]
      rw [Nat.min_eq_left hn.le, Nat.min_eq_left hn, List.drop_eq_getElem_cons hn, hburst]
      unfold Chan.fetched
      dsimp only
      rw [hhead, hslot, hnext, List.append_assoc]

/-- From `r` to `s` only channels of dies have moved, and the channel `ch` of a die has become `c`. -/
structure State.ChanMoved (r s : State) (die ch : Nat) (c : Chan) : Prop where
  mem : s.mem = r.mem
  errs : s.errs = r.errs
  objs : s.objs = r.objs
  cores : s.cores = r.cores
  chan : (s.die die).chan ch = c

namespace State.ChanMoved

variable {c : Chan}

theorem refl (s : State) : s.ChanMoved s die ch ((s.die die).chan ch) := ⟨rfl, rfl, rfl, rfl, rfl⟩

theorem modChan (h : r.ChanMoved s die ch c) (f : Chan → Chan) :
    r.ChanMoved (s.modDie die fun d => d.modChan ch f) die ch (f c) :=
  ⟨h.mem, h.errs, h.objs, h.cores, by rw [State.die_modDie, Die.chan_modChan, h.chan]⟩

theorem slotBytes (h : r.ChanMoved s die ch c) : s.slotBytes die ch = r.slotBytes die ch := by
  unfold State.slotBytes State.rd8
  rw [h.mem]

/-- A fetch through the code of the die store, where no codeword holds an error, reads the bytes as they are stored. -/
theorem fetchOne (h : r.ChanMoved s die ch c) (he : r.errs = []) :
    r.ChanMoved (s.fetchOne die ch) die ch (c.fetched (r.slotBytes die ch)) := by
  have hread : ∀ x : PDesc, s.readMem { part := x.part } ((List.range 64).map (slotAddr die ch c.head.toNat + ·))
      = (s.slotBytes die ch c.head.toNat, s) := fun x => by
    rw [s.readMem_clear (State.clear_ring (h.errs.trans he) x.part), List.map_map]
    rfl
  unfold State.fetchOne Chan.fetched
  rw [h.chan]
  dsimp only
  cases hring : c.ring with
  | nil => exact h
  | cons x rest =>
    dsimp only
    by_cases hv : x.act = .void
    · simp only [if_pos hv, List.append_nil]
      exact h.modChan fun d => { d with ring := rest, head := d.head + 1 }
    · simp only [if_neg hv, hread, ← h.slotBytes]
      exact h.modChan fun d => { d with cache := d.cache ++ [x.read (s.slotBytes die ch c.head.toNat)], ring := rest, head := d.head + 1 }

theorem fetches (h : r.ChanMoved s die ch c) (he : r.errs = []) (n : Nat) :
    r.ChanMoved ((List.range n).foldl (fun s _ => s.fetchOne die ch) s) die ch ((Chan.fetched (r.slotBytes die ch))^[n] c) := by
  induction n with
  | zero => exact h
  | succ n ih =>
    rw [List.range_succ, List.foldl_append, Function.iterate_succ_apply']
    exact ih.fetchOne he

/-- With nothing waiting for a slot nothing is written into the ring (07 R213). -/
theorem refill (h : r.ChanMoved s die ch c) (hw : c.wait = []) : r.ChanMoved (s.refill die ch) die ch c := by
  have hc : { c with wait := c.wait.drop (512 - c.ring.length) } = c := by
    rw [hw, List.drop_nil, ← hw]
  have hm := h.modChan fun d => { d with wait := d.wait.drop (512 - c.ring.length) }
  unfold State.refill
  simp only [h.chan]
  rw [hw, List.take_nil]
  exact hc ▸ hm

end State.ChanMoved

theorem exec_descriptorFetch_full (h : 32 < ((s.die die).chan ch).cache.length) : exec (.descriptorFetch die ch) s = .next s :=
  congrArg Host.Outcome.next (if_neg (Nat.not_le.mpr h))

/-- DESCRIPTOR_FETCH: a burst of 32 where the cache holds 32 or fewer (07 R212). -/
theorem exec_descriptorFetch (hw : ((s.die die).chan ch).wait = []) (hc : ((s.die die).chan ch).cache.length ≤ 32) (he : s.errs = []) :
    ∃ t, exec (.descriptorFetch die ch) s = .next t
      ∧ s.ChanMoved t die ch ((Chan.fetched (s.slotBytes die ch))^[32] ((s.die die).chan ch)) := by
  refine ⟨_, congrArg Host.Outcome.next (if_pos hc), ((State.ChanMoved.refl s).fetches he 32).refill ?_⟩
  rw [Chan.fetched_iterate s.slotBytes_mod]
  exact hw

/-! ### Reads of a unit within its windows (07 R226) -/

/-- The value that a list of addresses and their values gives an address. -/
theorem find?_zip_map {α : Type} (f : Nat → α) {l : List Nat} {p : Nat} (hp : p ∈ l) :
    (((l.zip (l.map f)).find? fun x => x.1 == p).map (·.2)) = some (f p) := by
  induction l with
  | nil => cases hp
  | cons q l ih =>
    rw [List.map_cons, List.zip_cons_cons]
    by_cases hq : q = p
    · simp [hq]
    · rw [List.find?_cons_of_neg (by simpa using hq)]
      exact ih ((List.mem_cons.mp hp).resolve_left fun h => hq h.symm)

/-- No byte is out of window when the check suppresses none. -/
theorem inWindow_of_outOfWindow_nil {bs : List (Nat × (Nat ⊕ Nat))} (h : outOfWindow bs = []) {x : Nat × (Nat ⊕ Nat)} (hx : x ∈ bs) :
    ∃ p, x.2 = .inl p ∧ p ∈ inWindow bs := by
  obtain ⟨a, p | k⟩ := x
  · exact ⟨p, rfl, List.mem_filterMap.mpr ⟨_, hx, rfl⟩⟩
  · exact absurd (List.filterMap_eq_nil_iff.mp h _ hx) (by simp)

/-- A clear read of bytes that all lie in window gives them as they are stored, and changes nothing. -/
theorem State.dmaRead_clear {who : Who} (hc : s.clear who) (unit : W32) {a n : Nat} (ho : outOfWindow (s.dmaBytes who.part false a n) = []) :
    s.dmaRead who unit a n = ((inWindow (s.dmaBytes who.part false a n)).map s.rd8, s) := by
  unfold State.dmaRead
  simp only [s.readMem_clear hc, ho]
  refine Prod.ext ?_ rfl
  dsimp only
  conv_rhs => rw [inWindow, List.map_filterMap]
  rw [← List.filterMap_eq_map]
  refine List.filterMap_congr fun x hx => ?_
  obtain ⟨p, hp, hm⟩ := inWindow_of_outOfWindow_nil ho hx
  obtain ⟨b, w⟩ := x
  obtain rfl : w = .inl p := hp
  simp [find?_zip_map s.rd8 hm]

/-! ### A PUT's descriptor is served (07 R212, 09 R275) -/

/-- A descriptor of one row has that row at its source (Table 7-6). -/
theorem PDesc.rows_one {x : PDesc} (h : x.cnt1 = 1) : x.rows = [x.src.toNat] := by
  unfold PDesc.rows
  rw [h]
  simp [Nat.mod_eq_of_lt x.src.isLt]

theorem State.readRows_one {x : PDesc} (h : x.cnt1 = 1) (who : Who) (unit : W32) :
    s.readRows who unit x = s.dmaRead who unit x.src.toNat x.len0.toNat := by
  unfold State.readRows
  rw [PDesc.rows_one h]
  rfl

/-- The packet of a PUT carries the bytes that were read at its source behind its header's (Table 9-4). -/
theorem descPkt_put {x : PDesc} (h : x.hdr.kind = 0) (rec_ : List Byte) (swarm : Bool) (bs : List Byte) (bad : Nat → Bool) :
    descPkt rec_ x swarm bs bad = { x.hdr with body := x.hdr.body ++ bs } := by
  unfold descPkt
  split
  · omega
  · omega
  · rfl

theorem State.serveX_put {x : PDesc} (hk : x.hdr.kind = 0) (h1 : x.cnt1 = 1) (hs : x.signal = false) (hc : s.clear (s.xchWho die x.part))
    (hd : s.dmaReaches die x.part false x.src.toNat x.len0.toNat = true)
    (ho : outOfWindow (s.dmaBytes x.part false x.src.toNat x.len0.toNat) = []) :
    let sent := s.sendX die x.part x.drank
      { x.hdr with body := x.hdr.body ++ (inWindow (s.dmaBytes x.part false x.src.toNat x.len0.toNat)).map s.rd8 }
    s.serveX die x true false [] = if x.own then sent.settle x.at_ x.id else sent := by
  have hreach : (x.rows.all fun a => s.dmaReaches die x.part false a x.len0.toNat) = true := by
    rw [PDesc.rows_one h1]
    simp [hd]
  unfold State.serveX
  simp only [hreach, hs, State.readRows_one h1, State.dmaRead_clear hc _ ho, descPkt_put hk, Bool.not_true, Bool.false_eq_true, if_false]
  rfl

/-- A descriptor of the exchange engine leaves the cache and is served (07 R212). -/
theorem exec_descriptorComplete_send {x : PDesc} {rest : List PDesc} {own data swarm : Bool}
    (hcache : ((s.die die).chan ch).cache = x :: rest) (hact : x.act = .send own data swarm) :
    exec (.descriptorComplete die ch []) s = .next
      ((s.modDie die fun d => { d with chans := tset {} d.chans ch { d.chan ch with cache := rest } }).serveX die x data swarm []) := by
  have hdrop : (s.modDie die fun d => d.modChan ch fun c => { c with cache := c.cache.drop 1 })
      = s.modDie die fun d => { d with chans := tset {} d.chans ch { d.chan ch with cache := rest } } := by
    unfold State.modDie Die.modChan
    dsimp only
    rw [hcache]
    rfl
  show execDescriptorComplete die ch [] s = _
  unfold execDescriptorComplete
  rw [show s.upset [] = s from rfl]
  dsimp only
  rw [hcache]
  dsimp only
  rw [hact, hdrop]

/-- The channels of a die have no part in who its exchange engine is. -/
theorem State.clear_chans (f : Die → Tab Chan) (part : Nat) (h : s.clear (s.xchWho die part)) :
    let t := s.modDie die fun d => { d with chans := f d }
    t.clear (t.xchWho die part) := by
  intro t
  have hwho : t.xchWho die part = s.xchWho die part := by
    unfold State.xchWho
    rw [State.die_modDie]
  rw [hwho]
  exact h

end Sys2Proof.Machine
end

section
/-! SUPPORT: the patrol of a die (07 R218, R222). -/

namespace Sys2Proof.Machine

variable {s t : State} {die cw : Nat} {e : ErrPat}

/-! ### The counters of a memory (07 R218) -/

/-- The counters of a memory lie in its die or its core. -/
theorem State.eccOf_congr (hf : t.fuse = s.fuse) (hd : t.dies = s.dies) (hc : t.cores = s.cores) (a : Nat) : t.eccOf a = s.eccOf a := by
  unfold State.eccOf State.die State.core
  rw [hf, hd, hc]

/-- The counters of a populated memory change as they are told to. -/
theorem State.eccOf_modEcc (h : memUnit s.fuse.gradeB cw ≠ none) (f : EccCnt → EccCnt) : (s.modEcc cw f).eccOf cw = f (s.eccOf cw) := by
  unfold State.modEcc
  cases hm : memUnit s.fuse.gradeB cw with
  | none => exact absurd hm h
  | some u =>
    cases u with
    | hbm st =>
      simp only [State.eccOf, State.modDie_fuse, hm, State.die_modDie]
      split
      · rfl
      · rfl
    | dieStore d => simp only [State.eccOf, State.modDie_fuse, hm, State.die_modDie]
    | coreStore k => simp only [State.eccOf, State.modCore_fuse, hm]; exact congrArg Core.ecc (tget_tset _ _ _ _)

/-- Counting an error changes neither memory nor its patterns. -/
theorem State.modEcc_mem_errs (s : State) (a : Nat) (f : EccCnt → EccCnt) : (s.modEcc a f).mem = s.mem ∧ (s.modEcc a f).errs = s.errs := by
  unfold State.modEcc
  split <;> exact ⟨rfl, rfl⟩

/-- A corrected error: the codeword is intact again, memory is as it was, and the error is counted as corrected (07 R218). -/
theorem State.corrected_spec (h : memUnit s.fuse.gradeB cw ≠ none) (who : Who) :
    let t := s.corrected cw who
    t.errs = tset [] s.errs cw [] ∧ t.mem = s.mem ∧ (t.eccOf cw).ce = satAdd (s.eccOf cw).ce 1 ∧ (t.eccOf cw).ue = (s.eccOf cw).ue := by
  intro t
  obtain ⟨hmem, herrs⟩ := State.modEcc_mem_errs (s.setErr cw []) cw fun c => { c with ce := satAdd c.ce 1, seen := c.seen + 1 }
  have hecc := State.eccOf_modEcc (s := s.setErr cw []) h fun c => { c with ce := satAdd c.ce 1, seen := c.seen + 1 }
  have hpost : ∀ u : State, ∀ x, (u.post x).eccOf cw = u.eccOf cw := fun u x => State.eccOf_congr (by simp) (by simp) (by simp) cw
  unfold t State.corrected
  dsimp only
  split
  · rw [State.post_errs, State.post_mem, hpost, herrs, hmem, hecc]
    exact ⟨rfl, rfl, rfl, rfl⟩
  · rw [herrs, hmem, hecc]
    exact ⟨rfl, rfl, rfl, rfl⟩

/-! ### The command -/

theorem patrolled_memUnit {gradeB : Bool} {a : Nat} (h : patrolled gradeB die a = true) : memUnit gradeB a ≠ none := fun hn => by
  unfold patrolled at h
  rw [hn] at h
  cases h

/-- With the patrol off or the compute dies unpowered no codeword is read (07 R222). -/
theorem exec_patrolScrub_off (h : (s.die die).scrubEn = false ∨ s.fabricOn = false) : exec (.patrolScrub die []) s = .next s := by
  refine congrArg Host.Outcome.next (if_pos ?_)
  rw [Bool.or_eq_true, Bool.not_eq_true', Bool.not_eq_true']
  exact h

/-- The patrol reads the one codeword that holds an error, and corrects it where its code can. -/
theorem exec_patrolScrub_corrected (he : s.errs = [(cw, e)]) (hp : patrolled s.fuse.gradeB die cw = true)
    (hon : (s.die die).scrubEn = true) (hf : s.fabricOn = true) (hcw : cwState cw e = .corrected) :
    exec (.patrolScrub die []) s = .next (s.corrected cw { part := s.streamOwner cw }) := by
  have hread : ∀ who, s.cwRead cw who = s.corrected cw who := fun who => by
    have hpat : tget [] s.errs cw = e := by
      rw [he]
      exact if_pos rfl
    unfold State.cwRead
    rw [hpat, hcw]
  refine congrArg Host.Outcome.next ((if_neg (by simp [hon, hf])).trans ?_)
  rw [show s.upset [] = s from rfl, he]
  exact (if_pos hp).trans (hread _)

/-- Settles O29: a burst of fetches, a PUT's descriptor and the patrol, each from what it does to the channel or the codeword. -/
theorem channelsAndPatrolServeMemory : Obligations.ChannelsAndPatrolServeMemory := by
  unfold Obligations.ChannelsAndPatrolServeMemory
  refine ⟨fun s die ch => ?_, fun s die ch x rest own hcache hact hk h1 hs hc hd => ?_, fun s die cw e he hp => ?_⟩
  · refine ⟨fun hw hc he => ?_, exec_descriptorFetch_full⟩
    obtain ⟨t, hgo, ht⟩ := exec_descriptorFetch hw hc he
    have hchan := ht.chan
    rw [Chan.fetched_iterate s.slotBytes_mod] at hchan
    refine ⟨t, hgo, ht.mem, ht.objs, ht.cores, ?_⟩
    intro c' slot
    have hc' : c' = _ := hchan
    rw [hc']
    exact ⟨rfl, rfl, rfl, hw, rfl⟩
  · intro taken bs sent ho
    have hown : x.own = own := by
      unfold PDesc.own
      rw [hact]
    rw [exec_descriptorComplete_send hcache hact]
    refine congrArg Host.Outcome.next ((State.serveX_put hk h1 hs (State.clear_chans _ _ hc) hd ho).trans ?_)
    rw [hown]
    rfl
  · refine ⟨exec_patrolScrub_off, fun hon hf hcw => ?_⟩
    obtain ⟨herrs, hmem, hce, hue⟩ := State.corrected_spec (patrolled_memUnit hp) { part := s.streamOwner cw }
    refine ⟨_, exec_patrolScrub_corrected he hp hon hf hcw, herrs.trans ?_, hmem, hce, hue⟩
    simp [he, tset]

end Sys2Proof.Machine
end

section
/-! SUPPORT: the report of a load (08 R252), and an image whose load frees a job slot (13 R382): the load that waits for the slot's key joins
the loader's queue within the same step. -/

namespace Sys2Proof.Machine

variable (s : State)

/-! ### The report of a load -/

theorem State.showReport_eq (hs : List Nat) (r : List Byte) (one : Bool) : ∃ a b, s.showReport hs r one = { s with ff0 := a, ff1 := b } := by
  unfold State.showReport
  refine List.foldlRecOn (motive := fun t : State => ∃ a b, t = { s with ff0 := a, ff1 := b }) _ _ ⟨s.ff0, s.ff1, rfl⟩ fun t ht h _ => ?_
  obtain ⟨a, b, rfl⟩ := ht
  unfold State.modFf
  split
  · exact ⟨_, _, rfl⟩
  · exact ⟨_, _, rfl⟩

/-- A Load event concerns no partition (12 R344). -/
theorem State.post_loadEv (unit : W32) (d : W64) :
    s.post (s.unitEv unit 0x18 0 0xFF d) = s.holdRec (s.formRec (s.unitEv unit 0x18 0 0xFF d)) :=
  s.post_of_no_part (by simp [State.unitEv])

/-- A report is what the loaders and the log show and the session hears; nothing else changes. -/
theorem State.report32_eq (hs : List Nat) (sid : W32) (seq : W64) (r : List Byte) (one : Bool) :
    ∃ a b v x, s.report32 hs sid seq r one = { s with ff0 := a, ff1 := b, ev := v, sec := x } := by
  obtain ⟨a, b, h⟩ := s.showReport_eq hs r one
  unfold State.report32
  dsimp only
  rw [State.post_loadEv, h]
  split
  · exact ⟨a, b, _, _, rfl⟩
  · exact ⟨a, b, _, _, rfl⟩

@[simp] theorem State.report32_ldr (hs : List Nat) (sid : W32) (seq : W64) (r : List Byte) (one : Bool) :
    (s.report32 hs sid seq r one).ldr = s.ldr := by
  obtain ⟨a, b, v, x, h⟩ := s.report32_eq hs sid seq r one
  rw [h]

/-- What the registers of the halves show once a report is out. -/
theorem State.report32_ff (hs : List Nat) (sid : W32) (seq : W64) (r : List Byte) (one : Bool) (half : Nat) :
    (s.report32 hs sid seq r one).ff half = (s.showReport hs r one).ff half := by
  unfold State.report32
  dsimp only
  rw [State.post_loadEv]
  split
  · rfl
  · rfl

/-! ### An image, and its digest (08 R230) -/

/-- Big-endian bytes of a number give the number. -/
theorem foldl_beBytes {n v : Nat} (h : v < 256 ^ n) : (beBytes n v).foldl (fun a (x : Byte) => a * 256 + x.toNat) 0 = v := by
  have hr : ∀ l : List Byte, l.foldr (fun x a => a * 256 + x.toNat) 0 = leNat l := fun l => by
    induction l with
    | nil => rfl
    | cons x l ih => rw [List.foldr_cons, ih, leNat, Nat.mul_comm, Nat.add_comm]
  rw [beBytes, List.foldl_reverse, hr, leNat_leBytes_of_lt h]

/-- An image of job 5 for partition 0, with a digest: core 0 of die 0, whose forward stream is one CTL.HALT (08 R230 to R239). -/
def haltImageWith (digest : List Byte) : List Byte :=
  let z := fun (n : Nat) => List.replicate n (0 : Byte)
  let entry := fun (type len off : Nat) => leBytes 4 type ++ leBytes 4 len ++ leBytes 8 off
  let header := leBytes 4 0x54434150 ++ leBytes 4 1 ++ leBytes 8 0x300 ++ leBytes 4 1 ++ leBytes 4 4 ++ leBytes 8 5
  let dir := entry tPART 128 0xC0 ++ entry tWIN 0 0x140 ++ entry tSYNC 0 0x140 ++ entry tSTRM 400 0x140
  let part := z 8 ++ leBytes 8 1 ++ z 112
  let strm := z 4 ++ leBytes 4 384 ++ leBytes 4 16 ++ z 372 ++ leBytes 16 (7 * 2 ^ 125 + 15 * 2 ^ 120)
  header ++ (digest ++ (z 48 ++ (dir ++ part ++ strm ++ z 48)))

/-- The image with its own digest. -/
def haltImage : List Byte := haltImageWith (beBytes 48 (Config.sha384 (haltImageWith (List.replicate 48 0))).toNat)

theorem imgDigest_haltImageWith (d : W384) : imgDigest (haltImageWith (beBytes 48 d.toNat)) = d := by
  have h : imgDigest (haltImageWith (beBytes 48 d.toNat))
      = BitVec.ofNat 384 ((beBytes 48 d.toNat).foldl (fun a (x : Byte) => a * 256 + x.toNat) 0) := rfl
  rw [h, foldl_beBytes (d.isLt.trans_le (by decide +kernel)), BitVec.ofNat_toNat, BitVec.setWidth_eq]

/-- The digest is taken with its own field zero. -/
theorem digestOf_haltImage : digestOf haltImage = imgDigest haltImage :=
  (congrArg Config.sha384 (by decide +kernel)).trans (imgDigest_haltImageWith _).symm

theorem headChecks_haltImage : headChecks haltImage false = none := by
  have h1 : check01 haltImage false = [] := by decide +kernel
  have h2 : check02 haltImage = [] := if_pos digestOf_haltImage
  have h3 : check03 haltImage = [] := by decide +kernel
  unfold headChecks
  simp only [firstReject, firstFail, h1, h2, h3]

/-! ### A full Hive -/

/-- The acting manager of a Hive whose 16 job slots are taken (11 R335): a load of job 17 waits for a key; the image of job 5 is for
partition 0, which holds job 1 here, and is the last of that job on this module. `queue` is the loader's queue. -/
def fullHive (queue : List (W32 × W64 × List Byte)) : State :=
  { State.reset with
    pwr := { state := .run, step := 10, lead := .west }
    ff0 := { up := true }
    parts := [(0, { loaded := true, job := 1, cores := [0] })]
    sec := { State.reset.sec with jobKeys := (List.range 16).map fun j => (j, { job := BitVec.ofNat 64 (j + 1), key := 0 }) }
    mgr := { acting := true, asks := [(17, [], 0)] }
    ldr := { queue := queue, held := [(0, 2, List.replicate 24 0 ++ leBytes 8 17)] } }

theorem fullHive_taken (q : List (W32 × W64 × List Byte)) : (fullHive q).modLdr (fun l => { l with queue := [] }) = fullHive [] := rfl

theorem checkImage_fullHive : checkImage (fullHive []) haltImage = none := by
  unfold checkImage
  rw [headChecks_haltImage]
  decide +kernel

/-- The load takes job 1 off the module, its slot goes to job 17, and the load that waited for it is released (13 R382; log 58). -/
theorem applyImage_fullHive_queue : ((fullHive []).applyImage haltImage).ldr.queue = (fullHive []).ldr.held := by decide +kernel

/-- LOAD_APPLY with an image that passes its checks, once nothing of it has to wait (08 R251). -/
theorem exec_loadApply_passes {s : State} {sid : W32} {seq : W64} {b : List Byte} {rest : List (W32 × W64 × List Byte)}
    (hq : s.ldr.queue = (sid, seq, b) :: rest) (hw : (s.portBusy b || !s.managing) = false) (hd : s.ev.drain = false)
    (hc : checkImage (s.modLdr fun l => { l with queue := rest }) b = none) :
    let s1 := s.modLdr fun l => { l with queue := rest }
    exec .loadApply s = .next ((s1.applyImage b).report32 (s1.loadersOf b false) sid seq (loadReport b none) true) := by
  refine congrArg Host.Outcome.next ?_
  rw [hq]
  dsimp only
  rw [hw, State.modLdr_ev, hd, hc]
  rfl

/-- Refutes O36: of an image that passes, the statement has the queue hold afterwards what stood behind it and nothing more. The load may take
the last partition of a job off the module; then the manager gives that job's slot to one that waits, and the waiting load joins the queue. -/
theorem not_loadsAreAppliedWhole : ¬ Obligations.LoadsAreAppliedWhole := by
  unfold Obligations.LoadsAreAppliedWhole
  rintro ⟨-, -, happly⟩
  have hq : (fullHive [(0, 1, haltImage)]).ldr.queue = [(0, 1, haltImage)] := rfl
  have hc : checkImage ((fullHive [(0, 1, haltImage)]).modLdr fun l => { l with queue := [] }) haltImage = none := by
    rw [fullHive_taken, checkImage_fullHive]
  obtain ⟨-, -, -, hpass⟩ := happly _ 0 1 haltImage [] hq
  obtain ⟨t, hexec, hqueue, -⟩ := hpass (by decide +kernel) rfl hc
  have ht := (exec_loadApply_passes hq (by decide +kernel) rfl hc).symm.trans hexec
  injection ht with ht
  rw [← ht, State.report32_ldr, fullHive_taken] at hqueue
  exact absurd (applyImage_fullHive_queue.symm.trans hqueue) (by decide +kernel)

end Sys2Proof.Machine
end

section
/-! SUPPORT: what the operations of events, memory and staging keep of a partition: whose turn it is in its group, and what its image and its
job have given it (08 R232 to R239, R254 to R257). -/

namespace Sys2Proof.Machine

/-- A partition's place in its slice group: whether it is resident, the image of its Chrysalis, and the switch named for it (08 R254). -/
structure Turn where
  resident : Bool
  saved : Option W384
  switchAt : Option W64

/-- That, and what the partition's image and its job have given it: its sub-images, its step and retry, its loss-scale state, its job slot. -/
structure Standing where
  turn : Turn
  loaded : Bool
  digest : W384
  twins : List (Nat × List Byte)
  openStep : W64
  retry : Byte
  ls : LsState
  scale : ScaleRec
  job : W64
  jslot : Option Nat

def Part.turn (x : Part) : Turn := { resident := x.resident, saved := x.saved.map (·.digest), switchAt := x.switchAt }

def Part.standing (x : Part) : Standing :=
  { turn := x.turn, loaded := x.loaded, digest := x.digest, twins := x.twins, openStep := x.openStep, retry := x.retry, ls := x.ls
    scale := x.scale, job := x.job, jslot := x.jslot }

/-- Every partition stands as it did. -/
def KeepsParts (r s : State) : Prop := ∀ p, (s.part p).standing = (r.part p).standing

namespace KeepsParts

variable {r s t : State}

theorem refl (s : State) : KeepsParts s s := fun _ => rfl

theorem of_parts (h : KeepsParts r s) (hp : t.parts = s.parts) : KeepsParts r t := fun p => by
  have hpart : t.part p = s.part p := by
    unfold State.part
    rw [hp]
  rw [hpart]
  exact h p

theorem modPart (h : KeepsParts r s) (k : Nat) {f : Part → Part} (hf : ∀ x : Part, (f x).standing = x.standing) :
    KeepsParts r (s.modPart k f) := fun p => by
  rw [State.part_modPart]
  split
  case isTrue hk =>
    rw [hf]
    exact hk ▸ h p
  case isFalse => exact h p

theorem ite {c : Prop} [Decidable c] {u : State} (ht : KeepsParts r t) (hu : KeepsParts r u) : KeepsParts r (if c then t else u) := by
  split
  · exact ht
  · exact hu

theorem foldl {α : Type} {f : State → α → State} (hf : ∀ u x, KeepsParts r u → KeepsParts r (f u x)) (h : KeepsParts r s) (l : List α) :
    KeepsParts r (l.foldl f s) := by
  induction l generalizing s with
  | nil => exact h
  | cons x l ih => exact ih (hf s x h)

/-- A fold that carries a value beside the state. -/
theorem foldl_snd {α β : Type} {f : β × State → α → β × State} (hf : ∀ u x, KeepsParts r u.2 → KeepsParts r (f u x).2) {u : β × State}
    (h : KeepsParts r u.2) (l : List α) : KeepsParts r (l.foldl f u).2 := by
  induction l generalizing u with
  | nil => exact h
  | cons x l ih => exact ih (hf u x h)

theorem modSyn (h : KeepsParts r s) (half : Nat) (f : SynHalf → SynHalf) : KeepsParts r (s.modSyn half f) := h.of_parts (s.modSyn_parts half f)

/-! ### One field beside the partitions -/

theorem modEv (h : KeepsParts r s) (f : Events → Events) : KeepsParts r (s.modEv f) := h.of_parts rfl
theorem modSec (h : KeepsParts r s) (f : Sec → Sec) : KeepsParts r (s.modSec f) := h.of_parts rfl
theorem modMgr (h : KeepsParts r s) (f : Mgr → Mgr) : KeepsParts r (s.modMgr f) := h.of_parts rfl
theorem modLink (h : KeepsParts r s) (f : Link → Link) : KeepsParts r (s.modLink f) := h.of_parts rfl
theorem modPwr (h : KeepsParts r s) (f : Pwr → Pwr) : KeepsParts r (s.modPwr f) := h.of_parts rfl
theorem modLdr (h : KeepsParts r s) (f : Loader → Loader) : KeepsParts r (s.modLdr f) := h.of_parts rfl
theorem modCore (h : KeepsParts r s) (k : Nat) (f : Core → Core) : KeepsParts r (s.modCore k f) := h.of_parts rfl
theorem setCore (h : KeepsParts r s) (k : Nat) (c : Core) : KeepsParts r (s.setCore k c) := h.of_parts rfl
theorem modStream (h : KeepsParts r s) (i : StreamId) (f : Stream → Stream) : KeepsParts r (s.modStream i f) := h.of_parts rfl
theorem modDie (h : KeepsParts r s) (d : Nat) (f : Die → Die) : KeepsParts r (s.modDie d f) := h.of_parts rfl
theorem modUnit (h : KeepsParts r s) (u : Nat) (f : UpdUnit → UpdUnit) : KeepsParts r (s.modUnit u f) := h.of_parts rfl
theorem modObj (h : KeepsParts r s) (o : Nat) (f : SyncObj → SyncObj) : KeepsParts r (s.modObj o f) := h.of_parts rfl
theorem setErr (h : KeepsParts r s) (cw : Nat) (e : ErrPat) : KeepsParts r (s.setErr cw e) := h.of_parts rfl
theorem skipFree (h : KeepsParts r s) (n : Nat) : KeepsParts r (s.skipFree n) := h.of_parts rfl
theorem takeFree (h : KeepsParts r s) : KeepsParts r s.takeFree.2 := h.of_parts rfl
theorem keepMem (h : KeepsParts r s) (bytes cws : Nat → Bool) : KeepsParts r (s.keepMem bytes cws) := h.of_parts rfl
theorem wr8 (h : KeepsParts r s) (a : Nat) (b : Byte) : KeepsParts r (s.wr8 a b) := h.of_parts rfl
theorem alert (h : KeepsParts r s) (bit : Nat) : KeepsParts r (s.alert bit) := h.modSec _
theorem say (h : KeepsParts r s) (o : SessOut) : KeepsParts r (s.say o) := h.modSec _
theorem emit (h : KeepsParts r s) (o : LinkOut) : KeepsParts r (s.emit o) := h.modLink _

theorem linked (h : KeepsParts r s) (hl : s.Linked t) : KeepsParts r t := by
  obtain ⟨l, n, rfl⟩ := hl
  exact h.of_parts rfl

theorem mgmt (h : KeepsParts r s) (rank : Nat) (m : MgmtMsg) : KeepsParts r (s.mgmt rank m) := h.of_parts (s.mgmt_parts rank m)

/-! ### Events and the recorder (12 R342 to R349, R361) -/

theorem sendRetract (h : KeepsParts r s) (p : Nat) : KeepsParts r (s.sendRetract p) := by
  unfold State.sendRetract
  refine ite h (alert (modPart (h.mgmt _ _) _ ?_) _)
  exact fun _ => rfl

theorem raiseLine (h : KeepsParts r s) (p half : Nat) (stops : Bool) : KeepsParts r (s.raiseLine p half stops) := h.modPart p fun _ => rfl

theorem holdRec (h : KeepsParts r s) (e : EvRec) : KeepsParts r (s.holdRec e) := h.modEv _

theorem post (h : KeepsParts r s) (e : EvRec) : KeepsParts r (s.post e) := by
  unfold State.post
  dsimp only
  exact ite (((h.holdRec _).raiseLine _ _ _).sendRetract _) (h.holdRec _)

theorem replayEnd (h : KeepsParts r s) (x : Part) (d : Option Divergence) : KeepsParts r (s.replayEnd x d) := by
  unfold State.replayEnd
  split
  · exact (h.modEv _).say _
  · exact h

theorem replayCheck (h : KeepsParts r s) (x : CapRec) : KeepsParts r (s.replayCheck x) := by
  unfold State.replayCheck
  dsimp only
  split
  · split
    · exact ite (h.replayEnd _ _) (h.modEv _)
    · exact ite (h.modEv _) h
  · exact h

theorem record (h : KeepsParts r s) (half type part : Nat) (step : W64) (body : List Byte) :
    KeepsParts r (s.record half type part step body) := by
  unfold State.record
  dsimp only
  exact ite (ite ((h.modEv _).post _) ((h.modEv _).replayCheck _)) h

theorem stepOpen (h : KeepsParts r s) (p : Nat) : KeepsParts r (s.stepOpen p) := h.record _ _ _ _ _

/-! ### Memory and its codes (07 R216 to R221, 09 R269) -/

theorem zombie (h : KeepsParts r s) (half obj : Nat) (unit : W32) (epoch : W16) (part : Nat) (masked : Bool) :
    KeepsParts r (s.zombie half obj unit epoch part masked) := by
  unfold State.zombie
  dsimp only
  exact ite (h.modSyn _ _) ((h.modSyn _ _).post _)

theorem dropLog (h : KeepsParts r s) (who : Who) (as : List Nat) : KeepsParts r (s.dropLog who as) := by
  unfold State.dropLog
  split
  · exact h
  · exact foldl (fun _ _ hu => hu.zombie _ _ _ _ _ _) h _

theorem modEcc (h : KeepsParts r s) (a : Nat) (f : EccCnt → EccCnt) : KeepsParts r (s.modEcc a f) := by
  unfold State.modEcc
  split
  · exact h.modDie _ _
  · exact h.modDie _ _
  · exact h.modCore _ _
  · exact h

theorem corrected (h : KeepsParts r s) (cw : Nat) (who : Who) : KeepsParts r (s.corrected cw who) := by
  unfold State.corrected
  dsimp only
  have hecc := (h.setErr cw []).modEcc cw fun c => { c with ce := satAdd c.ce 1, seen := c.seen + 1 }
  exact ite (hecc.post _) hecc

theorem uncorrectable (h : KeepsParts r s) (cw : Nat) (who : Who) (poisoned partialW chry : Bool) :
    KeepsParts r (s.uncorrectable cw who poisoned partialW chry) := by
  unfold State.uncorrectable
  dsimp only
  refine post ?_ _
  split
  · exact (h.modEcc _ _).modCore _ _
  · exact h.modEcc _ _

theorem wrCw (h : KeepsParts r s) (cw : Nat) (bs : List Byte) : KeepsParts r (s.wrCw cw bs) := foldl (fun _ _ hu => hu.wr8 _ _) h _

theorem cwRead (h : KeepsParts r s) (cw : Nat) (who : Who) : KeepsParts r (s.cwRead cw who) := by
  unfold State.cwRead
  split
  · exact h
  · exact h.corrected _ _
  · exact h.uncorrectable _ _ _ _ _
  · split
    · exact (h.skipFree _).uncorrectable _ _ _ _ _
    · exact ((h.skipFree _).wrCw _ _).corrected _ _

theorem readMem (h : KeepsParts r s) (who : Who) (as : List Nat) : KeepsParts r (s.readMem who as).2 := by
  unfold State.readMem State.readCw
  dsimp only
  exact dropLog (foldl_snd (fun _ _ hu => hu.cwRead _ _) h _) _ _

theorem cwPoisoned (h : KeepsParts r s) (who : Who) (cw : Nat) (e : ErrPat) (poisoned : Bool) :
    KeepsParts r (s.cwPoisoned who cw e poisoned) := by
  unfold State.cwPoisoned
  dsimp only
  exact uncorrectable (setErr (foldl (fun _ _ hu => ite (hu.wr8 _ _) hu) h _) _ _) _ _ _ _ _

theorem cwWrite (h : KeepsParts r s) (who : Who) (ws : List (Nat × Byte)) (cw : Nat) : KeepsParts r (s.cwWrite who ws cw) := by
  unfold State.cwWrite
  dsimp only
  refine ite h (ite (h.setErr _ _) ?_)
  split
  · exact h.corrected _ _
  · exact h
  · exact h.cwPoisoned _ _ _ _
  · split
    · exact (h.skipFree _).cwPoisoned _ _ _ _
    · exact ((h.skipFree _).wrCw _ _).corrected _ _

theorem writeMem (h : KeepsParts r s) (who : Who) (ws : List (Nat × Byte)) : KeepsParts r (s.writeMem who ws) := by
  unfold State.writeMem
  dsimp only
  exact dropLog (foldl (fun _ _ hu => hu.wr8 _ _) (foldl (fun _ _ hu => hu.cwWrite _ _ _) h _) _) _ _

theorem parityWrites (h : KeepsParts r s) (who : Who) (written : List Nat) (fs : List PhysFault) :
    KeepsParts r (s.parityWrites who written fs) := by
  refine foldl (fun u f hu => ?_) h fs
  split
  · dsimp only
    refine ite (post ?_ _) hu
    split
    · exact ((hu.setErr _ _).modEcc _ _).modCore _ _
    · exact (hu.setErr _ _).modEcc _ _
  · exact hu

theorem boundsUnit (h : KeepsParts r s) (unit : W32) (part : Nat) (bad : List (Nat × Nat)) : KeepsParts r (s.boundsUnit unit part bad) := by
  unfold State.boundsUnit
  split
  · exact h
  · exact h.post _

theorem dmaWrite (h : KeepsParts r s) (who : Who) (unit : W32) (a : Nat) (vs : List Byte) (fs : List PhysFault) :
    KeepsParts r (s.dmaWrite who unit a vs fs) := ((h.writeMem _ _).parityWrites _ _ _).boundsUnit _ _ _

/-! ### Staging (07 R227, 12 R363) -/

theorem extNote (h : KeepsParts r s) (p : Nat) (ws : List (Nat × Byte)) : KeepsParts r (s.extNote p ws) := by
  refine .foldl (fun u x hu => ?_) h _
  dsimp only
  split
  · exact hu
  · exact hu.of_parts rfl

theorem stageWrite (h : KeepsParts r s) (half addr : Nat) (data : List Byte) (fs : List PhysFault) :
    KeepsParts r (s.stageWrite half addr data fs) := by
  unfold State.stageWrite State.stageBounds
  dsimp only
  have hgood := fun (good : List (Nat × Nat × Byte)) => foldl (r := r) (s := s)
    (f := fun s k =>
      ((s.writeMem { part := k } ((good.filter fun g => g.1 == k).map (·.2))).parityWrites { part := k }
        (((good.filter fun g => g.1 == k).map (·.2)).map (·.1)) fs).extNote k ((good.filter fun g => g.1 == k).map (·.2)))
    (fun _ _ hu => ((hu.writeMem _ _).parityWrites _ _ _).extNote _ _) h (good.map (·.1)).eraseDups
  split
  · exact hgood _
  · exact (hgood _).boundsUnit _ _ _

theorem replayStage (h : KeepsParts r s) (p : Nat) : KeepsParts r (s.replayStage p) := by
  unfold State.replayStage
  split
  · exact .foldl (fun _ _ hu => hu.stageWrite _ _ _ _) h _
  · exact h

end KeepsParts

end Sys2Proof.Machine
end

section
/-! SUPPORT: what the operations of the exchange engines, the sync engine, the update units and the load port keep of a partition. -/

namespace Sys2Proof.Machine.KeepsParts

variable {r s t : State}

/-! ### Flags and the mailboxes (02 R67, 12 R345, R348) -/

theorem startHandling (h : KeepsParts r s) (e : EvRec) : KeepsParts r (s.startHandling e) := by
  unfold State.startHandling
  dsimp only
  refine ite h (foldl (fun u x hu => ?_) h _)
  refine ite (hu.modEv _) (ite (hu.modPart _ ?_) (hu.modEv _))
  exact fun _ => rfl

theorem postLost (h : KeepsParts r s) (unit : W32) (part : Byte) (n : Nat) (mask : Byte) : KeepsParts r (s.postLost unit part n mask) := by
  unfold State.postLost
  dsimp only
  exact ite h (((h.modEv _).alert _).post _)

theorem acceptRec (h : KeepsParts r s) (x : Nat × Bool) (temp volt : W16) : KeepsParts r (s.acceptRec x temp volt) := by
  unfold State.acceptRec
  dsimp only
  split
  · exact h
  · exact postLost (startHandling (ite ((((h.modEv _).modPwr _).alert _).modSec _) ((h.modEv _).modPwr _)) _) _ _ _ _

theorem mailTurn (h : KeepsParts r s) : KeepsParts r s.mailTurn := by
  unfold State.mailTurn
  exact foldl (fun _ _ hu => ite (hu.takeFree.acceptRec _ _ _) hu) h _

theorem countScale (h : KeepsParts r s) (part k : Nat) : KeepsParts r (s.countScale part k) := by
  unfold State.countScale
  refine ite h (h.modPart _ ?_)
  exact fun _ => rfl

theorem postFlags (h : KeepsParts r s) (e : EvRec) (f : Flags) (scale : Bool) : KeepsParts r (s.postFlags e f scale) := by
  unfold State.postFlags
  exact foldl (fun _ _ hu => post (ite hu hu.mailTurn) _) h _

/-! ### Packets and descriptors (07 R211 to R213, 09 R292, 11 R331) -/

theorem cfault (h : KeepsParts r s) (die part code rank coll : Nat) : KeepsParts r (s.cfault die part code rank coll) := by
  unfold State.cfault
  dsimp only
  exact (h.modDie _ _).post _

theorem sendX (h : KeepsParts r s) (die part drank : Nat) (p : XPkt) : KeepsParts r (s.sendX die part drank p) := by
  unfold State.sendX
  dsimp only
  refine ite (ite (h.modLink _) (h.cfault _ _ _ _ _)) ?_
  split
  · refine ite (h.cfault _ _ _ _ _) (linked ?_ (State.linkSend_linked _ _ _))
    exact h.modLink _
  · exact h.cfault _ _ _ _ _

theorem ringWrite (h : KeepsParts r s) (die ch : Nat) (x : PDesc) : KeepsParts r (s.ringWrite die ch x) := by
  unfold State.ringWrite
  dsimp only
  exact (h.writeMem _ _).modDie _ _

theorem refill (h : KeepsParts r s) (die ch : Nat) : KeepsParts r (s.refill die ch) := by
  unfold State.refill
  dsimp only
  exact foldl (fun _ _ hu => hu.ringWrite _ _ _) (h.modDie _ _) _

theorem pushDescs (h : KeepsParts r s) (die ch : Nat) (ds : List PDesc) : KeepsParts r (s.pushDescs die ch ds) := by
  unfold State.pushDescs
  exact (h.modDie _ _).refill _ _

theorem queueX (h : KeepsParts r s) (die part drank : Nat) (p : XPkt) : KeepsParts r (s.queueX die part drank p) := by
  unfold State.queueX
  exact h.pushDescs _ _ _

theorem updNext (h : KeepsParts r s) (u : Nat) : KeepsParts r (s.updNext u) := by
  unfold State.updNext
  split
  · exact ite h ((h.modUnit _ _).pushDescs _ _ _)
  · exact h

theorem dropTransfers (h : KeepsParts r s) (p : Nat) : KeepsParts r (s.dropTransfers p) := by
  unfold State.dropTransfers
  dsimp only
  exact foldl (fun _ _ hu => (hu.modUnit _ _).updNext _) (foldl (fun _ _ hu => hu.modDie _ _) h _) _

theorem restoreTransfers (h : KeepsParts r s) (ch : Chrysalis) : KeepsParts r (s.restoreTransfers ch) := by
  unfold State.restoreTransfers
  dsimp only
  exact foldl (fun _ _ hu => hu.pushDescs _ _ _)
    (foldl (fun _ _ hu => (hu.modUnit _ _).updNext _) (foldl (fun _ _ hu => hu.modDie _ _) h _) _) _

/-! ### Transfers of the exchange engines (09 R283 to R289) -/

theorem sendSync (h : KeepsParts r s) (q : SyncReq) : KeepsParts r (s.sendSync q) := h.modSyn _ _

theorem rsigWrite (h : KeepsParts r s) (die part : Nat) (step : W64) (obj : Nat) : KeepsParts r (s.rsigWrite die part step obj) := by
  unfold State.rsigWrite
  dsimp only
  exact ite (h.sendSync _) h

theorem settle (h : KeepsParts r s) (i : StreamId) (id : Nat) : KeepsParts r (s.settle i id) := by
  unfold State.settle
  dsimp only
  exact ite h (h.modStream _ _)

theorem gatherDie (h : KeepsParts r s) (die : Nat) : KeepsParts r (s.gatherDie die) := by
  unfold State.gatherDie
  exact foldl (fun _ _ hu => ite (((hu.modDie _ _).rsigWrite _ _ _ _).settle _ _) hu) h _

theorem gatherAll (h : KeepsParts r s) : KeepsParts r s.gatherAll := by
  unfold State.gatherAll
  exact foldl (fun _ _ hu => hu.gatherDie _) h _

theorem pumpSwarm (h : KeepsParts r s) (die credit : Nat) (f : Nat) (w : Swarm) : KeepsParts r (s.pumpSwarm die credit f w).2 := by
  induction f generalizing s w with
  | zero => exact h
  | succ f ih =>
    unfold State.pumpSwarm
    split
    · exact h
    · dsimp only
      split
      · exact h
      · exact ih (foldl (fun _ _ hu => hu.sendX _ _ _ _) h _) _

theorem putSwarm (h : KeepsParts r s) (die k : Nat) (w : Swarm) : KeepsParts r (s.putSwarm die k w) := by
  unfold State.putSwarm
  dsimp only
  refine ite ?_ ((h.pumpSwarm _ _ _ _).modDie _ _)
  split
  · exact (((h.pumpSwarm _ _ _ _).modDie _ _).rsigWrite _ _ _ _).settle _ _
  · exact (h.pumpSwarm _ _ _ _).modDie _ _

theorem credited (h : KeepsParts r s) (f : Swarm → Bool) (rank : Nat) : KeepsParts r (s.credited f rank) := by
  unfold State.credited
  split
  · exact h.putSwarm _ _ _
  · exact h

theorem landBytes (h : KeepsParts r s) (die part coll a : Nat) (bs : List Byte) (fs : List PhysFault) :
    KeepsParts r (s.landBytes die part coll a bs fs).2 := by
  unfold State.landBytes
  split
  · exact h.dmaWrite _ _ _ _ _
  · exact h.cfault _ _ _ _ _

theorem readAcc (h : KeepsParts r s) (e : List Byte) (c : OwnChunk) : KeepsParts r (s.readAcc e c).2 := by
  unfold State.readAcc
  split
  · exact h
  · dsimp only
    exact h.readMem _ _

theorem writeAcc (h : KeepsParts r s) (e : List Byte) (c : OwnChunk) (acc : List Int) (fs : List PhysFault) :
    KeepsParts r (s.writeAcc e c acc fs) := by
  unfold State.writeAcc
  dsimp only
  exact (h.writeMem _ _).parityWrites _ _ _

theorem ownerParity (h : KeepsParts r s) (part key : Nat) (fs : List PhysFault) (as : List Nat) :
    KeepsParts r (s.ownerParity part key fs as) := by
  refine foldl (fun u f hu => ?_) h fs
  split
  · exact ite (hu.post _) hu
  · exact hu

theorem addContrib (h : KeepsParts r s) (die : Nat) (e : List Byte) (c : OwnChunk) (p : XPkt) (bad : List Bool) (fs : List PhysFault) :
    KeepsParts r (s.addContrib die e c p bad fs).2 := by
  have hfault : ∀ {u : State} (q : Prop) [Decidable q] (code : Nat), KeepsParts r u →
      KeepsParts r (if q then u.cfault die c.part code p.srank c.coll else u) := fun q _ code hu => ite (hu.cfault _ _ _ _ _) hu
  unfold State.addContrib
  dsimp only
  exact writeAcc (ownerParity (readAcc (hfault _ 3 (hfault _ 4 (hfault _ 5 (hfault _ 6 h)))) _ _) _ _ _ _) _ _ _ _

theorem collFlags (h : KeepsParts r s) (die : Nat) (e : List Byte) (c : OwnChunk) (fl : Flags) :
    KeepsParts r (s.collFlags die e c fl) := by
  unfold State.collFlags
  dsimp only
  have hflags := fun (j : Die → Die) (v : EvRec) (f : Flags) (b : Bool) (k : Nat) => ((h.modDie die j).postFlags v f b).countScale c.part k
  exact ite ((hflags _ _ _ _ _).mailTurn.post _) (hflags _ _ _ _ _)

theorem sendHeld (h : KeepsParts r s) (die part rank a : Nat) (e : List Byte) (q : XPkt) : KeepsParts r (s.sendHeld die part rank a e q) := by
  unfold State.sendHeld
  exact h.pushDescs _ _ _

theorem payOwed (h : KeepsParts r s) (die part : Nat) (e : List Byte) (q : XPkt) : KeepsParts r (s.payOwed die part e q) := by
  unfold State.payOwed
  dsimp only
  exact foldl (fun _ _ hu => hu.sendHeld _ _ _ _ _ _) (h.modDie _ _) _

theorem finishChunk (h : KeepsParts r s) (die : Nat) (e : List Byte) (step : W64) (c : OwnChunk) (fs : List PhysFault) :
    KeepsParts r (s.finishChunk die e step c fs) := by
  unfold State.finishChunk
  dsimp only
  have hread := (h.readAcc e c).ownerParity c.part (chunkCore e c.chunk) fs (if c.next = 0 then [] else accAddrs e c)
  have hsum := ite (c := low64sum (s.readAcc e c).1 ≠ c.expect) (hread.cfault die c.part 3 s.rank c.coll) hread
  have hdone := fun (a : Nat) (bs : List Byte) (fl : Flags) => (hsum.landBytes die c.part c.coll a bs fs).collFlags die e c fl
  exact ite (((hdone _ _ _).pushDescs _ _ _).payOwed _ _ _ _) (hdone _ _ _)

theorem putChunk (h : KeepsParts r s) (die : Nat) (c : OwnChunk) : KeepsParts r (s.putChunk die c) := h.modDie _ _

theorem readStaged (h : KeepsParts r s) (e : List Byte) (c : OwnChunk) (x : Staged) (fs : List PhysFault) :
    KeepsParts r (s.readStaged e c x fs).2 := by
  unfold State.readStaged
  dsimp only
  exact (h.readMem _ _).ownerParity _ _ _ _

theorem returnCredit (h : KeepsParts r s) (die : Nat) (step : W64) (c : OwnChunk) (p : XPkt) :
    KeepsParts r (s.returnCredit die step c p) := by
  unfold State.returnCredit
  exact ite (h.credited _ _) (h.queueX _ _ _ _)

theorem ownerRun (h : KeepsParts r s) (e : List Byte) (step : W64) (fs : List PhysFault) (f : Nat) (c : OwnChunk) :
    KeepsParts r (s.ownerRun e step fs f c) := by
  induction f generalizing s c with
  | zero => exact h.putChunk _ _
  | succ f ih =>
    unfold State.ownerRun
    dsimp only
    refine ite (h.putChunk _ _) (ite ((h.putChunk _ _).cfault _ _ _ _ _) (ite ((h.putChunk _ _).finishChunk _ _ _ _ _).gatherAll ?_))
    split
    · exact h.putChunk _ _
    · exact ih (((h.readStaged _ _ _ _).addContrib _ _ _ _ _ _).returnCredit _ _ _ _) _

theorem openChunks (h : KeepsParts r s) (part : Nat) : KeepsParts r (s.openChunks part) := by
  unfold State.openChunks
  exact foldl (fun _ _ hu => hu.ownerRun _ _ _ _ _) h _

theorem closeStep (h : KeepsParts r s) (p : Nat) (step : W64) : KeepsParts r (s.closeStep p step) := by
  unfold State.closeStep
  exact foldl (fun _ _ hu => hu.modDie _ _) h _

theorem abandon (h : KeepsParts r s) (p : Nat) (step : W64) : KeepsParts r (s.abandon p step) := by
  unfold State.abandon
  exact foldl (fun _ _ hu => hu.modDie _ _) h _

/-! ### Sync objects (09 R260 to R272, 14 R394 to R397) -/

theorem settlePower (h : KeepsParts r s) : KeepsParts r s.settlePower := h.modPwr _

theorem wakeCore (h : KeepsParts r s) (key : Nat) : KeepsParts r (s.wakeCore key) := by
  unfold State.wakeCore
  exact ite ((h.modCore _ _).modPwr _) h

theorem wakeWaiters (h : KeepsParts r s) (obj : Nat) : KeepsParts r (s.wakeWaiters obj) := by
  unfold State.wakeWaiters
  exact foldl (fun _ _ hu => ite (hu.wakeCore _) hu) h _

theorem latch (h : KeepsParts r s) (obj : Nat) (i : StreamId) : KeepsParts r (s.latch obj i) := by
  unfold State.latch
  split
  · exact ite (h.modStream _ _) h
  · exact h

theorem latchAll (h : KeepsParts r s) (obj : Nat) : KeepsParts r (s.latchAll obj) := foldl (fun _ _ hu => hu.latch _ _) h _

theorem changeObj (h : KeepsParts r s) (obj : Nat) (f : SyncObj → SyncObj) : KeepsParts r (s.changeObj obj f) := by
  unfold State.changeObj
  dsimp only
  exact ite ((h.latchAll _).modObj _ _) ((((h.latchAll _).modObj _ _).latchAll _).wakeWaiters _)

theorem mirrorTo (h : KeepsParts r s) (q : SyncReq) (m : Nat) (p : XPkt) : KeepsParts r (s.mirrorTo q m p) := by
  unfold State.mirrorTo
  dsimp only
  exact (h.sendX _ _ _ _).modSyn _ _

theorem mirrorOut (h : KeepsParts r s) (q : SyncReq) : KeepsParts r (s.mirrorOut q) := by
  unfold State.mirrorOut
  dsimp only
  exact foldl (fun _ _ hu => ite (foldl (fun _ _ hv => hv.mirrorTo _ _ _) hu _) hu) h _

theorem faddReturn (h : KeepsParts r s) (q : SyncReq) (old : W32) : KeepsParts r (s.faddReturn q old) := by
  unfold State.faddReturn
  split
  · exact (h.writeMem _ _).modStream _ _
  · exact h

theorem syncApply (h : KeepsParts r s) (q : SyncReq) : KeepsParts r (s.syncApply q) := by
  unfold State.syncApply
  split
  · exact (h.zombie _ _ _ _ _ _).faddReturn _ _
  · dsimp only
    refine ite (h.faddReturn _ _) ?_
    exact ite (((h.changeObj _ _).faddReturn _ _).mirrorOut _) ((h.changeObj _ _).faddReturn _ _)

/-! ### Streams, freezes and stops (12 R354 to R357) -/

theorem modStreams (h : KeepsParts r s) (is : List StreamId) (f : Stream → Stream) : KeepsParts r (s.modStreams is f) :=
  foldl (fun _ _ hu => hu.modStream _ _) h is

theorem eachStream (h : KeepsParts r s) (p : Nat) (f : Stream → Stream) : KeepsParts r (s.eachStream p f) := by
  refine (h.modStreams _ f).modPart p fun x => ?_
  unfold Part.standing Part.turn
  dsimp only
  rw [Option.map_map]
  rfl

theorem freezePart (h : KeepsParts r s) (p : Nat) : KeepsParts r (s.freezePart p) := h.eachStream p _

theorem setDrain (h : KeepsParts r s) : KeepsParts r s.setDrain := by
  unfold State.setDrain State.freezeAll
  exact foldl (fun _ _ hu => hu.freezePart _) ((h.modEv _).alert _) _

theorem stopLocal (h : KeepsParts r s) (job : W64) (cause : Byte) : KeepsParts r (s.stopLocal job cause) := by
  have hstop : ∀ {u : State} (p : Nat), KeepsParts r u → KeepsParts r ((u.freezePart p).modPart p fun x => { x with jobStop := true }) :=
    fun p hu => (hu.freezePart p).modPart p fun _ => rfl
  unfold State.stopLocal
  dsimp only
  refine ite (setDrain ?_) ?_
  all_goals exact ite h (foldl (fun _ _ hu => ite (hu.say _) hu) (((foldl (fun _ p hu => hstop p hu) h _).modEv _).alert _) _)

/-! ### What a verdict leaves but for the step (09 R268, 12 R361 to R363) -/

theorem replayGate (h : KeepsParts r s) (p verdict : Nat) : KeepsParts r (s.replayGate p verdict) := by
  unfold State.replayGate
  dsimp only
  split
  · split
    · exact (h.modEv _).replayEnd _ _
    · exact h.modEv _
  · exact h

theorem verdictRecords (h : KeepsParts r s) (p : Nat) (value : W32) : KeepsParts r (s.verdictRecords p value) := by
  have hrecs : ∀ {α : Type} {u : State} (half type : Nat) (step : W64) (body : α → List Byte) (l : List α), KeepsParts r u →
      KeepsParts r (l.foldl (fun s e => s.record half type p step (body e)) u) :=
    fun _ _ _ _ l hu => foldl (fun _ _ hv => hv.record _ _ _ _ _) hu l
  unfold State.verdictRecords
  dsimp only
  refine modEv (replayGate (hrecs _ _ _ _ _ (ite (hrecs _ _ _ _ _ ?_) ?_)) _ _) _
  · exact hrecs _ _ _ _ _ (h.record _ _ _ _ _)
  · exact hrecs _ _ _ _ _ (h.record _ _ _ _ _)

theorem scaleEntry (h : KeepsParts r s) (p : Nat) (step : W64) (snext : Byte) : KeepsParts r (s.scaleEntry p step snext) := by
  unfold State.scaleEntry
  dsimp only
  exact foldl (fun _ _ hu => ite (hu.modUnit _ _) (ite (hu.modUnit _ _) ((hu.modUnit _ _).post _))) h _

theorem putJob (h : KeepsParts r s) (j : Job) : KeepsParts r (s.putJob j) := h.modMgr _

theorem sendState (h : KeepsParts r s) : KeepsParts r s.sendState := by
  unfold State.sendState
  split
  · exact foldl (fun _ _ hu => ite hu (hu.mgmt _ _)) h _
  · exact h

theorem orderStop (h : KeepsParts r s) (job : W64) (rank : Nat) (cause : Byte) : KeepsParts r (s.orderStop job rank cause) := by
  unfold State.orderStop
  exact ite (h.stopLocal _ _) (h.mgmt _ _)

/-! ### Fences, spares and rewinds (09 R270, R293, 12 R350, R358) -/

theorem flushSync (h : KeepsParts r s) (p : Nat) : KeepsParts r (s.flushSync p) := by
  unfold State.flushSync
  dsimp only
  exact foldl (fun _ _ hu => hu.syncApply _) ((h.modSyn _ _).modSyn _ _) _

theorem hubEpochs (h : KeepsParts r s) (p : Nat) (u : W32) (e : W16) : KeepsParts r (s.hubEpochs p u e) := by
  unfold State.hubEpochs
  dsimp only
  exact foldl (fun _ _ hu => ite hu (hu.modUnit _ _)) (foldl (fun _ _ hu => ite hu (hu.modDie _ _)) h _) _

theorem mask (h : KeepsParts r s) (u : W32) : KeepsParts r (s.mask u) := by
  unfold State.mask
  dsimp only
  exact ite ((h.modSyn _ _).modEv _) (h.modSyn _ _)

theorem fence (h : KeepsParts r s) (p : Nat) (u : W32) : KeepsParts r (s.fence p u) := by
  unfold State.fence
  dsimp only
  refine ite h (mask (hubEpochs (foldl (fun _ _ hu => ite hu (hu.modCore _ _)) (foldl (fun _ _ hu => hu.modObj _ _) ?_ _) _) _ _ _) _)
  exact (h.flushSync p).modPart p fun _ => rfl

theorem copyStore (h : KeepsParts r s) (key : Nat) : KeepsParts r (s.copyStore key).2 := by
  unfold State.copyStore
  refine foldl_snd (fun u x hu => ?_) h _
  split
  · exact hu
  · exact hu
  · exact hu
  · split
    · exact hu.skipFree _
    · exact (hu.skipFree _).wrCw _ _

theorem takeSpare (h : KeepsParts r s) (p key pos : Nat) : KeepsParts r (s.takeSpare p key pos) := by
  unfold State.takeSpare
  dsimp only
  exact ((h.keepMem _ _).modCore _ _).post _

theorem rewindPart (h : KeepsParts r s) (p : Nat) (step : W64) : KeepsParts r (s.rewindPart p step) := by
  unfold State.rewindPart
  dsimp only
  exact foldl (fun _ _ hu => hu.changeObj _ _) (foldl (fun _ _ hu => ite hu (hu.setCore _ _)) (h.flushSync _) _) _

/-! ### The frames of a partition that comes back (08 R257, 11 R321) -/

theorem countResent (h : KeepsParts r s) (lp n : Nat) : KeepsParts r (s.countResent lp n) := by
  unfold State.countResent
  split
  · exact h.of_parts rfl
  · exact h

theorem sendAgain (h : KeepsParts r s) (p : Nat) : KeepsParts r (s.sendAgain p) := by
  unfold State.sendAgain
  split
  · exact foldl (fun _ _ hu => foldl (fun _ _ hv => (hv.emit _).countResent _ _) hu _) h _
  · exact h

theorem sendResume (h : KeepsParts r s) (p : Nat) : KeepsParts r (s.sendResume p) := by
  unfold State.sendResume
  split
  · exact foldl (fun _ _ hu => hu.emit _) h _
  · exact h

theorem tagTurn (h : KeepsParts r s) (p : Nat) : KeepsParts r (s.tagTurn p) := by
  unfold State.tagTurn State.tagGran State.tagCore
  dsimp only
  exact foldl (fun _ _ hu => hu.modLdr _) (foldl (fun _ _ hu => hu.modLdr _) h _) _

end Sys2Proof.Machine.KeepsParts
end

section
/-! SUPPORT: what the manager's rulings, a job stop and Retract handling leave of whose turn it is in a slice group (08 R254, 09 R268, 12 R353 to
R358). They move a partition's step, retry and loss-scale state, so they keep less of it than the operations before. -/

namespace Sys2Proof.Machine

/-- Every partition is in its group's turn as it was. -/
def KeepsTurns (r s : State) : Prop := ∀ p, (s.part p).turn = (r.part p).turn

theorem KeepsParts.turns {r s : State} (h : KeepsParts r s) : KeepsTurns r s := fun p => congrArg Standing.turn (h p)

namespace KeepsTurns

variable {r s t : State}

theorem refl (s : State) : KeepsTurns s s := fun _ => rfl

theorem trans (h : KeepsTurns r s) (k : KeepsTurns s t) : KeepsTurns r t := fun p => (k p).trans (h p)

/-- An operation that keeps the partitions comes after. -/
theorem parts (h : KeepsTurns r s) (k : KeepsParts s t) : KeepsTurns r t := h.trans k.turns

theorem modPart (h : KeepsTurns r s) (k : Nat) {f : Part → Part} (hf : ∀ x : Part, (f x).turn = x.turn) :
    KeepsTurns r (s.modPart k f) := fun p => by
  rw [State.part_modPart]
  split
  case isTrue hk =>
    rw [hf]
    exact hk ▸ h p
  case isFalse => exact h p

theorem ite {c : Prop} [Decidable c] {u : State} (ht : KeepsTurns r t) (hu : KeepsTurns r u) : KeepsTurns r (if c then t else u) := by
  split
  · exact ht
  · exact hu

theorem foldl {α : Type} {f : State → α → State} (hf : ∀ u x, KeepsTurns r u → KeepsTurns r (f u x)) (h : KeepsTurns r s) (l : List α) :
    KeepsTurns r (l.foldl f s) := by
  induction l generalizing s with
  | nil => exact h
  | cons x l ih => exact ih (hf s x h)

/-- A fold that carries a value beside the state. -/
theorem foldl_snd {α β : Type} {f : β × State → α → β × State} (hf : ∀ u x, KeepsTurns r u.2 → KeepsTurns r (f u x).2) {u : β × State}
    (h : KeepsTurns r u.2) (l : List α) : KeepsTurns r (l.foldl f u).2 := by
  induction l generalizing u with
  | nil => exact h
  | cons x l ih => exact ih (hf u x h)

/-! ### The GATE and a job stop (09 R267, R268, 12 R354 to R356) -/

theorem advance (h : KeepsTurns r s) (p : Nat) (value : W32) : KeepsTurns r (s.advance p value) := by
  have hopen : ∀ {u : State} (os : List Nat) (step : W64) (snext : Byte),
      KeepsParts u (((os.foldl (fun s o => s.modObj o SyncObj.fold) u).scaleEntry p step snext).stepOpen p) := fun os step snext =>
    ((KeepsParts.foldl (fun _ _ hu => hu.modObj _ _) (.refl _) os).scaleEntry _ _ _).stepOpen _
  have hstep : KeepsTurns r ((s.verdictRecords p value).modPart p fun x =>
      { x with openStep := x.openStep + 1, retry := 0, line0 := false, line1 := false, stepEvent := false, retractSent := false
               scaleEv := 0, reported := false }) := (h.parts ((KeepsParts.refl s).verdictRecords p value)).modPart p fun _ => rfl
  unfold State.advance
  dsimp only
  refine hstep.parts (.openChunks (.replayStage (.closeStep ?_ _ _) _) _)
  split
  · exact .ite ((hopen _ _ _).replayEnd _ _) (hopen _ _ _)
  · exact hopen _ _ _

theorem gatePart (h : KeepsTurns r s) (p : Nat) (value : W32) (ls : LsState) : KeepsTurns r (s.gatePart p value ls) := by
  have hls : KeepsTurns r ((match (s.part p).gate with
      | some o => s.changeObj o fun x => { x with l0 := some value }
      | none => s).modPart p fun x => { x with ls := ls }) := by
    refine modPart ?_ p ?_
    · split
      · exact h.parts ((KeepsParts.refl s).changeObj _ _)
      · exact h
    · exact fun _ => rfl
  unfold State.gatePart
  dsimp only
  refine ite hls ?_
  split
  · refine hls.modPart p ?_
    exact fun _ => rfl
  · exact hls.parts ((KeepsParts.refl _).verdictRecords _ _)
  · exact hls.advance _ _

theorem sendGates (h : KeepsTurns r s) (j : Job) (value : W32) (ls : LsState) : KeepsTurns r (s.sendGates j value ls) := by
  have hsent := foldl (fun _ rank hu => hu.parts ((KeepsParts.refl _).mgmt rank (.gate j.job value ls))) h (j.ranks.filter (· != s.rank))
  unfold State.sendGates State.gateApply
  dsimp only
  exact ite (foldl (fun _ _ hu => hu.gatePart _ _ _) hsent _) hsent

theorem managerStop (h : KeepsTurns r s) (j : Job) (drained : List Nat) (cls : Nat) : KeepsTurns r (s.managerStop j drained cls) := by
  unfold State.managerStop
  dsimp only
  refine foldl (fun _ _ hu => hu.parts ((KeepsParts.refl _).orderStop _ _ _)) (parts (sendGates ?_ _ _ _) (KeepsParts.refl _).sendState) _
  exact h.parts ((KeepsParts.refl s).putJob _)

theorem stopJob (h : KeepsTurns r s) (p : Nat) (drained : Bool) (cls : Nat) : KeepsTurns r (s.stopJob p drained cls) := by
  unfold State.stopJob
  dsimp only
  split
  · exact ite h (h.managerStop _ _ _)
  · exact h.parts (((KeepsParts.refl s).mgmt _ _).stopLocal _ _)

theorem drainModule (h : KeepsTurns r s) (p cls : Nat) : KeepsTurns r (s.drainModule p cls) := by
  unfold State.drainModule
  dsimp only
  refine ite h (parts ?_ (KeepsParts.refl _).setDrain)
  exact ite (h.stopJob _ _ _) (foldl (fun _ _ hu => ite hu (hu.stopJob _ _ _)) h _)

/-! ### Retract handling (12 R350 to R358) -/

theorem abort (h : KeepsTurns r s) (p cause : Nat) (detail : W64) : KeepsTurns r (s.abort p cause detail) := by
  unfold State.abort
  exact (h.parts ((KeepsParts.refl s).post _)).drainModule _ _

theorem escalate (h : KeepsTurns r s) (p : Nat) (u : W32) : KeepsTurns r (s.escalate p u).2 := by
  have hfence : KeepsTurns r (s.fence p u) := h.parts ((KeepsParts.refl s).fence p u)
  unfold State.escalate
  dsimp only
  split
  · exact h.abort _ _ _
  · split
    · exact hfence
    · split
      · exact hfence
      · split
        · have hcopy := fun key => hfence.parts ((KeepsParts.refl _).copyStore key)
          exact ite (hfence.abort _ _ _) (ite ((hcopy _).abort _ _ _) ((hcopy _).parts ((KeepsParts.refl _).takeSpare _ _ _)))
        · split
          · exact hfence.parts ((KeepsParts.refl _).post _)
          · exact hfence

theorem runEscalations (h : KeepsTurns r s) (p : Nat) : KeepsTurns r (s.runEscalations p) := by
  unfold State.runEscalations
  dsimp only
  split
  · refine modPart (foldl_snd ?_ ?_ _) p ?_
    · exact fun _ _ hu => hu.escalate _ _
    · exact h
    · exact fun _ => rfl
  · exact h

theorem tryRewind (h : KeepsTurns r s) (p : Nat) : KeepsTurns r (s.tryRewind p) := by
  unfold State.tryRewind
  split
  · refine ite (h.runEscalations _) (ite h (runEscalations (modPart (h.parts ((KeepsParts.refl s).rewindPart _ _)) p ?_) _))
    exact fun _ => rfl
  · exact h

theorem handleRetract (h : KeepsTurns r s) (p : Nat) (m : StepMsg) (parity : List StreamId) : KeepsTurns r (s.handleRetract p m parity) := by
  have hstop : ∀ {u : State} (f : Events → Events) (is : List StreamId) (g : Stream → Stream) (ks : List Nat),
      KeepsParts u ((ks.foldl (fun s k => s.wakeCore k) ((((u.modEv f).stepOpen p).modStreams is g).abandon p m.step)).alert 2) :=
    fun f is g ks =>
      (KeepsParts.foldl (fun _ _ hu => hu.wakeCore _) (((((KeepsParts.refl _).modEv f).stepOpen p).modStreams is g).abandon p m.step) ks).alert 2
  have hstopped := fun (f : Part → Part) (hf : ∀ x : Part, (f x).turn = x.turn) g is k ks => (h.modPart p hf).parts (hstop g is k ks)
  unfold State.handleRetract
  dsimp only
  refine ite (tryRewind (hstopped _ ?_ _ _ _ _) _) (abort (tryRewind (modPart (hstopped _ ?_ _ _ _ _) p ?_) _) _ _ _)
  · exact fun _ => rfl
  · exact fun _ => rfl
  · exact fun _ => rfl

end KeepsTurns

end Sys2Proof.Machine
end

section
/-! SUPPORT: the switches of a slice group: the outgoing and the incoming member, and the commands that switch them (08 R254 to R258). -/

namespace Sys2Proof.Machine

variable {r s t : State} {p q g : Nat}

/-! ### The outgoing and the incoming member (08 R257) -/

/-- An update of a partition keeps its meaning for the standings across operations that keep them. -/
theorem KeepsParts.modPart_congr (h : KeepsParts r s) (k : Nat) {f : Part → Part} (F : Standing → Standing)
    (hf : ∀ x : Part, (f x).standing = F x.standing) : KeepsParts (r.modPart k f) (s.modPart k f) := fun p => by
  rw [State.part_modPart, State.part_modPart]
  split
  · rw [hf, hf, h p]
  · exact h p

/-- A member that waits in its Chrysalis, of which its image is the one that counts. -/
def Standing.waiting (d : W384) (x : Standing) : Standing := { x with turn := { x.turn with resident := false, saved := some d } }

/-- A member that holds the cores. -/
def Standing.inTurn (x : Standing) : Standing := { x with turn := { x.turn with resident := true, saved := none } }

theorem State.saveOut_keeps (s : State) (q : Nat) :
    ∃ ch, KeepsParts (s.modPart q fun x => { x with resident := false, saved := some ch }) (s.saveOut q) := by
  refine ⟨_, KeepsParts.modPart_congr ?_ q (Standing.waiting _) fun _ => rfl⟩
  exact .foldl (fun _ _ hu => hu.modCore _ _) (.dropTransfers (.keepMem (.foldl (fun _ _ hu => hu.cwRead _ _) (.refl s) _) _ _) _) _

theorem State.restore_turns {ch : Chrysalis} (hs : (s.part p).saved = some ch) (hd : ch.digest = (s.part p).digest) :
    KeepsTurns (s.modPart p fun x => { x with resident := true, saved := none }) (s.restore p) := by
  have hback : ∀ {t : State}, KeepsParts s t → KeepsParts (s.modPart p fun x => { x with resident := true, saved := none })
      (t.modPart p fun x => { x with resident := true, saved := none }) := fun h => h.modPart_congr p Standing.inTurn fun _ => rfl
  unfold State.restore
  dsimp only
  rw [hs]
  dsimp only
  rw [if_neg (not_not.mpr hd)]
  have hplaced : ∀ {f : State → Nat × Core → Core} (kb kc : Nat → Bool), KeepsParts s
      ((ch.errs.foldl (fun s e => s.setErr e.1 e.2) (ch.bytes.foldl (fun s c => s.wr8 c.1 c.2)
        (ch.cores.foldl (fun s c => s.setCore c.1 (f s c)) ((s.keepMem kb kc).tagTurn p)))).restoreTransfers ch) := fun kb kc =>
    .restoreTransfers (.foldl (fun _ _ hu => hu.setErr _ _) (.foldl (fun _ _ hu => hu.wr8 _ _)
      (.foldl (fun _ _ hu => hu.setCore _ _) (((KeepsParts.refl s).keepMem kb kc).tagTurn p) _) _) _) ch
  split
  · exact KeepsParts.turns (.uncorrectable (.foldl (fun _ _ hu => hu.modCore _ _) (hback (hplaced _ _)) _) _ _ _ _ _)
  · exact ((hback (hplaced _ _)).turns.handleRetract _ _ _).parts (((KeepsParts.refl _).sendAgain _).sendResume _)
  · exact KeepsParts.turns (.sendResume (.sendAgain (hback (hplaced _ _)) _) _)

/-- Partitions of one standing wait alike: a Chrysalis of the one's image is a Chrysalis of the other's. -/
theorem Part.saved_of_standing {x y : Part} (h : y.standing = x.standing) (hs : ∃ ch, x.saved = some ch ∧ ch.digest = x.digest) :
    ∃ ch, y.saved = some ch ∧ ch.digest = y.digest := by
  obtain ⟨ch, hch, hd⟩ := hs
  have hmap : y.saved.map (·.digest) = x.saved.map (·.digest) := congrArg (Turn.saved ∘ Standing.turn) h
  rw [hch] at hmap
  obtain ⟨c, hc, hcd⟩ := Option.map_eq_some_iff.mp hmap
  exact ⟨c, hc, (hcd.trans hd).trans (congrArg Standing.digest h).symm⟩

/-- The member that has its turn has changed places with the one that waited; the switch that was named for it stands. -/
theorem State.switched_of_turns {u : State} (hsw : KeepsTurns (u.modPart p fun x => { x with resident := true, saved := none }) t)
    {ch : Chrysalis} (hout : KeepsParts (s.modPart q fun x => { x with resident := false, saved := some ch }) u) (hpq : p ≠ q) :
    t.Switched p q ∧ (t.part p).switchAt = (s.part p).switchAt := by
  have hp : (t.part p).turn = { (s.part p).turn with resident := true, saved := none } := by
    have hu := congrArg Standing.turn (hout p)
    rw [State.part_modPart, if_neg hpq] at hu
    have ht := hsw p
    rw [State.part_modPart, if_pos rfl] at ht
    exact ht.trans (congrArg (fun x : Turn => { x with resident := true, saved := none }) hu)
  have hq : (t.part q).turn = { (s.part q).turn with resident := false, saved := some ch.digest } := by
    have hu := congrArg Standing.turn (hout q)
    rw [State.part_modPart, if_pos rfl] at hu
    have ht := hsw q
    rw [State.part_modPart, if_neg (Ne.symm hpq)] at ht
    exact ht.trans hu
  refine ⟨⟨congrArg Turn.resident hp, ?_, congrArg Turn.resident hq, ?_⟩, congrArg Turn.switchAt hp⟩
  · exact Option.map_eq_none_iff.mp (congrArg Turn.saved hp)
  · exact Option.isSome_map.symm.trans (congrArg (Option.isSome ∘ Turn.saved) hq)

/-- A switch to a waiting member, while another has the turn (08 R257). -/
theorem State.switchTo_switched (hr : s.residentOf (s.part p).sgrp = some q) (hpq : p ≠ q)
    (hs : ∃ ch, (s.part p).saved = some ch ∧ ch.digest = (s.part p).digest) :
    (s.switchTo p).Switched p q ∧ ((s.switchTo p).part p).switchAt = (s.part p).switchAt := by
  obtain ⟨ch, hout⟩ := s.saveOut_keeps q
  have hp := hout p
  rw [State.part_modPart, if_neg hpq] at hp
  obtain ⟨c, hc, hd⟩ := Part.saved_of_standing hp hs
  have hto : s.switchTo p = ((s.saveOut q).restore p).settlePower := by
    unfold State.switchTo
    rw [hr]
    exact if_neg (Ne.symm hpq)
  rw [hto]
  exact State.switched_of_turns ((State.restore_turns hc hd).parts (KeepsParts.refl _).settlePower) hout hpq

/-! ### Who has the turn, as another partition's record changes (08 R254) -/

/-- What a search finds in a table stays found when a key is put that neither was nor is what it looks for. -/
theorem find?_tput {α : Type} (d : α) {P : Nat × α → Bool} {k : Nat} {v : α} (hv : P (k, v) = false) {l : Tab α}
    (hk : P (k, tget d l k) = false) {e : Nat × α} (h : l.find? P = some e) : (tput l k v).find? P = some e := by
  induction l with
  | nil => cases h
  | cons y l ih =>
    obtain ⟨j, x⟩ := y
    unfold tget at hk
    unfold tput
    split
    · rw [List.find?_cons_of_neg (by simp [hv])]
      exact h
    · split
      case isTrue hj =>
        subst hj
        rw [if_pos rfl] at hk
        rw [List.find?_cons_of_neg (by simp [hk])] at h
        rw [List.find?_cons_of_neg (by simp [hv])]
        exact h
      case isFalse hj =>
        rw [if_neg (Ne.symm hj)] at hk
        by_cases hx : P (j, x) = true
        · rw [List.find?_cons_of_pos hx] at h ⊢
          exact h
        · rw [List.find?_cons_of_neg hx] at h ⊢
          exact ih hk h

/-- What a search finds stays found in a part of the list that holds it. -/
theorem find?_filter_of_keeps {β : Type} {P K : β → Bool} {l : List β} {e : β} (h : l.find? P = some e) (he : K e = true) :
    (l.filter K).find? P = some e := by
  induction l with
  | nil => cases h
  | cons x l ih =>
    by_cases hx : P x = true
    · rw [List.find?_cons_of_pos hx] at h
      obtain rfl := Option.some.inj h
      rw [List.filter_cons_of_pos he, List.find?_cons_of_pos hx]
    · rw [List.find?_cons_of_neg hx] at h
      rw [List.filter_cons]
      split
      · rw [List.find?_cons_of_neg hx]
        exact ih h
      · exact ih h

/-- A waiting member's record changes, and who has the turn does not. -/
theorem State.residentOf_modPart (hr : s.residentOf g = some q) (hpq : p ≠ q) (hp : (s.part p).resident = false) {f : Part → Part}
    (hf : (f (s.part p)).resident = false) : (s.modPart p f).residentOf g = some q := by
  obtain ⟨e, he, rfl⟩ := Option.map_eq_some_iff.mp hr
  refine Option.map_eq_some_iff.mpr ⟨e, ?_, rfl⟩
  show (tset {} s.parts p (f (s.part p))).find? _ = some e
  unfold tset
  split
  · exact find?_filter_of_keeps he (by simpa using Ne.symm hpq)
  · refine find?_tput {} (by simp [hf]) ?_ he
    show (_ && (s.part p).resident) = false
    rw [hp, Bool.and_false]

/-! ### The commands of a slice group (08 R254 to R258) -/

theorem exec_switchTime_none
    (h : (s.part p).loaded = false ∨ (s.part p).switchAt = none ∨ s.switchWaits (s.part p).sgrp = true ∨ s.managing = false) :
    exec (.switchTime p) s = .next s := by
  refine congrArg Host.Outcome.next (if_pos ?_)
  rcases h with h | h | h | h
  · simp [h]
  · simp [h]
  · simp [h]
  · simp [h]

/-- SWITCH_TIME: the named time of a waiting member has come. -/
theorem exec_switchTime (hr : s.residentOf (s.part p).sgrp = some q) (hpq : p ≠ q) (hp : (s.part p).resident = false)
    (hs : ∃ ch, (s.part p).saved = some ch ∧ ch.digest = (s.part p).digest) (hl : (s.part p).loaded = true)
    (ht : (s.part p).switchAt.isSome = true) (hw : s.switchWaits (s.part p).sgrp = false) (hm : s.managing = true) :
    ∃ t, exec (.switchTime p) s = .next t ∧ t.Switched p q ∧ (t.part p).switchAt = none := by
  have hpart : (s.modPart p fun x => { x with switchAt := none }).part p = { s.part p with switchAt := none } := by
    rw [State.part_modPart, if_pos rfl]
  have hsw := State.switchTo_switched (s := s.modPart p fun x => { x with switchAt := none }) (p := p) (q := q)
    (by rw [hpart]; exact State.residentOf_modPart hr hpq hp hp) hpq (by rw [hpart]; exact hs)
  rw [hpart] at hsw
  have hnot : ¬ (!(s.part p).loaded || (s.part p).switchAt.isNone || s.switchWaits (s.part p).sgrp || !s.managing) = true := by
    simp [hl, hw, hm, Option.isSome_iff_ne_none.mp ht]
  exact ⟨_, congrArg Host.Outcome.next (if_neg hnot), hsw⟩

/-- The next member of a group with work, in the order of turns after the one that has it. -/
def State.nextInTurn (s : State) (g q : Nat) : Option Nat :=
  ((List.range 16).map fun k => (q + 1 + k) % 16).find? fun y =>
    (s.part y).loaded && (s.part y).sgrp == g && !(s.part y).mode1 && (s.part y).hasWork

theorem exec_quantumExpiry_eq (hr : s.residentOf g = some q) :
    exec (.quantumExpiry g) s = .next (if g = 0 ∨ s.switchWaits g ∨ !s.managing then s
      else match s.nextInTurn g q with
        | some y => s.switchTo y
        | none => s) := by
  show execQuantumExpiry g s = _
  unfold execQuantumExpiry State.nextInTurn
  rw [hr]
  rfl

theorem exec_quantumExpiry_none (hr : s.residentOf g = some q)
    (h : g = 0 ∨ s.switchWaits g = true ∨ s.managing = false ∨ s.nextInTurn g q = none) : exec (.quantumExpiry g) s = .next s := by
  rw [exec_quantumExpiry_eq hr]
  rcases h with h | h | h | h
  · rw [if_pos (.inl h)]
  · rw [if_pos (.inr (.inl h))]
  · rw [if_pos (.inr (.inr (by simp [h])))]
  · rw [h, ite_self]

/-- QUANTUM_EXPIRY: the next member in turn takes the cores. -/
theorem exec_quantumExpiry (hr : s.residentOf g = some q) (hg : (s.part p).sgrp = g) (hpq : p ≠ q)
    (hs : ∃ ch, (s.part p).saved = some ch ∧ ch.digest = (s.part p).digest) (h0 : g ≠ 0) (hw : s.switchWaits g = false)
    (hm : s.managing = true) (hn : s.nextInTurn g q = some p) : ∃ t, exec (.quantumExpiry g) s = .next t ∧ t.Switched p q := by
  have hnot : ¬ (g = 0 ∨ s.switchWaits g = true ∨ (!s.managing) = true) := by
    rw [hw, hm]
    simp [h0]
  refine ⟨s.switchTo p, ?_, (State.switchTo_switched (hg ▸ hr) hpq hs).1⟩
  rw [exec_quantumExpiry_eq hr, if_neg hnot, hn]

end Sys2Proof.Machine
end

section
/-! SUPPORT: the switch of a partition to a sub-image (01 R49, 08 R242), and the statement on switches. -/

namespace Sys2Proof.Machine

variable {s t : State} {p q g half : Nat}

/-! ### What a load makes of a partition (08 R251) -/

/-- An image put on the module gives its partition the image's standing, but for whose turn it is. -/
theorem State.install_standing (s : State) (m : Img) (p : Nat) (x : Part) (again : Bool) :
    ∃ turn, ((s.install m p x again).part p).standing = { x.standing with turn := turn } := by
  unfold State.install
  dsimp only
  split
  · refine ⟨{ x.turn with saved := some x.digest }, (KeepsParts.foldl (fun _ _ hu => hu.modCore _ _) (.refl _) _ p).trans ?_⟩
    rw [State.part_modPart, if_pos rfl]
    rfl
  · refine ⟨{ x.turn with resident := true }, ?_⟩
    rw [State.part_modPart, if_pos rfl]
    rfl

/-- The partition that a sub-image makes in the place of another: the step, the retry, the loss-scale state and the job of that one. -/
def Img.twinPart (m : Img) (s : State) (p : Nat) (old : Part) : Part :=
  { m.part s p with openStep := old.openStep, retry := old.retry, ls := old.ls, scale := old.scale, twins := old.twins
                    jslot := old.jslot, job := old.job }

theorem Img.twinPart_standing (b : List Byte) (s : State) (p : Nat) (old : Part) :
    ((parseImg b).twinPart s p old).standing
      = { old.standing with loaded := true, digest := imgDigest b, turn := ((parseImg b).twinPart s p old).turn } := rfl

/-! ### TWIN_SWITCH (01 R49, 08 R242, R251) -/

theorem exec_twinSwitch_none
    (h : (s.part p).loaded = false ∨ s.ev.drain = true ∨ s.managing = false ∨ ∀ e ∈ (s.part p).twins, e.1 ≠ half) :
    exec (.twinSwitch p half) s = .next s := by
  show execTwinSwitch p half s = _
  unfold execTwinSwitch
  dsimp only
  rcases h with h | h | h | h
  · rw [if_pos (by simp [h])]
  · rw [if_pos (by simp [h])]
  · rw [if_pos (by simp [h])]
  · rw [List.find?_eq_none.mpr fun e he => by simpa using h e he]
    exact congrArg Host.Outcome.next (ite_self s)

/-- The sub-image of a half is checked against the module as it is now, and loaded or reported. -/
theorem exec_twinSwitch_eq {b : List Byte} (hl : (s.part p).loaded = true) (hd : s.ev.drain = false) (hm : s.managing = true)
    (hb : ((s.part p).twins.find? fun e => e.1 == half) = some (half, b)) :
    exec (.twinSwitch p half) s = .next (match bodyChecks { m := parseImg b, s := s, sub := true } (fun _ => []) with
      | some r => s.report32 [half] 0 0 (loadReport b (some r)) false
      | none =>
        let due := ((s.part p).escal ++ ((s.part p).retracting.map fun r => r.escalation).getD []).eraseDups
        let s1 := ((due.foldl (fun s u => s.fence p u) s).unload p).applySpares (parseImg b)
        let x := (parseImg b).twinPart s1 p (s.part p)
        let s2 := (s1.scrubPart p x).applyRoutes (parseImg b)
        ((((s2.install (parseImg b) p x true).stepOpen p).replayStage p).openChunks p).settlePower) := by
  show execTwinSwitch p half s = _
  unfold execTwinSwitch
  dsimp only
  rw [if_neg (by simp [hl, hd, hm]), hb]
  rfl

/-- A sub-image that fails a check is reported at the loader of its half, and nothing else changes (08 R251, R252). -/
theorem State.report32_half (s : State) (half : Nat) (rep : List Byte) :
    let t := s.report32 [half] 0 0 rep false
    t.parts = s.parts ∧ t.cores = s.cores ∧ t.objs = s.objs ∧ t.mem = s.mem ∧ (t.ff half).ldr.report = rep := by
  obtain ⟨a, b, v, x, h⟩ := s.report32_eq [half] 0 0 rep false
  have hff : ((s.report32 [half] 0 0 rep false).ff half).ldr.report = rep := by
    rw [State.report32_ff]
    unfold State.showReport
    rw [List.foldl_cons, List.foldl_nil, State.ff_modFf]
  refine ⟨?_, ?_, ?_, ?_, hff⟩
  · rw [h]
  · rw [h]
  · rw [h]
  · rw [h]

/-- A sub-image put in the place of a partition has, once its step is open again, the standing it was given. -/
theorem State.twin_standing (s : State) (b : List Byte) (u : State) (p : Nat) (old : Part) :
    let t := s.install (parseImg b) p ((parseImg b).twinPart u p old) true
    ∃ turn, (((((t.stepOpen p).replayStage p).openChunks p).settlePower).part p).standing
      = { old.standing with loaded := true, digest := imgDigest b, turn := turn } := by
  obtain ⟨turn, h⟩ := s.install_standing (parseImg b) p ((parseImg b).twinPart u p old) true
  refine ⟨turn, (((((KeepsParts.refl _).stepOpen p).replayStage p).openChunks p).settlePower p).trans (h.trans ?_)⟩
  rw [Img.twinPart_standing]

theorem exec_twinSwitch_standing {b : List Byte} (hl : (s.part p).loaded = true) (hd : s.ev.drain = false) (hm : s.managing = true)
    (hb : ((s.part p).twins.find? fun e => e.1 == half) = some (half, b))
    (hc : bodyChecks { m := parseImg b, s := s, sub := true } (fun _ => []) = none) :
    ∃ t turn, exec (.twinSwitch p half) s = .next t
      ∧ (t.part p).standing = { (s.part p).standing with loaded := true, digest := imgDigest b, turn := turn } := by
  rw [exec_twinSwitch_eq hl hd hm hb, hc]
  obtain ⟨turn, h⟩ := State.twin_standing _ b _ p (s.part p)
  exact ⟨_, turn, rfl, h⟩

/-- Settles O38. A switch saves the resident member out and restores the one whose turn it is: what runs between, Retract handling with its
escalations and job stops included, leaves the turns of all partitions as they are. A twin switch puts the sub-image's structure under the
partition's own step, retry, job and loss-scale state, and the work that its reopened step finds leaves those. -/
theorem switchesChangeTheResident : Obligations.SwitchesChangeTheResident := by
  unfold Obligations.SwitchesChangeTheResident
  refine ⟨?_, ?_⟩
  · rintro s p q g rfl hr hpq hp hs
    refine ⟨fun time => rfl, fun hl ht hw hm => exec_switchTime hr hpq hp hs hl ht hw hm, exec_switchTime_none, ?_, exec_quantumExpiry_none hr⟩
    exact fun h0 hw hm hn => exec_quantumExpiry hr rfl hpq hs h0 hw hm hn
  · intro s p half _
    refine ⟨exec_twinSwitch_none, fun b hl hd hm hb => ⟨fun r hr => ?_, fun hc => ?_⟩⟩
    · refine ⟨_, exec_twinSwitch_eq hl hd hm hb, ?_⟩
      rw [hr]
      exact s.report32_half half _
    · obtain ⟨t, turn, ht, h⟩ := exec_twinSwitch_standing hl hd hm hb hc
      exact ⟨t, ht, congrArg Standing.loaded h, congrArg Standing.digest h, congrArg Standing.openStep h, congrArg Standing.retry h,
        congrArg Standing.ls h, congrArg Standing.scale h, congrArg Standing.job h, congrArg Standing.jslot h, congrArg Standing.twins h⟩

end Sys2Proof.Machine
end

section
/-! SUPPORT: packets on their arrival at the exchange engine of a die (09 R274, R277, R292): which of them are Stale, which show a differing
entry, and which go on to the meaning of their row. -/

namespace Sys2Proof.Machine

variable {s : State} {die part : Nat} {p : XPkt}

/-! ### The packet leaves the list it waited in -/

@[simp] theorem State.takePkt_rank (s : State) (part : Nat) (p : XPkt) : (s.takePkt part p).rank = s.rank := by
  unfold State.takePkt State.rank
  rw [State.modLink_link]
  split <;> rfl

@[simp] theorem State.takePkt_crosses (s : State) (part : Nat) (p : XPkt) (h h' : Nat) :
    (s.takePkt part p).crosses h h' = s.crosses h h' := by
  unfold State.takePkt State.crosses
  rw [State.modLink_link]
  split <;> rfl

@[simp] theorem State.takePkt_syn (s : State) (part : Nat) (p : XPkt) (half : Nat) : (s.takePkt part p).syn half = s.syn half := rfl

/-! ### A Collective fault (09 R292) -/

/-- A Collective fault of a partition retracts its step (09 R266). -/
theorem State.cfault_stepEnds (s : State) (die code rank coll : Nat) (hp : part < 16) : (s.cfault die part code rank coll).stepEnds part := by
  have hn : part = (BitVec.ofNat 8 part).toNat := by
    rw [BitVec.toNat_ofNat, Nat.mod_eq_of_lt (by omega)]
  exact State.post_stepEnds _ (.inr ⟨rfl, by show (BitVec.ofNat 8 part).toNat < 16; omega, hn⟩)

/-! ### What becomes of a packet -/

/-- A packet that may arrive leaves its list, and its step and signature say what becomes of it. -/
theorem State.packet_arrives (h : s.nextPacket die part p) (go : W64 → List Byte → State → State) :
    s.packet die part p go = match (s.part part).accepts p with
      | none => (s.takePkt part p).stale die part p
      | some step =>
        if p.kind ≠ 0 ∧ p.kind ≠ 1 ∧ p.sig ≠ collSig ((s.coll part p.coll).getD []) then
          (s.takePkt part p).cfault die part 5 p.srank p.coll
        else go step ((s.coll part p.coll).getD []) (s.takePkt part p) := by
  obtain ⟨hm, hk⟩ := h
  have hres : ((s.part part).saved.isSome && p.kind != 4) = false := by
    rcases hk with hk | hk <;> simp [hk]
  unfold State.packet
  rw [if_neg (by simp [hm, hres])]
  rfl

theorem State.packet_stale (h : s.nextPacket die part p) (ha : (s.part part).accepts p = none) (go : W64 → List Byte → State → State) :
    s.packet die part p go = (s.takePkt part p).stale die part p := by
  rw [State.packet_arrives h, ha]

theorem State.packet_badSig (h : s.nextPacket die part p) {step : W64} (ha : (s.part part).accepts p = some step) (hk : 2 ≤ p.kind)
    (hs : p.sig ≠ collSig ((s.coll part p.coll).getD [])) (go : W64 → List Byte → State → State) :
    s.packet die part p go = (s.takePkt part p).cfault die part 5 p.srank p.coll := by
  rw [State.packet_arrives h, ha]
  exact if_pos ⟨by omega, by omega, hs⟩

theorem State.packet_goes (h : s.nextPacket die part p) {step : W64} (ha : (s.part part).accepts p = some step)
    (hs : p.kind ≤ 1 ∨ p.sig = collSig ((s.coll part p.coll).getD [])) (go : W64 → List Byte → State → State) :
    s.packet die part p go = go step ((s.coll part p.coll).getD []) (s.takePkt part p) := by
  rw [State.packet_arrives h, ha]
  exact if_neg fun ⟨h0, h1, hn⟩ => hs.elim (by omega) hn

/-- A packet of the open step and its retry is accepted in that step (09 R274). -/
theorem Part.accepts_open {x : Part} (hs : p.step = x.openStep.setWidth 32) (hr : p.retry = x.retry) : x.accepts p = some x.openStep :=
  if_pos ⟨hs, hr⟩

/-- A packet of the open step with the signature of its entry goes on (09 R274, R277). -/
theorem State.packet_inStep (h : s.nextPacket die part p) (hs : s.inStep part p) (go : W64 → List Byte → State → State) :
    s.packet die part p go = go (s.part part).openStep ((s.coll part p.coll).getD []) (s.takePkt part p) := by
  obtain ⟨hstep, hretry, hsig⟩ := hs
  exact State.packet_goes h (Part.accepts_open hstep hretry) hsig go

/-! ### A packet of another step, or with another signature -/

/-- A Stale packet touches the counters of its die alone, beside the report of it (09 R274). -/
theorem State.stale_spec (s : State) (die part : Nat) (p : XPkt) :
    let t := s.stale die part p
    t.mem = s.mem ∧ t.objs = s.objs ∧ t.cores = s.cores ∧ (t.die die).stale = true
      ∧ (t.die die).cntStale = satAdd (s.die die).cntStale 1 := by
  unfold State.stale
  dsimp only
  split
  · exact ⟨rfl, rfl, rfl, by rw [State.die_modDie], by rw [State.die_modDie]⟩
  · exact ⟨State.post_mem _ _, State.post_objs _ _, State.post_cores _ _, by rw [State.die_post, State.die_modDie],
      by rw [State.die_post, State.die_modDie]⟩

/-- A contribution finds a place whenever it is not to be staged (09 R283). -/
theorem State.contribFits_of_stale (ha : (s.part part).accepts p = none) : s.contribFits part p = true := by
  unfold State.contribFits
  simp [ha]

theorem State.contribFits_of_elsewhere
    (h : (collOwner ((s.coll part p.coll).getD []) (posFirst p)).1 ≠ s.rank ∨ p.srank ∉ collMembers ((s.coll part p.coll).getD [])) :
    s.contribFits part p = true := by
  unfold State.contribFits
  rcases h with h | h <;> simp [h]

/-- Every row of a packet meets a Stale one alike (09 R274). -/
theorem exec_stale (h : s.nextPacket die part p) (ha : (s.part part).accepts p = none) (fs : List PhysFault)
    {row : Nat → Nat → XPkt → Instr} (hrow : row ∈ packetRows fs) :
    exec (row die part p) s = .next ((s.takePkt part p).stale die part p) := by
  have hgo := State.packet_stale h ha
  have hfit := State.contribFits_of_stale ha
  simp only [packetRows, signedRows, List.cons_append, List.nil_append, List.mem_cons, List.not_mem_nil, or_false] at hrow
  rcases hrow with rfl | rfl | rfl | rfl | rfl | rfl | rfl | rfl | rfl | rfl
  case inr.inl =>
    show Host.Outcome.next (if (!s.contribFits part p) = true then s else _) = _
    rw [hfit, if_neg (by decide), hgo]
  all_goals exact congrArg Host.Outcome.next (hgo _)

/-- Every row whose packets are signed meets another signature alike (09 R277). -/
theorem exec_badSig (h : s.nextPacket die part p) {step : W64} (ha : (s.part part).accepts p = some step) (hk : 2 ≤ p.kind)
    (hs : p.sig ≠ collSig ((s.coll part p.coll).getD [])) (fs : List PhysFault) {row : Nat → Nat → XPkt → Instr}
    (hrow : row ∈ signedRows fs) :
    exec (row die part p) s = .next ((s.takePkt part p).cfault die part 5 p.srank p.coll) := by
  have hgo := State.packet_badSig h ha hk hs
  simp only [signedRows, List.mem_cons, List.not_mem_nil, or_false] at hrow
  rcases hrow with rfl | rfl | rfl | rfl | rfl | rfl | rfl | rfl
  all_goals exact congrArg Host.Outcome.next (hgo _)

/-- A contribution that this module's entry does not expect shows a differing entry at its sender by its signature (09 R277). -/
theorem exec_contrib_elsewhere (h : s.nextPacket die part p) {step : W64} (ha : (s.part part).accepts p = some step) (hk : p.kind = 1)
    (hs : p.sig ≠ collSig ((s.coll part p.coll).getD [])) (fs : List PhysFault)
    (ho : (collOwner ((s.coll part p.coll).getD []) (posFirst p)).1 ≠ s.rank ∨ p.srank ∉ collMembers ((s.coll part p.coll).getD [])) :
    exec (.contrib die part ⟨p, fs⟩) s = .next ((s.takePkt part p).cfault die part 5 p.srank p.coll) := by
  show Host.Outcome.next (if (!s.contribFits part p) = true then s else _) = _
  rw [State.contribFits_of_elsewhere ho, if_neg (by decide), State.packet_goes h ha (.inl hk.le)]
  rw [State.takePkt_rank, if_pos (by simpa using ho), if_pos hs]

/-- Settles O24: whatever its row, a packet that may arrive is Stale, or its signature is a fault, before the row's meaning begins; a
contribution's signature is looked at where its entry does not expect it. -/
theorem packetsAreCheckedAtTheEngine : Obligations.PacketsAreCheckedAtTheEngine := by
  unfold Obligations.PacketsAreCheckedAtTheEngine
  refine ⟨fun s die part p fs h hopen hnext row hrow => ?_, fun s die part p fs h hp hstep hretry => ?_⟩
  · have ha : (s.part part).accepts p = none := by
      unfold Part.accepts
      rw [if_neg hopen, if_neg hnext]
    exact ⟨_, exec_stale h ha fs hrow, State.stale_spec (s.takePkt part p) die part p⟩
  · intro r faults hsig
    have ha := Part.accepts_open hstep hretry
    have hfault : ∀ c, exec c s = .next ((s.takePkt part p).cfault die part 5 p.srank p.coll) → faults c := fun c hc => by
      obtain ⟨hmem, hobjs, -, hcf, hcw⟩ := State.cfault_spec (s := s.takePkt part p) (die := die) (part := part) 5 p.srank p.coll
      obtain ⟨hev, hsent⟩ := State.cfault_stepEnds (s.takePkt part p) die 5 p.srank p.coll hp
      exact ⟨_, hc, hmem, hobjs, hcf, hcw, hev, hsent⟩
    exact ⟨fun hk row hrow => hfault _ (exec_badSig h ha hk hsig fs hrow),
      fun hk ho => hfault _ (exec_contrib_elsewhere h ha hk hsig fs ho)⟩

end Sys2Proof.Machine
end

section
/-! SUPPORT: an operation at its sync object (09 R260, R269, R270, 12 R351), and what the mirrored writes that follow it leave (09 R271). -/

namespace Sys2Proof.Machine

variable {r s t : State}

/-! ### A packet on its way out -/

/-- Sending a packet changes the link layer alone, or is a NOPATH fault (09 R292, 11 R331). -/
theorem State.sendX_cases (s : State) (die part drank : Nat) (p : XPkt) :
    s.Linked (s.sendX die part drank p) ∨ s.sendX die part drank p = s.cfault die part 1 drank p.coll := by
  unfold State.sendX
  dsimp only
  split
  · split
    · exact .inl ⟨_, _, rfl⟩
    · exact .inr rfl
  · split
    · split
      · exact .inr rfl
      · exact .inl (State.Linked.trans ⟨_, _, rfl⟩ (State.linkSend_linked _ _ _))
    · exact .inr rfl

/-! ### Mirrored writes -/

/-- Memory, the objects, and the operations on their way to each half stay. -/
structure State.KeepsNet (r s : State) : Prop where
  mem : s.mem = r.mem
  objs : s.objs = r.objs
  net : ∀ half, (s.syn half).net = (r.syn half).net

namespace State.KeepsNet

theorem refl (s : State) : s.KeepsNet s := ⟨rfl, rfl, fun _ => rfl⟩

theorem ite {v : State} {c : Prop} [Decidable c] (ht : r.KeepsNet t) (hv : r.KeepsNet v) : r.KeepsNet (if c then t else v) := by
  split
  · exact ht
  · exact hv

theorem foldl {α : Type} {f : State → α → State} (hf : ∀ v x, r.KeepsNet v → r.KeepsNet (f v x)) (h : r.KeepsNet s) (l : List α) :
    r.KeepsNet (l.foldl f s) := by
  induction l generalizing s with
  | nil => exact h
  | cons x l ih => exact ih (hf s x h)

theorem same (h : r.KeepsNet s) (hm : t.mem = s.mem) (ho : t.objs = s.objs) (h0 : t.syn0 = s.syn0) (h1 : t.syn1 = s.syn1) :
    r.KeepsNet t := by
  refine ⟨hm.trans h.mem, ho.trans h.objs, fun half => ?_⟩
  rw [← h.net half]
  unfold State.syn
  rw [h0, h1]

theorem post (h : r.KeepsNet s) (e : EvRec) : r.KeepsNet (s.post e) :=
  h.same (s.post_mem e) (s.post_objs e) (s.post_syn0 e) (s.post_syn1 e)

theorem cfault (h : r.KeepsNet s) (die part code rank coll : Nat) : r.KeepsNet (s.cfault die part code rank coll) :=
  post (s := s.modDie die _) (h.same rfl rfl rfl rfl) _

theorem sendX (h : r.KeepsNet s) (die part drank : Nat) (p : XPkt) : r.KeepsNet (s.sendX die part drank p) := by
  obtain ⟨l, n, hl⟩ | hf := s.sendX_cases die part drank p
  · rw [hl]
    exact h.same rfl rfl rfl rfl
  · rw [hf]
    exact h.cfault _ _ _ _ _

/-- A change of a half that leaves the operations on their way to it. -/
theorem modSyn (h : r.KeepsNet s) (half : Nat) {f : SynHalf → SynHalf} (hf : ∀ k, (f k).net = k.net) : r.KeepsNet (s.modSyn half f) := by
  refine ⟨(s.modSyn_mem half f).trans h.mem, (s.modSyn_objs half f).trans h.objs, fun k => ?_⟩
  rw [← h.net k]
  unfold State.modSyn State.syn
  split <;> split
  · exact hf _
  · rfl
  · rfl
  · exact hf _

theorem mirrorTo (h : r.KeepsNet s) (q : SyncReq) (m : Nat) (p : XPkt) : r.KeepsNet (s.mirrorTo q m p) := by
  unfold State.mirrorTo
  refine (h.sendX _ _ _ _).modSyn _ ?_
  exact fun _ => rfl

theorem mirrorOut (h : r.KeepsNet s) (q : SyncReq) : r.KeepsNet (s.mirrorOut q) :=
  foldl (fun _ _ hv => .ite (foldl (fun _ _ hw => hw.mirrorTo q _ _) hv _) hv) h _

end State.KeepsNet

/-! ### An operation that its object accepts -/

/-- A SET or an ADD hands nothing back. -/
theorem State.faddReturn_write {q : SyncReq} (hk : q.kind = .set ∨ q.kind = .add) (old : W32) : s.faddReturn q old = s := by
  unfold State.faddReturn
  rcases hk with hk | hk <;> rw [hk]

/-- A SET or an ADD of an allocated object changes that object in the layer of its step; the mirrored writes it brings about leave memory,
the objects and what is on its way. -/
theorem State.syncApply_write {q : SyncReq} (hd : s.synDrop q.obj q.unit q.epoch = none) (ha : (s.obj q.obj).alloc = true)
    (hk : q.kind = .set ∨ q.kind = .add) :
    (s.modObj q.obj fun o => o.apply (layerOf (s.part (s.obj q.obj).part).openStep q.step) q.kind q.value).KeepsNet (s.syncApply q) := by
  have hmoved := s.changeObj_moves q.obj fun o => o.apply (layerOf (s.part (s.obj q.obj).part).openStep q.step) q.kind q.value
  have hchange := State.KeepsNet.refl
    (s.modObj q.obj fun o => o.apply (layerOf (s.part (s.obj q.obj).part).openStep q.step) q.kind q.value)
  replace hchange := hchange.same (t := s.changeObj q.obj _) (by rw [hmoved]) (by rw [hmoved]) (by rw [hmoved]) (by rw [hmoved])
  unfold State.syncApply
  rw [hd]
  simp only [ha, Bool.not_true, Bool.false_eq_true, if_false]
  rw [State.faddReturn_write hk]
  exact .ite (hchange.mirrorOut q) hchange

theorem SyncObj.apply_set {o : SyncObj} (h : o.type = .flag) (k : Nat) (v : W32) : o.apply k .set v = o.setLayer k (some v) := by
  unfold SyncObj.apply
  rw [h]

theorem SyncObj.apply_add {o : SyncObj} (h : o.type = .count) (k : Nat) (v : W32) :
    o.apply k .add v = o.setLayer k (some ((o.layer k).getD 0 + v)) := by
  unfold SyncObj.apply
  rw [h]
  rfl

theorem State.obj_of_objs (h : t.objs = s.objs) (o : Nat) : t.obj o = s.obj o := by
  unfold State.obj
  rw [h]

theorem State.obj_modObj_ne (s : State) {o x : Nat} (f : SyncObj → SyncObj) (h : x ≠ o) : (s.modObj o f).obj x = s.obj x := tget_tset_ne _ _ _ h

/-- The operation at the head of a half's list arrives, and its object becomes what the operation makes of it. -/
theorem exec_syncOperation_write {half : Nat} {q : SyncReq} {rest : List SyncReq} (hnet : (s.syn half).net = q :: rest)
    (hx : s.crosses (unitHalf q.unit) half = true) (hd : s.synDrop q.obj q.unit q.epoch = none) (ha : (s.obj q.obj).alloc = true)
    (hk : q.kind = .set ∨ q.kind = .add) :
    ∃ t, exec (.syncOperation half ⟨0, []⟩) s = .next t
      ∧ t.obj q.obj = (s.obj q.obj).apply (layerOf (s.part (s.obj q.obj).part).openStep q.step) q.kind q.value
      ∧ (∀ x, x ≠ q.obj → t.obj x = s.obj x) ∧ t.mem = s.mem ∧ (t.syn half).net = rest := by
  have hkeeps := State.syncApply_write (s := s.synTaken half) (q := q) (by rwa [State.synTaken_synDrop]) (by rwa [State.synTaken_obj]) hk
  refine ⟨_, exec_syncOperation_head hnet hx, ?_, fun x hne => ?_, ?_, ?_⟩
  · rw [State.obj_of_objs hkeeps.objs, State.obj_modObj, State.synTaken_obj, State.synTaken_part]
  · rw [State.obj_of_objs hkeeps.objs, State.obj_modObj_ne _ _ hne, State.synTaken_obj]
  · exact hkeeps.mem.trans (s.modSyn_mem _ _)
  · exact (hkeeps.net half).trans (State.synTaken_net hnet)

/-! ### An operation that is dropped -/

/-- A drop is counted at its half, by the mask or by the epoch, and leaves what is on its way there (09 R269, R270). -/
theorem State.zombie_counts (s : State) (half obj : Nat) (unit : W32) (epoch : W16) (part : Nat) (masked : Bool) :
    let t := s.zombie half obj unit epoch part masked
    t.objs = s.objs ∧ t.mem = s.mem ∧ (t.syn half).net = (s.syn half).net ∧ (t.syn half).zmb = true
      ∧ (t.syn half).zMask = (if masked then satAdd (s.syn half).zMask 1 else (s.syn half).zMask)
      ∧ (t.syn half).zEpoch = (if masked then (s.syn half).zEpoch else satAdd (s.syn half).zEpoch 1) := by
  have hpost : ∀ (u : State) (e : EvRec), (u.post e).syn half = u.syn half := fun u e => by
    unfold State.syn
    rw [State.post_syn0, State.post_syn1]
  unfold State.zombie
  dsimp only
  split
  · rw [State.syn_modSyn]
    exact ⟨State.modSyn_objs .., State.modSyn_mem .., rfl, rfl, rfl, rfl⟩
  · rw [hpost, State.syn_modSyn, State.post_objs, State.post_mem]
    exact ⟨State.modSyn_objs .., State.modSyn_mem .., rfl, rfl, rfl, rfl⟩

/-- The fence mask and the epoch of the object say whether an operation is dropped (09 R269, R270). -/
theorem State.synDrop_eq_some {obj : Nat} {unit : W32} {epoch : W16} (h : s.masked unit = true ∨ (s.obj obj).fence ≠ epoch) :
    s.synDrop obj unit epoch = some (s.masked unit) := by
  unfold State.synDrop
  cases hm : s.masked unit with
  | true => rfl
  | false =>
    rw [hm] at h
    exact if_pos (h.resolve_left (by decide))

theorem State.syncApply_dropped {q : SyncReq} {masked : Bool} (hd : s.synDrop q.obj q.unit q.epoch = some masked)
    (hk : q.kind = .set ∨ q.kind = .add) : s.syncApply q = s.zombie (halfOfObj q.obj) q.obj q.unit q.epoch q.part masked := by
  unfold State.syncApply
  rw [hd]
  exact State.faddReturn_write hk 0

/-- Settles O20: the operation at the head of its half's list is applied in the layer of its step, or dropped and counted. -/
theorem syncOperationsApplyAtTheirObject : Obligations.SyncOperationsApplyAtTheirObject := by
  unfold Obligations.SyncOperationsApplyAtTheirObject
  refine ⟨fun s half q rest hnet _ hx hd ha => ?_, fun s half q rest hnet hhalf hx hk => ?_⟩
  · intro o k becomes
    refine ⟨fun hset ht => ?_, fun hadd ht => ?_⟩
    · obtain ⟨t, hgo, hobj, hrest⟩ := exec_syncOperation_write hnet hx hd ha (.inl hset)
      rw [hset, SyncObj.apply_set ht] at hobj
      exact ⟨t, hgo, hobj, hrest⟩
    · obtain ⟨t, hgo, hobj, hrest⟩ := exec_syncOperation_write hnet hx hd ha (.inr hadd)
      rw [hadd, SyncObj.apply_add ht] at hobj
      exact ⟨t, hgo, hobj, hrest⟩
  · intro masked hdrop
    have hd := State.synDrop_eq_some hdrop
    obtain ⟨hobjs, hmem, hn, hzmb, hmask, hepoch⟩ := (s.synTaken half).zombie_counts half q.obj q.unit q.epoch q.part masked
    have htaken : (s.synTaken half).syn half = { s.syn half with net := (s.syn half).net.eraseIdx 0 } := State.syn_modSyn ..
    rw [htaken] at hmask hepoch
    refine ⟨_, exec_syncOperation_head hnet hx, ?_⟩
    rw [State.syncApply_dropped (by rw [State.synTaken_synDrop, hd]) hk, ← hhalf]
    exact ⟨hobjs.trans (s.modSyn_objs _ _), hmem.trans (s.modSyn_mem _ _), (State.zombie_cores ..).trans (s.modSyn_cores _ _),
      hn.trans (State.synTaken_net hnet), hzmb, hmask, hepoch⟩

end Sys2Proof.Machine
end

section
/-! SUPPORT: duplicate tiles and the report of a step (09 R264, R265, R291, 12 R347). -/

namespace Sys2Proof.Machine

variable {s : State}

/-! ### Duplicate tiles (09 R291) -/

/-- The digest record at the front has left the list. -/
theorem State.digRecs_taken {r : DigestRec} {rest : List DigestRec} (h : s.ev.digRecs = r :: rest) :
    (s.modEv fun v => { v with digRecs := dropFirst (fun x => x == r) v.digRecs }) = s.modEv fun v => { v with digRecs := rest } := by
  have hd : dropFirst (fun x => x == r) s.ev.digRecs = rest := by
    rw [h]
    simp [dropFirst]
  unfold State.modEv
  dsimp only
  rw [hd]

/-- The record of Silent-data: of the step and attempt of the tile (Table 12-1). -/
def State.silentRec (s : State) (r : DigestRec) : EvRec :=
  { s.unitEv r.unit 0x08 0 r.part (BitVec.ofNat 64 (r.ticket.toNat * 2 ^ 32 + r.tid.toNat * 2 ^ 16)) with
    step := r.step, attempt := r.attempt }

/-- What a ticketed tile comes to, by the record of the same tile that the step has. -/
def State.compareTile (s : State) (h : Nat) (r : DigestRec) : Option DigestRec → State
  | some x =>
    if x.digest = r.digest then
      (s.modSyn h fun k => { k with dupBen := satAdd k.dupBen 1 }).modEv fun v => { v with dupLog := v.dupLog ++ [r] }
    else
      let s1 := s.modSyn h fun k => { k with sde := true, dupSde := satAdd k.dupSde 1 }
      s1.post (s1.silentRec r)
  | none =>
    if 65536 ≤ s.ev.tracker.length then s.modSyn h fun k => { k with dupUn := satAdd k.dupUn 1 }
    else s.modEv fun v => { v with tracker := v.tracker ++ [r] }

/-- A failed tile and one without a ticket are let be, and any other is compared (09 R291). -/
theorem exec_duplicateTile {r : DigestRec} {rest : List DigestRec} (h : s.ev.digRecs = r :: rest) :
    exec (.duplicateTile r) s = .next (if r.ticket = 0 ∨ r.failed = true then s.modEv fun v => { v with digRecs := rest }
      else (s.modEv fun v => { v with digRecs := rest }).compareTile s.leadHalf r (s.ev.tracker.find? fun x => sameTile x r)) := by
  show execDuplicateTile r s = _
  unfold execDuplicateTile
  rw [State.digRecs_taken h]
  dsimp only [State.modEv_ev]
  cases s.ev.tracker.find? fun x => sameTile x r <;> rfl

/-- A record of a class that retracts takes the slot of its unit when that is free (12 R346). -/
theorem State.post_takes_slot (s : State) {e : EvRec} (hc : clsRetracting e.cls.toNat e.cause.toNat = true)
    (hfree : (tget {} s.ev.slots e.unit.toNat).ret = none) : (tget {} (s.post e).ev.slots e.unit.toNat).ret = some (s.formRec e) := by
  rw [State.post_ev]
  show (tget {} (tset ({} : Slots) _ _ _) _).ret = _
  rw [show (s.formRec e).unit = e.unit from rfl, tget_tset]
  unfold Slots.put slotPut
  rw [if_pos (show clsRetracting (s.formRec e).cls.toNat (s.formRec e).cause.toNat = true from hc), hfree]

/-- Silent-data is counted, the step retracts, and its record takes the slot of the tile's unit when that is free (09 R291, R266). -/
theorem State.silentData_spec (s : State) (h : Nat) (r : DigestRec) (hp : r.part < 16) :
    let s1 := s.modSyn h fun k => { k with sde := true, dupSde := satAdd k.dupSde 1 }
    let t := s1.post (s1.silentRec r)
    (t.syn h).sde = true ∧ (t.syn h).dupSde = satAdd (s.syn h).dupSde 1 ∧ t.stepEnds r.part
      ∧ ((tget {} s.ev.slots r.unit.toNat).ret = none → (tget {} t.ev.slots r.unit.toNat).ret = some (s1.formRec (s1.silentRec r))) := by
  intro s1 t
  have hsyn : t.syn h = { s.syn h with sde := true, dupSde := satAdd (s.syn h).dupSde 1 } := by
    rw [← State.syn_modSyn s h fun k => { k with sde := true, dupSde := satAdd k.dupSde 1 }]
    unfold State.syn
    rw [State.post_syn0, State.post_syn1]
  have hn : (s1.silentRec r).part.toNat = r.part := by
    show (BitVec.ofNat 8 r.part).toNat = r.part
    rw [BitVec.toNat_ofNat, Nat.mod_eq_of_lt (by omega)]
  refine ⟨by rw [hsyn], by rw [hsyn], State.post_stepEnds _ (.inr ⟨rfl, hn ▸ hp, hn.symm⟩), fun hfree => ?_⟩
  refine s1.post_takes_slot (e := s1.silentRec r) rfl ?_
  rw [show s1.ev = s.ev from s.modSyn_ev _ _]
  exact hfree

/-! ### The step report (09 R264, R265) -/

/-- STATUS of a report, as a byte (Table 9-3). -/
theorem State.reportStatus_byte (s : State) (p : Nat) : BitVec.ofNat 8 (s.reportStatus p)
    = if (s.part p).stepEvent = true ∨ (s.part p).line0 = true ∨ (s.part p).line1 = true ∨ s.lostWaits = true then (2 : Byte)
      else if (s.part p).scaleEv ≠ 0 then 1 else 0 := by
  unfold State.reportStatus
  simp only [Bool.or_eq_true, or_assoc]
  split
  · rfl
  · split <;> rfl

/-- A partition reports when it is loaded, no split stands in the way, it has not reported and is not in Retract handling, and its waiters
and records have come as far as they must. -/
theorem exec_stepReport (s : State) (p : Nat) : exec (.stepReport p) s = .next
    (if (s.part p).loaded = true ∧ s.managing = true ∧ (s.part p).reported = false ∧ (s.part p).retracting = none ∧ s.atGate p = true
        ∧ s.delivered p = true then
      (s.mgmt s.mgrRank (.step (s.stepMsg p (s.reportStatus p)))).modPart p fun x => { x with reported := true } else s) := by
  show execStepReport p s = _
  unfold execStepReport
  simp only [Bool.and_eq_true, Bool.not_eq_true', Option.isNone_iff_eq_none, and_assoc]

/-- Settles O31: the tile is compared with the first of its kind in the step, and a partition that is due sends its one report. -/
theorem stepsAreComparedAndReported : Obligations.StepsAreComparedAndReported := by
  unfold Obligations.StepsAreComparedAndReported
  refine ⟨fun s r rest hrecs => ?_, fun s p => ?_⟩
  · intro taken seen h
    have hgo := exec_duplicateTile hrecs
    refine ⟨fun hlet => by rw [hgo, if_pos hlet], fun ht hf => ?_⟩
    rw [if_neg (show ¬ (r.ticket = 0 ∨ r.failed = true) from not_or.mpr ⟨ht, Bool.not_eq_true _ ▸ hf⟩)] at hgo
    refine ⟨fun hseen hroom => ?_, fun hseen hfull => ?_, fun x hseen hdig => ?_, fun x hseen hdig hp => ?_⟩
    all_goals rw [hgo, show (s.ev.tracker.find? fun x => sameTile x r) = _ from hseen]
    · exact congrArg Host.Outcome.next (if_neg (Nat.not_le.mpr hroom))
    · exact congrArg Host.Outcome.next (if_pos hfull)
    · exact congrArg Host.Outcome.next (if_pos hdig)
    · obtain ⟨hsde, hcount, ⟨hev, hsent⟩, hslot⟩ := taken.silentData_spec h r hp
      exact ⟨_, congrArg Host.Outcome.next (if_neg hdig), hsde, hcount, hev, hsent, fun hfree => ⟨_, hslot hfree, rfl, rfl, rfl⟩⟩
  · intro x due status m
    rw [exec_stepReport]
    refine ⟨fun hdue => ?_, fun hdue => congrArg Host.Outcome.next (if_neg hdue)⟩
    have hm : s.stepMsg p (s.reportStatus p) = m := by
      unfold State.stepMsg
      rw [State.reportStatus_byte]
    rw [if_pos hdue, hm]

end Sys2Proof.Machine
end

section
/-! SUPPORT: what a GATE value does to each partition of its job (09 R263, R267, R268, 12 R353). -/

namespace Sys2Proof.Machine

variable {s : State}

/-- A fold whose step changes the view of its own element alone, and in one way, changes the view of each element of the list that way,
however often the element stands there. -/
theorem State.view_foldl {β : Type} {view : State → Nat → β} {upd : β → β} {g : State → Nat → State}
    (hg : ∀ u q p, view (g u q) p = if p = q then upd (view u p) else view u p) (hupd : ∀ x, upd (upd x) = upd x) (l : List Nat) (s : State)
    (p : Nat) : view (l.foldl g s) p = if p ∈ l then upd (view s p) else view s p := by
  induction l generalizing s with
  | nil => rfl
  | cons q l ih =>
    rw [List.foldl_cons, ih, hg]
    by_cases hq : p = q
    · simp [hq, hupd]
    · simp [hq]

/-! ### A partition's step, retry and loss-scale state -/

/-- What a GATE value may change of a partition's standing. -/
structure StepView where
  step : W64
  retry : Byte
  ls : LsState

def Part.stepView (x : Part) : StepView := { step := x.openStep, retry := x.retry, ls := x.ls }

/-- A COMMIT or DISCARD for the step opens the next at retry 0; FF_LSSTATE is the job's (09 R268). -/
def StepView.ruled (value : W32) (ls : LsState) (v : StepView) : StepView :=
  if fld value 31 12 = v.step.toNat % 2 ^ 20 ∧ (fld value 11 10 = 1 ∨ fld value 11 10 = 2) then { step := v.step + 1, retry := 0, ls := ls }
  else { v with ls := ls }

/-- The next step has another low part, on which the value does not rule. -/
theorem StepView.ruled_ruled (value : W32) (ls : LsState) (v : StepView) : (v.ruled value ls).ruled value ls = v.ruled value ls := by
  unfold StepView.ruled
  by_cases h : fld value 31 12 = v.step.toNat % 2 ^ 20 ∧ (fld value 11 10 = 1 ∨ fld value 11 10 = 2)
  · have hnext : ¬ fld value 31 12 = (v.step + 1).toNat % 2 ^ 20 := by
      rw [h.1]
      bv_omega
    rw [if_pos h, if_neg fun hr => hnext hr.1]
  · rw [if_neg h, if_neg h]

theorem KeepsParts.stepView {r : State} (h : KeepsParts r s) (p : Nat) : (s.part p).stepView = (r.part p).stepView :=
  congrArg (fun x : Standing => ({ step := x.openStep, retry := x.retry, ls := x.ls } : StepView)) (h p)

/-! ### One partition -/

/-- The GATE object of a partition takes the value, and FF_LSSTATE the job's state. -/
def State.gateTaken (s : State) (q : Nat) (value : W32) (ls : LsState) : State :=
  (match (s.part q).gate with
    | some o => s.changeObj o fun x => { x with l0 := some value }
    | none => s).modPart q fun x => { x with ls := ls }

theorem State.part_gateTaken (s : State) (q : Nat) (value : W32) (ls : LsState) (p : Nat) :
    (s.gateTaken q value ls).part p = if p = q then { s.part p with ls := ls } else s.part p := by
  have hobj : ∀ o f, (s.changeObj o f).part p = s.part p := fun o f => by
    rw [s.changeObj_moves o f]
    rfl
  unfold State.gateTaken
  rw [State.part_modPart]
  cases (s.part q).gate with
  | none => rfl
  | some o => rw [hobj]

/-- The fields of the step of a partition whose next step opens (09 R268). -/
def Part.nextStep (x : Part) : Part :=
  { x with
    openStep := x.openStep + 1, retry := 0, line0 := false, line1 := false, stepEvent := false
    retractSent := false, scaleEv := 0, reported := false }

/-- What opening the next step does besides keeps every partition's standing. -/
theorem KeepsParts.advance (s : State) (q : Nat) (value : W32) :
    KeepsParts ((s.verdictRecords q value).modPart q Part.nextStep) (s.advance q value) := by
  have hopen : ∀ {u : State} (os : List Nat) (step : W64) (snext : Byte),
      KeepsParts u (((os.foldl (fun s o => s.modObj o SyncObj.fold) u).scaleEntry q step snext).stepOpen q) := fun os step snext =>
    ((KeepsParts.foldl (fun _ _ hu => hu.modObj _ _) (.refl _) os).scaleEntry _ _ _).stepOpen _
  unfold State.advance
  dsimp only
  refine .openChunks (.replayStage (.closeStep ?_ _ _) _) _
  split
  · exact .ite ((hopen _ _ _).replayEnd _ _) (hopen _ _ _)
  · exact hopen _ _ _

theorem State.stepView_advance (s : State) (q : Nat) (value : W32) (p : Nat) : ((s.advance q value).part p).stepView
    = if p = q then { (s.part p).stepView with step := (s.part p).openStep + 1, retry := 0 } else (s.part p).stepView := by
  have hv := ((KeepsParts.refl s).verdictRecords q value).stepView p
  rw [(KeepsParts.advance s q value).stepView, State.part_modPart]
  split
  · rw [← hv, ← show ((s.verdictRecords q value).part p).openStep = (s.part p).openStep from congrArg StepView.step hv]
    rfl
  · exact hv

theorem State.gatePart_eq (s : State) (q : Nat) (value : W32) (ls : LsState) : s.gatePart q value ls
    = if fld value 31 12 ≠ (s.part q).openStep.toNat % 2 ^ 20 then s.gateTaken q value ls
      else if fld value 11 10 = 0 then (s.gateTaken q value ls).modPart q fun x =>
        { x with retracting := x.retracting.map fun r => { r with gateSeen := true }, owedGate := x.owedRetract.isSome }
      else if fld value 11 10 = 3 then (s.gateTaken q value ls).verdictRecords q value
      else (s.gateTaken q value ls).advance q value := by
  have hopen : ((s.gateTaken q value ls).part q).openStep = (s.part q).openStep := by
    rw [State.part_gateTaken, if_pos rfl]
  rw [← hopen]
  unfold State.gatePart
  dsimp only
  refine ite_congr rfl (fun _ => rfl) fun _ => ?_
  split
  case h_1 h0 => rw [if_pos h0]; rfl
  case h_2 h3 => rw [if_neg (by omega), if_pos h3]; rfl
  case h_3 h0 h3 => rw [if_neg h0, if_neg h3]; rfl

theorem State.stepView_gatePart (s : State) (q : Nat) (value : W32) (ls : LsState) (p : Nat) : ((s.gatePart q value ls).part p).stepView
    = if p = q then (s.part p).stepView.ruled value ls else (s.part p).stepView := by
  have hv : fld value 11 10 < 4 := Nat.mod_lt _ (by decide)
  have htaken : ((s.gateTaken q value ls).part p).stepView = if p = q then { (s.part p).stepView with ls := ls } else (s.part p).stepView := by
    rw [State.part_gateTaken]
    split <;> rfl
  rw [State.gatePart_eq]
  by_cases hq : p = q
  · subst hq
    rw [if_pos rfl] at htaken ⊢
    unfold StepView.ruled
    by_cases hr : fld value 31 12 = (s.part p).openStep.toNat % 2 ^ 20
    · rw [if_neg (not_not.mpr hr)]
      by_cases h0 : fld value 11 10 = 0
      · rw [if_pos h0, if_neg (by omega), State.part_modPart, if_pos rfl]
        exact htaken
      · by_cases h3 : fld value 11 10 = 3
        · rw [if_neg h0, if_pos h3, if_neg (by omega), ((KeepsParts.refl _).verdictRecords p value).stepView p]
          exact htaken
        · rw [if_neg h0, if_neg h3, if_pos ⟨hr, by omega⟩, State.stepView_advance, if_pos rfl, htaken]
          rw [show ((s.gateTaken p value ls).part p).openStep = (s.part p).openStep from congrArg StepView.step htaken]
          rfl
    · rw [if_pos hr, if_neg fun h => hr h.1]
      exact htaken
  · rw [if_neg hq] at htaken ⊢
    split
    · exact htaken
    · split
      · rw [State.part_modPart, if_neg hq]
        exact htaken
      · split
        · rw [((KeepsParts.refl _).verdictRecords q value).stepView p]
          exact htaken
        · rw [State.stepView_advance, if_neg hq]
          exact htaken

/-! ### A pending value (12 R353) -/

/-- A pending GATE value for the open step is noted by Retract handling, or by a partition that owes it. -/
def Part.seesGate (value : W32) (ls : LsState) (x : Part) : Part :=
  if fld value 31 12 = x.openStep.toNat % 2 ^ 20 then
    { x with ls := ls, retracting := x.retracting.map fun r => { r with gateSeen := true }, owedGate := x.owedRetract.isSome }
  else { x with ls := ls }

theorem Part.seesGate_seesGate (value : W32) (ls : LsState) (x : Part) : (x.seesGate value ls).seesGate value ls = x.seesGate value ls := by
  unfold Part.seesGate
  by_cases h : fld value 31 12 = x.openStep.toNat % 2 ^ 20
  · rw [if_pos h, if_pos h, Option.map_map]
    rfl
  · rw [if_neg h, if_neg h]

theorem State.part_gatePart_pending {value : W32} (h0 : fld value 11 10 = 0) (s : State) (q : Nat) (ls : LsState) (p : Nat) :
    (s.gatePart q value ls).part p = if p = q then (s.part p).seesGate value ls else s.part p := by
  rw [State.gatePart_eq, if_pos h0]
  unfold Part.seesGate
  by_cases hq : p = q
  · subst hq
    by_cases hr : fld value 31 12 = (s.part p).openStep.toNat % 2 ^ 20
    · rw [if_neg (not_not.mpr hr), State.part_modPart, State.part_gateTaken, if_pos rfl, if_pos rfl, if_pos rfl, if_pos hr]
    · rw [if_pos hr, State.part_gateTaken, if_pos rfl, if_pos rfl, if_neg hr]
  · rw [if_neg hq, apply_ite (fun t : State => t.part p), State.part_modPart, if_neg hq, State.part_gateTaken, if_neg hq, ite_self]

/-! ### The partitions of the job -/

theorem State.stepView_gateApply {s : State} {job : W64} {p : Nat} (hp : p ∈ s.jobParts job) (value : W32) (ls : LsState) :
    ((s.gateApply job value ls).part p).stepView = (s.part p).stepView.ruled value ls := by
  rw [← if_pos (t := (s.part p).stepView.ruled value ls) (e := (s.part p).stepView) hp]
  exact State.view_foldl (view := fun u k => (u.part k).stepView) (fun u q k => u.stepView_gatePart q value ls k)
    (StepView.ruled_ruled value ls) _ s p

theorem State.part_gateApply_pending {s : State} {job : W64} {p : Nat} (hp : p ∈ s.jobParts job) {value : W32} (h0 : fld value 11 10 = 0)
    (ls : LsState) : (s.gateApply job value ls).part p = (s.part p).seesGate value ls := by
  rw [← if_pos (t := (s.part p).seesGate value ls) (e := s.part p) hp]
  exact State.view_foldl (view := State.part) (fun u q k => u.part_gatePart_pending h0 q ls k) (Part.seesGate_seesGate value ls) _ s p

/-- Settles O33: each partition of the job is ruled by the value once, in whatever order and however often the fold comes to it. -/
theorem gateValuesAdvanceTheStep : Obligations.GateValuesAdvanceTheStep := by
  unfold Obligations.GateValuesAdvanceTheStep
  intro s job value ls
  have hexec : exec (.gateWrite job value ls) s = .next (if s.managing then s.gateApply job value ls else s.defer (.gate job value ls)) := rfl
  refine ⟨fun hm => ?_, fun hm => ⟨s.gateApply job value ls, ?_, fun p hp => ?_⟩⟩
  · rw [hexec, hm]
    rfl
  · rw [hexec, hm]
    rfl
  · intro rules v
    have hview := State.stepView_gateApply hp value ls
    have hstep := congrArg StepView.step hview
    have hretry := congrArg StepView.retry hview
    have hls := congrArg StepView.ls hview
    change ((s.gateApply job value ls).part p).openStep = _ at hstep
    change ((s.gateApply job value ls).part p).retry = _ at hretry
    change ((s.gateApply job value ls).part p).ls = _ at hls
    rw [hstep, hretry, hls]
    unfold StepView.ruled
    refine ⟨?_, fun hr hv => ?_, fun hr hv => ?_, fun hr => ?_, fun hr hv => ?_⟩
    · split <;> rfl
    · rw [if_pos ⟨hr, hv⟩]
      exact ⟨rfl, rfl⟩
    · rw [if_neg (by omega)]
      exact ⟨rfl, rfl⟩
    · rw [if_neg fun h => hr h.1]
      exact ⟨rfl, rfl⟩
    · rw [State.part_gateApply_pending hp hv]
      unfold Part.seesGate
      rw [if_pos hr]
      exact ⟨rfl, rfl⟩

end Sys2Proof.Machine
end

section
/-! SUPPORT: what the exchange engine's own traffic leaves (09 R285 to R289, R292): memory outside the descriptor rings, the sync objects, and
of each die the chunks it keeps, the transfers it receives, and its count of laggards. -/

namespace Sys2Proof.Machine

/-- The laggards a die has counted, the transfers it receives, and the chunks its exchange engine keeps. -/
structure Die.Kept where
  lag : Bool
  cntLag : W16
  rx : List RxXfer
  chunks : List OwnChunk

def Die.kept (d : Die) : Die.Kept := { lag := d.lag, cntLag := d.cntLag, rx := d.rx, chunks := d.chunks }

/-- The exchange engines have sent and settled transfers: no codeword holds an error, and what lies outside the rings, the objects, and what
each die keeps of collectives are as they were. -/
structure State.Exchanges (r s : State) : Prop extends r.OutsideRings s where
  kept : ∀ d, (s.die d).kept = (r.die d).kept

namespace State.Exchanges

variable {r s t : State}

theorem refl (he : s.errs = []) : s.Exchanges s := ⟨.refl he, fun _ => rfl⟩

theorem rx (h : r.Exchanges s) (d : Nat) : (s.die d).rx = (r.die d).rx := congrArg Die.Kept.rx (h.kept d)

theorem chunks (h : r.Exchanges s) (d : Nat) : (s.die d).chunks = (r.die d).chunks := congrArg Die.Kept.chunks (h.kept d)

theorem same (h : r.Exchanges s) (hm : t.mem = s.mem) (he : t.errs = s.errs) (ho : t.objs = s.objs) (hd : t.dies = s.dies) :
    r.Exchanges t := by
  refine ⟨h.toOutsideRings.of_mem hm he ho, fun d => ?_⟩
  rw [← h.kept d]
  unfold State.die
  rw [hd]

theorem ite {v : State} {c : Prop} [Decidable c] (ht : r.Exchanges t) (hv : r.Exchanges v) : r.Exchanges (if c then t else v) := by
  split
  · exact ht
  · exact hv

theorem foldl {α : Type} {f : State → α → State} (hf : ∀ v x, r.Exchanges v → r.Exchanges (f v x)) (h : r.Exchanges s) (l : List α) :
    r.Exchanges (l.foldl f s) := by
  induction l generalizing s with
  | nil => exact h
  | cons x l ih => exact ih (hf s x h)

/-- A change of a die that leaves what it keeps. -/
theorem modDie (h : r.Exchanges s) (d : Nat) {f : Die → Die} (hf : ∀ x : Die, (f x).kept = x.kept) : r.Exchanges (s.modDie d f) := by
  refine ⟨h.toOutsideRings.of_mem rfl rfl rfl, fun k => ?_⟩
  by_cases hk : k = d
  · rw [hk, State.die_modDie, hf, h.kept]
  · rw [State.die_modDie_ne _ _ hk, h.kept]

theorem post (h : r.Exchanges s) (e : EvRec) : r.Exchanges (s.post e) :=
  h.same (s.post_mem e) (s.post_errs e) (s.post_objs e) (s.post_dies e)

theorem cfault (h : r.Exchanges s) (die part code rank coll : Nat) : r.Exchanges (s.cfault die part code rank coll) := by
  unfold State.cfault
  refine (h.modDie die ?_).post _
  exact fun _ => rfl

theorem sendX (h : r.Exchanges s) (die part drank : Nat) (p : XPkt) : r.Exchanges (s.sendX die part drank p) := by
  obtain ⟨l, n, hl⟩ | hf := s.sendX_cases die part drank p
  · rw [hl]
    exact h.same rfl rfl rfl rfl
  · rw [hf]
    exact h.cfault _ _ _ _ _

theorem modStream (h : r.Exchanges s) (i : StreamId) (f : Stream → Stream) : r.Exchanges (s.modStream i f) := h.same rfl rfl rfl rfl

theorem settle (h : r.Exchanges s) (i : StreamId) (id : Nat) : r.Exchanges (s.settle i id) := .ite h (h.modStream _ _)

theorem rsigWrite (h : r.Exchanges s) (die part : Nat) (step : W64) (obj : Nat) : r.Exchanges (s.rsigWrite die part step obj) :=
  .ite (h.same (s.modSyn_mem _ _) (s.modSyn_errs _ _) (s.modSyn_objs _ _) (s.modSyn_dies _ _)) h

theorem gatherDie (h : r.Exchanges s) (die : Nat) : r.Exchanges (s.gatherDie die) := by
  unfold State.gatherDie
  refine foldl (fun v g hv => .ite (.settle (.rsigWrite (.modDie hv die ?_) _ _ _ _) _ _) hv) h _
  exact fun _ => rfl

theorem gatherAll (h : r.Exchanges s) : r.Exchanges s.gatherAll := foldl (fun _ _ hv => hv.gatherDie _) h _

/-! ### Transfers under credits (09 R286) -/

theorem pumpSwarm (h : r.Exchanges s) (die credit : Nat) (f : Nat) (w : Swarm) : r.Exchanges (s.pumpSwarm die credit f w).2 := by
  induction f generalizing s w with
  | zero => exact h
  | succ f ih =>
    unfold State.pumpSwarm
    split
    · exact h
    · split
      · exact h
      · exact ih (foldl (fun _ _ hv => hv.sendX _ _ _ _) h _) _

theorem putSwarm (h : r.Exchanges s) (die k : Nat) (w : Swarm) : r.Exchanges (s.putSwarm die k w) := by
  have hpump := h.pumpSwarm die (max 1 (collCredit ((s.coll w.part w.coll).getD []))) w.unsent.length w
  unfold State.putSwarm
  dsimp only
  refine ite ?_ (hpump.modDie die ?_)
  · have hgone := hpump.modDie die (f := fun d => { d with swarms := d.swarms.eraseIdx k }) fun _ => rfl
    split
    · exact (hgone.rsigWrite _ _ _ _).settle _ _
    · exact hgone
  · exact fun _ => rfl

theorem credited (h : r.Exchanges s) (f : Swarm → Bool) (rank : Nat) : r.Exchanges (s.credited f rank) := by
  unfold State.credited
  split
  · exact h.putSwarm _ _ _
  · exact h

/-! ### Descriptors of its channels (07 R213) -/

theorem writes (h : r.Exchanges s) {ws : List (Nat × Byte)} (hws : ∀ y ∈ ws, inRing y.1) :
    r.Exchanges (ws.foldl (fun (s : State) x => s.wr8 x.1 x.2) s) := by
  have hm := State.writes_memOnly (s := s) ws
  have hrd : ∀ a, ¬ inRing a → (ws.foldl (fun (s : State) x => s.wr8 x.1 x.2) s).rd8 a = s.rd8 a := fun a ha =>
    s.rd8_writes_ne ws fun y hy hya => ha (hya ▸ hws y hy)
  generalize ws.foldl (fun (s : State) x => s.wr8 x.1 x.2) s = u at hm hrd
  rw [hm]
  exact ⟨⟨h.errs, h.objs, fun a ha => (congrArg (tget 0 · a) (by rw [← hm])).trans ((hrd a ha).trans (h.rd8 a ha))⟩, h.kept⟩

theorem ringWrite (h : r.Exchanges s) {ch : Nat} (hch : ch < 32) (die : Nat) (x : PDesc) : r.Exchanges (s.ringWrite die ch x) := by
  rw [State.ringWrite_eq h.errs]
  refine (h.writes fun _ => inRing_slotWrites hch).modDie die ?_
  exact fun _ => rfl

theorem pushDescs (h : r.Exchanges s) {ch : Nat} (hch : ch < 32) (die : Nat) (ds : List PDesc) : r.Exchanges (s.pushDescs die ch ds) := by
  unfold State.pushDescs State.refill
  refine foldl (fun _ _ hv => hv.ringWrite hch die _) ((h.modDie die ?_).modDie die ?_) _
  · exact fun _ => rfl
  · exact fun _ => rfl

theorem queueX (h : r.Exchanges s) (die part drank : Nat) (p : XPkt) : r.Exchanges (s.queueX die part drank p) :=
  h.pushDescs (by unfold collChan; omega) die _

theorem returnCredit (h : r.Exchanges s) (die : Nat) (step : W64) (c : OwnChunk) (p : XPkt) : r.Exchanges (s.returnCredit die step c p) :=
  ite (h.credited _ _) (h.queueX _ _ _ _)

end State.Exchanges

/-! ### Timeouts (09 R287, R288, R292) -/

variable {s : State}

/-- A timeout's Collective fault shows in the die's registers and retracts the step; memory does not change. -/
theorem State.cfault_retracts (s : State) {part : Nat} (hp : part < 16) (die code rank coll : Nat) :
    let t := s.cfault die part code rank coll
    t.mem = s.mem ∧ (t.die die).cf = true ∧ (t.die die).cfault = cfaultWord code rank coll (s.part part).openStep
      ∧ (t.part part).stepEvent = true ∧ (t.part part).retractSent = true := by
  obtain ⟨hmem, -, -, hcf, hcw⟩ := State.cfault_spec (s := s) (die := die) (part := part) code rank coll
  exact ⟨hmem, hcf, hcw, s.cfault_stepEnds die code rank coll hp⟩

/-- A laggard is counted at its die, and the traffic that follows leaves memory outside the rings and the count. -/
theorem exec_laggardTimeout (he : s.errs = []) {die part coll rank k : Nat} {w : Swarm}
    (hw : s.findSwarm die (fun w => w.part == part && w.coll == coll && w.kind != 1 && !w.unsent.isEmpty
      && (w.live.filter (w.blocked (max 1 (collCredit ((s.coll part coll).getD []))))) == [rank] && decide (1 < w.live.length)) = some (k, w)) :
    ∃ u t, s.Exchanges u ∧ exec (.laggardTimeout die part coll rank) s = .next t
      ∧ (u.modDie die fun d => { d with lag := true, cntLag := satAdd d.cntLag 1 }).Exchanges t := by
  have hgo : ∃ p e w', execLaggardTimeout die part coll rank s
      = .next ((((s.queueX die part rank p).modDie die fun d => { d with lag := true, cntLag := satAdd d.cntLag 1 }).post e).putSwarm die k w') := by
    unfold execLaggardTimeout
    dsimp only
    rw [hw]
    exact ⟨_, _, _, rfl⟩
  obtain ⟨p, e, w', hgo⟩ := hgo
  have hqueue := (State.Exchanges.refl he).queueX die part rank p
  generalize s.queueX die part rank p = u at hgo hqueue
  have hu : (u.modDie die fun d => { d with lag := true, cntLag := satAdd d.cntLag 1 }).errs = [] := hqueue.errs
  exact ⟨u, _, hqueue, hgo, ((State.Exchanges.refl hu).post e).putSwarm die k w'⟩

/-- Settles O28: a laggard's drop is told by its die's count, which the traffic it sets going leaves; the other two raise the fault of their
code. -/
theorem timeoutsDropOrRetract : Obligations.TimeoutsDropOrRetract := by
  unfold Obligations.TimeoutsDropOrRetract
  intro s die part coll chunk rank hp r faults
  refine ⟨fun k w hw he => ?_, fun c m hc hm => ?_, fun x hx => ?_⟩
  · obtain ⟨u, t, hu, hgo, ht⟩ := exec_laggardTimeout he hw
    have hkept := ht.kept die
    rw [State.die_modDie] at hkept
    refine ⟨t, hgo, fun a ha => (ht.rd8 a ha).trans (hu.rd8 a ha), congrArg Die.Kept.lag hkept, ?_⟩
    exact (congrArg Die.Kept.cntLag hkept).trans (congrArg (fun v : Die.Kept => satAdd v.cntLag 1) (hu.kept die))
  · refine ⟨_, ?_, s.cfault_retracts hp die 2 m coll⟩
    show execCollectiveTimeout die part coll chunk s = _
    unfold execCollectiveTimeout
    dsimp only
    rw [hc]
    dsimp only
    rw [show (collMembers ((s.coll part coll).getD [])).find? _ = some m from hm]
  · refine ⟨_, ?_, s.cfault_retracts hp die 8 x.src coll⟩
    show execRepairTimeout die part coll chunk s = _
    unfold execRepairTimeout
    dsimp only
    rw [hx]

end Sys2Proof.Machine
end

section
/-! SUPPORT: replies about transfers (09 R286 to R288): CREDIT, ACK, DROP, REPAIRREQ and REPAIRNAK. -/

namespace Sys2Proof.Machine

variable {r s : State} {die part : Nat} {p : XPkt}

/-! ### What the taking of a packet leaves -/

@[simp] theorem State.takePkt_creditFor (s : State) (part q : Nat) (p p' : XPkt) (e : List Byte) (step : W64) :
    (s.takePkt part p).creditFor q e step p' = s.creditFor q e step p' := by
  funext w
  unfold State.creditFor
  rw [State.takePkt_rank]

@[simp] theorem State.takePkt_anySwarm (s : State) (part : Nat) (p : XPkt) (f : Swarm → Bool) :
    (s.takePkt part p).anySwarm f = s.anySwarm f := rfl

@[simp] theorem State.takePkt_heldChunk (s : State) (part : Nat) (p : XPkt) (x : RxXfer) (chunk : Nat) :
    (s.takePkt part p).heldChunk x chunk = s.heldChunk x chunk := by
  unfold State.heldChunk
  rw [State.takePkt_rank]
  rfl

@[simp] theorem State.takePkt_mkPkt (s : State) (part : Nat) (p : XPkt) (q kind entry : Nat) (step pos csum : W64) (body : List Byte) :
    (s.takePkt part p).mkPkt q kind entry step pos csum body = s.mkPkt q kind entry step pos csum body := by
  unfold State.mkPkt
  rw [State.takePkt_rank]
  rfl

/-! ### Credits and acknowledgements (09 R286) -/

/-- A transfer with nothing unsent that is not over is put back as it is. -/
theorem State.putSwarm_idle (s : State) (d k : Nat) {w : Swarm} (hu : w.unsent = []) (ho : w.over = false) :
    s.putSwarm d k w = s.modDie d fun x => { x with swarms := lset x.swarms k w } := by
  unfold State.putSwarm
  rw [hu]
  unfold State.pumpSwarm
  dsimp only [List.length_nil]
  rw [ho]
  rfl

theorem exec_credit (h : s.nextPacket die part p) (hs : s.inStep part p) {d k : Nat} {w : Swarm}
    (hw : s.anySwarm (s.creditFor part ((s.coll part p.coll).getD []) (s.part part).openStep p) = some (d, k, w)) :
    exec (.credit die part p) s = .next ((s.takePkt part p).putSwarm d k
      { w with outstanding := tset 0 w.outstanding p.srank (tget 0 w.outstanding p.srank - 1) }) := by
  show Host.Outcome.next _ = _
  rw [State.packet_inStep h hs, State.takePkt_creditFor]
  unfold State.credited
  rw [State.takePkt_anySwarm, hw]

/-- The transfer that an ACK names: the results of this owner, or the MCAST whose number it carries. -/
def ackFor (part : Nat) (e : List Byte) (step : W64) (p : XPkt) (w : Swarm) : Bool :=
  let kind := if collKind e = 1 then 3 else 2
  w.part == part && w.coll == p.coll && w.step == step && w.kind == kind && (kind == 2 || w.tid == leadTid p)

theorem exec_swarmAck (h : s.nextPacket die part p) (hs : s.inStep part p) {d k : Nat} {w : Swarm}
    (hw : s.anySwarm (ackFor part ((s.coll part p.coll).getD []) (s.part part).openStep p) = some (d, k, w)) :
    exec (.swarmAck die part p) s = .next ((s.takePkt part p).putSwarm d k
      { w with acked := if w.acked.contains p.srank then w.acked else w.acked ++ [p.srank] }) := by
  show Host.Outcome.next _ = _
  unfold ackFor at hw
  rw [State.packet_inStep h hs]
  dsimp only at hw ⊢
  rw [State.takePkt_anySwarm, hw]

/-! ### A transfer that its sender has dropped (09 R287) -/

theorem RxXfer.is_self (x : RxXfer) : x.is x = true := by
  unfold RxXfer.is
  simp

/-- Changes of a transfer that keep what tells it apart from others keep it among a die's receptions. -/
theorem State.rx_modRx {y : RxXfer} (hy : y ∈ (s.die die).rx) (new : RxXfer) (f : RxXfer → RxXfer) :
    y ∈ ((s.modRx die new f).die die).rx ∨ f y ∈ ((s.modRx die new f).die die).rx := by
  unfold State.modRx
  rw [State.die_modDie]
  dsimp only
  split
  · by_cases ht : y.is new = true
    · exact .inr (List.mem_map.mpr ⟨y, hy, if_pos ht⟩)
    · exact .inl (List.mem_map.mpr ⟨y, hy, if_neg ht⟩)
  · exact .inl (List.mem_append_left _ hy)

/-- The transfer that a change is for is among a die's receptions, changed. -/
theorem State.rx_modRx_self (s : State) (die : Nat) (new : RxXfer) (f : RxXfer → RxXfer) :
    ∃ y, y.is new = true ∧ f y ∈ ((s.modRx die new f).die die).rx := by
  unfold State.modRx
  rw [State.die_modDie]
  dsimp only
  split
  case isTrue h =>
    obtain ⟨y, hy, ht⟩ := List.any_eq_true.mp h
    exact ⟨y, ht, List.mem_map.mpr ⟨y, hy, if_pos ht⟩⟩
  case isFalse => exact ⟨new, new.is_self, List.mem_append_right _ (List.mem_singleton.mpr rfl)⟩

/-- The die knows that the sender of a transfer has dropped it; and memory outside the rings and the objects are as in `r`. -/
structure State.Dropped (die : Nat) (x₀ : RxXfer) (r s : State) : Prop extends r.OutsideRings s where
  dropped : ∃ y ∈ (s.die die).rx, y.is x₀ = true ∧ y.dropped = true

/-- A request for a chunk changes which holders have been asked, and the rings. -/
theorem State.Dropped.askRepair {x₀ : RxXfer} (h : State.Dropped die x₀ r s) (part : Nat) (e : List Byte) (step : W64) (x : RxXfer)
    (chunk : Nat) : State.Dropped die x₀ r (s.askRepair die part e step x chunk) := by
  unfold State.askRepair
  split
  · exact h
  case h_2 hold _ =>
    obtain ⟨y, hy, his, hdr⟩ := h.dropped
    have hasked : r.OutsideRings (s.modRx die x fun y => { y with asked := y.asked ++ [(chunk, hold)] }) :=
      h.toOutsideRings.of_mem rfl rfl rfl
    have hmem := State.rx_modRx hy x fun y => { y with asked := y.asked ++ [(chunk, hold)] }
    generalize s.modRx die x _ = u at hasked hmem ⊢
    have hq := (State.Exchanges.refl hasked.errs).queueX die part hold (s.mkPkt part 8 x.coll step (x.posOf e chunk) 0 x.lead)
    refine ⟨hasked.trans hq.toOutsideRings, ?_⟩
    rw [hq.rx]
    exact hmem.elim (fun hm => ⟨y, hm, his, hdr⟩) fun hm => ⟨_, hm, his, hdr⟩

theorem State.Dropped.askRepairs {x₀ : RxXfer} (h : State.Dropped die x₀ r s) (part : Nat) (e : List Byte) (step : W64) (x : RxXfer)
    (chunks : List Nat) : State.Dropped die x₀ r (chunks.foldl (fun s c => s.askRepair die part e step x c) s) := by
  induction chunks generalizing s with
  | nil => exact h
  | cons c cs ih =>
    rw [List.foldl_cons]
    exact ih (h.askRepair part e step x c)

theorem State.Dropped.start (he : s.errs = []) (x₀ : RxXfer) : State.Dropped die x₀ s (s.modRx die x₀ fun x => { x with dropped := true }) := by
  obtain ⟨y, his, hm⟩ := s.rx_modRx_self die x₀ fun x => { x with dropped := true }
  exact { toOutsideRings := (State.OutsideRings.refl he).of_mem rfl rfl rfl, dropped := ⟨_, hm, his, rfl⟩ }

/-! ### Repair (09 R288) -/

/-- A holder answers with the chunk; an owner that lacks it owes it, and another holder says that it lacks it. -/
theorem exec_repairreq (h : s.nextPacket die part p) (hs : s.inStep part p) :
    let e := (s.coll part p.coll).getD []
    let x := newRx e part (dataKind e) p
    let taken := s.takePkt part p
    exec (.repairreq die part p) s = .next (match s.heldChunk x (chunkId x.kind p) with
      | some q => taken.sendHeld die part p.srank (taken.heldAt x e q) e q
      | none =>
        if x.kind = 2 ∧ x.tid = s.rank then taken.modDie (collDie e) fun d => { d with owed := d.owed ++ [(part, p)] }
        else taken.queueX die part p.srank { (s.mkPkt part 9 p.coll (s.part part).openStep p.pos 0 []) with body := p.body }) := by
  show Host.Outcome.next _ = _
  rw [State.packet_inStep h hs]
  dsimp only
  rw [State.takePkt_heldChunk, State.takePkt_rank, State.takePkt_mkPkt]
  rfl

/-- Settles O27: each reply reaches the transfer it names. -/
theorem transfersAreCreditedAndRepaired : Obligations.TransfersAreCreditedAndRepaired := by
  unfold Obligations.TransfersAreCreditedAndRepaired
  refine ⟨fun s die part p d k w hs h _ hu => ?_, fun s die part p hs h _ => ?_⟩
  · intro step e put wc wa kind
    refine ⟨fun hw ho => ?_, fun hw ha ho => ?_⟩
    · rw [exec_credit h hs hw, State.putSwarm_idle (w := wc) _ _ _ hu ho]
    · rw [exec_swarmAck h hs hw, ha, if_neg (by decide), State.putSwarm_idle (w := wa) _ _ _ hu ho]
  · intro e step taken x0 x missing
    have hreq := exec_repairreq h hs
    have hnak : exec (.repairnak die part p) s
        = .next (if missing then taken.askRepair die part e step x (chunkId x.kind p) else taken) :=
      congrArg Host.Outcome.next (State.packet_inStep h hs _)
    refine ⟨fun he => ?_, fun q hq => ?_, fun hq ho => ?_, fun hq ho => ?_, fun hm => ?_, fun hm => ?_⟩
    · have hdrop := (State.Dropped.start (s := taken) (die := die) he x0).askRepairs part e step
        ((taken.modRx die x0 fun x => { x with dropped := true }).getRx die x0)
        (((taken.modRx die x0 fun x => { x with dropped := true }).getRx die x0).missing e)
      exact ⟨_, congrArg Host.Outcome.next (State.packet_inStep h hs _), hdrop.rd8, hdrop.objs, hdrop.dropped⟩
    · rw [hreq, hq]
    · rw [hreq, hq]
      exact congrArg Host.Outcome.next (if_pos ho)
    · rw [hreq, hq]
      exact congrArg Host.Outcome.next (if_neg ho)
    · rw [hnak, if_pos hm]
    · rw [hnak, if_neg hm]

end Sys2Proof.Machine
end

section
/-! SUPPORT: packets that land in memory, write RSIG, or carry a mirrored write (09 R271, R275, R285, R286; 01 R25). -/

namespace Sys2Proof.Machine

variable {r s t : State} {die part : Nat} {p : XPkt}

/-! ### Bytes that land -/

/-- Memory after the bytes that the windows admit. -/
def State.landed (s : State) (part a : Nat) (bs : List Byte) : State :=
  (s.admitted part a bs).foldl (fun (s : State) x => s.wr8 x.1 x.2) s

theorem State.landed_memOnly (s : State) (part a : Nat) (bs : List Byte) : s.MemOnly (s.landed part a bs) := State.writes_memOnly _

/-- Writes of bytes see memory alone. -/
theorem State.mem_writes (h : t.mem = s.mem) (ws : List (Nat × Byte)) :
    (ws.foldl (fun (s : State) x => s.wr8 x.1 x.2) t).mem = (ws.foldl (fun (s : State) x => s.wr8 x.1 x.2) s).mem := by
  induction ws generalizing s t with
  | nil => exact h
  | cons x ws ih => exact ih (congrArg (fun m => tset 0 m x.1 x.2) h)

theorem State.takePkt_landed_mem (s : State) (q : Nat) (p : XPkt) (part a : Nat) (bs : List Byte) :
    ((s.takePkt q p).landed part a bs).mem = (s.landed part a bs).mem :=
  State.mem_writes (s := s) (t := s.takePkt q p) rfl (s.admitted part a bs)

@[simp] theorem State.takePkt_dmaReaches (s : State) (q : Nat) (p : XPkt) (die part : Nat) (write : Bool) (a n : Nat) :
    (s.takePkt q p).dmaReaches die part write a n = s.dmaReaches die part write a n := by
  unfold State.dmaReaches State.reaches
  simp only [State.takePkt_crosses]
  rfl

theorem State.takePkt_clear (s : State) (q : Nat) (p : XPkt) {who : Who} (hc : s.clear who) : (s.takePkt q p).clear who := hc

/-- Where every check point is clear, a write through the windows puts the admitted bytes into memory and posts the rest (07 R223). -/
theorem State.dmaWrite_clear (hc : s.clear (s.xchWho die part)) (unit : W32) (a : Nat) (bs : List Byte) :
    s.dmaWrite (s.xchWho die part) unit a bs [] = (s.landed part a bs).boundsUnit unit part (outOfWindow (s.dmaBytes part true a bs.length)) := by
  unfold State.dmaWrite
  dsimp only
  rw [State.writeMem_clear s hc, State.parityWrites_nil]
  rfl

/-- The admitted bytes have landed in memory; the objects, the operations on their way to them, and the dies stay. -/
structure State.Lands (part a : Nat) (bs : List Byte) (s u : State) : Prop where
  mem : u.mem = (s.landed part a bs).mem
  errs : u.errs = s.errs
  objs : u.objs = s.objs
  syn : ∀ half, u.syn half = s.syn half
  dies : u.dies = s.dies

theorem State.Lands.post {a : Nat} {bs : List Byte} {u : State} (h : s.Lands part a bs u) (e : EvRec) : s.Lands part a bs (u.post e) := by
  refine ⟨(u.post_mem e).trans h.mem, (u.post_errs e).trans h.errs, (u.post_objs e).trans h.objs, fun half => ?_, (u.post_dies e).trans h.dies⟩
  rw [← h.syn half]
  unfold State.syn
  rw [State.post_syn0, State.post_syn1]

/-- The bytes of a packet that the die reaches land; an event for those outside the windows is all there is beside. -/
theorem State.landBytes_reached (hc : s.clear (s.xchWho die part)) {a : Nat} {bs : List Byte} (hr : s.dmaReaches die part true a bs.length = true)
    (q : Nat) (p : XPkt) (coll : Nat) : ∃ u, (s.takePkt q p).landBytes die part coll a bs [] = (true, u) ∧ s.Lands part a bs u := by
  have hmem := s.takePkt_landed_mem q p part a bs
  have hlanded : s.Lands part a bs ((s.takePkt q p).landed part a bs) := by
    rw [(s.takePkt q p).landed_memOnly part a bs]
    exact ⟨hmem, rfl, rfl, fun _ => rfl, rfl⟩
  unfold State.landBytes
  rw [State.takePkt_dmaReaches, if_pos hr, State.dmaWrite_clear (s.takePkt_clear q p hc)]
  refine ⟨_, rfl, ?_⟩
  unfold State.boundsUnit
  split
  · exact hlanded
  · exact hlanded.post _

theorem State.landBytes_unreached {a : Nat} {bs : List Byte} (hr : s.dmaReaches die part true a bs.length = false) (coll : Nat)
    (fs : List PhysFault) : s.landBytes die part coll a bs fs = (false, s.cfault die part 1 s.rank coll) := by
  unfold State.landBytes
  rw [if_neg (by rw [hr]; decide)]

/-- A fault of a packet shows in its die's registers, and memory, the objects and the operations on their way stay. -/
theorem State.cfault_quiet (s : State) (die part code rank coll : Nat) :
    let t := s.cfault die part code rank coll
    t.objs = s.objs ∧ t.mem = s.mem ∧ t.syn0 = s.syn0 ∧ t.syn1 = s.syn1 ∧ (t.die die).cf = true
      ∧ (t.die die).cfault = cfaultWord code rank coll (s.part part).openStep := by
  obtain ⟨hmem, hobjs, -, hcf, hcw⟩ := State.cfault_spec (s := s) (die := die) (part := part) code rank coll
  exact ⟨hobjs, hmem, State.post_syn0 _ _, State.post_syn1 _ _, hcf, hcw⟩

/-! ### PUT (09 R275) -/

/-- The operation that writes RSIG of a transfer. -/
def State.rsigReq (s : State) (die part : Nat) (step : W64) (obj : Nat) : SyncReq :=
  { obj := obj, kind := if (s.obj obj).type = .flag then .set else .add, value := 1, step := step, epoch := tget 0 (s.die die).epochs part
    part := part, unit := xchUnit die, src := none, srcId := 0, link := false }

/-- RSIG names a FLAG or COUNT of the partition (log 113). -/
def State.rsigNames (s : State) (part obj : Nat) : Prop :=
  (s.obj obj).alloc = true ∧ (s.obj obj).part = part ∧ ((s.obj obj).type = .flag ∨ (s.obj obj).type = .count)

theorem State.rsigWrite_names {obj : Nat} (h : s.rsigNames part obj) (die : Nat) (step : W64) :
    s.rsigWrite die part step obj = s.sendSync (s.rsigReq die part step obj) := by
  obtain ⟨ha, hp, ht⟩ := h
  unfold State.rsigWrite
  exact if_pos (by simp [ha, hp, ht])

theorem State.rsigWrite_other {obj : Nat} (h : ¬ s.rsigNames part obj) (die : Nat) (step : W64) : s.rsigWrite die part step obj = s := by
  unfold State.rsigWrite
  refine if_neg fun hc => h ?_
  simpa [State.rsigNames, and_assoc] using hc

/-- A PUT packet signals by the bit of its lead word, and RSIG is written where it names an object that takes it. -/
def State.signals (s : State) (part : Nat) (p : XPkt) : Prop :=
  recNat p.body 0 8 / 2 ^ 31 % 2 = 1 ∧ s.rsigNames part (recNat p.body 0 8 % 2 ^ 17)

theorem putRsig_iff (hk : p.kind = 0) : putRsig p = true ↔ recNat p.body 0 8 / 2 ^ 31 % 2 = 1 := by
  unfold putRsig
  simp [hk]

theorem State.Lands.rsigNames {a : Nat} {bs : List Byte} {u : State} (h : s.Lands part a bs u) (q obj : Nat) :
    u.rsigNames q obj ↔ s.rsigNames q obj := by
  unfold State.rsigNames
  rw [State.obj_of_objs h.objs]

theorem State.Lands.rsigReq {a : Nat} {bs : List Byte} {u : State} (h : s.Lands part a bs u) (die q : Nat) (step : W64) (obj : Nat) :
    u.rsigReq die q step obj = s.rsigReq die q step obj := by
  have hd : u.die die = s.die die := by
    unfold State.die
    rw [h.dies]
  unfold State.rsigReq
  rw [State.obj_of_objs h.objs, hd]

theorem exec_putPacket (h : s.nextPacket die part p) (hs : s.inStep part p) :
    exec (.putPacket die part ⟨p, []⟩) s = .next
      (let r1 := (s.takePkt part p).landBytes die part p.coll p.pos.toNat (p.body.drop 8) []
      if r1.1 && putRsig p then r1.2.rsigWrite die part (s.part part).openStep (recNat p.body 0 8 % 2 ^ 17) else r1.2) :=
  congrArg Host.Outcome.next (State.packet_inStep h hs _)

/-- The bytes of a PUT packet land, and its RSIG, if it asks for one, is on its way. -/
theorem exec_putPacket_reached (h : s.nextPacket die part p) (hs : s.inStep part p) (hk : p.kind = 0) (hc : s.clear (s.xchWho die part))
    (hr : s.dmaReaches die part true p.pos.toNat (p.body.drop 8).length = true) :
    ∃ u, s.Lands part p.pos.toNat (p.body.drop 8) u
      ∧ (s.signals part p → exec (.putPacket die part ⟨p, []⟩) s
        = .next (u.sendSync (s.rsigReq die part (s.part part).openStep (recNat p.body 0 8 % 2 ^ 17))))
      ∧ (¬ s.signals part p → exec (.putPacket die part ⟨p, []⟩) s = .next u) := by
  obtain ⟨u, hland, hu⟩ := State.landBytes_reached hc hr part p p.coll
  have hgo := exec_putPacket h hs
  rw [hland] at hgo
  refine ⟨u, hu, fun ⟨hbit, hn⟩ => ?_, fun hno => ?_⟩
  · rw [hgo, (putRsig_iff hk).mpr hbit]
    dsimp only
    rw [if_pos (show (true && true) = true from rfl), State.rsigWrite_names ((hu.rsigNames _ _).mpr hn), hu.rsigReq]
  · rw [hgo]
    dsimp only
    by_cases hp : putRsig p = true
    · have hn : ¬ u.rsigNames part (recNat p.body 0 8 % 2 ^ 17) := fun hn => hno ⟨(putRsig_iff hk).mp hp, (hu.rsigNames _ _).mp hn⟩
      rw [State.rsigWrite_other hn, ite_self]
    · rw [Bool.true_and, if_neg hp]

/-- A packet whose place lies across a dead midline is a NOPATH fault (01 R25, 09 R292). -/
theorem exec_putPacket_unreached (h : s.nextPacket die part p) (hs : s.inStep part p)
    (hr : s.dmaReaches die part true p.pos.toNat (p.body.drop 8).length = false) :
    exec (.putPacket die part ⟨p, []⟩) s = .next ((s.takePkt part p).cfault die part 1 s.rank p.coll) := by
  rw [exec_putPacket h hs, State.landBytes_unreached (by rw [State.takePkt_dmaReaches, hr]), State.takePkt_rank]
  rfl

/-! ### RESULT and MCAST (09 R285, R286) -/

namespace State.OutsideRings

theorem queueX (h : r.OutsideRings s) (die part drank : Nat) (p : XPkt) : r.OutsideRings (s.queueX die part drank p) :=
  h.trans ((State.Exchanges.refl h.errs).queueX die part drank p).toOutsideRings

theorem rsigWrite (h : r.OutsideRings s) (die part : Nat) (step : W64) (obj : Nat) : r.OutsideRings (s.rsigWrite die part step obj) :=
  h.trans ((State.Exchanges.refl h.errs).rsigWrite die part step obj).toOutsideRings

theorem post (h : r.OutsideRings s) (e : EvRec) : r.OutsideRings (s.post e) := h.of_mem (s.post_mem e) (s.post_errs e) (s.post_objs e)

theorem modRx (h : r.OutsideRings s) (die : Nat) (new : RxXfer) (f : RxXfer → RxXfer) : r.OutsideRings (s.modRx die new f) :=
  h.of_mem rfl rfl rfl

theorem gatherAll (h : r.OutsideRings s) : r.OutsideRings s.gatherAll := h.trans (State.Exchanges.refl h.errs).gatherAll.toOutsideRings

theorem ite {v : State} {c : Prop} [Decidable c] (ht : r.OutsideRings t) (hv : r.OutsideRings v) : r.OutsideRings (if c then t else v) := by
  split
  · exact ht
  · exact hv

/-- What a receiver does for a chunk that is complete: its credit, and for the last one ROBJ, the acknowledgement, and the event after a
repair (09 R286 to R289). -/
theorem rxChunk (h : r.OutsideRings s) (die part : Nat) (e : List Byte) (step : W64) (p : XPkt) :
    r.OutsideRings (s.rxChunk die part e step p) := by
  have hrobj : ∀ {v : State} (k : Nat) (o : Option Nat), r.OutsideRings v → r.OutsideRings (match k, o with
      | 3, some o => v.rsigWrite die part step o
      | _, _ => v) := fun k o hv => by
    split
    · exact hv.rsigWrite _ _ _ _
    · exact hv
  unfold State.rxChunk
  dsimp only
  refine ite (ite (.post ?acked _) ?acked) ?credited
  case credited => exact ite (h.modRx _ _ _) ((h.modRx _ _ _).queueX _ _ _ _)
  case acked => exact (hrobj _ _ (.modRx (ite (h.modRx _ _ _) ((h.modRx _ _ _).queueX _ _ _ _)) _ _ _)).queueX _ _ _ _

end State.OutsideRings

/-- What a RESULT or MCAST packet of the open step comes to, by its elements: a wrong CSUM is a fault, across a dead midline nothing is written
and NOPATH is raised, and what follows the bytes of the others leaves memory outside the rings. -/
structure DataLands (die part a : Nat) (p : XPkt) (data : List Byte) (w : Nat) (s t : State) : Prop where
  objs : t.objs = s.objs
  lands : codesSum (elemCodes w data) = p.csum → s.dmaReaches die part true a data.length = true →
    ∀ b, ¬ inRing b → t.rd8 b = (s.landed part a data).rd8 b
  faults : ∀ code who, (codesSum (elemCodes w data) = p.csum ∧ ¬ s.dmaReaches die part true a data.length = true ∧ code = 1 ∧ who = s.rank
      ∨ codesSum (elemCodes w data) ≠ p.csum ∧ code = 3 ∧ who = p.srank) →
    t.mem = s.mem ∧ t.syn0 = s.syn0 ∧ t.syn1 = s.syn1 ∧ (t.die die).cf = true
      ∧ (t.die die).cfault = cfaultWord code who p.coll (s.part part).openStep

/-- The two rows differ in the bytes they take of the body, and in what follows once those have landed. -/
theorem dataLands (hc : s.clear (s.xchWho die part)) (p : XPkt) (a w : Nat) (data : List Byte) {after : State → State}
    (hafter : ∀ {r u : State}, r.OutsideRings u → r.OutsideRings (after u)) :
    DataLands die part a p data w s (if codesSum (elemCodes w data) ≠ p.csum then (s.takePkt part p).cfault die part 3 p.srank p.coll
      else
        let r1 := (s.takePkt part p).landBytes die part p.coll a data []
        if r1.1 then after r1.2 else r1.2) := by
  by_cases hok : codesSum (elemCodes w data) = p.csum
  · rw [if_neg (not_not.mpr hok)]
    cases hr : s.dmaReaches die part true a data.length with
    | true =>
      obtain ⟨u, hland, hu⟩ := State.landBytes_reached hc hr part p p.coll
      rw [hland]
      have he : (s.landed part a data).errs = [] := by
        rw [s.landed_memOnly part a data]
        exact hc.1
      have ho : (s.landed part a data).objs = s.objs := by
        rw [s.landed_memOnly part a data]
      have hout := hafter ((State.OutsideRings.refl he).of_mem (t := u) hu.mem (hu.errs.trans (hc.1.trans he.symm)) (hu.objs.trans ho.symm))
      refine ⟨hout.objs.trans ho, fun _ _ => hout.rd8, fun code who h => ?_⟩
      exact h.elim (fun ⟨_, hn, _⟩ => absurd hr hn) fun ⟨hn, _⟩ => absurd hok hn
    | false =>
      rw [State.landBytes_unreached (by rw [State.takePkt_dmaReaches, hr]), State.takePkt_rank]
      obtain ⟨hobjs, hfault⟩ := (s.takePkt part p).cfault_quiet die part 1 s.rank p.coll
      refine ⟨hobjs, fun _ h => (by rw [hr] at h; cases h), fun code who h => ?_⟩
      obtain ⟨-, -, rfl, rfl⟩ | ⟨hn, -⟩ := h
      · exact hfault
      · exact absurd hok hn
  · rw [if_pos hok]
    obtain ⟨hobjs, hfault⟩ := (s.takePkt part p).cfault_quiet die part 3 p.srank p.coll
    refine ⟨hobjs, fun h => absurd h hok, fun code who h => ?_⟩
    obtain ⟨h, -⟩ | ⟨-, rfl, rfl⟩ := h
    · exact absurd h hok
    · exact hfault

theorem exec_result (h : s.nextPacket die part p) (hs : s.inStep part p) :
    let e := (s.coll part p.coll).getD []
    let data := p.body.take (collW e * 64)
    exec (.result die part ⟨p, []⟩) s = .next (if codesSum (elemCodes (collW e) data) ≠ p.csum then
        (s.takePkt part p).cfault die part 3 p.srank p.coll
      else
        let r1 := (s.takePkt part p).landBytes die part p.coll (collBase e + posFirst p * collW e) data []
        if r1.1 then (r1.2.rxChunk die part e (s.part part).openStep p).gatherAll else r1.2) :=
  congrArg Host.Outcome.next (State.packet_inStep h hs _)

theorem exec_mcastPacket (h : s.nextPacket die part p) (hs : s.inStep part p) :
    let e := (s.coll part p.coll).getD []
    let data := (p.body.drop 8).take (posCount p * collW e)
    exec (.mcastPacket die part ⟨p, []⟩) s = .next (if codesSum (elemCodes (collW e) data) ≠ p.csum then
        (s.takePkt part p).cfault die part 3 p.srank p.coll
      else
        let r1 := (s.takePkt part p).landBytes die part p.coll (collBase e + posFirst p * collW e) data []
        if r1.1 then r1.2.rxChunk die part e (s.part part).openStep p else r1.2) :=
  congrArg Host.Outcome.next (State.packet_inStep h hs _)

/-! ### A mirrored write (09 R271, R272) -/

/-- The operation that a MIRROR packet carries to the local copy of its object. -/
def State.mirrorReq (s : State) (die part : Nat) (p : XPkt) : SyncReq :=
  { obj := collFirst ((s.coll part p.coll).getD []) + fld p.pos 16 0, kind := if fld p.pos 33 32 = 0 then .set else .add
    value := p.csum.setWidth 32, step := (s.part part).openStep, epoch := tget 0 (s.die die).epochs part, part := part, unit := xchUnit die
    src := none, srcId := 0, link := true }

theorem exec_mirror (h : s.nextPacket die part p) (hs : s.inStep part p) (hk : collKind ((s.coll part p.coll).getD []) = 2)
    (hin : fld p.pos 16 0 < collCount ((s.coll part p.coll).getD [])) :
    exec (.mirror die part p) s = .next
      (if s.crosses (halfOfDie die) (halfOfObj (s.mirrorReq die part p).obj) = true then
        (s.takePkt part p).syncApply (s.mirrorReq die part p)
      else (s.takePkt part p).cfault die part 1 s.rank p.coll) := by
  show Host.Outcome.next _ = _
  rw [State.packet_inStep h hs, if_neg (by omega), State.takePkt_crosses, State.takePkt_rank]
  refine congrArg Host.Outcome.next ?_
  by_cases hx : s.crosses (halfOfDie die) (halfOfObj (s.mirrorReq die part p).obj) = true
  · rw [if_pos hx]
    exact if_neg fun hn => Bool.noConfusion (hn.symm.trans (congrArg (!·) hx))
  · rw [if_neg hx]
    exact if_pos (congrArg (!·) (Bool.eq_false_of_not_eq_true hx))

/-- A mirrored write that its object accepts is applied to it in the layer of the open step; memory does not change. -/
theorem exec_mirror_write (h : s.nextPacket die part p) (hs : s.inStep part p) (hk : collKind ((s.coll part p.coll).getD []) = 2)
    (hin : fld p.pos 16 0 < collCount ((s.coll part p.coll).getD []))
    (hx : s.crosses (halfOfDie die) (halfOfObj (s.mirrorReq die part p).obj) = true)
    (hd : s.synDrop (s.mirrorReq die part p).obj (xchUnit die) (tget 0 (s.die die).epochs part) = none)
    (ha : (s.obj (s.mirrorReq die part p).obj).alloc = true) :
    let q := s.mirrorReq die part p
    ∃ t, exec (.mirror die part p) s = .next t ∧ t.mem = s.mem
      ∧ t.obj q.obj = (s.obj q.obj).apply (layerOf (s.part (s.obj q.obj).part).openStep (s.part part).openStep) q.kind (p.csum.setWidth 32) := by
  intro q
  have hkind : q.kind = .set ∨ q.kind = .add := by
    dsimp only [q, State.mirrorReq]
    split
    · exact .inl rfl
    · exact .inr rfl
  have happly := State.syncApply_write (s := s.takePkt part p) (q := q) hd ha hkind
  refine ⟨_, (exec_mirror h hs hk hin).trans (congrArg Host.Outcome.next (if_pos hx)), happly.mem, ?_⟩
  rw [State.obj_of_objs happly.objs, State.obj_modObj]
  rfl

/-- Settles O25: a PUT, a RESULT and an MCAST put the bytes that their windows admit into memory, and a MIRROR changes its object. -/
theorem packetsLandAtTheirPlace : Obligations.PacketsLandAtTheirPlace := by
  unfold Obligations.PacketsLandAtTheirPlace
  refine ⟨fun s die part p hs h hk hc => ?_, fun s die part p hs h hk hc => ?_, fun s die part p hs h hk => ?_⟩
  · intro lead obj o half q signals reaches
    cases hr : reaches with
    | true =>
      obtain ⟨u, hu, hsig, hno⟩ := exec_putPacket_reached h hs hk hc hr
      by_cases hsg : signals
      · refine ⟨_, hsig hsg, ?_, fun _ => ⟨?_, ?_⟩, nofun⟩
        · exact (State.modSyn_objs _ _ _).trans hu.objs
        · exact (State.modSyn_mem _ _ _).trans hu.mem
        · rw [if_pos hsg, ← hu.syn]
          exact congrArg SynHalf.net (State.syn_modSyn ..)
      · refine ⟨u, hno hsg, hu.objs, fun _ => ⟨hu.mem, ?_⟩, nofun⟩
        rw [if_neg hsg, List.append_nil, hu.syn]
    | false =>
      obtain ⟨hobjs, hmem, -, -, hcf, hcw⟩ := (s.takePkt part p).cfault_quiet die part 1 s.rank p.coll
      exact ⟨_, exec_putPacket_unreached h hs hr, hobjs, nofun, fun _ => ⟨hmem, hcf, hcw⟩⟩
  · intro e w at_ does
    have hdoes : ∀ c data t, exec c s = .next t → DataLands die part at_ p data w s t → does c data := fun c data t hgo ht =>
      ⟨t, hgo, ht.objs, ht.lands, fun hok hr => ht.faults 1 s.rank (.inl ⟨hok, hr, rfl, rfl⟩),
        fun hok => ht.faults 3 p.srank (.inr ⟨hok, rfl, rfl⟩)⟩
    refine ⟨hdoes _ _ _ (exec_result h hs) ?_, hdoes _ _ _ (exec_mcastPacket h hs) ?_⟩
    · exact dataLands hc p at_ w _ (after := fun u => (u.rxChunk die part e (s.part part).openStep p).gatherAll)
        fun hu => (hu.rxChunk die part e _ p).gatherAll
    · exact dataLands hc p at_ w _ (after := fun u => u.rxChunk die part e (s.part part).openStep p) fun hu => hu.rxChunk die part e _ p
  · intro e x o k reaches hkind hin
    refine ⟨fun hx => ?_, fun hx hd ha => ⟨fun h0 ht => ?_, fun h0 ht => ?_⟩⟩
    · obtain ⟨hobjs, hmem, -, -, hcf, hcw⟩ := (s.takePkt part p).cfault_quiet die part 1 s.rank p.coll
      exact ⟨_, (exec_mirror h hs hkind hin).trans (congrArg Host.Outcome.next (if_neg hx)), hmem, hobjs, hcf, hcw⟩
    · obtain ⟨t, hgo, hmem, hobj⟩ := exec_mirror_write h hs hkind hin hx hd ha
      rw [show (s.mirrorReq die part p).kind = .set from if_pos h0] at hobj
      exact ⟨t, hgo, hmem, hobj.trans (SyncObj.apply_set ht _ _)⟩
    · obtain ⟨t, hgo, hmem, hobj⟩ := exec_mirror_write h hs hkind hin hx hd ha
      rw [show (s.mirrorReq die part p).kind = .add from if_neg h0] at hobj
      exact ⟨t, hgo, hmem, hobj.trans (SyncObj.apply_add ht _ _)⟩

end Sys2Proof.Machine
end

section
/-! SUPPORT: a contribution on its arrival at its owner (09 R280, R283, R291): the chunk that it belongs to, its place in staging, and the sums
it is added to. -/

namespace Sys2Proof.Machine

variable {s t : State} {die part : Nat} {p : XPkt} {r : List Byte} {c : OwnChunk}

/-! ### Runs of bytes -/

/-- Bytes written at consecutive addresses read as they were written. -/
theorem overlay_run {rd : Nat → Byte} (base : Nat) {bs : List Byte} {n k : Nat} (hn : n ≤ bs.length) (hk : k < n) {b : Byte}
    (hb : bs[k]? = some b) :
    overlay rd (((List.range n).map (base + ·)).zip bs) (base + k) = b := by
  have hm : (base + k, b) ∈ ((List.range n).map (base + ·)).zip bs := by
    refine List.mem_iff_getElem?.mpr ⟨k, List.getElem?_zip_eq_some.mpr ⟨?_, hb⟩⟩
    simp [hk]
  refine overlay_of_mem (x := (base + k, b)) ?_ hm
  rw [List.map_fst_zip (by simpa using hn)]
  exact List.Nodup.map (fun x y hxy => Nat.add_left_cancel hxy) List.nodup_range

theorem overlay_run_ne {rd : Nat → Byte} {base a n : Nat} (bs : List Byte) (h : a < base ∨ base + n ≤ a) :
    overlay rd (((List.range n).map (base + ·)).zip bs) a = rd a := by
  refine overlay_of_not_mem fun ha => ?_
  obtain ⟨y, hy, rfl⟩ := List.mem_map.mp ha
  obtain ⟨k, hk, hky⟩ := List.mem_map.mp (List.of_mem_zip hy).1
  have := List.mem_range.mp hk
  omega

/-- A byte of a list that is made of blocks of one length. -/
theorem getElem?_flatMap_blocks {α β : Type} {f : α → List β} {w : Nat} (hl : ∀ x, (f x).length = w) (l : List α) (i : Nat)
    {b : Nat} (hb : b < w) :
    (l.flatMap f)[w * i + b]? = l[i]?.bind fun x => (f x)[b]? := by
  induction l generalizing i with
  | nil => rfl
  | cons x l ih =>
    rw [List.flatMap_cons]
    cases i with
    | zero =>
      rw [Nat.mul_zero, Nat.zero_add, List.getElem?_append_left (by rw [hl]; exact hb)]
      rfl
    | succ i =>
      rw [List.getElem?_append_right (by rw [hl, Nat.mul_succ]; omega), hl, Nat.mul_succ, show w * i + w + b - w = w * i + b by omega, ih]
      rfl

/-! ### The chunk and its contribution -/

/-- The chunk of a contribution is one of its partition, and the one its position names. -/
theorem State.chunkOf_names (s : State) (part : Nat) (r : List Byte) (p : XPkt) :
    (s.chunkOf part r p).part = part ∧ (s.chunkOf part r p).chunk = posFirst p / 64 := by
  unfold State.chunkOf
  dsimp only
  generalize hf : List.find? _ _ = o
  cases o with
  | none => exact ⟨rfl, rfl⟩
  | some c =>
    have hc := List.find?_some hf
    simp only [Bool.and_eq_true, beq_iff_eq] at hc
    obtain ⟨⟨⟨hpart, -⟩, hchunk⟩, -⟩ := hc
    exact ⟨hpart, hchunk⟩

@[simp] theorem State.takePkt_chunkOf (s : State) (q : Nat) (p' : XPkt) (part : Nat) (r : List Byte) (p : XPkt) :
    (s.takePkt q p').chunkOf part r p = s.chunkOf part r p := rfl

@[simp] theorem State.takePkt_ownerReached (s : State) (q : Nat) (p : XPkt) (die : Nat) (r : List Byte) (chunk : Nat) :
    (s.takePkt q p).ownerReached die r chunk = s.ownerReached die r chunk := by
  unfold State.ownerReached
  simp only [State.takePkt_crosses]

/-- What a contribution meets at its chunk: the same packet, another packet of its rank, or a free slot in staging. -/
def State.meetContrib (s : State) (die part : Nat) (r : List Byte) (p : XPkt) (slot : Nat) : Option (Nat × XPkt) → State
  | some (_, q) =>
    if q = p then s.modSyn (halfOfDie die) fun h => { h with dupBen := satAdd h.dupBen 1 } else s.cfault die part 7 p.srank p.coll
  | none =>
    let r1 := s.stage r (s.chunkOf part r p) slot p []
    r1.2.ownerRun r (s.part part).openStep [] (r1.1.staged.length + 2) r1.1

/-- A contribution that its owner expects and that finds a place reaches its chunk, unless the owner core lies across a dead midline. -/
theorem exec_contrib_here (h : s.nextPacket die part p) (hs : s.inStep part p) (hr : (s.coll part p.coll).getD [] = r)
    (hfit : s.contribFits part p = true) (ho : (collOwner r (posFirst p)).1 = s.rank) (hm : (collMembers r).contains p.srank = true)
    (he : contribElems p ≠ none) :
    exec (.contrib die part ⟨p, []⟩) s = .next (if s.ownerReached die r (posFirst p / 64) = true then
        (s.takePkt part p).meetContrib die part r p ((s.freeSlot r (s.chunkOf part r p) (s.contribDue part r p)).getD 0)
          ((s.chunkOf part r p).seen.find? fun x => x.1 == p.srank)
      else (s.takePkt part p).cfault die part 1 s.rank p.coll) := by
  subst hr
  have hhere : ¬ ((collOwner ((s.coll part p.coll).getD []) (posFirst p)).1 ≠ (s.takePkt part p).rank
      ∨ (!(collMembers ((s.coll part p.coll).getD [])).contains p.srank) = true) := by
    rw [State.takePkt_rank, hm]
    exact fun hor => hor.elim (fun hne => hne ho) nofun
  show Host.Outcome.next (if (!s.contribFits part p) = true then s else _) = _
  rw [hfit, if_neg (by decide), State.packet_inStep h hs, if_neg hhere, State.takePkt_ownerReached, State.takePkt_rank]
  cases s.ownerReached die ((s.coll part p.coll).getD []) (posFirst p / 64) with
  | false => rfl
  | true =>
    rw [if_neg (by decide), if_neg he, if_pos rfl]
    dsimp only
    rw [State.takePkt_chunkOf]
    cases (s.chunkOf part ((s.coll part p.coll).getD []) p).seen.find? fun x => x.1 == p.srank with
    | some x => rfl
    | none => exact congrArg Host.Outcome.next (if_pos rfl)

/-! ### Staging -/

/-- A contribution as it waits in a slot. -/
def stagedAt (slot : Nat) (p : XPkt) : Staged := { rank := p.srank, slot := slot, hdr := { p with body := [] }, len := p.body.length }

/-- The chunk once the contribution waits in a slot. -/
def OwnChunk.staging (c : OwnChunk) (slot : Nat) (p : XPkt) : OwnChunk :=
  { c with seen := c.seen ++ [(p.srank, p)], staged := c.staged ++ [stagedAt slot p] }

/-- The writes of a contribution's bytes to its slot. -/
def stageWrites (r : List Byte) (c : OwnChunk) (slot : Nat) (p : XPkt) : List (Nat × Byte) :=
  ((List.range p.body.length).map (stgAddr r c.chunk slot + ·)).zip p.body

theorem State.stage_clear (hc : s.clear (s.ownerWho c.part (chunkCore r c.chunk))) (slot : Nat) (p : XPkt) :
    s.stage r c slot p [] = (c.staging slot p, (stageWrites r c slot p).foldl (fun (s : State) x => s.wr8 x.1 x.2) s) := by
  unfold State.stage
  dsimp only
  rw [State.parityWrites_nil, State.writeMem_clear s hc]
  rfl

theorem State.ownerWho_clear (h : s.MemOnly t) (hc : s.clear (s.ownerWho c.part (chunkCore r c.chunk))) :
    t.clear (t.ownerWho c.part (chunkCore r c.chunk)) := by
  rw [h]
  exact hc

/-- What is read of a contribution in staging, where the access is clear: its packet, with the bytes of its slot. -/
theorem State.readStaged_clear (hc : s.clear (s.ownerWho c.part (chunkCore r c.chunk))) (x : Staged) :
    s.readStaged r c x [] = ({ x.hdr with body := ((List.range x.len).map (stgAddr r c.chunk x.slot + ·)).map s.rd8 }, s) := by
  unfold State.readStaged
  dsimp only
  rw [s.readMem_clear hc]
  rfl

/-- A contribution is read from its slot as it arrived. -/
theorem map_stageWrites (rd : Nat → Byte) (r : List Byte) (c : OwnChunk) (slot : Nat) (p : XPkt) :
    ((List.range p.body.length).map (stgAddr r c.chunk slot + ·)).map (overlay rd (stageWrites r c slot p)) = p.body := by
  refine List.ext_getElem (by simp) fun k hk hk' => ?_
  rw [List.getElem_map, List.getElem_map, List.getElem_range]
  exact overlay_run _ le_rfl (by simpa using hk) (List.getElem?_eq_getElem hk')

/-! ### The owner's turn -/

theorem State.mem_putChunk (s : State) (die : Nat) (c : OwnChunk) : c ∈ ((s.putChunk die c).die die).chunks := by
  unfold State.putChunk
  rw [State.die_modDie]
  dsimp only
  split
  case isTrue h =>
    obtain ⟨x, hx, ht⟩ := List.any_eq_true.mp h
    exact List.mem_map.mpr ⟨x, hx, if_pos ht⟩
  case isFalse => exact List.mem_append_right _ (List.mem_singleton.mpr rfl)

/-- A chunk whose next rank is not there waits; memory and the objects stay, and no codeword gets an error. -/
theorem State.ownerRun_waits (he : s.errs = []) (hf : c.finished = false) (hn : c.next < (collMembers r).length)
    (hw : ∀ x ∈ c.staged, some x.rank ≠ (collMembers r)[c.next]?) (step : W64) (f : Nat) :
    let t := s.ownerRun r step [] (f + 1) c
    c ∈ (t.die (collDie r)).chunks ∧ t.mem = s.mem ∧ t.objs = s.objs := by
  have hnone : c.staged.find? (fun x => some x.rank == (collMembers r)[c.next]?) = none :=
    List.find?_eq_none.mpr fun x hx heq => hw x hx (by simpa using heq)
  have hput := s.mem_putChunk (collDie r) c
  have hmem : (s.putChunk (collDie r) c).mem = s.mem := rfl
  have hobjs : (s.putChunk (collDie r) c).objs = s.objs := rfl
  have herrs : (s.putChunk (collDie r) c).errs = [] := he
  unfold State.ownerRun
  dsimp only
  rw [hf, if_neg nofun, if_neg (Nat.not_le.mpr hn), hnone]
  generalize s.putChunk (collDie r) c = u at hput hmem hobjs herrs ⊢
  split
  · obtain ⟨ho, hm, -⟩ := u.cfault_quiet (collDie r) c.part 1 s.rank c.coll
    rw [((State.Exchanges.refl herrs).cfault _ _ _ _ _).chunks]
    exact ⟨hput, hm.trans hmem, ho.trans hobjs⟩
  · exact ⟨hput, hmem, hobjs⟩

/-- A contribution whose turn it is is read, added, and its credit returned; then the next rank's turn has come. -/
theorem State.ownerRun_adds (hf : c.finished = false) (hr : s.ownerReached (collDie r) r c.chunk = true) (hn : c.next < (collMembers r).length)
    {x : Staged} (hx : c.staged.find? (fun x => some x.rank == (collMembers r)[c.next]?) = some x) (step : W64) (fs : List PhysFault) (f : Nat) :
    s.ownerRun r step fs (f + 1) c =
      (let r0 := s.readStaged r c x fs
      let r1 := r0.2.addContrib (collDie r) r c r0.1 (stagedBad r c x r0.1 fs) fs
      (r1.2.returnCredit (collDie r) step c r0.1).ownerRun r step fs f r1.1) := by
  rw [State.ownerRun]
  dsimp only
  rw [hf, if_neg nofun, hr, if_neg (by decide), if_neg (Nat.not_le.mpr hn), hx]

/-! ### The sums -/

/-- The elements of a contribution, added to the sums so far; a tagged one counts as zero. -/
def addedTo (sums : List Int) (es : List (Int × Bool)) : List Int := sums.zipWith (fun a e => a + (if e.2 then 0 else e.1)) es

/-- The chunk once a contribution has been added. -/
def OwnChunk.added (c : OwnChunk) (acc : List Int) (es : List (Int × Bool)) (p : XPkt) : OwnChunk :=
  { c with
    high := acc.map fun n => n / 2 ^ 256
    tag := c.tag.zipWith (fun t e => t || e.2) es
    expect := c.expect + p.csum, next := c.next + 1
    staged := c.staged.filter fun x => x.rank != p.srank }

/-- The writes of a chunk's sums to the accumulation area. -/
def sumWrites (r : List Byte) (c : OwnChunk) (acc : List Int) : List (Nat × Byte) :=
  ((List.range 2048).map (accAddr r c.chunk + ·)).zip (acc.flatMap fun n => leBytes 32 (BitVec.ofInt 256 n).toNat)

/-- Without a fault of parity no element is bad. -/
theorem etwBad_nil (n off : Nat) (bs : List Byte) : ∀ b ∈ etwBad (parityBad []) n off bs, b = false := by
  induction n generalizing off bs with
  | zero => nofun
  | succ n ih =>
    unfold etwBad
    split
    · nofun
    · intro b hb
      obtain rfl | hb := List.mem_cons.mp hb
      · exact List.any_eq_false.mpr fun _ _ => nofun
      · exact ih _ _ b hb

theorem getD_of_all_false {bad : List Bool} (h : ∀ b ∈ bad, b = false) (k : Nat) : bad.getD k false = false := by
  rw [List.getD_eq_getElem?_getD]
  cases hk : bad[k]? with
  | none => rfl
  | some b => exact h b (List.mem_of_getElem? hk)

theorem accBad_nil (r : List Byte) (c : OwnChunk) : ∀ b ∈ accBad r c [], b = false := by
  intro b hb
  obtain ⟨l, -, rfl⟩ := List.mem_map.mp hb
  rw [show (List.range 32).any (fun b => parityBad [] (accAddr r c.chunk + 32 * l + b)) = false from
    List.any_eq_false.mpr fun _ _ => nofun, Bool.and_false]

theorem tagBad_none {tag bad : List Bool} (h : ∀ b ∈ bad, b = false) : tagBad tag bad = tag := by
  unfold tagBad
  simp only [getD_of_all_false h, Bool.or_false]
  exact List.zipIdx_map_fst 0 tag

/-- The first contribution of a chunk, at the right signature, anchor and checksum, is added to nothing, where the accesses are clear. -/
theorem State.addContrib_first (hc : s.clear (s.ownerWho c.part (chunkCore r c.chunk))) (hn : c.next = 0) {es : List (Int × Bool)}
    (he : contribElems p = some es)
    (hsig : p.sig = collSig r) (hanchor : p.anchor.toInt = collAnchor r) (hsum : low64sum (es.map fun e => if e.2 then 0 else e.1) = p.csum)
    {bad : List Bool} (hbad : ∀ b ∈ bad, b = false) (die : Nat) :
    let acc := addedTo (List.replicate 64 0) es
    s.addContrib die r c p bad [] = (c.added acc es p, (sumWrites r c acc).foldl (fun (s : State) x => s.wr8 x.1 x.2) s) := by
  have hes : (es.zipIdx.map fun x => (x.1.1, x.1.2 || bad.getD x.2 false)) = es := by
    simp only [getD_of_all_false hbad, Bool.or_false]
    exact List.zipIdx_map_fst 0 es
  have hread : s.readAcc r c = (List.replicate 64 0, s) := if_pos hn
  unfold State.addContrib
  dsimp only
  rw [he, Option.getD_some, hes, if_neg (Option.some_ne_none es), if_neg (not_not.mpr hsig), if_neg (not_not.mpr hanchor),
    if_neg (not_not.mpr hsum), hread,
    tagBad_none (accBad_nil r c)]
  unfold State.writeAcc State.ownerParity
  dsimp only [List.foldl_nil]
  rw [State.parityWrites_nil, State.writeMem_clear s hc]
  rfl

theorem length_addedTo_zeros {es : List (Int × Bool)} (h : es.length = 64) : (addedTo (List.replicate 64 0) es).length = 64 := by
  unfold addedTo
  rw [List.length_zipWith, h, List.length_replicate]
  rfl

theorem etwAll_length {n : Nat} {bs : List Byte} {es : List (Int × Bool)} (h : etwAll n bs = some es) : es.length = n := by
  induction n generalizing bs es with
  | zero =>
    unfold etwAll at h
    split at h
    · cases h
      rfl
    · cases h
  | succ n ih =>
    unfold etwAll at h
    split at h
    · cases h
    · obtain ⟨es', hes, rfl⟩ := Option.map_eq_some_iff.mp h
      rw [List.length_cons, ih hes]

/-- A contribution has 64 elements (09 R281, R290). -/
theorem contribElems_length {es : List (Int × Bool)} (h : contribElems p = some es) : es.length = 64 := by
  unfold contribElems at h
  split at h
  · cases h
    rfl
  · exact etwAll_length h

/-- Sum `l` stands little-endian in its 32 bytes of the accumulation area. -/
theorem overlay_sumWrites {rd : Nat → Byte} (r : List Byte) (c : OwnChunk) {acc : List Int} (ha : acc.length = 64) {l b : Nat} (hl : l < 64)
    (hb : b < 32) :
    overlay rd (sumWrites r c acc) (accAddr r c.chunk + (32 * l + b)) = BitVec.ofNat 8 ((BitVec.ofInt 256 (acc.getD l 0)).toNat / 256 ^ b) := by
  have hlen : ∀ n : Int, (leBytes 32 (BitVec.ofInt 256 n).toNat).length = 32 := fun n => length_leBytes 32 _
  refine overlay_run _ ?_ (by omega) ?_
  · simp [ha]
  · rw [getElem?_flatMap_blocks hlen acc l hb, List.getElem?_eq_getElem (ha ▸ hl), Option.bind_some, leBytes_getElem? hb,
      List.getD_eq_getElem _ _ (ha ▸ hl)]

/-! ### The first contribution of a chunk -/

/-- The chunk after its first contribution has come and been added: what else waits goes on waiting. -/
theorem OwnChunk.added_staging (hst : ∀ x ∈ c.staged, x.rank ≠ p.srank) (slot : Nat) (acc : List Int) (es : List (Int × Bool)) :
    ((c.staging slot p).added acc es p).staged = c.staged := by
  have hkeep : c.staged.filter (fun x => x.rank != p.srank) = c.staged := List.filter_eq_self.mpr fun x hx => by simpa using hst x hx
  unfold OwnChunk.added OwnChunk.staging
  dsimp only
  rw [List.filter_append, hkeep, show [stagedAt slot p].filter (fun x => x.rank != p.srank) = [] from
    List.filter_eq_nil_iff.mpr fun x hx => by rw [List.mem_singleton.mp hx]; simp [stagedAt], List.append_nil]

/-- The contribution of the lowest rank is taken from its slot and added; the chunk then waits for the next rank. -/
theorem State.ownerRun_first {u : State} {slot : Nat} (hc : u.clear (u.ownerWho c.part (chunkCore r c.chunk)))
    (hbody : ((List.range p.body.length).map (stgAddr r c.chunk slot + ·)).map u.rd8 = p.body) (hf : c.finished = false)
    (hreach : u.ownerReached (collDie r) r c.chunk = true) (hn : c.next = 0) (h2 : 2 ≤ (collMembers r).length)
    (h0 : (collMembers r)[0]? = some p.srank) (hst : ∀ x ∈ c.staged, some x.rank ≠ (collMembers r)[0]? ∧ some x.rank ≠ (collMembers r)[1]?)
    {es : List (Int × Bool)} (he : contribElems p = some es) (hsig : p.sig = collSig r) (hanchor : p.anchor.toInt = collAnchor r)
    (hsum : low64sum (es.map fun e => if e.2 then 0 else e.1) = p.csum) (step : W64) (f : Nat) :
    let acc := addedTo (List.replicate 64 0) es
    let t := u.ownerRun r step [] (f + 2) (c.staging slot p)
    (c.staging slot p).added acc es p ∈ (t.die (collDie r)).chunks ∧ t.objs = u.objs
      ∧ ∀ a, ¬ inRing a → t.rd8 a = overlay u.rd8 (sumWrites r c acc) a := by
  intro acc t
  have hfind : (c.staging slot p).staged.find? (fun x => some x.rank == (collMembers r)[(c.staging slot p).next]?) = some (stagedAt slot p) := by
    have hnone : c.staged.find? (fun x => some x.rank == (collMembers r)[c.next]?) = none :=
      List.find?_eq_none.mpr fun x hx heq => (hst x hx).1 (by simpa [hn] using heq)
    show (c.staged ++ [stagedAt slot p]).find? (fun x => some x.rank == (collMembers r)[c.next]?) = _
    rw [List.find?_append, hnone, Option.none_or, List.find?_singleton, hn, h0]
    exact if_pos (beq_self_eq_true _)
  have hread : u.readStaged r (c.staging slot p) (stagedAt slot p) [] = (p, u) :=
    (State.readStaged_clear (c := c.staging slot p) hc _).trans (congrArg (fun b => ({ p with body := b }, u)) hbody)
  have hadd := State.addContrib_first (c := c.staging slot p) hc hn he hsig hanchor hsum
    (etwBad_nil 64 (stgAddr r c.chunk slot) p.body) (collDie r)
  have hrun : t = _ := State.ownerRun_adds (c := c.staging slot p) hf hreach (by rw [show (c.staging slot p).next = 0 from hn]; omega) hfind
    step [] (f + 1)
  dsimp only at hrun hadd
  rw [hread] at hrun
  dsimp only at hrun
  rw [show u.addContrib (collDie r) r (c.staging slot p) p (stagedBad r (c.staging slot p) (stagedAt slot p) p []) [] = _ from hadd] at hrun
  dsimp only at hrun
  have hsums := State.writes_memOnly (s := u) (sumWrites r (c.staging slot p) acc)
  have hrd := State.rd8_writes (s := u) (sumWrites r (c.staging slot p) acc)
  generalize List.foldl (fun (s : State) x => s.wr8 x.1 x.2) u (sumWrites r (c.staging slot p) acc) = w at hrun hsums hrd
  have hw : w.errs = [] := by
    rw [hsums]
    exact hc.1
  have hcredit := (State.Exchanges.refl hw).returnCredit (collDie r) step (c.staging slot p) p
  generalize w.returnCredit (collDie r) step (c.staging slot p) p = v at hrun hcredit
  have hstaged := OwnChunk.added_staging (c := c) (p := p) (fun x hx hp => (hst x hx).1 (by rw [h0, hp])) slot acc es
  have hnext : ((c.staging slot p).added acc es p).next = 1 := congrArg (· + 1) hn
  have hwait := State.ownerRun_waits (s := v) (r := r) (c := (c.staging slot p).added acc es p) hcredit.errs hf (by rw [hnext]; omega)
    (fun x hx => by rw [hstaged] at hx; rw [hnext]; exact (hst x hx).2) step f
  obtain ⟨hmem, hm, ho⟩ := hwait
  rw [hrun]
  refine ⟨hmem, ho.trans (hcredit.objs.trans ?_), fun a ha => ?_⟩
  · rw [hsums]
  · exact (congrArg (tget 0 · a) hm).trans ((hcredit.rd8 a ha).trans (congrFun hrd a))

/-! ### What a contribution comes to -/

/-- A contribution whose rank is known at its chunk, or for which a slot is free, finds a place (09 R283). -/
theorem State.contribFits_of_seen (hr : (s.coll part p.coll).getD [] = r) {q : XPkt}
    (hq : ((s.chunkOf part r p).seen.find? fun x => x.1 == p.srank) = some (p.srank, q)) : s.contribFits part p = true := by
  have hseen : ((s.chunkOf part r p).seen.any fun x => x.1 == p.srank) = true :=
    List.any_eq_true.mpr ⟨_, List.mem_of_find?_eq_some hq, beq_self_eq_true _⟩
  unfold State.contribFits
  rw [hr]
  simp [hseen]

theorem State.contribFits_of_slot (hr : (s.coll part p.coll).getD [] = r) {k : Nat}
    (hk : s.freeSlot r (s.chunkOf part r p) (s.contribDue part r p) = some k) : s.contribFits part p = true := by
  unfold State.contribFits
  rw [hr]
  simp [hk]

/-- The exchange engine that keeps a chunk reaches its owner core wherever a contribution does. -/
theorem State.ownerReached_keeper {chunk : Nat} (h : s.ownerReached die r chunk = true) : s.ownerReached (collDie r) r chunk = true := by
  unfold State.ownerReached at h ⊢
  dsimp only at h ⊢
  rw [Bool.and_eq_true] at h
  rw [h.2]
  rfl

/-- A contribution of the open step is new to the chunk `c` that its owner keeps, its owner core is reached, its accesses are clear, and slot `k`
is free for it. -/
structure State.Contributes (s : State) (die part : Nat) (p : XPkt) (r : List Byte) (c : OwnChunk) (k : Nat) : Prop where
  next : s.nextPacket die part p
  step : s.inStep part p
  entry : (s.coll part p.coll).getD [] = r
  owner : (collOwner r (posFirst p)).1 = s.rank
  member : (collMembers r).contains p.srank = true
  elems : contribElems p ≠ none
  reached : s.ownerReached die r (posFirst p / 64) = true
  chunk : s.chunkOf part r p = c
  new : (c.seen.find? fun x => x.1 == p.srank) = none
  clear : s.clear (s.ownerWho part (chunkCore r c.chunk))
  slot : s.freeSlot r c (s.contribDue part r p) = some k

namespace State.Contributes

variable {k : Nat}

/-- It goes to its slot, and the owner takes its turn. -/
theorem exec_contrib (h : s.Contributes die part p r c k) : exec (.contrib die part ⟨p, []⟩) s = .next
    (((stageWrites r c k p).foldl (fun (s : State) x => s.wr8 x.1 x.2) (s.takePkt part p)).ownerRun r (s.part part).openStep []
      (c.staged.length + 3) (c.staging k p)) := by
  obtain ⟨hnext, hstep, hr, ho, hm, he, hreach, rfl, hnew, hclear, hk⟩ := h
  have hpart := (s.chunkOf_names part r p).1
  have hclear : s.clear (s.ownerWho (s.chunkOf part r p).part (chunkCore r (s.chunkOf part r p).chunk)) := by
    rw [hpart]
    exact hclear
  have hstage := State.stage_clear (s := s.takePkt part p) (r := r) (c := s.chunkOf part r p) hclear k p
  have hlen : ((s.chunkOf part r p).staging k p).staged.length = (s.chunkOf part r p).staged.length + 1 := List.length_append
  rw [exec_contrib_here hnext hstep hr (State.contribFits_of_slot hr hk) ho hm he, if_pos hreach, hk, hnew]
  unfold State.meetContrib
  dsimp only [Option.getD_some]
  rw [State.takePkt_chunkOf, hstage]
  dsimp only
  rw [hlen]
  rfl

/-- One whose turn has not come waits, its bytes in its slot. -/
theorem waits (h : s.Contributes die part p r c k) (hf : c.finished = false) (hn : c.next < (collMembers r).length)
    (hturn : (collMembers r)[c.next]? ≠ some p.srank) (hst : ∀ x ∈ c.staged, some x.rank ≠ (collMembers r)[c.next]?) :
    ∃ t, exec (.contrib die part ⟨p, []⟩) s = .next t ∧ c.staging k p ∈ (t.die (collDie r)).chunks
      ∧ (∀ a, t.rd8 a = overlay s.rd8 (stageWrites r c k p) a) ∧ t.objs = s.objs := by
  have hmem := State.writes_memOnly (s := s.takePkt part p) (stageWrites r c k p)
  have hrd := State.rd8_writes (s := s.takePkt part p) (stageWrites r c k p)
  have hgo := h.exec_contrib
  generalize (stageWrites r c k p).foldl (fun (s : State) x => s.wr8 x.1 x.2) (s.takePkt part p) = u at hgo hmem hrd
  have hu : u.errs = [] := by
    rw [hmem]
    exact h.clear.1
  have hst' : ∀ x ∈ (c.staging k p).staged, some x.rank ≠ (collMembers r)[c.next]? := fun x hx => by
    obtain hx | hx := List.mem_append.mp hx
    · exact hst x hx
    · rw [List.mem_singleton.mp hx]
      exact fun heq => hturn heq.symm
  obtain ⟨hin, hm, ho⟩ := State.ownerRun_waits (c := c.staging k p) hu hf hn hst' (s.part part).openStep (c.staged.length + 2)
  refine ⟨_, hgo, hin, fun a => (congrArg (tget 0 · a) hm).trans (congrFun hrd a), ho.trans ?_⟩
  rw [hmem]
  rfl

/-- That of the lowest rank is added first. -/
theorem first (h : s.Contributes die part p r c k) (hf : c.finished = false) (hn : c.next = 0) (h2 : 2 ≤ (collMembers r).length)
    (h0 : (collMembers r)[0]? = some p.srank) (hst : ∀ x ∈ c.staged, some x.rank ≠ (collMembers r)[0]? ∧ some x.rank ≠ (collMembers r)[1]?)
    {es : List (Int × Bool)} (he : contribElems p = some es) (hsig : p.sig = collSig r) (hanchor : p.anchor.toInt = collAnchor r)
    (hsum : low64sum (es.map fun e => if e.2 then 0 else e.1) = p.csum) :
    let acc := addedTo (List.replicate 64 0) es
    ∃ t, exec (.contrib die part ⟨p, []⟩) s = .next t ∧ (c.staging k p).added acc es p ∈ (t.die (collDie r)).chunks
      ∧ (∀ a, ¬ inRing a → t.rd8 a = overlay (overlay s.rd8 (stageWrites r c k p)) (sumWrites r c acc) a) ∧ t.objs = s.objs := by
  intro acc
  obtain ⟨hpart, hchunk⟩ := h.chunk ▸ s.chunkOf_names part r p
  have hclear : s.clear (s.ownerWho c.part (chunkCore r c.chunk)) := hpart ▸ h.clear
  have hmem := State.writes_memOnly (s := s.takePkt part p) (stageWrites r c k p)
  have hrd := State.rd8_writes (s := s.takePkt part p) (stageWrites r c k p)
  have hgo := h.exec_contrib
  generalize (stageWrites r c k p).foldl (fun (s : State) x => s.wr8 x.1 x.2) (s.takePkt part p) = u at hgo hmem hrd
  have hreach : u.ownerReached (collDie r) r c.chunk = true := by
    rw [hmem, hchunk]
    exact (s.takePkt_ownerReached part p _ _ _).trans (State.ownerReached_keeper h.reached)
  have hbody : ((List.range p.body.length).map (stgAddr r c.chunk k + ·)).map u.rd8 = p.body := by
    rw [hrd]
    exact map_stageWrites _ r c k p
  obtain ⟨hin, hobjs, hread⟩ := State.ownerRun_first (State.ownerWho_clear hmem hclear) hbody hf hreach hn h2 h0 hst he hsig hanchor hsum
    (s.part part).openStep (c.staged.length + 1)
  rw [hrd] at hread
  refine ⟨_, hgo, hin, hread, hobjs.trans ?_⟩
  rw [hmem]
  rfl

end State.Contributes

/-- Settles O26: a contribution meets its own packet, another one of its rank, or a free slot; there it waits for its turn, or is the first to be
added. -/
theorem contributionsAreAddedInRankOrder : Obligations.ContributionsAreAddedInRankOrder := by
  unfold Obligations.ContributionsAreAddedInRankOrder
  intro s die part p es hs h hk1 r ms reached ho hm he c cd taken who seen
  have hne : contribElems p ≠ none := by
    rw [he]
    exact Option.some_ne_none es
  refine ⟨fun hr hfit => ?_, fun hr => ⟨fun q hq => ?_, fun k hnew hf hn hturn hst hk hc _ => ?_,
    fun k hnew hf hn h2 h0 hst hk hc _ hsig hanchor hsum => ?_⟩⟩
  · rw [exec_contrib_here h hs rfl hfit ho hm hne, if_neg hr]
  · rw [exec_contrib_here h hs rfl (State.contribFits_of_seen rfl hq) ho hm hne, if_pos hr,
      show ((s.chunkOf part r p).seen.find? fun x => x.1 == p.srank) = some (p.srank, q) from hq]
    exact ⟨fun heq => congrArg Host.Outcome.next (if_pos heq), fun hneq => congrArg Host.Outcome.next (if_neg hneq)⟩
  · have hdue : s.contribDue part r p = false := by
      unfold State.contribDue
      simp [show (collMembers r)[(s.chunkOf part r p).next]? ≠ some p.srank from hturn]
    obtain ⟨t, hgo, hin, hread, hobjs⟩ := State.Contributes.waits ⟨h, hs, rfl, ho, hm, hne, hr, rfl, hnew, hc, hdue ▸ hk⟩ hf hn hturn hst
    refine ⟨t, hgo, hin, fun j hj => (hread _).trans (overlay_run _ le_rfl hj ?_), fun a ha => (hread a).trans (overlay_run_ne _ ha), hobjs⟩
    rw [List.getD_eq_getElem _ _ hj, List.getElem?_eq_getElem hj]
  · intro acc
    have hdue : s.contribDue part r p = true := by
      unfold State.contribDue
      simp [hs.1, show (s.chunkOf part r p).finished = false from hf, show (s.chunkOf part r p).next = 0 from hn,
        show (collMembers r)[0]? = some p.srank from h0]
    obtain ⟨t, hgo, hin, hread, hobjs⟩ := State.Contributes.first ⟨h, hs, rfl, ho, hm, hne, hr, rfl, hnew, hc, hdue ▸ hk⟩ hf hn h2 h0 hst
      he hsig hanchor hsum
    have hadded : (c.staging k p).added acc es p = { c with
        seen := seen, high := acc.map fun n => n / 2 ^ 256, tag := c.tag.zipWith (fun t e => t || e.2) es
        expect := c.expect + p.csum, next := 1 } := by
      have hstaged := OwnChunk.added_staging (c := c) (p := p) (fun x hx hp => (hst x hx).1 (by rw [h0, hp])) k acc es
      have hnext : ((c.staging k p).added acc es p).next = 1 := congrArg (· + 1) hn
      rw [← hstaged, ← hnext]
      rfl
    refine ⟨t, hgo, hadded ▸ hin, fun l b hl hb ha => ?_, hobjs⟩
    rw [hread _ ha]
    exact overlay_sumWrites r c (length_addedTo_zeros (contribElems_length he)) hl hb

end Sys2Proof.Machine
end
